-- ==== Sys2Proof/Word.lean ====
section
/-! DEFINITION. The word types of the Larwen (00 R5, 06 R129): bytes, 32-bit words, 64-bit dwords, and the sixteen
lanes of a vector register. -/

namespace Sys2Proof

/-- A byte: 8 bits (R5). -/
abbrev Byte := BitVec 8
/-- A word: 32 bits (R5), the width of a lane, of an op word and of a literal word. -/
abbrev Word := BitVec 32
/-- A dword: 64 bits (R5), the width of a scalar register. -/
abbrev Dword := BitVec 64
/-- The sixteen 32-bit lanes of a vector register, a latch or a held operand (R20, R129). -/
abbrev Lanes := Vector (BitVec 32) 16
/-- The value of a vector register that nothing has written. -/
def Lanes.zero : Lanes := Vector.replicate 16 0#32
/-- Lane `i`, the number taken modulo 16. -/
def Lanes.at (v : Lanes) (i : Nat) : Word := v[i % 16]'(Nat.mod_lt _ (by decide))
/-- The lanes a function of the lane number gives. -/
def Lanes.of (f : Nat → Word) : Lanes := Vector.ofFn fun i : Fin 16 => f i.val

end Sys2Proof
end

