-- ==== Sys2Proof/Config.lean ====
section
/-! DEFINITION. What the specification leaves open, as constants without a body: nothing can evaluate them, so a
statement about one holds for every value it could have (notes/assumptions/7, 9 to 12 and 37). -/

namespace Sys2Proof.Config

/-- Which of the results within the bound of R185 a special function gives. For the functions that need not be non-decreasing,
by function number (2 rcp, 3 rsq, 5 sin, 6 cos) and FP32 operand; for those that are (0 exp2, 1 log2, 7 tanh, 8 sigm), by
function number and result code, the place in the order of FP32 values from which on operands reach that result. One fixed
result for each input (R185). DESIGN CHOICE, log 9. -/
opaque sfu : Nat → BitVec 32 → BitVec 32

/-- Which of the candidates an engine reads for a granule that a vector store may or may not have reached
(R196, R197): command id, granule, number of candidates minus one. DESIGN CHOICE, log 10. -/
opaque pickGranule : Nat → Nat → Nat → Nat

/-- The bytes of the alternate area after a synchronous rule step (R343: undefined): counter, byte offset. DESIGN
CHOICE, log 11. -/
opaque altByte : Nat → Nat → BitVec 8

/-- A fetch of a word that a copy has written and not completed returns the old word (R97: either): command id, word, cycles left of the
core slice. DESIGN CHOICE, log 53. -/
opaque fetchesOld : Nat → Nat → Int → Bool

/-- A value the specification states no rule for, by a counter of the state: DESIGN CHOICE, log 7. -/
opaque freeValue : Nat → BitVec 64

/-- Nanoseconds per cycle of a lowered core clock (R448 gives no steps), as a numerator over the cycle unit of
Machine/Ops.lean, by the number of steps taken. DESIGN CHOICE, log 12. -/
opaque throttledCycle : Nat → Nat

/-- The engine fields of a header of kinds 2 to 7 (R356 gives them no layout): the fields as log 37 lists them, byte offset.
DESIGN CHOICE, log 37. -/
opaque engineByte : List Nat → Nat → BitVec 8

end Sys2Proof.Config
end

