-- ==== Sys2Proof/Syntax.lean ====
section
/-! DEFINITION. The syntax: the word formats of the op words (03 R55, R59, R60, R61), the data that comes from outside
with a device step, and the ONE inductive of instructions, with one constructor per row of spec/opcode_table.json. -/

namespace Sys2Proof

/-- The kinds of op words (01 R23), in the order of the header's K bits (R51). Unit A and unit B take the same constructors; the
kind of an op word stands in its packet header, not in the word. -/
inductive Kind where
  | S | G | E | X | A | B | M | F
  deriving DecidableEq, Repr

/-- The kind's number in K and in the low bits of an operand cause (R51, R68). -/
def Kind.num : Kind → Nat
  | .S => 0 | .G => 1 | .E => 2 | .X => 3 | .A => 4 | .B => 5 | .M => 6 | .F => 7

/-- VR format (R55): destination code, nw, source codes a and b, hold bits ha and hb, element type, lane mask. -/
structure VR where
  d : BitVec 6
  w : Bool
  a : BitVec 6
  b : BitVec 6
  h : Bool
  k : Bool
  t : BitVec 2
  m : BitVec 2
  deriving DecidableEq, Repr

/-- SR format (R59). -/
structure SR where
  d : BitVec 5
  a : BitVec 5
  b : BitVec 5
  p : BitVec 3
  f : BitVec 7
  deriving DecidableEq, Repr

/-- SI format (R59). -/
structure SI where
  d : BitVec 5
  a : BitVec 5
  i : BitVec 15
  deriving DecidableEq, Repr

/-- SB format (R59). -/
structure SB where
  p : BitVec 3
  n : Bool
  o : BitVec 21
  deriving DecidableEq, Repr

/-- G op words (R60): data register, base register, scope, order, offset field. -/
structure GF where
  d : BitVec 5
  b : BitVec 5
  s : BitVec 3
  r : BitVec 2
  o : BitVec 10
  deriving DecidableEq, Repr

/-- E op words (R61): registers a, b, c and imm10. -/
structure EF where
  a : BitVec 5
  b : BitVec 5
  c : BitVec 5
  i : BitVec 10
  deriving DecidableEq, Repr

/-- A message on the torus (R356): the header fields, the engine fields of kinds 2 to 7, and the payload. -/
structure Msg where
  dst : Nat
  dep : Nat
  kind : Nat
  z : Bool
  sdev : Nat
  sep : Nat
  hidx : Nat
  tag : BitVec 32
  len : Nat
  fmt : Nat
  x : List Nat
  payload : List (BitVec 8)
  deriving DecidableEq, Repr

/-- An image the loader places (R98): the longest run it states, the code addresses at which its records and handlers start and
its labels that a computed transfer can name (R116), and for each half the window base and the words. -/
structure Image where
  maxrun : Nat
  entries : List Nat
  a : Option (Nat × List (BitVec 32))
  b : Option (Nat × List (BitVec 32))
  deriving DecidableEq, Repr

/-- What the control-core firmware does when the host rings it, where a rule says what firmware may set: the die slice in ns
(R122), the base and log2 of the records of the event-log ring (R384), the base of the dump region (R386), the pool ranges of
the partition with the ports that work again (R442), a region that its owner releases (R227), a package core whose list of free
frames in a pool is filled again (R292), and a partition to destroy by number, which is an event of its own (R445). -/
inductive FwAct where
  | nothing
  | dieSlice (ns : Nat)
  | eventLog (base log2 : Nat)
  | dumpRegion (base : Nat)
  | cxlRanges (ranges : List (Nat × Nat × List Nat)) (back : List Nat)
  | release (region : Nat)
  | destroy (num : Nat)
  | refill (pool core : Nat)
  deriving DecidableEq, Repr

/-- A fatal error (R385): its cause and the source number of the agent that met it (R18). -/
structure FatalEvent where
  code : BitVec 8
  src : BitVec 16
  deriving DecidableEq, Repr

/-- The target of an endpoint (R355). -/
inductive EpTarget where
  | core (n : Nat)
  | queue (q : Nat)
  deriving DecidableEq, Repr

/-- A queue descriptor that firmware writes (R121, R371): number, ring base, log2 of the entry count, privileged. -/
structure QueueSetup where
  q : Nat
  base : Nat
  log2 : Nat
  priv : Bool
  deriving DecidableEq, Repr

/-- What firmware sets when it creates a partition, `tables` being bytes it writes at physical addresses (translation tree,
tables, records) (R445, R120, R121, R278, R282, R321, R125, R355, R360, R373, R442). -/
structure PartSetup where
  num : Nat
  dies : BitVec 4
  key : BitVec 12
  root : Nat
  trapVec : BitVec 64
  queues : List QueueSetup
  jobs : Nat
  sdt : Nat
  sdtCount : Nat
  pools : Nat
  tileTable : Nat
  tileCount : Nat
  tileArea : Nat
  tileAreaSize : Nat
  tileOvf : Nat
  tileOvfSize : Nat
  sct : Nat
  sctCount : Nat
  sctSize : Nat
  sctSlots : List Nat
  strandArea : Nat
  endpoints : List (Nat × EpTarget)
  reserve : Nat
  postOverflow : Nat
  unexpPool : Nat
  cxl : List (Nat × Nat × List Nat)
  ways : List (Nat × Nat)
  tables : List (Nat × List (BitVec 8))
  deriving DecidableEq, Repr

/-- The instructions and device steps of the Larwen: the op words, which carry the fields of their format, then the device steps
that carry data of their own, then the others. What comes from outside with one of those (a message, a register write of the
host) waits in the state's input queues. -/
inductive Instr where
  /-- R107: The S op word 0x0000_0000 has no effect. -/
  | nop (f : SR)
  /-- R78: Scalar wrapping add. -/
  | add (f : SR)
  /-- R78: Scalar wrapping subtract. -/
  | sub (f : SR)
  /-- R78: Scalar multiply, low 64 bits. -/
  | mul (f : SR)
  /-- R78: Scalar signed multiply, high 64 bits. -/
  | mulh (f : SR)
  /-- R78: Scalar unsigned multiply, high 64 bits. -/
  | mulhu (f : SR)
  /-- R78: Scalar bitwise and. -/
  | and (f : SR)
  /-- R78: Scalar bitwise or. -/
  | or (f : SR)
  /-- R78: Scalar bitwise exclusive or. -/
  | xor (f : SR)
  /-- R78: Scalar and with complement. -/
  | andn (f : SR)
  /-- R78: Scalar shift left. -/
  | shl (f : SR)
  /-- R78: Scalar logical shift right. -/
  | shr (f : SR)
  /-- R78: Scalar arithmetic shift right. -/
  | sar (f : SR)
  /-- R78: Scalar signed minimum. -/
  | min (f : SR)
  /-- R78: Scalar signed maximum. -/
  | max (f : SR)
  /-- R78: Scalar unsigned minimum. -/
  | minu (f : SR)
  /-- R78: Scalar unsigned maximum. -/
  | maxu (f : SR)
  /-- R78: Scalar count leading zeros. -/
  | clz (f : SR)
  /-- R78: Scalar population count. -/
  | popc (f : SR)
  /-- R78: Scalar sign extension from n bits. -/
  | sext (f : SR)
  /-- R78: Scalar bit-field extract. -/
  | bfx (f : SR)
  /-- R78: Scalar bit-field insert. -/
  | bfi (f : SR)
  /-- R79: Scalar add of a signed immediate. -/
  | addi (f : SI)
  /-- R79: Scalar and with a signed immediate. -/
  | andi (f : SI)
  /-- R79: Scalar or with a zero-extended immediate. -/
  | ori (f : SI)
  /-- R79: Scalar xor with a zero-extended immediate. -/
  | xori (f : SI)
  /-- R79: Scalar shift left by an immediate. -/
  | shli (f : SI)
  /-- R79: Scalar logical shift right by an immediate. -/
  | shri (f : SI)
  /-- R79: Scalar arithmetic shift right by an immediate. -/
  | sari (f : SI)
  /-- R79: Load a signed immediate into a scalar register. -/
  | li (f : SI)
  /-- R80: Compare two scalars into a predicate. -/
  | cmp (f : SR)
  /-- R80: Compare a scalar with an immediate into a predicate. -/
  | cmpi (f : SI)
  /-- R81: Select one of two scalars by a predicate. -/
  | sel (f : SR)
  /-- R82: Predicate logic by a four-bit truth table. -/
  | plog (f : SR)
  /-- R87: Conditional relative branch with one delay bundle. -/
  | br (f : SB)
  /-- R87: Conditional far jump to a line start. -/
  | jmp (f : SB)
  /-- R87: Conditional call linking in s31. -/
  | call (f : SB)
  /-- R88: Jump to a register target with optional link. -/
  | jr (f : SR)
  /-- R88: Return to the address in s31. -/
  | ret (f : SR)
  /-- R94: Open a loop level with a count from a register. -/
  | loop (f : SR)
  /-- R94: Open a loop level with an immediate count. -/
  | loopi (f : SI)
  /-- R95: Branch and close the innermost loop level. -/
  | lbrk (f : SB)
  /-- R111: Give up the issue path with a stated run. -/
  | yield (f : SI)
  /-- R112: Suspend the strand into its record unless a wake is pending. -/
  | park (f : SR)
  /-- R114: End the strand once its accesses and engine commands have completed. -/
  | halt (f : SR)
  /-- R112: Sleep until the GTC reaches a scalar value. -/
  | wait (f : SR)
  /-- R99: Bind an instruction-store half to a code window. -/
  | iwin (f : SI)
  /-- R100: Wait for instruction-store writes and discard the fetched-ahead line. -/
  | ifence (f : SR)
  /-- R101: Branch into the other instruction-store half. -/
  | swapb (f : SB)
  /-- R115: Wake or start a bivouac record. -/
  | spawn (f : SR)
  /-- R105: Read a control register. -/
  | csrr (f : SI)
  /-- R105: Write a control register field by field. -/
  | csrw (f : SI)
  /-- R106: Read the global time-stamp counter. -/
  | gtc (f : SR)
  /-- R387: Raise a software trap. -/
  | trap (f : SI)
  /-- R388: Return from a trap handler. -/
  | tret (f : SR)
  /-- R389: Save a context of the core to an image and empty it. -/
  | ctxsv (f : SR)
  /-- R389: Load an image into an empty context of the core. -/
  | ctxld (f : SR)
  /-- R390: Remove TLB entries mapping an address. -/
  | tlbinv (f : SR)
  /-- R390: Remove every TLB entry of the partition. -/
  | tlbinvAll (f : SR)
  /-- R390: Wait until earlier invalidations have taken effect. -/
  | tlbsync (f : SR)
  /-- R234: Global load. -/
  | ldg (f : GF)
  /-- R234: Global store. -/
  | stg (f : GF)
  /-- R235: Global atomic read-modify-write. -/
  | amo (f : GF)
  /-- R236: Global compare and swap. -/
  | cas (f : GF)
  /-- R238: Order the strand's accesses at a scope. -/
  | fence (f : GF)
  /-- R238: Wait until earlier G accesses have performed at a scope. -/
  | drain (f : GF)
  /-- R238: Wait also for earlier engine commands and their global writes. -/
  | drainE (f : GF)
  /-- R239: Read a dword and arm a watch entry on its line atomically. -/
  | mon (f : GF)
  /-- R240: Sleep until a watch entry fires, a timeout or another wake. -/
  | mwait (f : GF)
  /-- R241: Initialise a barrier object. -/
  | barInit (f : GF)
  /-- R241: Arrive at a barrier. -/
  | barArrive (f : GF)
  /-- R241: Add expected transaction bytes to a barrier. -/
  | barExpect (f : GF)
  /-- R241: Test a barrier phase or arm a watch entry on it. -/
  | barWait (f : GF)
  /-- R242: Count down a job header's tasks. -/
  | cmpl (f : GF)
  /-- R234: Prefetch a line into the L2 or MSC. -/
  | pfg (f : GF)
  /-- R237: Global FP32 atomic add. -/
  | amof (f : GF)
  /-- R255: Stage one copy-sequencer loop level. -/
  | cqLvl (f : EF)
  /-- R258: Start a copy from the staging state. -/
  | cqGo (f : EF)
  /-- R256: Stage the copy configuration word. -/
  | cqCfg (f : EF)
  /-- R257: Bind a barrier to the next copy. -/
  | cqBar (f : EF)
  /-- R272: Run a matrix routine on a bank. -/
  | mxCall (f : EF)
  /-- R273: Write a matrix parameter register. -/
  | mxSetp (f : EF)
  /-- R273: Read a matrix parameter register. -/
  | mxGetp (f : EF)
  /-- R274: Load microcode into the store and set a slot. -/
  | mxLd (f : EF)
  /-- R275: Store a bank to scratchpad, optionally releasing it. -/
  | mxDrain (f : EF)
  /-- R276: Claim and clear a bank in a mode. -/
  | mxZero (f : EF)
  /-- R317: Attend over a sequence by handle into a state block. -/
  | kvAttn (f : EF)
  /-- R286: Append one token to a sequence. -/
  | kvApp (f : EF)
  /-- R290: Share a sequence's committed blocks with another. -/
  | kvFork (f : EF)
  /-- R290: Release blocks of a sequence from a given block on. -/
  | kvFree (f : EF)
  /-- R288: Commit tentative tokens as a release. -/
  | kvSeal (f : EF)
  /-- R288: Discard tentative tokens. -/
  | kvUndo (f : EF)
  /-- R289: Apply a survivor mask to a block. -/
  | kvTrim (f : EF)
  /-- R296: Set the eviction class of one block's frame. -/
  | kvClass (f : EF)
  /-- R296: Set the eviction class of every block and the default class. -/
  | kvClassAll (f : EF)
  /-- R296: Move a frame to a lower rung. -/
  | kvDemote (f : EF)
  /-- R296: Move a frame to rung 0. -/
  | kvPromote (f : EF)
  /-- R296: Increment a frame's pin count. -/
  | kvPin (f : EF)
  /-- R296: Decrement a frame's pin count. -/
  | kvUnpin (f : EF)
  /-- R300: Borrow a frame from a peer. -/
  | kvLend (f : EF)
  /-- R300: Return a borrowed frame to its lender. -/
  | kvRet (f : EF)
  /-- R319: Read a sequence's committed length as an acquire. -/
  | kvLen (f : EF)
  /-- R319: Read a sequence's tentative length. -/
  | kvLenT (f : EF)
  /-- R319: Locate a position's frame, slot and tier. -/
  | kvPos (f : EF)
  /-- R318: Merge two attention state blocks. -/
  | kvMerge (f : EF)
  /-- R293: Push frames onto a free list. -/
  | kvGrant (f : EF)
  /-- R332: Define a named tile with a home. -/
  | tlDef (f : EF)
  /-- R332: Define a named tile with a recipe. -/
  | tlDefR (f : EF)
  /-- R333: Copy a named tile into scratchpad, building or waiting if needed. -/
  | tlGet (f : EF)
  /-- R334: Write a named tile from scratchpad. -/
  | tlPut (f : EF)
  /-- R336: Drop a recipe tile's bytes. -/
  | tlDrop (f : EF)
  /-- R336: Delete a named tile. -/
  | tlDropF (f : EF)
  /-- R337: Increment a tile's pin count. -/
  | tlPin (f : EF)
  /-- R337: Decrement a tile's pin count. -/
  | tlUnpin (f : EF)
  /-- R335: Publish a recipe build and fill waiting gets. -/
  | tlDone (f : EF)
  /-- R350: Load bytes into the rule table RAM. -/
  | ruTab (f : EF)
  /-- R351: Stage the rule configuration word. -/
  | ruCfg (f : EF)
  /-- R352: Step a rule tile for G generations. -/
  | ruStep (f : EF)
  /-- R353: Read the generation counter and done flag. -/
  | ruGen (f : EF)
  /-- R353: Set the generation counter and clear D. -/
  | ruGenW (f : EF)
  /-- R366: Send a message from a request block. -/
  | msgSend (f : EF)
  /-- R367: Post a receive, matching the unexpected queue first. -/
  | msgPost (f : EF)
  /-- R368: Withdraw a posted receive. -/
  | msgCancel (f : EF)
  /-- R368: Inspect the oldest matching unexpected entry. -/
  | msgProbe (f : EF)
  /-- R369: Set a handler table entry. -/
  | msgHnd (f : EF)
  /-- R128: Arm a stream-context entry with its next launch time. -/
  | sctArm (f : EF)
  /-- R128: Disarm a stream-context entry. -/
  | sctDisarm (f : EF)
  /-- R128: Record activity on a stream-context entry. -/
  | sctTouch (f : EF)
  /-- R128: Record activity and clear the launched flag. -/
  | sctDone (f : EF)
  /-- R128: Evict a stream-context entry's state at once. -/
  | sctEvict (f : EF)
  /-- R128: Read a dword of a stream-context entry. -/
  | sctRead (f : EF)
  /-- R135: Vector move. -/
  | vmov (f : VR)
  /-- R135: Vector wrapping add. -/
  | vadd (f : VR)
  /-- R135: Vector wrapping subtract. -/
  | vsub (f : VR)
  /-- R135: Vector signed saturating add. -/
  | vaddsat (f : VR)
  /-- R135: Vector signed saturating subtract. -/
  | vsubsat (f : VR)
  /-- R136: Vector multiply, low bits. -/
  | vmul (f : VR)
  /-- R136: Vector signed multiply, high bits. -/
  | vmulh (f : VR)
  /-- R136: Vector multiply-accumulate. -/
  | vmac (f : VR)
  /-- R137: Vector four-way byte dot product into lanes. -/
  | vdot4 (f : VR)
  /-- R137: Vector two-way half dot product into lanes. -/
  | vdot2 (f : VR)
  /-- R135: Vector absolute value. -/
  | vabs (f : VR)
  /-- R135: Vector negation. -/
  | vneg (f : VR)
  /-- R135: Vector signed minimum. -/
  | vmin (f : VR)
  /-- R135: Vector signed maximum. -/
  | vmax (f : VR)
  /-- R135: Vector unsigned minimum. -/
  | vminu (f : VR)
  /-- R135: Vector unsigned maximum. -/
  | vmaxu (f : VR)
  /-- R138: Vector bitwise and. -/
  | vand (f : VR)
  /-- R138: Vector bitwise or. -/
  | vor (f : VR)
  /-- R138: Vector bitwise exclusive or. -/
  | vxor (f : VR)
  /-- R138: Vector and with complement. -/
  | vandn (f : VR)
  /-- R138: Vector shift left. -/
  | vshl (f : VR)
  /-- R138: Vector logical shift right. -/
  | vshr (f : VR)
  /-- R138: Vector arithmetic shift right. -/
  | vsar (f : VR)
  /-- R138: Vector rounding arithmetic shift right. -/
  | vrshr (f : VR)
  /-- R138: Vector count leading zeros. -/
  | vclz (f : VR)
  /-- R138: Vector population count. -/
  | vpopc (f : VR)
  /-- R139: Vector integer compare into condition codes. -/
  | vcmp (f : VR)
  /-- R141: Vector select by lane mask. -/
  | vsel (f : VR)
  /-- R143: Broadcast one element to every lane. -/
  | vbcast (f : VR)
  /-- R143: Permute lanes by index. -/
  | vlane (f : VR)
  /-- R142: Narrow elements with signed saturation. -/
  | vpack (f : VR)
  /-- R142: Widen elements by sign extension. -/
  | vunpk (f : VR)
  /-- R140: Write a lane mask from a lane test. -/
  | vmskl (f : VR)
  /-- R144: Slide elements across lanes. -/
  | vext (f : VR)
  /-- R144: Insert one element. -/
  | vins (f : VR)
  /-- R176: Floating add. -/
  | vfadd (f : VR)
  /-- R176: Floating subtract. -/
  | vfsub (f : VR)
  /-- R176: Floating multiply. -/
  | vfmul (f : VR)
  /-- R177: Fused multiply-add. -/
  | vfma (f : VR)
  /-- R177: Fused multiply-subtract. -/
  | vfms (f : VR)
  /-- R178: Floating minimum. -/
  | vfmin (f : VR)
  /-- R178: Floating maximum. -/
  | vfmax (f : VR)
  /-- R179: Floating absolute value. -/
  | vfabs (f : VR)
  /-- R179: Floating negation. -/
  | vfneg (f : VR)
  /-- R180: Floating compare into condition codes. -/
  | vfcmp (f : VR)
  /-- R181: Floating classify. -/
  | vfcls (f : VR)
  /-- R182: Scale by a power of two. -/
  | vfscl (f : VR)
  /-- R165: Round to an integral value. -/
  | vfrnd (f : VR)
  /-- R163: Convert between floating formats. -/
  | vcvt (f : VR)
  /-- R164: Convert floating to integer. -/
  | vfcvti (f : VR)
  /-- R164: Convert integer to floating. -/
  | vicvtf (f : VR)
  /-- R166: Quantise one MX block. -/
  | vqmx (f : VR)
  /-- R167: Dequantise one MX block. -/
  | vdqmx (f : VR)
  /-- R183: Exact sum across lanes. -/
  | vrsum (f : VR)
  /-- R183: Maximum across lanes. -/
  | vrmax (f : VR)
  /-- R183: Minimum across lanes. -/
  | vrmin (f : VR)
  /-- R189: Special function 2^x. -/
  | exp2 (f : VR)
  /-- R189: Special function log2 x. -/
  | log2 (f : VR)
  /-- R189: Special function reciprocal. -/
  | rcp (f : VR)
  /-- R189: Special function reciprocal square root. -/
  | rsq (f : VR)
  /-- R189: Special function square root. -/
  | sqrt (f : VR)
  /-- R189: Special function sine. -/
  | sin (f : VR)
  /-- R189: Special function cosine. -/
  | cos (f : VR)
  /-- R189: Special function tanh. -/
  | tanh (f : VR)
  /-- R189: Special function sigmoid. -/
  | sigm (f : VR)
  /-- R203: Scratchpad load of a contiguous line. -/
  | vld (f : VR)
  /-- R203: Scratchpad store of a contiguous line. -/
  | vst (f : VR)
  /-- R203: Strided scratchpad load. -/
  | vlds (f : VR)
  /-- R203: Strided scratchpad store. -/
  | vsts (f : VR)
  /-- R203: Indexed scratchpad load. -/
  | vldx (f : VR)
  /-- R203: Indexed scratchpad store. -/
  | vstx (f : VR)
  /-- R203: Broadcast scratchpad word load. -/
  | vldb (f : VR)
  /-- R204: Load a line without waiting, with its full bit into a mask. -/
  | vldt (f : VR)
  /-- R205: Set lines full. -/
  | fefill (f : VR)
  /-- R205: Set lines empty. -/
  | feempty (f : VR)
  /-- R205: Read full bits of lines into a mask. -/
  | fetest (f : VR)
  /-- R206: Bind a stream register from a descriptor. -/
  | sbind (f : VR)
  /-- R206: Set a stream's pop and push formats. -/
  | sfmt (f : VR)
  /-- R206: Advance a stream's head or tail. -/
  | sadv (f : VR)
  /-- R208: Make earlier vector stores visible to engines. -/
  | efence (f : VR)
  /-- R208: Also wait until earlier engine commands have read their sources. -/
  | efenceRd (f : VR)
  /-- R210: Copy a register from another cluster. -/
  | xcp (f : VR)
  /-- R210: Broadcast one lane of one cluster. -/
  | xbc (f : VR)
  /-- R210: Rotate registers across clusters. -/
  | xrot (f : VR)
  /-- R210: Shuffle lanes across clusters by index. -/
  | xshf (f : VR)
  /-- R211: Write a row into the transpose buffer. -/
  | trpi (f : VR)
  /-- R211: Read a column from the transpose buffer. -/
  | trpo (f : VR)
  /-- R210: Reduce a register across the eight clusters. -/
  | xred (f : VR)
  /-- R72: An outstanding G load or scalar-returning engine command returns its value and releases the register interlock. -/
  | gloadReturn (c r : Nat)
  /-- R124: A mapped queue slot places the head party all or nothing once contexts, lines and stream registers allow, and advances the head. -/
  | dispatchPlace (slot : Nat)
  /-- R126: The restore copy of an evicted entry's state into its slot completes, E clears and the launch proceeds. -/
  | streamRestoreDone (i : Nat)
  /-- R127: An eviction copy ends; the slot returns to the free list, state becomes 0, E sets, B clears, and M is set if late. -/
  | streamEvictDone (i : Nat)
  /-- R253: The last byte a copy writes in a destination line lands; the line becomes full and a bound barrier's trn is reduced. -/
  | copyLineLand (id line : Nat)
  /-- R310: The bytes of a deferred page land in staging and the page's units are pushed into the rings. -/
  | attnPageStaged (id blk : Nat)
  /-- R307: The ring fill covers a page-head unit and attn.step folds it into the rows of that head. -/
  | attnUnitFold (id : Nat)
  /-- R295: Readers of a frame in transit reach zero and the trim, demotion or promotion rewrites it and sets its new tier atomically. -/
  | kvTransitEnd (id : Nat)
  /-- R291: A frame with refcount zero sees readers reach zero and is pushed onto the free list or returned to its lender. -/
  | kvFrameFree (fid : Nat)
  /-- R299: A kv-read or kv-write goes unacknowledged for 100 us, and the store stops the command with kv-lend or attn-lend. -/
  | lenderUnreachable (id : Nat)
  /-- R300: No lend reply arrives within 100 us of kv.lend's acceptance and its destination receives 3. -/
  | kvLendTimeout (id : Nat)
  /-- R299: A route to a lender returns and the receive engine sends the kv-return it held. -/
  | kvReturnRelease (dev : Nat)
  /-- R363: A matched payload has landed; the completion record is written and the receive's action is performed. -/
  | msgLandingComplete (k : Nat)
  /-- R366: A message's payload has left the device; the command completes and subtracts length from its local barrier. -/
  | msgSendComplete (id : Nat)
  /-- R333: A tl.get copy lands a line of the tile in scratchpad and sets it full. -/
  | tileCopyLand (id line : Nat)
  /-- R435: A write to the last dword of a die's mailbox rings the control-core firmware. -/
  | mailboxRing
  /-- R385: A fatal cause stops its partition, or every partition, and the control-core firmware writes the dump. -/
  | fatalError (e : FatalEvent)
  /-- R376: An SRAM or register file corrects a single-bit soft error and counts it. -/
  | softErrorCorrect (unit : Nat)
  /-- R447: Reset starts bring-up with boot ROM verification of the firmware images. -/
  | deviceReset (rotOk ccOk : Bool)
  /-- R98: The loader writes an image's windows into every core of a partition and binds the halves. -/
  | imageLoad (img : Image)
  /-- R445: Firmware creates a partition at host request, drawing an owner key and setting its tables. -/
  | partitionCreate (p : PartSetup)
  /-- R227: The zero-fill of a region started by its first write completes and the waiting accesses perform. -/
  | livenessFillDone (region : Nat)
  /-- R441: Each microsecond an LTL port measures its peer's GTC offset and, as source, disciplines the rate. -/
  | ltlTimeMeasure (k : Nat) (off : BitVec 64)
  /-- R444: A link reaching state 2 is attested by both roots of trust and either keyed into state 3 or failed to state 4. -/
  | ltlAttest (k : Nat) (ok : Bool)
  /-- R441: A link goes down; LK clears and the GTC keeps its last rate. -/
  | ltlLinkDown (k : Nat)
  /-- R442: A CXL port goes down and accesses to ranges interleaved over it raise integrity until remapped. -/
  | cxlPortDown (k : Nat)
  /-- R445: Firmware destroys a partition and marks its regions not live. -/
  | partitionDestroy
  /-- R54: The header 0x0002_0000 at a bundle start issues nothing and takes one cycle and one bundle number. -/
  | emptyBundle
  /-- R119: The core slice runs out while another context is ready, and the request flag of the issuing context is raised. -/
  | sliceExpiry
  /-- R378: core.deadline cycles pass after a pre-emption request without a yield; the context is frozen at a bundle boundary with its in-flight results in the replay buffer. -/
  | freeze
  /-- R380: A bundle has waited core.wdog cycles and raises watchdog instead of issuing. -/
  | watchdog
  /-- R112: The GTC reaches the value a waiting context named, and the context becomes ready. -/
  | waitExpiry
  /-- R240: The GTC reaches an mwait timeout and the sleeping strand returns with code 1. -/
  | mwaitTimeout
  /-- R115: A context frees on a die and the oldest record of the die's ready list is placed on it. -/
  | readyListPlace
  /-- R122: At each die slice the dispatcher remaps its 64 queue slots by effective rank and ages unmapped queues. -/
  | dieSliceRemap
  /-- R121: A write of n to a queue's wake register adds n to its length, or is discarded and logged if it would overflow. -/
  | wakeRegisterWrite
  /-- R126: The GTC reaches next on an armed stream-context entry; the template is written to the target queue, the wake register rung and next advanced. -/
  | streamLaunch
  /-- R126: Each microsecond the timer logic retries taking a free recurrent-state slot for an evicted entry that is due. -/
  | streamSlotRetry
  /-- R127: The GTC passes last + quiet on an armed, unlaunched entry and the timer logic starts copying its state to HBM. -/
  | streamQuietEvict
  /-- R266: The ring fill covers a whole k-block and the matrix unit consumes it and accumulates it into the bank. -/
  | mxKblock
  /-- R275: An mx.drain reaches the head of the matrix queue and writes the bank to scratchpad, filling lines as written. -/
  | mxDrainRun
  /-- R276: An mx.zero reaches the head of the matrix queue and claims, sets the mode of and clears its bank. -/
  | mxZeroRun
  /-- R303: A page-walk engine frees and takes the oldest waiting kv command of the next core in round-robin order. -/
  | pweAssign
  /-- R297: The lender's receive engine takes a lend request, pops a frame from llist, marks it tier 3 and grants it. -/
  | lendRequestReceive
  /-- R300: The borrower receives a lend reply; the frame becomes tier 2, or a late grant is answered at once by a kv-return. -/
  | lendReplyReceive
  /-- R297: The lender's receive engine services a kv-read of a lent frame and replies with its bytes. -/
  | kvReadReceive
  /-- R297: The borrower's page-walk engine receives the bytes of a kv-read from the lender. -/
  | kvReadReplyReceive
  /-- R297: The lender's receive engine writes the bytes of a kv-write into a lent frame and acknowledges it. -/
  | kvWriteReceive
  /-- R298: The borrower receives the acknowledgement of a kv-write, which lets the append complete. -/
  | kvWriteAckReceive
  /-- R297: The lender's receive engine takes a kv-return, sets its frame tier 4 and pushes it onto llist. -/
  | kvReturnReceive
  /-- R359: A data or handler message header arrives on an endpoint and is matched against posted receives or entered in the unexpected queue. -/
  | msgArrival
  /-- R357: A sender receives the clear-to-send of a rendezvous message and transfers the payload. -/
  | ctsReceive
  /-- R326: A context or ready-list place frees on the die and the directory retries a held recipe spawn. -/
  | recipeSpawnRetry
  /-- R324: Room frees in the tile area or overflow and a command or spawn waiting at the directory proceeds. -/
  | tileRoomFreed
  /-- R352: A ru.step reaches the head of the rule-unit queue and starts stepping from the counter. -/
  | ruStepRun
  /-- R347: A ru.step reaches its target; the tile holds the last generation, the plane is written if asked, lines fill and D sets. -/
  | ruStepComplete
  /-- R382: Firmware starts a partition swap; contexts yield or freeze, engines settle, and all partition state moves to shadow storage. -/
  | partitionSwapOut
  /-- R382: Firmware restores a swapped partition; state returns from shadow storage and every restored watch entry fires once. -/
  | partitionSwapRestore
  /-- R385: The firmware finishes the signed dump and FERR_N asserts. -/
  | dumpComplete
  /-- R448: A compute die reaches 105 C and its core clock is lowered in steps. -/
  | thermalThrottle
  /-- R448: A die reaches 120 C or supply regulation is lost, and cause 0xBF is raised. -/
  | thermalShutdown
  /-- R438: A write to gtc.ctl selects the GTC source and enables the PPS latch. -/
  | gtcCtlWrite
  /-- R439: A write to gtc.rate sets the clamped rate adjustment, or is ignored while a link is the source. -/
  | gtcRateWrite
  /-- R440: A write to gtc.step advances the GTC at once, firing passed launches and timeouts, or starts slewing a negative step. -/
  | gtcStepWrite
  /-- R435: A rising edge on the 1 PPS input latches the GTC into gtc.pps when PE is set. -/
  | ppsEdge
  /-- R7: A write to a register with no behaviour of its own sets its RW fields and ignores the rest. -/
  | registerWrite
  /-- R240: Firmware writes the partition-wide wake broadcast, and every strand of the partition asleep in mwait returns with code 4. -/
  | partitionWideWakeBroadcast
  /-- R444: A down LTL link returns and begins training, leaving state 0 for state 1 on its way to attestation with renewed keys. -/
  | linkBringUp
  /-- R440: The remaining negative step reaches zero and the GTC returns from 0.999 ns per ns to its normal rate. -/
  | stepAbsorbedBySlewing
  deriving DecidableEq, Repr

end Sys2Proof
end

