-- ==== Sys2Proof/Decode.lean ====
section
/-! DEFINITION. The bundle and op-word decoder (03 R51 to R68), total on any words, and after it the encoder written
from the same encoding tables. -/

namespace Sys2Proof

/-- The opcode of an op word: bits [31:25] in every format (R55, R59 to R61). -/
def opOf (w : Word) : BitVec 7 := w.extractLsb' 25 7

/-- The fields of a VR word (R55). -/
def VR.ofWord (w : Word) : VR :=
  { d := w.extractLsb' 19 6, w := w.getLsbD 18, a := w.extractLsb' 12 6, b := w.extractLsb' 6 6,
    h := w.getLsbD 5, k := w.getLsbD 4, t := w.extractLsb' 2 2, m := w.extractLsb' 0 2 }
/-- The fields of an SR word (R59). -/
def SR.ofWord (w : Word) : SR :=
  { d := w.extractLsb' 20 5, a := w.extractLsb' 15 5, b := w.extractLsb' 10 5, p := w.extractLsb' 7 3,
    f := w.extractLsb' 0 7 }
/-- The fields of an SI word (R59). -/
def SI.ofWord (w : Word) : SI :=
  { d := w.extractLsb' 20 5, a := w.extractLsb' 15 5, i := w.extractLsb' 0 15 }
/-- The fields of an SB word (R59). -/
def SB.ofWord (w : Word) : SB :=
  { p := w.extractLsb' 22 3, n := w.getLsbD 21, o := w.extractLsb' 0 21 }
/-- The fields of a G word (R60). -/
def GF.ofWord (w : Word) : GF :=
  { d := w.extractLsb' 20 5, b := w.extractLsb' 15 5, s := w.extractLsb' 12 3, r := w.extractLsb' 10 2,
    o := w.extractLsb' 0 10 }
/-- The fields of an E word (R61). -/
def EF.ofWord (w : Word) : EF :=
  { a := w.extractLsb' 20 5, b := w.extractLsb' 15 5, c := w.extractLsb' 10 5, i := w.extractLsb' 0 10 }

/-- The S kind's opcode map (R63): the instruction of opcode n in the word. -/
def decodeSAt (n : Nat) (w : Word) : Option Instr :=
  match n with
  | 0x00 => some (.nop (SR.ofWord w))
  | 0x01 => some (.add (SR.ofWord w))
  | 0x02 => some (.sub (SR.ofWord w))
  | 0x03 => some (.mul (SR.ofWord w))
  | 0x04 => some (.mulh (SR.ofWord w))
  | 0x05 => some (.mulhu (SR.ofWord w))
  | 0x06 => some (.and (SR.ofWord w))
  | 0x07 => some (.or (SR.ofWord w))
  | 0x08 => some (.xor (SR.ofWord w))
  | 0x09 => some (.andn (SR.ofWord w))
  | 0x0A => some (.shl (SR.ofWord w))
  | 0x0B => some (.shr (SR.ofWord w))
  | 0x0C => some (.sar (SR.ofWord w))
  | 0x0D => some (.min (SR.ofWord w))
  | 0x0E => some (.max (SR.ofWord w))
  | 0x0F => some (.minu (SR.ofWord w))
  | 0x10 => some (.maxu (SR.ofWord w))
  | 0x11 => some (.clz (SR.ofWord w))
  | 0x12 => some (.popc (SR.ofWord w))
  | 0x13 => some (.sext (SR.ofWord w))
  | 0x14 => some (.bfx (SR.ofWord w))
  | 0x15 => some (.bfi (SR.ofWord w))
  | 0x18 => some (.addi (SI.ofWord w))
  | 0x19 => some (.andi (SI.ofWord w))
  | 0x1A => some (.ori (SI.ofWord w))
  | 0x1B => some (.xori (SI.ofWord w))
  | 0x1C => some (.shli (SI.ofWord w))
  | 0x1D => some (.shri (SI.ofWord w))
  | 0x1E => some (.sari (SI.ofWord w))
  | 0x1F => some (.li (SI.ofWord w))
  | 0x20 => some (.cmp (SR.ofWord w))
  | 0x21 => some (.cmpi (SI.ofWord w))
  | 0x22 => some (.sel (SR.ofWord w))
  | 0x23 => some (.plog (SR.ofWord w))
  | 0x30 => some (.br (SB.ofWord w))
  | 0x31 => some (.jmp (SB.ofWord w))
  | 0x32 => some (.call (SB.ofWord w))
  | 0x33 => some (.jr (SR.ofWord w))
  | 0x34 => some (.ret (SR.ofWord w))
  | 0x35 => some (.loop (SR.ofWord w))
  | 0x36 => some (.loopi (SI.ofWord w))
  | 0x37 => some (.lbrk (SB.ofWord w))
  | 0x38 => some (.yield (SI.ofWord w))
  | 0x39 => some (.park (SR.ofWord w))
  | 0x3A => some (.halt (SR.ofWord w))
  | 0x3B => some (.wait (SR.ofWord w))
  | 0x3C => some (.iwin (SI.ofWord w))
  | 0x3D => some (.ifence (SR.ofWord w))
  | 0x3E => some (.swapb (SB.ofWord w))
  | 0x3F => some (.spawn (SR.ofWord w))
  | 0x40 => some (.csrr (SI.ofWord w))
  | 0x41 => some (.csrw (SI.ofWord w))
  | 0x42 => some (.gtc (SR.ofWord w))
  | 0x50 => some (.trap (SI.ofWord w))
  | 0x51 => some (.tret (SR.ofWord w))
  | 0x52 => some (.ctxsv (SR.ofWord w))
  | 0x53 => some (.ctxld (SR.ofWord w))
  | 0x54 => some (let f := SR.ofWord w; if f.f = 1#7 then .tlbinvAll f else .tlbinv f)
  | 0x55 => some (.tlbsync (SR.ofWord w))
  | _ => none
/-- The instruction in an op word of the kind, by its opcode. -/
def decodeS (w : Word) : Option Instr := decodeSAt (opOf w).toNat w

/-- The G kind's opcode map (R64): the instruction of opcode n in the word. -/
def decodeGAt (n : Nat) (w : Word) : Option Instr :=
  match n with
  | 0x00 => some (.ldg (GF.ofWord w))
  | 0x01 => some (.stg (GF.ofWord w))
  | 0x02 => some (.amo (GF.ofWord w))
  | 0x03 => some (.cas (GF.ofWord w))
  | 0x04 => some (.fence (GF.ofWord w))
  | 0x05 => some (let f := GF.ofWord w; if f.o.getLsbD 0 = true then .drainE f else .drain f)
  | 0x06 => some (.mon (GF.ofWord w))
  | 0x07 => some (.mwait (GF.ofWord w))
  | 0x08 => some (.barInit (GF.ofWord w))
  | 0x09 => some (.barArrive (GF.ofWord w))
  | 0x0A => some (.barExpect (GF.ofWord w))
  | 0x0B => some (.barWait (GF.ofWord w))
  | 0x0C => some (.cmpl (GF.ofWord w))
  | 0x0D => some (.pfg (GF.ofWord w))
  | 0x0E => some (.amof (GF.ofWord w))
  | _ => none
/-- The instruction in an op word of the kind, by its opcode. -/
def decodeG (w : Word) : Option Instr := decodeGAt (opOf w).toNat w

/-- The E kind's opcode map (R67): the instruction of opcode n in the word. -/
def decodeEAt (n : Nat) (w : Word) : Option Instr :=
  match n with
  | 0x00 => some (.cqLvl (EF.ofWord w))
  | 0x01 => some (.cqGo (EF.ofWord w))
  | 0x02 => some (.cqCfg (EF.ofWord w))
  | 0x03 => some (.cqBar (EF.ofWord w))
  | 0x08 => some (.mxCall (EF.ofWord w))
  | 0x09 => some (let f := EF.ofWord w; if f.i.getLsbD 3 = true then .mxGetp f else .mxSetp f)
  | 0x0A => some (.mxLd (EF.ofWord w))
  | 0x0B => some (.mxDrain (EF.ofWord w))
  | 0x0C => some (.mxZero (EF.ofWord w))
  | 0x10 => some (.kvAttn (EF.ofWord w))
  | 0x11 => some (.kvApp (EF.ofWord w))
  | 0x12 => some (.kvFork (EF.ofWord w))
  | 0x13 => some (.kvFree (EF.ofWord w))
  | 0x14 => some (.kvSeal (EF.ofWord w))
  | 0x15 => some (.kvUndo (EF.ofWord w))
  | 0x16 => some (.kvTrim (EF.ofWord w))
  | 0x17 => some (let f := EF.ofWord w; if f.i.getLsbD 0 = true then .kvClassAll f else .kvClass f)
  | 0x18 => some (.kvDemote (EF.ofWord w))
  | 0x19 => some (.kvPromote (EF.ofWord w))
  | 0x1A => some (.kvPin (EF.ofWord w))
  | 0x1B => some (.kvUnpin (EF.ofWord w))
  | 0x1C => some (.kvLend (EF.ofWord w))
  | 0x1D => some (.kvRet (EF.ofWord w))
  | 0x1E => some (let f := EF.ofWord w; if f.i.getLsbD 0 = true then .kvLenT f else .kvLen f)
  | 0x1F => some (.kvPos (EF.ofWord w))
  | 0x20 => some (.kvMerge (EF.ofWord w))
  | 0x21 => some (.kvGrant (EF.ofWord w))
  | 0x28 => some (let f := EF.ofWord w; if f.i.getLsbD 0 = true then .tlDefR f else .tlDef f)
  | 0x29 => some (.tlGet (EF.ofWord w))
  | 0x2A => some (.tlPut (EF.ofWord w))
  | 0x2B => some (let f := EF.ofWord w; if f.i.getLsbD 0 = true then .tlDropF f else .tlDrop f)
  | 0x2C => some (.tlPin (EF.ofWord w))
  | 0x2D => some (.tlUnpin (EF.ofWord w))
  | 0x2E => some (.tlDone (EF.ofWord w))
  | 0x30 => some (.ruTab (EF.ofWord w))
  | 0x31 => some (.ruCfg (EF.ofWord w))
  | 0x32 => some (.ruStep (EF.ofWord w))
  | 0x33 => some (let f := EF.ofWord w; if f.i.getLsbD 0 = true then .ruGenW f else .ruGen f)
  | 0x38 => some (.msgSend (EF.ofWord w))
  | 0x39 => some (.msgPost (EF.ofWord w))
  | 0x3A => some (.msgCancel (EF.ofWord w))
  | 0x3B => some (.msgProbe (EF.ofWord w))
  | 0x3C => some (.msgHnd (EF.ofWord w))
  | 0x40 => some (let f := EF.ofWord w; if f.i.getLsbD 0 = true then .sctDisarm f else .sctArm f)
  | 0x41 => some (let f := EF.ofWord w; if f.i.getLsbD 0 = true then .sctDone f else .sctTouch f)
  | 0x42 => some (.sctEvict (EF.ofWord w))
  | 0x43 => some (.sctRead (EF.ofWord w))
  | _ => none
/-- The instruction in an op word of the kind, by its opcode. -/
def decodeE (w : Word) : Option Instr := decodeEAt (opOf w).toNat w

/-- The A and B kind's opcode map (R65): the instruction of opcode n in the word. -/
def decodeABAt (n : Nat) (w : Word) : Option Instr :=
  match n with
  | 0x00 => some (.vmov (VR.ofWord w))
  | 0x01 => some (.vadd (VR.ofWord w))
  | 0x02 => some (.vsub (VR.ofWord w))
  | 0x03 => some (.vaddsat (VR.ofWord w))
  | 0x04 => some (.vsubsat (VR.ofWord w))
  | 0x05 => some (.vmul (VR.ofWord w))
  | 0x06 => some (.vmulh (VR.ofWord w))
  | 0x07 => some (.vmac (VR.ofWord w))
  | 0x08 => some (.vdot4 (VR.ofWord w))
  | 0x09 => some (.vdot2 (VR.ofWord w))
  | 0x0A => some (.vabs (VR.ofWord w))
  | 0x0B => some (.vneg (VR.ofWord w))
  | 0x0C => some (.vmin (VR.ofWord w))
  | 0x0D => some (.vmax (VR.ofWord w))
  | 0x0E => some (.vminu (VR.ofWord w))
  | 0x0F => some (.vmaxu (VR.ofWord w))
  | 0x10 => some (.vand (VR.ofWord w))
  | 0x11 => some (.vor (VR.ofWord w))
  | 0x12 => some (.vxor (VR.ofWord w))
  | 0x13 => some (.vandn (VR.ofWord w))
  | 0x14 => some (.vshl (VR.ofWord w))
  | 0x15 => some (.vshr (VR.ofWord w))
  | 0x16 => some (.vsar (VR.ofWord w))
  | 0x17 => some (.vrshr (VR.ofWord w))
  | 0x18 => some (.vclz (VR.ofWord w))
  | 0x19 => some (.vpopc (VR.ofWord w))
  | 0x1A => some (.vcmp (VR.ofWord w))
  | 0x1B => some (.vsel (VR.ofWord w))
  | 0x1C => some (.vbcast (VR.ofWord w))
  | 0x1D => some (.vlane (VR.ofWord w))
  | 0x1E => some (.vpack (VR.ofWord w))
  | 0x1F => some (.vunpk (VR.ofWord w))
  | 0x20 => some (.vmskl (VR.ofWord w))
  | 0x21 => some (.vext (VR.ofWord w))
  | 0x22 => some (.vins (VR.ofWord w))
  | 0x40 => some (.vfadd (VR.ofWord w))
  | 0x41 => some (.vfsub (VR.ofWord w))
  | 0x42 => some (.vfmul (VR.ofWord w))
  | 0x43 => some (.vfma (VR.ofWord w))
  | 0x44 => some (.vfms (VR.ofWord w))
  | 0x45 => some (.vfmin (VR.ofWord w))
  | 0x46 => some (.vfmax (VR.ofWord w))
  | 0x47 => some (.vfabs (VR.ofWord w))
  | 0x48 => some (.vfneg (VR.ofWord w))
  | 0x49 => some (.vfcmp (VR.ofWord w))
  | 0x4A => some (.vfcls (VR.ofWord w))
  | 0x4B => some (.vfscl (VR.ofWord w))
  | 0x4C => some (.vfrnd (VR.ofWord w))
  | 0x4D => some (.vcvt (VR.ofWord w))
  | 0x4E => some (.vfcvti (VR.ofWord w))
  | 0x4F => some (.vicvtf (VR.ofWord w))
  | 0x50 => some (.vqmx (VR.ofWord w))
  | 0x51 => some (.vdqmx (VR.ofWord w))
  | 0x52 => some (.vrsum (VR.ofWord w))
  | 0x53 => some (.vrmax (VR.ofWord w))
  | 0x54 => some (.vrmin (VR.ofWord w))
  | _ => none
/-- The instruction in an op word of the kind, by its opcode. -/
def decodeAB (w : Word) : Option Instr := decodeABAt (opOf w).toNat w

/-- The M kind's opcode map (R66): the instruction of opcode n in the word. -/
def decodeMAt (n : Nat) (w : Word) : Option Instr :=
  match n with
  | 0x00 => some (.vld (VR.ofWord w))
  | 0x01 => some (.vst (VR.ofWord w))
  | 0x02 => some (.vlds (VR.ofWord w))
  | 0x03 => some (.vsts (VR.ofWord w))
  | 0x04 => some (.vldx (VR.ofWord w))
  | 0x05 => some (.vstx (VR.ofWord w))
  | 0x06 => some (.vldb (VR.ofWord w))
  | 0x07 => some (.vldt (VR.ofWord w))
  | 0x08 => some (.fefill (VR.ofWord w))
  | 0x09 => some (.feempty (VR.ofWord w))
  | 0x0A => some (.fetest (VR.ofWord w))
  | 0x0B => some (.sbind (VR.ofWord w))
  | 0x0C => some (.sfmt (VR.ofWord w))
  | 0x0D => some (.sadv (VR.ofWord w))
  | 0x0E => some (let f := VR.ofWord w; if f.t = 1#2 then .efenceRd f else .efence f)
  | _ => none
/-- The instruction in an op word of the kind, by its opcode. -/
def decodeM (w : Word) : Option Instr := decodeMAt (opOf w).toNat w

/-- The F kind's opcode map (R66): the instruction of opcode n in the word. -/
def decodeFAt (n : Nat) (w : Word) : Option Instr :=
  match n with
  | 0x00 => some (.exp2 (VR.ofWord w))
  | 0x01 => some (.log2 (VR.ofWord w))
  | 0x02 => some (.rcp (VR.ofWord w))
  | 0x03 => some (.rsq (VR.ofWord w))
  | 0x04 => some (.sqrt (VR.ofWord w))
  | 0x05 => some (.sin (VR.ofWord w))
  | 0x06 => some (.cos (VR.ofWord w))
  | 0x07 => some (.tanh (VR.ofWord w))
  | 0x08 => some (.sigm (VR.ofWord w))
  | _ => none
/-- The instruction in an op word of the kind, by its opcode. -/
def decodeF (w : Word) : Option Instr := decodeFAt (opOf w).toNat w

/-- The X kind's opcode map (R66): the instruction of opcode n in the word. -/
def decodeXAt (n : Nat) (w : Word) : Option Instr :=
  match n with
  | 0x00 => some (.xcp (VR.ofWord w))
  | 0x01 => some (.xbc (VR.ofWord w))
  | 0x02 => some (.xrot (VR.ofWord w))
  | 0x03 => some (.xshf (VR.ofWord w))
  | 0x04 => some (.trpi (VR.ofWord w))
  | 0x05 => some (.trpo (VR.ofWord w))
  | 0x06 => some (.xred (VR.ofWord w))
  | _ => none
/-- The instruction in an op word of the kind, by its opcode. -/
def decodeX (w : Word) : Option Instr := decodeXAt (opOf w).toNat w

/-- The instruction an op word of a kind stands for; none is illegal-op (R63 to R68). vext, vins and the reductions
are A-only (R65). -/
def decodeOp : Kind → Word → Option Instr
  | .S, w => decodeS w
  | .G, w => decodeG w
  | .E, w => decodeE w
  | .X, w => decodeX w
  | .A, w => decodeAB w
  | .B, w =>
    let o := (opOf w).toNat
    if o = 0x21 || o = 0x22 || o = 0x52 || o = 0x53 || o = 0x54 then none else decodeAB w
  | .M, w => decodeM w
  | .F, w => decodeF w

/-- The first of several operand faults. -/
def firstOf : List (Option Nat) → Option Nat
  | [] => none
  | some x :: _ => some x
  | none :: l => firstOf l

/-- A condition as an operand fault at a bit position. -/
def faultIf (c : Bool) (pos : Nat) : Option Nat := if c then some pos else none

/-- What the d field of a vector op names. -/
inductive DRole where
  | dest | mask | source | stream | unused
  deriving DecidableEq, Repr

/-- Which element types a vector op accepts: any bits, all but 3, or one of a list (R134, R62). -/
inductive TyRule where
  | free | not3 | only (l : List Nat)
  deriving DecidableEq, Repr

/-- The sources a vector op reads, the role of its d field, and its element types. -/
structure VShape where
  a : Bool
  b : Bool
  d : DRole
  ty : TyRule
  deriving DecidableEq, Repr

/-- The format fields of a vector instruction (kinds A, B, M, F, X) with what each field means to it. -/
def vshape : Instr → Option (VR × VShape)
  | .vmov f => some (f, ⟨true, false, .dest, .free⟩)
  | .vadd f | .vsub f | .vaddsat f | .vsubsat f | .vmul f | .vmulh f | .vmac f | .vmin f | .vmax f | .vminu f
  | .vmaxu f | .vshl f | .vshr f | .vsar f | .vrshr f | .vcmp f | .vbcast f | .vext f | .vins f
  | .vfadd f | .vfsub f | .vfmul f | .vfma f | .vfms f | .vfmin f | .vfmax f | .vfcmp f | .vfscl f
  | .vrsum f | .vrmax f | .vrmin f => some (f, ⟨true, true, .dest, .not3⟩)
  | .vdot4 f => some (f, ⟨true, true, .dest, .only [2]⟩)
  | .vdot2 f => some (f, ⟨true, true, .dest, .only [1]⟩)
  | .vpack f | .vunpk f => some (f, ⟨true, true, .dest, .only [1, 2]⟩)
  | .vabs f | .vneg f | .vclz f | .vpopc f | .vfabs f | .vfneg f | .vfcls f | .vfrnd f =>
      some (f, ⟨true, false, .dest, .not3⟩)
  | .vand f | .vor f | .vxor f | .vandn f | .vsel f | .vlane f => some (f, ⟨true, true, .dest, .free⟩)
  | .vmskl f => some (f, ⟨true, true, .mask, .free⟩)
  | .vcvt f | .vfcvti f | .vicvtf f => some (f, ⟨true, false, .dest, .free⟩)
  | .vqmx f | .vdqmx f => some (f, ⟨true, f.t = 0#2, .dest, .not3⟩)
  | .exp2 f | .log2 f | .rcp f | .rsq f | .sqrt f | .sin f | .cos f | .tanh f | .sigm f =>
      some (f, ⟨true, false, .dest, .only [0]⟩)
  | .vld f | .vlds f | .vldx f | .vldb f | .vldt f => some (f, ⟨true, true, .dest, .free⟩)
  | .vst f | .vsts f | .vstx f => some (f, ⟨true, true, .source, .free⟩)
  | .fefill f | .feempty f => some (f, ⟨true, true, .unused, .free⟩)
  | .fetest f => some (f, ⟨true, true, .mask, .free⟩)
  | .sbind f | .sadv f => some (f, ⟨true, true, .stream, .free⟩)
  | .sfmt f => some (f, ⟨true, false, .stream, .free⟩)
  | .efence f | .efenceRd f => some (f, ⟨false, false, .unused, .only [0, 1]⟩)
  | .xcp f | .xbc f | .xrot f | .xshf f => some (f, ⟨true, true, .dest, .free⟩)
  | .xred f => some (f, ⟨true, true, .dest, .only [0]⟩)
  | .trpi f => some (f, ⟨true, true, .unused, .free⟩)
  | .trpo f => some (f, ⟨true, false, .dest, .free⟩)
  | _ => none

/-- A source code that is reserved, or a literal index not below L (R56, R68). -/
def srcFault (L pos : Nat) (c : BitVec 6) : Option Nat :=
  faultIf (c = 38#6 || c = 39#6 || (c.extractLsb' 3 3 = 5#3 && decide (L ≤ (c.extractLsb' 0 3).toNat))) pos

/-- The operand faults of a d field (R57, R140, R205, R206). With nw = 1 a destination is ignored (R55); the bits d[5:2] of a
mask name are checked whatever nw, as their entries say. -/
def dFault (L : Nat) (f : VR) : DRole → Option Nat
  | .dest => faultIf (!f.w && f.d.extractLsb' 5 1 = 1#1 && !(f.d.extractLsb' 4 2 = 3#2)) 19
  | .mask => faultIf (!(f.d.extractLsb' 2 4 = 0#4)) 19
  | .source => srcFault L 19 f.d
  | .stream => faultIf (!(f.d.extractLsb' 4 2 = 3#2)) 19
  | .unused => none

/-- The operand fault of an element type (R134, R137, R142, R184, R208). -/
def tyFault (t : BitVec 2) : TyRule → Option Nat
  | .free => none
  | .not3 => faultIf (t = 3#2) 2
  | .only l => faultIf (!l.contains t.toNat) 2

/-- Elements per lane of the float formats and of the integer formats (R161). -/
def fltPer (c : Nat) : Nat := if c = 0 then 1 else if c ≤ 2 then 2 else 4
/-- Elements per lane of an integer format (R161). -/
def intPer (c : Nat) : Nat := if c = 0 then 1 else if c = 1 then 2 else 4

/-- The part index h must be below the ratio of the element counts (R162). -/
def partFault (ps pd : Nat) (h : BitVec 2) : Option Nat :=
  faultIf (decide (max ps pd / min ps pd ≤ h.toNat)) 2

/-- The operand faults that one vector op has beside the common ones. -/
def vextraFault : Instr → Option Nat
  | .vcvt f =>
    let s := (f.b.extractLsb' 3 3).toNat; let d := (f.b.extractLsb' 0 3).toNat
    firstOf [faultIf (decide (5 < s)) 9, faultIf (decide (5 < d)) 6, partFault (fltPer s) (fltPer d) f.t]
  | .vfcvti f =>
    let s := (f.b.extractLsb' 3 3).toNat; let d := (f.b.extractLsb' 1 2).toNat
    firstOf [faultIf (decide (5 < s)) 9, faultIf (decide (d = 3)) 7, partFault (fltPer s) (intPer d) f.t]
  | .vicvtf f =>
    let d := (f.b.extractLsb' 3 3).toNat; let s := (f.b.extractLsb' 1 2).toNat
    firstOf [faultIf (decide (5 < d)) 9, faultIf (decide (s = 3)) 7, partFault (intPer s) (fltPer d) f.t]
  | .vfrnd f => faultIf (!(f.b.extractLsb' 3 3 = 0#3)) 9
  | .vqmx f | .vdqmx f => faultIf (f.m = 3#2) 0
  | _ => none

/-- Order and scope by the table of R229: whether plain, acq, rel and sc are accepted, plain with scope 0 or with the
scopes of the flag `ps`. -/
def orderOk (plain acq rel sc : Bool) (f : GF) : Bool :=
  let s14 := decide (1 ≤ f.s.toNat ∧ f.s.toNat ≤ 4)
  match f.r.toNat with
  | 0 => plain && f.s = 0#3
  | 1 => acq && s14
  | 2 => rel && s14
  | _ => sc && s14

/-- The order and scope combinations of R229 for each G op, its plain forms with a scope among them. -/
def gOrderOk : Instr → Bool
  | .ldg f => orderOk true true false true f
  | .stg f => orderOk true false true true f
  | .amo f | .cas f | .amof f => orderOk true true true true f
  | .fence f => orderOk false true true true f
  | .drain f | .drainE f | .barInit f | .barArrive f | .barExpect f | .barWait f =>
      f.r = 0#2 && decide (1 ≤ f.s.toNat ∧ f.s.toNat ≤ 4)
  | .mon f => orderOk true true false false f
  | .mwait f => f.r = 0#2 && f.s = 0#3
  | .cmpl f => f.r = 2#2 && decide (1 ≤ f.s.toNat ∧ f.s.toNat ≤ 4)
  | .pfg f => f.r = 0#2 && (f.s = 2#3 || f.s = 3#3)
  | _ => true

/-- The format fields of a G instruction. -/
def gfield : Instr → Option GF
  | .ldg f | .stg f | .amo f | .cas f | .fence f | .drain f | .drainE f | .mon f | .mwait f | .barInit f
  | .barArrive f | .barExpect f | .barWait f | .cmpl f | .pfg f | .amof f => some f
  | _ => none

/-- The operand faults of a G word that its encoding decides (R229, R235, R236). -/
def gFault (i : Instr) : Option Nat :=
  match gfield i with
  | none => none
  | some f => firstOf
    [ faultIf (decide (4 < f.s.toNat)) 12, faultIf (!gOrderOk i) 10,
      match i with
      | .amo g => faultIf (decide (8 < (g.o.extractLsb' 6 4).toNat)) 6
      | .cas g => faultIf (g.d = 0#5 || g.d = 31#5) 20
      | .barInit g | .barArrive g | .barExpect g | .barWait g => faultIf (g.o.getLsbD 9 && !(g.s = 1#3)) 12
      | _ => none ]

/-- The imm10 bits that an E instruction's entry does not name, which must be zero (R61 and the entries). -/
def immMask : Instr → BitVec 10
  | .msgHnd _ => 0x300#10
  | .mxCall _ => 0x380#10
  | .mxLd _ | .mxDrain _ => 0x3C0#10
  | .mxGetp _ => 0x3F0#10
  | .cqLvl _ | .mxSetp _ | .mxZero _ | .sctRead _ => 0x3F8#10
  | .cqBar _ | .kvAttn _ | .kvClassAll _ | .kvLenT _ | .tlDefR _ | .tlDropF _ | .ruGenW _ | .sctDisarm _
  | .sctDone _ | .sctEvict _ => 0x3FE#10
  | .cqGo _ | .cqCfg _ | .kvApp _ | .kvFork _ | .kvFree _ | .kvSeal _ | .kvUndo _ | .kvTrim _
  | .kvClass _ | .kvDemote _ | .kvPromote _ | .kvPin _ | .kvUnpin _ | .kvLend _ | .kvRet _ | .kvLen _
  | .kvPos _ | .kvMerge _ | .kvGrant _ | .tlDef _ | .tlGet _ | .tlPut _ | .tlDrop _ | .tlPin _
  | .tlUnpin _ | .tlDone _ | .ruTab _ | .ruCfg _ | .ruGen _ | .msgSend _ | .msgPost _ | .msgCancel _
  | .msgProbe _ | .sctArm _ | .sctTouch _ => 0x3FF#10
  | _ => 0

/-- The format fields of an E instruction. -/
def efield : Instr → Option EF
  | .cqLvl f | .cqGo f | .cqCfg f | .cqBar f | .mxCall f | .mxSetp f | .mxGetp f | .mxLd f | .mxDrain f | .mxZero f
  | .kvAttn f | .kvApp f | .kvFork f | .kvFree f | .kvSeal f | .kvUndo f | .kvTrim f | .kvClass f | .kvClassAll f
  | .kvDemote f | .kvPromote f | .kvPin f | .kvUnpin f | .kvLend f | .kvRet f | .kvLen f | .kvLenT f | .kvPos f
  | .kvMerge f | .kvGrant f | .tlDef f | .tlDefR f | .tlGet f | .tlPut f | .tlDrop f | .tlDropF f | .tlPin f
  | .tlUnpin f | .tlDone f | .ruTab f | .ruCfg f | .ruStep f | .ruGen f | .ruGenW f | .msgSend f | .msgPost f
  | .msgCancel f | .msgProbe f | .msgHnd f | .sctArm f | .sctDisarm f | .sctTouch f | .sctDone f | .sctEvict f
  | .sctRead f => some f
  | _ => none

/-- The operand faults of an E word that its encoding decides. -/
def eFault (i : Instr) : Option Nat :=
  match efield i with
  | none => none
  | some f => firstOf
    [ faultIf (!(f.i &&& immMask i = 0#10)) 0,
      match i with
      | .cqLvl g => faultIf (decide (5 < (g.i.extractLsb' 0 3).toNat)) 0
      | .mxZero g =>
        if g.i.extractLsb' 0 2 = 3#2 then some 0 else faultIf (g.i.extractLsb' 0 2 = 2#2 && g.i.getLsbD 2) 2
      | _ => none ]

/-- The format fields of an SI instruction whose imm15 may name literal word 0 (R59, R79, R80, R94, R105, R111, R387). -/
def siLiteral : Instr → Option SI
  | .addi f | .andi f | .ori f | .xori f | .shli f | .shri f | .sari f | .li f | .cmpi f | .loopi f | .yield f
  | .csrr f | .csrw f | .trap f => some f
  | _ => none

/-- The end offset of loop in words (R94). -/
def loopEnd (f : SR) : Nat := (f.b ++ f.f : BitVec 12).toNat
/-- The end offset of loopi in words (R94). -/
def loopiEnd (f : SI) : Nat := ((f.d.extractLsb' 0 4) ++ f.a : BitVec 9).toNat

/-- The operand faults of an S word that its encoding decides; `n` is the word count of the bundle (R94). -/
def sFault (L n : Nat) : Instr → Option Nat
  | .sext f => faultIf (decide (f.f.toNat = 0 ∨ 64 < f.f.toNat)) 0
  | .bfx f | .bfi f => faultIf (decide (63 < f.f.toNat ∨ 64 < f.f.toNat + (f.b.toNat + 1))) 0
  | .cmp f => firstOf [faultIf (!(f.d.extractLsb' 3 2 = 0#2)) 20, faultIf (decide (5 < (f.f.extractLsb' 0 3).toNat)) 0]
  | .plog f => firstOf [faultIf (!(f.d.extractLsb' 3 2 = 0#2)) 20, faultIf (!(f.a.extractLsb' 3 2 = 0#2)) 15,
      faultIf (!(f.b.extractLsb' 3 2 = 0#2)) 10, faultIf (!(f.f.extractLsb' 4 3 = 0#3)) 0]
  | .loop f => firstOf [faultIf (!(f.d.extractLsb' 0 4 = 0#4)) 20, faultIf (decide (loopEnd f < n)) 0]
  | .loopi f => firstOf [faultIf (f.i = 0x4000#15 && L = 0) 0, faultIf (decide (loopiEnd f < n)) 15]
  | .iwin f => faultIf (!(f.d.extractLsb' 1 4 = 0#4)) 20
  | .park f | .wait f => faultIf (f.f = 0x7F#7 && L = 0) 0
  | .tlbinv f | .tlbinvAll f => faultIf (decide (1 < f.f.toNat)) 0
  | .addi f | .andi f | .ori f | .xori f | .shli f | .shri f | .sari f | .li f | .cmpi f | .yield f
  | .csrr f | .csrw f | .trap f => faultIf (f.i = 0x4000#15 && L = 0) 0
  | _ => none

/-- illegal-operand as far as the encoding decides it (R68): the bit position of the low bit of the offending field.
`L` is the number of literal words of the packet, `n` the number of words of the bundle. -/
def operandFault (L n : Nat) (i : Instr) : Option Nat :=
  match vshape i with
  | some (f, sh) => firstOf
    [ if sh.a then srcFault L 12 f.a else none, if sh.b then srcFault L 6 f.b else none, dFault L f sh.d,
      tyFault f.t sh.ty, vextraFault i ]
  | none => firstOf [gFault i, eFault i, sFault L n i]

/-- One op word of a bundle on one cluster: its number (R69), its kind and cluster, the word, and the literal words of
its packet. A templated word gives one slot for each cluster. -/
structure Slot where
  idx : Nat
  kind : Kind
  cluster : Nat
  word : Word
  lits : List Word
  deriving DecidableEq, Repr

/-- What a fetch finds at an address (R53, R54, R68). -/
inductive Fetched where
  /-- Line padding: the bundle begins at the next line. -/
  | padding
  /-- The empty bundle. -/
  | empty
  /-- A bundle of a number of words. -/
  | bundle (words : Nat) (slots : List Slot)
  /-- illegal-bundle with its code and the header word. -/
  | bad (code : Nat) (header : Word)
  deriving DecidableEq, Repr

/-- The clusters of a cluster mask, ascending. -/
def clustersOf (c : BitVec 8) : List Nat := (List.range 8).filter fun n => c.getLsbD n

/-- The cluster kinds of K in header order (R51, R52). -/
def clusterKinds (k : BitVec 8) : List Kind :=
  [(3, Kind.X), (4, .A), (5, .B), (6, .M), (7, .F)].filterMap fun p => if k.getLsbD p.1 then some p.2 else none

/-- The S, G and E kinds of K. -/
def singleKinds (k : BitVec 8) : List Kind :=
  [(0, Kind.S), (1, .G), (2, .E)].filterMap fun p => if k.getLsbD p.1 then some p.2 else none

/-- The op words that a packet holds, in order, each with its kind and the clusters it acts on (R52). -/
def packetPlan (k c : BitVec 8) (t : Bool) : List (Kind × List Nat) :=
  let cl := clustersOf c
  (singleKinds k).map (fun x => (x, [0])) ++
  (clusterKinds k).flatMap fun x => if t then [(x, cl)] else cl.map fun n => (x, [n])

/-- The slots of a packet from its plan and its op words. -/
def planSlots (lits : List Word) : Nat → List (Kind × List Nat) → List Word → List Slot
  | i, (k, cl) :: ps, w :: ws => cl.map (fun n => ⟨i, k, n, w, lits⟩) ++ planSlots lits (i + 1) ps ws
  | _, _, _ => []

/-- Two slots name the same kind and cluster (R53). -/
def dupSlot : List Slot → Bool
  | [] => false
  | x :: l => l.any (fun y => x.kind = y.kind && x.cluster = y.cluster) || dupSlot l

/-- The packets of a bundle from the words left in its line: packets that may still come, the header read last, the op
words and words counted so far, the slots so far (R51 to R54, R68). Where one header meets several conditions of R68, the first of
the codes 00, 06, 01, 02, 03, 05, 04 is reported (notes/assumptions/53). -/
def parsePackets : Nat → Word → Nat → Nat → List Slot → List Word → Fetched
  | 0, h0, _, _, _, _ => .bad 0x04 h0
  | _ + 1, h0, _, _, _, [] => .bad 0x03 h0
  | fuel + 1, _, idx, n, acc, h :: ws =>
    let k := h.extractLsb' 0 8
    let c := h.extractLsb' 8 8
    let plan := packetPlan k c (h.getLsbD 16)
    let L := (h.extractLsb' 18 3).toNat
    let size := plan.length + L
    if !(h.extractLsb' 21 11 = 0#11) then .bad 0x00 h
    else if k = 0#8 then .bad 0x06 h
    else if !(clusterKinds k).isEmpty && c = 0#8 then .bad 0x01 h
    else if !(c = 0#8) && (clusterKinds k).isEmpty then .bad 0x02 h
    else if ws.length < size then .bad 0x03 h
    else
      let slots := acc ++ planSlots ((ws.drop plan.length).take L) idx plan ws
      if dupSlot slots then .bad 0x05 h
      else if h.getLsbD 17 then .bundle (n + 1 + size) slots
      else parsePackets fuel h (idx + plan.length) (n + 1 + size) slots (ws.drop size)

/-- The bundle at the head of the words that are left in a 64-byte line (R53, R54). -/
def decodeBundle (ws : List Word) : Fetched :=
  match ws with
  | [] => .bad 0x03 0#32
  | h :: _ =>
    if h = 0#32 then .padding
    else if h = 0x00020000#32 then .empty
    else parsePackets 4 h 0 0 [] ws

/-! The encoder. -/

/-- The VR word of an opcode and its fields (R55). -/
def VR.word (o : BitVec 7) (f : VR) : Word :=
  BitVec.cast (by decide : 7 + 6 + 1 + 6 + 6 + 1 + 1 + 2 + 2 = 32)
    (o ++ f.d ++ BitVec.ofBool f.w ++ f.a ++ f.b ++ BitVec.ofBool f.h ++ BitVec.ofBool f.k ++ f.t ++ f.m)
/-- The SR word of an opcode and its fields (R59). -/
def SR.word (o : BitVec 7) (f : SR) : Word :=
  BitVec.cast (by decide : 7 + 5 + 5 + 5 + 3 + 7 = 32)
    (o ++ f.d ++ f.a ++ f.b ++ f.p ++ f.f)
/-- The SI word of an opcode and its fields (R59). -/
def SI.word (o : BitVec 7) (f : SI) : Word :=
  BitVec.cast (by decide : 7 + 5 + 5 + 15 = 32)
    (o ++ f.d ++ f.a ++ f.i)
/-- The SB word of an opcode and its fields (R59). -/
def SB.word (o : BitVec 7) (f : SB) : Word :=
  BitVec.cast (by decide : 7 + 3 + 1 + 21 = 32)
    (o ++ f.p ++ BitVec.ofBool f.n ++ f.o)
/-- The G word of an opcode and its fields (R60). -/
def GF.word (o : BitVec 7) (f : GF) : Word :=
  BitVec.cast (by decide : 7 + 5 + 5 + 3 + 2 + 10 = 32)
    (o ++ f.d ++ f.b ++ f.s ++ f.r ++ f.o)
/-- The E word of an opcode and its fields (R61). -/
def EF.word (o : BitVec 7) (f : EF) : Word :=
  BitVec.cast (by decide : 7 + 5 + 5 + 5 + 10 = 32)
    (o ++ f.a ++ f.b ++ f.c ++ f.i)

/-- The op word of an instruction (R55, R59 to R67); none for the device steps, which have no encoding. -/
def encodeOp : Instr → Option Word
  | .nop f => some (SR.word 0x00#7 f)
  | .add f => some (SR.word 0x01#7 f)
  | .sub f => some (SR.word 0x02#7 f)
  | .mul f => some (SR.word 0x03#7 f)
  | .mulh f => some (SR.word 0x04#7 f)
  | .mulhu f => some (SR.word 0x05#7 f)
  | .and f => some (SR.word 0x06#7 f)
  | .or f => some (SR.word 0x07#7 f)
  | .xor f => some (SR.word 0x08#7 f)
  | .andn f => some (SR.word 0x09#7 f)
  | .shl f => some (SR.word 0x0A#7 f)
  | .shr f => some (SR.word 0x0B#7 f)
  | .sar f => some (SR.word 0x0C#7 f)
  | .min f => some (SR.word 0x0D#7 f)
  | .max f => some (SR.word 0x0E#7 f)
  | .minu f => some (SR.word 0x0F#7 f)
  | .maxu f => some (SR.word 0x10#7 f)
  | .clz f => some (SR.word 0x11#7 f)
  | .popc f => some (SR.word 0x12#7 f)
  | .sext f => some (SR.word 0x13#7 f)
  | .bfx f => some (SR.word 0x14#7 f)
  | .bfi f => some (SR.word 0x15#7 f)
  | .addi f => some (SI.word 0x18#7 f)
  | .andi f => some (SI.word 0x19#7 f)
  | .ori f => some (SI.word 0x1A#7 f)
  | .xori f => some (SI.word 0x1B#7 f)
  | .shli f => some (SI.word 0x1C#7 f)
  | .shri f => some (SI.word 0x1D#7 f)
  | .sari f => some (SI.word 0x1E#7 f)
  | .li f => some (SI.word 0x1F#7 f)
  | .cmp f => some (SR.word 0x20#7 f)
  | .cmpi f => some (SI.word 0x21#7 f)
  | .sel f => some (SR.word 0x22#7 f)
  | .plog f => some (SR.word 0x23#7 f)
  | .br f => some (SB.word 0x30#7 f)
  | .jmp f => some (SB.word 0x31#7 f)
  | .call f => some (SB.word 0x32#7 f)
  | .jr f => some (SR.word 0x33#7 f)
  | .ret f => some (SR.word 0x34#7 f)
  | .loop f => some (SR.word 0x35#7 f)
  | .loopi f => some (SI.word 0x36#7 f)
  | .lbrk f => some (SB.word 0x37#7 f)
  | .yield f => some (SI.word 0x38#7 f)
  | .park f => some (SR.word 0x39#7 f)
  | .halt f => some (SR.word 0x3A#7 f)
  | .wait f => some (SR.word 0x3B#7 f)
  | .iwin f => some (SI.word 0x3C#7 f)
  | .ifence f => some (SR.word 0x3D#7 f)
  | .swapb f => some (SB.word 0x3E#7 f)
  | .spawn f => some (SR.word 0x3F#7 f)
  | .csrr f => some (SI.word 0x40#7 f)
  | .csrw f => some (SI.word 0x41#7 f)
  | .gtc f => some (SR.word 0x42#7 f)
  | .trap f => some (SI.word 0x50#7 f)
  | .tret f => some (SR.word 0x51#7 f)
  | .ctxsv f => some (SR.word 0x52#7 f)
  | .ctxld f => some (SR.word 0x53#7 f)
  | .tlbinv f => some (SR.word 0x54#7 f)
  | .tlbinvAll f => some (SR.word 0x54#7 f)
  | .tlbsync f => some (SR.word 0x55#7 f)
  | .ldg f => some (GF.word 0x00#7 f)
  | .stg f => some (GF.word 0x01#7 f)
  | .amo f => some (GF.word 0x02#7 f)
  | .cas f => some (GF.word 0x03#7 f)
  | .fence f => some (GF.word 0x04#7 f)
  | .drain f => some (GF.word 0x05#7 f)
  | .drainE f => some (GF.word 0x05#7 f)
  | .mon f => some (GF.word 0x06#7 f)
  | .mwait f => some (GF.word 0x07#7 f)
  | .barInit f => some (GF.word 0x08#7 f)
  | .barArrive f => some (GF.word 0x09#7 f)
  | .barExpect f => some (GF.word 0x0A#7 f)
  | .barWait f => some (GF.word 0x0B#7 f)
  | .cmpl f => some (GF.word 0x0C#7 f)
  | .pfg f => some (GF.word 0x0D#7 f)
  | .amof f => some (GF.word 0x0E#7 f)
  | .cqLvl f => some (EF.word 0x00#7 f)
  | .cqGo f => some (EF.word 0x01#7 f)
  | .cqCfg f => some (EF.word 0x02#7 f)
  | .cqBar f => some (EF.word 0x03#7 f)
  | .mxCall f => some (EF.word 0x08#7 f)
  | .mxSetp f => some (EF.word 0x09#7 f)
  | .mxGetp f => some (EF.word 0x09#7 f)
  | .mxLd f => some (EF.word 0x0A#7 f)
  | .mxDrain f => some (EF.word 0x0B#7 f)
  | .mxZero f => some (EF.word 0x0C#7 f)
  | .kvAttn f => some (EF.word 0x10#7 f)
  | .kvApp f => some (EF.word 0x11#7 f)
  | .kvFork f => some (EF.word 0x12#7 f)
  | .kvFree f => some (EF.word 0x13#7 f)
  | .kvSeal f => some (EF.word 0x14#7 f)
  | .kvUndo f => some (EF.word 0x15#7 f)
  | .kvTrim f => some (EF.word 0x16#7 f)
  | .kvClass f => some (EF.word 0x17#7 f)
  | .kvClassAll f => some (EF.word 0x17#7 f)
  | .kvDemote f => some (EF.word 0x18#7 f)
  | .kvPromote f => some (EF.word 0x19#7 f)
  | .kvPin f => some (EF.word 0x1A#7 f)
  | .kvUnpin f => some (EF.word 0x1B#7 f)
  | .kvLend f => some (EF.word 0x1C#7 f)
  | .kvRet f => some (EF.word 0x1D#7 f)
  | .kvLen f => some (EF.word 0x1E#7 f)
  | .kvLenT f => some (EF.word 0x1E#7 f)
  | .kvPos f => some (EF.word 0x1F#7 f)
  | .kvMerge f => some (EF.word 0x20#7 f)
  | .kvGrant f => some (EF.word 0x21#7 f)
  | .tlDef f => some (EF.word 0x28#7 f)
  | .tlDefR f => some (EF.word 0x28#7 f)
  | .tlGet f => some (EF.word 0x29#7 f)
  | .tlPut f => some (EF.word 0x2A#7 f)
  | .tlDrop f => some (EF.word 0x2B#7 f)
  | .tlDropF f => some (EF.word 0x2B#7 f)
  | .tlPin f => some (EF.word 0x2C#7 f)
  | .tlUnpin f => some (EF.word 0x2D#7 f)
  | .tlDone f => some (EF.word 0x2E#7 f)
  | .ruTab f => some (EF.word 0x30#7 f)
  | .ruCfg f => some (EF.word 0x31#7 f)
  | .ruStep f => some (EF.word 0x32#7 f)
  | .ruGen f => some (EF.word 0x33#7 f)
  | .ruGenW f => some (EF.word 0x33#7 f)
  | .msgSend f => some (EF.word 0x38#7 f)
  | .msgPost f => some (EF.word 0x39#7 f)
  | .msgCancel f => some (EF.word 0x3A#7 f)
  | .msgProbe f => some (EF.word 0x3B#7 f)
  | .msgHnd f => some (EF.word 0x3C#7 f)
  | .sctArm f => some (EF.word 0x40#7 f)
  | .sctDisarm f => some (EF.word 0x40#7 f)
  | .sctTouch f => some (EF.word 0x41#7 f)
  | .sctDone f => some (EF.word 0x41#7 f)
  | .sctEvict f => some (EF.word 0x42#7 f)
  | .sctRead f => some (EF.word 0x43#7 f)
  | .vmov f => some (VR.word 0x00#7 f)
  | .vadd f => some (VR.word 0x01#7 f)
  | .vsub f => some (VR.word 0x02#7 f)
  | .vaddsat f => some (VR.word 0x03#7 f)
  | .vsubsat f => some (VR.word 0x04#7 f)
  | .vmul f => some (VR.word 0x05#7 f)
  | .vmulh f => some (VR.word 0x06#7 f)
  | .vmac f => some (VR.word 0x07#7 f)
  | .vdot4 f => some (VR.word 0x08#7 f)
  | .vdot2 f => some (VR.word 0x09#7 f)
  | .vabs f => some (VR.word 0x0A#7 f)
  | .vneg f => some (VR.word 0x0B#7 f)
  | .vmin f => some (VR.word 0x0C#7 f)
  | .vmax f => some (VR.word 0x0D#7 f)
  | .vminu f => some (VR.word 0x0E#7 f)
  | .vmaxu f => some (VR.word 0x0F#7 f)
  | .vand f => some (VR.word 0x10#7 f)
  | .vor f => some (VR.word 0x11#7 f)
  | .vxor f => some (VR.word 0x12#7 f)
  | .vandn f => some (VR.word 0x13#7 f)
  | .vshl f => some (VR.word 0x14#7 f)
  | .vshr f => some (VR.word 0x15#7 f)
  | .vsar f => some (VR.word 0x16#7 f)
  | .vrshr f => some (VR.word 0x17#7 f)
  | .vclz f => some (VR.word 0x18#7 f)
  | .vpopc f => some (VR.word 0x19#7 f)
  | .vcmp f => some (VR.word 0x1A#7 f)
  | .vsel f => some (VR.word 0x1B#7 f)
  | .vbcast f => some (VR.word 0x1C#7 f)
  | .vlane f => some (VR.word 0x1D#7 f)
  | .vpack f => some (VR.word 0x1E#7 f)
  | .vunpk f => some (VR.word 0x1F#7 f)
  | .vmskl f => some (VR.word 0x20#7 f)
  | .vext f => some (VR.word 0x21#7 f)
  | .vins f => some (VR.word 0x22#7 f)
  | .vfadd f => some (VR.word 0x40#7 f)
  | .vfsub f => some (VR.word 0x41#7 f)
  | .vfmul f => some (VR.word 0x42#7 f)
  | .vfma f => some (VR.word 0x43#7 f)
  | .vfms f => some (VR.word 0x44#7 f)
  | .vfmin f => some (VR.word 0x45#7 f)
  | .vfmax f => some (VR.word 0x46#7 f)
  | .vfabs f => some (VR.word 0x47#7 f)
  | .vfneg f => some (VR.word 0x48#7 f)
  | .vfcmp f => some (VR.word 0x49#7 f)
  | .vfcls f => some (VR.word 0x4A#7 f)
  | .vfscl f => some (VR.word 0x4B#7 f)
  | .vfrnd f => some (VR.word 0x4C#7 f)
  | .vcvt f => some (VR.word 0x4D#7 f)
  | .vfcvti f => some (VR.word 0x4E#7 f)
  | .vicvtf f => some (VR.word 0x4F#7 f)
  | .vqmx f => some (VR.word 0x50#7 f)
  | .vdqmx f => some (VR.word 0x51#7 f)
  | .vrsum f => some (VR.word 0x52#7 f)
  | .vrmax f => some (VR.word 0x53#7 f)
  | .vrmin f => some (VR.word 0x54#7 f)
  | .exp2 f => some (VR.word 0x00#7 f)
  | .log2 f => some (VR.word 0x01#7 f)
  | .rcp f => some (VR.word 0x02#7 f)
  | .rsq f => some (VR.word 0x03#7 f)
  | .sqrt f => some (VR.word 0x04#7 f)
  | .sin f => some (VR.word 0x05#7 f)
  | .cos f => some (VR.word 0x06#7 f)
  | .tanh f => some (VR.word 0x07#7 f)
  | .sigm f => some (VR.word 0x08#7 f)
  | .vld f => some (VR.word 0x00#7 f)
  | .vst f => some (VR.word 0x01#7 f)
  | .vlds f => some (VR.word 0x02#7 f)
  | .vsts f => some (VR.word 0x03#7 f)
  | .vldx f => some (VR.word 0x04#7 f)
  | .vstx f => some (VR.word 0x05#7 f)
  | .vldb f => some (VR.word 0x06#7 f)
  | .vldt f => some (VR.word 0x07#7 f)
  | .fefill f => some (VR.word 0x08#7 f)
  | .feempty f => some (VR.word 0x09#7 f)
  | .fetest f => some (VR.word 0x0A#7 f)
  | .sbind f => some (VR.word 0x0B#7 f)
  | .sfmt f => some (VR.word 0x0C#7 f)
  | .sadv f => some (VR.word 0x0D#7 f)
  | .efence f => some (VR.word 0x0E#7 f)
  | .efenceRd f => some (VR.word 0x0E#7 f)
  | .xcp f => some (VR.word 0x00#7 f)
  | .xbc f => some (VR.word 0x01#7 f)
  | .xrot f => some (VR.word 0x02#7 f)
  | .xshf f => some (VR.word 0x03#7 f)
  | .trpi f => some (VR.word 0x04#7 f)
  | .trpo f => some (VR.word 0x05#7 f)
  | .xred f => some (VR.word 0x06#7 f)
  | _ => none

/-- The kind of an instruction; `A` stands for both vector units; none for the device steps. -/
def Instr.kind? : Instr → Option Kind
  | .nop _ | .add _ | .sub _ | .mul _ | .mulh _ | .mulhu _ | .and _ | .or _
  | .xor _ | .andn _ | .shl _ | .shr _ | .sar _ | .min _ | .max _ | .minu _
  | .maxu _ | .clz _ | .popc _ | .sext _ | .bfx _ | .bfi _ | .addi _ | .andi _
  | .ori _ | .xori _ | .shli _ | .shri _ | .sari _ | .li _ | .cmp _ | .cmpi _
  | .sel _ | .plog _ | .br _ | .jmp _ | .call _ | .jr _ | .ret _ | .loop _
  | .loopi _ | .lbrk _ | .yield _ | .park _ | .halt _ | .wait _ | .iwin _ | .ifence _
  | .swapb _ | .spawn _ | .csrr _ | .csrw _ | .gtc _ | .trap _ | .tret _ | .ctxsv _
  | .ctxld _ | .tlbinv _ | .tlbinvAll _ | .tlbsync _ => some .S
  | .ldg _ | .stg _ | .amo _ | .cas _ | .fence _ | .drain _ | .drainE _ | .mon _
  | .mwait _ | .barInit _ | .barArrive _ | .barExpect _ | .barWait _ | .cmpl _ | .pfg _ | .amof _ => some .G
  | .cqLvl _ | .cqGo _ | .cqCfg _ | .cqBar _ | .mxCall _ | .mxSetp _ | .mxGetp _ | .mxLd _
  | .mxDrain _ | .mxZero _ | .kvAttn _ | .kvApp _ | .kvFork _ | .kvFree _ | .kvSeal _ | .kvUndo _
  | .kvTrim _ | .kvClass _ | .kvClassAll _ | .kvDemote _ | .kvPromote _ | .kvPin _ | .kvUnpin _ | .kvLend _
  | .kvRet _ | .kvLen _ | .kvLenT _ | .kvPos _ | .kvMerge _ | .kvGrant _ | .tlDef _ | .tlDefR _
  | .tlGet _ | .tlPut _ | .tlDrop _ | .tlDropF _ | .tlPin _ | .tlUnpin _ | .tlDone _ | .ruTab _
  | .ruCfg _ | .ruStep _ | .ruGen _ | .ruGenW _ | .msgSend _ | .msgPost _ | .msgCancel _ | .msgProbe _
  | .msgHnd _ | .sctArm _ | .sctDisarm _ | .sctTouch _ | .sctDone _ | .sctEvict _ | .sctRead _ => some .E
  | .vmov _ | .vadd _ | .vsub _ | .vaddsat _ | .vsubsat _ | .vmul _ | .vmulh _ | .vmac _
  | .vdot4 _ | .vdot2 _ | .vabs _ | .vneg _ | .vmin _ | .vmax _ | .vminu _ | .vmaxu _
  | .vand _ | .vor _ | .vxor _ | .vandn _ | .vshl _ | .vshr _ | .vsar _ | .vrshr _
  | .vclz _ | .vpopc _ | .vcmp _ | .vsel _ | .vbcast _ | .vlane _ | .vpack _ | .vunpk _
  | .vmskl _ | .vext _ | .vins _ | .vfadd _ | .vfsub _ | .vfmul _ | .vfma _ | .vfms _
  | .vfmin _ | .vfmax _ | .vfabs _ | .vfneg _ | .vfcmp _ | .vfcls _ | .vfscl _ | .vfrnd _
  | .vcvt _ | .vfcvti _ | .vicvtf _ | .vqmx _ | .vdqmx _ | .vrsum _ | .vrmax _ | .vrmin _ => some .A
  | .vld _ | .vst _ | .vlds _ | .vsts _ | .vldx _ | .vstx _ | .vldb _ | .vldt _
  | .fefill _ | .feempty _ | .fetest _ | .sbind _ | .sfmt _ | .sadv _ | .efence _ | .efenceRd _ => some .M
  | .exp2 _ | .log2 _ | .rcp _ | .rsq _ | .sqrt _ | .sin _ | .cos _ | .tanh _
  | .sigm _ => some .F
  | .xcp _ | .xbc _ | .xrot _ | .xshf _ | .trpi _ | .trpo _ | .xred _ => some .X
  | _ => none

/-- The pairs that share an opcode are told apart by one bit or value of a field; every other instruction is free. -/
def variantOk : Instr → Bool
  | .tlbinvAll f => decide (f.f = 1#7)
  | .tlbinv f => !decide (f.f = 1#7)
  | .drainE f => decide (f.o.getLsbD 0 = true)
  | .drain f => !decide (f.o.getLsbD 0 = true)
  | .mxGetp f => decide (f.i.getLsbD 3 = true)
  | .mxSetp f => !decide (f.i.getLsbD 3 = true)
  | .kvClassAll f => decide (f.i.getLsbD 0 = true)
  | .kvClass f => !decide (f.i.getLsbD 0 = true)
  | .kvLenT f => decide (f.i.getLsbD 0 = true)
  | .kvLen f => !decide (f.i.getLsbD 0 = true)
  | .tlDefR f => decide (f.i.getLsbD 0 = true)
  | .tlDef f => !decide (f.i.getLsbD 0 = true)
  | .tlDropF f => decide (f.i.getLsbD 0 = true)
  | .tlDrop f => !decide (f.i.getLsbD 0 = true)
  | .ruGenW f => decide (f.i.getLsbD 0 = true)
  | .ruGen f => !decide (f.i.getLsbD 0 = true)
  | .sctDisarm f => decide (f.i.getLsbD 0 = true)
  | .sctArm f => !decide (f.i.getLsbD 0 = true)
  | .sctDone f => decide (f.i.getLsbD 0 = true)
  | .sctTouch f => !decide (f.i.getLsbD 0 = true)
  | .efenceRd f => decide (f.t = 1#2)
  | .efence f => !decide (f.t = 1#2)
  | _ => true

/-- The header of a bundle of one op word: the kind, cluster 0 for a cluster kind, Z = 1 (R51). -/
def headerFor (k : Kind) : Word :=
  0x00020000#32 ||| (BitVec.ofNat 32 (2 ^ k.num)) ||| (if k.num < 3 then 0#32 else 0x100#32)

/-- The words of an instruction as a bundle of its own: a header and its op word (R51, R52). -/
def encode (i : Instr) : List Word :=
  match encodeOp i, i.kind? with
  | some w, some k => [headerFor k, w]
  | _, _ => []

/-- Is the word a legal op word of the kind, in a packet without literals? -/
def legalAs (w : Word) (k : Kind) : Bool :=
  match decodeOp k w with
  | some i => (operandFault 0 2 i).isNone
  | none => false

/-- The kind under which a bare op word is read: the first in which it is legal, else the first whose opcode map has
it. A Larwen op word does not carry its kind (R51): the header does. -/
def tableKind (w : Word) : Option Kind :=
  match [Kind.S, .G, .E, .A, .M, .F, .X].find? (legalAs w) with
  | some k => some k
  | none => [Kind.S, .G, .E, .A, .M, .F, .X].find? fun k => (decodeOp k w).isSome

/-- The instruction the decoder reads from a bare op word (see `tableKind`): the header for its kind is laid before
it, the two words are decoded as a bundle, and its one slot as an op word. -/
def decodeTableWord (nbits w : Nat) : Option Instr :=
  if nbits = 32 then
    let x := BitVec.ofNat 32 w
    match tableKind x with
    | none => none
    | some k =>
      match decodeBundle [headerFor k, x] with
      | .bundle _ [s] => decodeOp s.kind s.word
      | _ => none
  else none

end Sys2Proof
end

