-- ==== Sys2Proof/Machine/Map.lean ====
section
/-! DEFINITION. Sparse maps: lists of key and value pairs in one canonical form (keys strictly rising, no entry equal to
the value an unlisted key reads as), so that equal contents are equal data. Registers, memories and tables use them. -/

namespace Sys2Proof.Machine

/-- The value at a key; `d` is what an unlisted key reads as. -/
def Map.get {α : Type} (d : α) : List (Nat × α) → Nat → α
  | [], _ => d
  | (j, v) :: m, k => if k = j then v else Map.get d m k

/-- The entries of other keys. -/
def Map.without {α : Type} (m : List (Nat × α)) (k : Nat) : List (Nat × α) := m.filter fun x => x.1 ≠ k
/-- Put an entry before the first one of a higher key. -/
def Map.put {α : Type} : List (Nat × α) → Nat → α → List (Nat × α)
  | [], k, v => [(k, v)]
  | (j, w) :: m, k, v => if k < j then (k, v) :: (j, w) :: m else (j, w) :: Map.put m k v
/-- Write a key: the entry is put at its place, or taken out when the value is the one an unlisted key reads as. -/
def Map.set {α : Type} [DecidableEq α] (d : α) (m : List (Nat × α)) (k : Nat) (v : α) : List (Nat × α) :=
  if v = d then Map.without m k else Map.put (Map.without m k) k v

/-- Every key is at least `lo`, the keys rise strictly, and no entry holds the value of an unlisted key. -/
def Map.wfFrom {α : Type} [DecidableEq α] (d : α) : Nat → List (Nat × α) → Bool
  | _, [] => true
  | lo, (j, v) :: m => decide (lo ≤ j) && !decide (v = d) && Map.wfFrom d (j + 1) m

/-- The canonical form of a sparse map. -/
def Map.wf {α : Type} [DecidableEq α] (d : α) (m : List (Nat × α)) : Bool := Map.wfFrom d 0 m

/-- The canonical form of a memory of bytes: addresses strictly rising, no zero listed (an unlisted byte reads zero, log 4). -/
def Memory.wf (m : List Host.Cell) : Bool := Map.wf 0 m

/-- Distinct numbers of a list. -/
def distinct : List Nat → List Nat
  | [] => []
  | x :: l => if l.contains x then distinct l else x :: distinct l

/-- Bytes read upward from an address. -/
def Map.bytes (m : List (Nat × Byte)) (a : Nat) : Nat → List Byte
  | 0 => []
  | n + 1 => Map.get 0 m a :: Map.bytes m (a + 1) n

/-- Bytes written upward from an address. -/
def Map.setBytes : List (Nat × Byte) → Nat → List Byte → List (Nat × Byte)
  | m, _, [] => m
  | m, a, b :: bs => Map.setBytes (Map.set 0 m a b) (a + 1) bs

/-- The number that bytes in ascending addresses hold (little-endian, R5). -/
def leNat : List Byte → Nat
  | [] => 0
  | b :: bs => b.toNat + 256 * leNat bs

/-- The `n` bytes of a number, lowest first (R5). -/
def natBytes : Nat → Nat → List Byte
  | 0, _ => []
  | n + 1, v => BitVec.ofNat 8 v :: natBytes n (v / 256)

/-- A dword as two lanes: lane 0 holds bits [31:0]. -/
def lanesOfDword (v : Dword) : Lanes :=
  Lanes.of fun i => if i = 0 then v.extractLsb' 0 32 else if i = 1 then v.extractLsb' 32 32 else 0#32

/-- The dword in lanes 0 and 1. -/
def dwordOfLanes (l : Lanes) : Dword := (l.at 1) ++ (l.at 0)

/-- Bits [lo + n − 1 : lo] of a dword as a number. -/
def bits (v : Dword) (lo n : Nat) : Nat := (v.extractLsb' lo n).toNat

end Sys2Proof.Machine
end

