-- ==== Sys2Proof/Machine/State.lean ====
section
/-! DEFINITION. The state of the machine as plain data, and the state after reset (25 R447). The model holds one core of
the package with everything around it that its programs can reach (log 2). -/

namespace Sys2Proof.Machine

/-- Reasons for which the model itself stops. The specification turns every fault of a program into a trap, a stopped partition
or an event record, and all of these are next states. -/
inductive Fault where
  /-- Raised by nobody: it stands for a step the machine cannot take. Safe. -/
  | noStep
  deriving DecidableEq, Repr

/-- Reasons for which an instruction has no meaning in the model. -/
inductive Refusal where
  /-- Raised by the dispatcher for an instruction the model gives no meaning yet. Safe. -/
  | notModelled (mnemonic : String)
  deriving DecidableEq, Repr

/-- A code address: 56 bits (04 R85, R96). -/
abbrev Addr := BitVec 56

/-- An exposed-latency result in flight, or an entry of the replay buffer (03 R71, 18 R379): the bundle number at which it
lands, the unit (0 S, 1 A, 2 B, 3 M, 4 F, 5 X, 6 lane mask), the cluster, the destination (a predicate of unit 0 is 32 + n; log
13), what it writes (0 register, 1 latch only or a transpose row, 2 both, 3 stream push), the lanes it writes, and the value. -/
structure Flight where
  due : Nat
  unit : Nat
  cluster : Nat
  dest : Nat
  what : Nat
  lanes : BitVec 16
  val : Lanes
  deriving DecidableEq, Repr

/-- A captured operand and the kind of the op that captured it (03 R58). -/
structure Hold where
  kind : Kind
  val : Lanes
  deriving DecidableEq, Repr

/-- One level of the loop unit (04 R89). -/
structure Level where
  count : Word
  start : Addr
  fin : Addr
  p : Bool
  deriving DecidableEq, Repr

/-- One staged level of the copy sequencer (11 R248). -/
structure CopyLevel where
  count : Word
  ss : Dword
  ds : Dword
  deriving DecidableEq, Repr

/-- The staging state of the copy sequencer (11 R248): six levels, the configuration word, and the bound barrier with its
scratchpad flag. -/
structure Staging where
  levels : List (Nat × CopyLevel)
  cfg : Dword
  bar : Option (Bool × Dword)
  deriving DecidableEq, Repr

/-- A pending engine fault (11 R247): the address or identifier bits, the underlying cause, and how many further faults were
counted. -/
structure EngineFault where
  info : Dword
  cause : Byte
  more : Nat
  deriving DecidableEq, Repr

/-- Whether a context holds a strand and what it waits for (05 R110 to R112, 10 R240, 18 R378, R381). `reserved` is the context
of a parked member of a party; `coded` is a strand that resumes from mwait with a code for a register. -/
inductive CtxStatus where
  | empty
  | ready
  | running
  | frozen
  | waiting (t : Dword)
  | sleeping (t : Dword) (dest : Nat)
  | reserved
  deriving DecidableEq, Repr

/-- The results in flight, numbering, latches and holds that a trap puts aside until tret (03 R76, 18 R374). -/
structure SavedFlow where
  bno : Nat
  flight : List Flight
  latch : List (Nat × Lanes)
  latchOk : BitVec 32
  holds : List (Nat × Option Hold)
  deriving DecidableEq, Repr

/-- A granule a vector store reached that the engines may not see yet (09 R196): the bundles left until they do, the address of
the granule, and its bytes before the store. -/
structure Unseen where
  left : Nat
  addr : Nat
  old : List Byte
  deriving DecidableEq, Repr

/-- One hardware context with the strand that occupies it (01 R20). Vector registers have key 32 c + n, lane masks and latches 4
c + n, holds 2 c + side. -/
structure Ctx where
  status : CtxStatus
  s : List (Nat × Dword)
  p : BitVec 8
  v : List (Nat × Lanes)
  l : List (Nat × BitVec 16)
  latch : List (Nat × Lanes)
  latchOk : BitVec 32
  holds : List (Nat × Option Hold)
  vstat : List (Nat × Word)
  m : List (Nat × Dword)
  levels : List (Nat × Level)
  depth : Nat
  sk : Bool
  rm : BitVec 2
  dtgt : Dword
  pend : Option Addr
  link : Option Nat
  tvec : Addr
  cause : Byte
  fmask : BitVec 16
  tpc : Addr
  tinfo : Dword
  tsave : List (Nat × Dword)
  h : Bool
  sp : Bool
  brec : Dword
  rtile : Dword
  pc : Addr
  bno : Nat
  flight : List Flight
  saved : Option SavedFlow
  out : List (Nat × Option Dword)
  ruCfg : Dword
  ruGen : BitVec 10
  ruD : Bool
  copy : Staging
  ef : Option EngineFault
  tbuf : List (Nat × Lanes)
  rank : Nat
  psize : Nat
  pos : Nat
  job : Nat
  pitch : Nat
  rc : Bool
  run : Nat
  bonus : Nat
  wasReady : Bool
  wasChosen : Bool
  party : Nat
  req : Option Nat
  waited : Nat
  wcode : Nat
  bankw : Nat
  unseen : List Unseen
  efNow : Bool
  evicted : Bool
  wlines : List Nat
  deriving DecidableEq, Repr

/-- A stream register (09 R198): its descriptor fields with base and sbase as physical lines, and whether sbind has bound it
since its pitch was created. -/
structure Stream where
  bound : Bool
  base : Nat
  k : Nat
  mfmt : Nat
  popf : Nat
  pushf : Nat
  sstr : Nat
  sbase : Nat
  head : Word
  tail : Word
  deriving DecidableEq, Repr

/-- A pitch of the core (05 R109, 09 R190): index, first line, lines, stream registers, strands that hold it. -/
structure Pitch where
  idx : Nat
  base : Nat
  lines : Nat
  qset : BitVec 16
  holders : Nat
  deriving DecidableEq, Repr

/-- An entry of the watch table (10 R231): the strand's record, a barrier or a line, the physical address (or scratchpad
address) watched, and whether it has fired. -/
structure Watch where
  strand : Dword
  barrier : Bool
  pad : Bool
  addr : Nat
  fired : Bool
  deriving DecidableEq, Repr

/-- An entry of the µTLB or of the die TLB (10 R216): virtual page base, log2 of the page size, the leaf. -/
structure TlbEntry where
  vbase : Nat
  size : Nat
  leaf : Dword
  deriving DecidableEq, Repr

/-- A page that a kv.attn has reached (14 R304, R310): its block, the frame id and the descriptors of frame and pool as the walk
read them, the bytes of its layer once they are staged (keys, values, and their scales in the same order), whether the page
waits for a transit to end, and when it was reached. -/
structure Page where
  block : Nat
  frame : Nat
  desc : List Byte
  bytes : Option (List Byte)
  transit : Bool
  since : Nat
  deriving DecidableEq, Repr

/-- The walk of a kv.attn (14 R306, R310, R311): lim, the next block, the flags N and F, blocks listed at an earlier stop and to
be fetched again, the deferred pages with the oldest first, and the page being folded with its next head and whether that head's
unit stands in the rings. -/
structure Attn where
  lim : Nat
  next : Nat
  nan : Bool
  absent : Bool
  again : List Nat
  listed : List Page
  cur : Option (Page × Nat × Bool)
  deriving DecidableEq, Repr

/-- An accepted engine command (11 R244): its number, context and record, pitch, kind of work, operands and request block, the
regions as physical scratchpad ranges (first byte, length), the releases made so far, whether it is to stop, whether its strand
has parked since, so that no register waits for its value (01 R30), its progress, the walk of a kv.attn, and granules whose
bytes it may read old or new (09 R196, R197). -/
structure Cmd where
  id : Nat
  ctx : Nat
  strand : Dword
  pitch : Nat
  op : Instr
  priv : Bool
  args : List Dword
  req : List Byte
  rd : Option (Nat × Nat)
  wr : Option (Nat × Nat)
  rdDone : Bool
  wrDone : Bool
  stop : Bool
  orphan : Bool
  st : List Nat
  att : Option Attn
  old : List (Nat × List Byte)
  deriving DecidableEq, Repr

/-- An accumulator bank (12 R263, R264): owner pitch, mode, status flags, and words by 128 row + column; in a binary64 pair bank
0 holds rows 0 to 63 and bank 1 the others, two words for each element. -/
structure Bank where
  owner : Nat
  mode : Nat
  flags : Nat
  el : List (Nat × Word)
  deriving DecidableEq, Repr

/-- The core's shared resources (01 R21). `pages` are the translations that commands have made, one for each page at its first
touch, with a mark on those a tlbinv has removed since (10 R217); `codeOld` are words of the instruction store as they were
before a copy that is not complete wrote them (04 R97); `zeroAfter` are banks, each with the number of a kv.attn that has
stopped behind other commands of the matrix queue, which become +0 once those have run (12 R270, 22 R426). -/
structure CoreSt where
  die : Nat
  num : Nat
  pad : List Host.Cell
  notFull : List (Nat × Bool)
  streams : List (Nat × Stream)
  pitches : List Pitch
  cmds : List Cmd
  nextId : Nat
  pages : List (Nat × TlbEntry × Bool)
  banks : List (Nat × Bank)
  micro : List (Nat × Dword)
  slots : List (Nat × Nat × Nat)
  rule : List Host.Cell
  watch : List Watch
  utlb : List TlbEntry
  istore : List (Nat × Word)
  codeOld : List (Nat × Nat × Word)
  zeroAfter : List (Nat × Nat)
  iwA : Option (BitVec 41)
  iwB : Option (BitVec 41)
  maxrun : Nat
  deadline : Nat
  slice : Nat
  wdog : Word
  left : Int
  last : Nat
  rres : Nat
  deriving DecidableEq, Repr

/-- An effect of a slot that a later bundle sees and this one does not: the bytes that the lanes of one store write, a line's
full bit, a held operand, a stream register (with the elements popped before it in the bundle), a control register, a code
window. -/
inductive Post where
  | store (l : List (Nat × List Byte))
  | line (n : Nat) (full : Bool)
  | hold (key : Nat) (h : Hold)
  | stream (q : Nat) (v : Stream) (popped : Nat)
  | csr (n : Nat) (v : Dword)
  | window (half : Bool) (base : BitVec 41)
  deriving DecidableEq, Repr

/-- A cause that a slot of the bundle meets: op-word number, order among the causes (03 R69), code, cluster, bit position or
further information, faulting lanes. -/
structure CauseRec where
  slot : Nat
  rank : Nat
  code : Nat
  cluster : Nat
  info : Dword
  deriving DecidableEq, Repr

/-- How a bundle gives up the issue path (05 R111 to R114, 10 R240); `stay` lands everything as a wait does and goes on, for an
mwait that returns at once. -/
inductive Suspend where
  | yield (run : Nat)
  | park (run : Nat)
  | wait (run : Nat) (t : Dword)
  | mwait (run : Nat) (t : Dword) (dest : Nat)
  | halt
  | stay
  deriving DecidableEq, Repr

/-- The bundle being issued (log 6): where it stands, the slot in execution, and what its slots have met and asked for so far;
`stops` are contexts whose long commands are told to stop even when the bundle waits (ctxsv, 18 R389). -/
structure Frame where
  addr : Addr
  seq : Addr
  words : Nat
  idx : Nat
  kind : Kind
  cluster : Nat
  word : Word
  lits : List Word
  causes : List CauseRec
  waits : List Nat
  flags : List (Nat × Nat)
  pops : List (Nat × Nat)
  pushes : List (Nat × Nat)
  lines : List Nat
  empties : List Nat
  posts : List Post
  transfer : Option Addr
  link : Option Nat
  skip : Option Addr
  opened : Option Level
  suspend : Option Suspend
  trap : Option (Nat × Dword)
  tret : Bool
  stops : List Nat
  deriving DecidableEq, Repr

/-- A work queue's hardware state (05 R121, R122): head and length counters, age bonus, and the number of remaps since it was
last mapped. -/
structure QueueSt where
  head : Nat
  len : Nat
  bonus : Nat
  idle : Nat
  deriving DecidableEq, Repr

/-- A party placed by the dispatcher, a spawn or a start (05 R109, R114): its number, the job, the members not yet halted, and
whether its end counts as a task of the job. -/
structure Party where
  id : Nat
  job : Nat
  left : Nat
  deriving DecidableEq, Repr

/-- An entry of the die's ready list (05 R115, 15 R326): the record, the privilege of the placing, whether it resumes a parked
strand, whether it may run on another die of the partition (17 R364), and the recipe tile with its depth for a recipe spawn. -/
structure ReadyEnt where
  addr : Dword
  sp : Bool
  resume : Bool
  far : Bool
  tile : Option (Nat × Nat)
  deriving DecidableEq, Repr

/-- The units of the core's die (05, 10 R216, 14 R303): `pwe` are the page-walk engines that carry a command of this core,
`pweLast` the core whose command was given last. `otherFree` counts the free contexts of the die's other cores, and `away` those
taken on each other die of the partition, whose 96 cores have 768 (01 R20, R27). -/
structure DieSt where
  tlb : List TlbEntry
  qslots : List (Nat × Nat)
  dslice : Nat
  dnext : Dword
  ready : List ReadyEnt
  held : List ReadyEnt
  otherFree : Nat
  away : List (Nat × Nat)
  pwe : List (Nat × Nat)
  pweLast : Nat
  deriving DecidableEq, Repr

/-- An LTL port (25 R443). -/
structure Ltl where
  state : Nat
  peer : Nat
  toff : Dword
  msgtx : Dword
  msgrx : Dword
  kvtx : Dword
  kvrx : Dword
  deriving DecidableEq, Repr

/-- An event-log record (18 R384) without its lost flag and count, which `Pkg.logLost` gives. -/
structure LogRec where
  gtc : Dword
  src : BitVec 16
  cause : Byte
  part : Nat
  info : Dword
  pc : Dword
  deriving DecidableEq, Repr

/-- What the core keeps of a strand that left its context (05 R110, R112, 11 R247, 15 R327, 18 R371, R389): its record,
privilege, recipe tile, party, a pending engine fault, whether an entry of its was evicted (10 R231), and the pushes in flight
of a saved context, whose room stays reserved (09 R201). -/
structure Parked where
  addr : Dword
  sp : Bool
  rtile : Dword
  party : Nat
  ef : Option EngineFault
  evicted : Bool
  pushes : List Flight
  deriving DecidableEq, Repr

/-- A build of a tile (15 R326): the tile, the record of the recipe strand, the sources it has pinned, and whether its tl.done
has been accepted. -/
structure Build where
  tile : Nat
  rec_ : Dword
  srcs : List Nat
  done : Bool
  deriving DecidableEq, Repr

/-- A posted receive (17 R359, R367): its id, the strand and privilege that posted it, the fields of its request block, the
physical base and length of the pitch, the barrier of action 2, and the scratchpad lines of its destination (first, count). -/
structure Recv where
  id : Nat
  strand : Dword
  priv : Bool
  ep : Nat
  src : Nat
  smask : Nat
  tag : Word
  tmask : Word
  glob : Bool
  fmt : Nat
  act : Nat
  hidx : Nat
  maxlen : Nat
  dest : Dword
  cnt0 : Nat
  cnt1 : Nat
  str1 : Dword
  rec_ : Dword
  bar : Dword
  base : Nat
  plen : Nat
  lines : Nat × Nat
  deriving DecidableEq, Repr

/-- A matched receive whose payload is still to land (17 R361 to R363): its number, the receive, the message, and whether the
payload is here (a rendezvous waits for it). -/
structure Landing where
  id : Nat
  recv : Recv
  msg : Msg
  here : Bool
  deriving DecidableEq, Repr

/-- A handler start held for a running strand (17 R364): the entry, the record and handler PC, the completion record, the tag
and the destination. -/
structure Start where
  entry : Nat
  rec_ : Dword
  pc : Dword
  word : Dword
  tag : Dword
  dest : Dword
  deriving DecidableEq, Repr

/-- The partition the core belongs to (01 R26, 25 R445): what firmware set, and the state of its units. `swapping` says that a
swap out has begun, `swapped` that it has ended (18 R382). `sctBusy` lists the copies of the stream-context timer logic in
progress (entry, slot, start) and `sctWait` the entries that wait for a slot with the time of the next try (05 R126, R127).
`returns` are the kv-return messages held for a lender that no route reaches (lender, its frame, the pool; 13 R299). `tiles` are
the tiles that hold bytes in the tile area or the overflow range, the one used least recently first, and `builds` the builds in
progress (15 R324, R326). `posted` are the receives posted, oldest first, `unexp` the unexpected queue, `landings` the matched
receives still to land, `matched` the ids of receives that have matched with their strands, and `starts` the handler starts held
(17 R359 to R364). -/
structure Part where
  present : Bool
  swapping : Bool
  swapped : Bool
  stopped : Bool
  setup : PartSetup
  queues : List (Nat × QueueSt)
  handlers : List (Nat × Dword × Dword)
  sctFree : List Nat
  sctBusy : List (Nat × Nat × Nat)
  sctWait : List (Nat × Nat)
  parties : List Party
  nextParty : Nat
  nextStrand : Nat
  parked : List Parked
  loaded : Bool
  returns : List (Nat × Nat × Nat)
  tiles : List Nat
  builds : List Build
  posted : List Recv
  unexp : List Msg
  landings : List Landing
  nextRecv : Nat
  matched : List (Nat × Dword)
  starts : List Start
  deriving DecidableEq, Repr

/-- A partition of other dies (01 R25, R26, 25 R442, R445): what firmware set, the lengths of its queues, its pool counters,
whether a fatal cause has stopped it, and the messages that have come for its endpoints. What its own cores do is not modelled
(log 2). -/
structure Other where
  setup : PartSetup
  queues : List (Nat × QueueSt)
  counters : List (Nat × Dword)
  stopped : Bool
  arrived : List Msg
  deriving DecidableEq, Repr

/-- The dump (18 R386): the first fatal event with its partition and dies, the images of the core's contexts in order (empty for
an empty one), scratchpad and full/empty bits, engine state (commands, page-walk engines, dispatcher slots, the builds and
resident tiles of the directory), the bytes of the stream-context table and of the pools, the heads of their free lists, and the
last records of the event log (log 52). -/
structure Dump where
  first : LogRec
  gtc : Dword
  dies : BitVec 4
  images : List (List (Nat × List Byte))
  pad : List Host.Cell
  notFull : List (Nat × Bool)
  cmds : List Cmd
  pwe : List (Nat × Nat)
  qslots : List (Nat × Nat)
  builds : List Build
  tiles : List Nat
  sct : List (List Byte)
  pools : List Byte
  heads : List Byte
  log : List LogRec
  deriving DecidableEq, Repr

/-- Memory and the devices of the package (10 R213 to R227, 18 R384, R385, 25). `ways` are the carve ways of each floor die (01
R13), `stage` is the last step of bring-up that has completed, and `tried` are the links whose training has begun since reset
(25 R447, log 56), `lkeys` is the key id of the lending key of each peer (25 R444, log 37), `rings` are the rings of a mailbox
that firmware has still to serve (R435). -/
structure Pkg where
  mem : List Host.Cell
  key : List (Nat × Nat)
  live : List (Nat × Bool)
  filling : List Nat
  corrupt : List Nat
  ways : List (Nat × Nat)
  gsub : Nat
  gslew : Nat
  gctl : BitVec 5
  grate : BitVec 32
  gpps : Dword
  lkRun : Nat
  clock : Nat
  ltl : List (Nat × Ltl)
  cxlDown : BitVec 8
  mbox : List Host.Cell
  counters : List (Nat × Dword)
  pos : BitVec 15
  /-- Every record since reset as the events come; the ring of `logSize` records is computed from it (`Pkg.logRing`). -/
  log : List LogRec
  logSize : Nat
  logBase : Nat
  dumpBase : Nat
  dump : Option Dump
  others : List Other
  stage : Nat
  tried : BitVec 8
  rings : Nat
  lkeys : List (Nat × Nat)
  fatal : Option LogRec
  dumping : Bool
  ferr : Bool
  recovery : Bool
  soft : List (Nat × Nat)
  inbox : List Msg
  outbox : List Msg
  hostw : List (Nat × Dword)
  /-- What firmware does next, as the host asks it (log 27). -/
  fw : List FwAct
  deriving DecidableEq, Repr

/-- The state. -/
structure State where
  x : Ctx
  xn : Nat
  run : Bool
  rest : List (Nat × Ctx)
  core : CoreSt
  die : DieSt
  part : Part
  pkg : Pkg
  agenda : List (Option Instr)
  cur : Frame
  gtc : Dword
  free : Nat
  deriving DecidableEq, Repr

/-- The outcome of a meaning and of a step. -/
abbrev Out := Host.Outcome State Fault Refusal

/-- A context that holds no strand, every register zero (log 3). -/
def emptyCtx : Ctx :=
  { status := .empty, s := [], p := 0, v := [], l := [], latch := [], latchOk := 0, holds := [], vstat := [], m := [],
    levels := [], depth := 0, sk := false, rm := 0, dtgt := 0, pend := none, link := none, tvec := 0, cause := 0,
    fmask := 0, tpc := 0, tinfo := 0, tsave := [], h := false, sp := false, brec := 0, rtile := 0, pc := 0, bno := 0,
    flight := [], saved := none, out := [], ruCfg := 0, ruGen := 0, ruD := false,
    copy := ⟨[], 0, none⟩, ef := none, tbuf := [], rank := 0, psize := 0, pos := 0, job := 0, pitch := 0, rc := false,
    run := 0, bonus := 0, wasReady := false, wasChosen := false, party := 0, req := none, waited := 0, wcode := 0, bankw := 0, unseen := [],
    efNow := false, evicted := false, wlines := [] }

/-- A frame before any bundle. -/
def emptyFrame : Frame :=
  { addr := 0, seq := 0, words := 0, idx := 0, kind := .S, cluster := 0, word := 0, lits := [], causes := [],
    waits := [], flags := [], pops := [], pushes := [], lines := [], empties := [], posts := [], transfer := none, link := none,
    skip := none, opened := none, suspend := none, trap := none, tret := false, stops := [] }

/-- What firmware has set before any partition exists: nothing (25 R447, R445). -/
def emptySetup : PartSetup :=
  { num := 0, dies := 0, key := 0, root := 0, trapVec := 0, queues := [], jobs := 0, sdt := 0, sdtCount := 0,
    pools := 0, tileTable := 0, tileCount := 0, tileArea := 0, tileAreaSize := 0, tileOvf := 0, tileOvfSize := 0,
    sct := 0, sctCount := 0, sctSize := 0, sctSlots := [], strandArea := 0, endpoints := [], reserve := 4, postOverflow := 0,
    unexpPool := 0, cxl := [], ways := [], tables := [] }

/-- No partition. -/
def emptyPart : Part :=
  { present := false, swapping := false, swapped := false, stopped := false, setup := emptySetup, queues := [], handlers := [],
    sctFree := [], sctBusy := [], sctWait := [], parties := [], nextParty := 1, nextStrand := 0, parked := [], loaded := false, returns := [],
    tiles := [], builds := [], posted := [], unexp := [], landings := [], nextRecv := 1, matched := [], starts := [] }

/-- The core's registers after reset (05 R117, 09 R193, 18 R380); what has no reset value of its own is zero (log 3). -/
def resetCore : CoreSt :=
  { die := 0, num := 0, pad := [], notFull := [], streams := [], pitches := [], cmds := [], nextId := 0, pages := [], banks := [],
    micro := [], slots := [], rule := [], watch := [], utlb := [], istore := [], codeOld := [], zeroAfter := [], iwA := none, iwB := none,
    maxrun := 8192, deadline := 16384, slice := 4096, wdog := 0x10000000, left := 4096, last := 7, rres := 4 }

/-- The die's units after reset (05 R122: a slice of 50 µs); the other 95 cores of the die have 760 contexts (01 R27). -/
def resetDie : DieSt :=
  { tlb := [], qslots := [], dslice := 50000, dnext := 50000, ready := [], held := [], otherFree := 760, away := [], pwe := [],
    pweLast := 95 }

/-- Memory and devices after reset: liveness bits clear, links down, the clock at its full rate (25 R438, R447). -/
def resetPkg : Pkg :=
  { mem := [], key := [], live := [], filling := [], corrupt := [], ways := [], gsub := 0, gslew := 0, gctl := 0,
    grate := 0, gpps := 0, lkRun := 0, clock := 0, ltl := [], cxlDown := 0, mbox := [], counters := [], pos := 0, log := [],
    logSize := 1024, logBase := 0, dumpBase := 0, dump := none, others := [], stage := 1, tried := 0, rings := 0,
    lkeys := [], fatal := none, dumping := false, ferr := false, recovery := false, soft := [], inbox := [], outbox := [],
    hostw := [], fw := [] }

/-- The machine right after reset (25 R447): every context empty, no partition, no program. -/
def State.reset : State :=
  { x := emptyCtx, xn := 0, run := false, rest := [], core := resetCore, die := resetDie, part := emptyPart,
    pkg := resetPkg, agenda := [], cur := emptyFrame, gtc := 0, free := 0 }

end Sys2Proof.Machine
end

