-- ==== Sys2Proof/Machine/Ops.lean ====
section
/-! DEFINITION. The named operations over registers, results in flight, the bundle frame and the scratchpad. -/

namespace Sys2Proof.Machine

/-! ## Registers of a context (01 R20) -/

/-- Scalar register n; s0 reads zero (R20). -/
def Ctx.sreg (c : Ctx) (n : Nat) : Dword := if n = 0 then 0 else Map.get 0 c.s n
/-- Write a scalar register; s0 ignores writes (R20). -/
def Ctx.setS (c : Ctx) (n : Nat) (v : Dword) : Ctx := if n = 0 then c else { c with s := Map.set 0 c.s n v }
/-- Predicate n; p0 reads true (R20). -/
def Ctx.preg (c : Ctx) (n : Nat) : Bool := n = 0 || c.p.getLsbD n
/-- A byte with one bit set to a value. -/
def setBit8 (p : BitVec 8) (n : Nat) (b : Bool) : BitVec 8 :=
  if b then p ||| BitVec.ofNat 8 (2 ^ n) else p &&& ~~~(BitVec.ofNat 8 (2 ^ n))
/-- Write a predicate; p0 ignores writes (R20). -/
def Ctx.setP (c : Ctx) (n : Nat) (b : Bool) : Ctx := if n = 0 then c else { c with p := setBit8 c.p n b }
/-- Vector register n of cluster cl. -/
def Ctx.vreg (c : Ctx) (cl n : Nat) : Lanes := Map.get Lanes.zero c.v (32 * cl + n)
/-- Lane mask n of cluster cl; l0 is all ones (06 R130). -/
def Ctx.lmask (c : Ctx) (cl n : Nat) : BitVec 16 := if n = 0 then BitVec.allOnes 16 else Map.get 0 c.l (4 * cl + n)
/-- The latch of a unit (0 A, 1 B, 2 M, 3 F) of a cluster. -/
def Ctx.latchOf (c : Ctx) (cl u : Nat) : Lanes := Map.get Lanes.zero c.latch (4 * cl + u)
/-- vstat of a cluster (08 R168). -/
def Ctx.vst (c : Ctx) (cl : Nat) : Word := Map.get 0 c.vstat cl
/-- Privileged now: the strand is, or the context is in handler mode (18 R371). -/
def Ctx.priv (c : Ctx) : Bool := c.sp || c.h

/-- Lanes written under a mask. -/
def Lanes.merge (m : BitVec 16) (new old : Lanes) : Lanes := Lanes.of fun i => if m.getLsbD i then new.at i else old.at i
/-- Mask bits written under a mask of lanes from bit 0 of each lane value. -/
def maskMerge (m : BitVec 16) (val : Lanes) (old : BitVec 16) : BitVec 16 :=
  BitVec.ofNat 16 ((List.range 16).foldl (fun a i =>
    a + (if (if m.getLsbD i then (val.at i).getLsbD 0 else old.getLsbD i) then 2 ^ i else 0)) 0)

/-! ## The context on the issue path -/

/-- Replace the context on the issue path. -/
def State.setX (s : State) (c : Ctx) : State := { s with x := c }
/-- Replace the shared resources of the core. -/
def State.setCore (s : State) (c : CoreSt) : State := { s with core := c }
/-- Replace the package's memory and devices. -/
def State.setPkg (s : State) (p : Pkg) : State := { s with pkg := p }
/-- Replace the bundle frame. -/
def State.setCur (s : State) (f : Frame) : State := { s with cur := f }

/-- A result that lands `lat` bundles on (03 R71). -/
def State.land (s : State) (lat unit cluster dest what : Nat) (lanes : BitVec 16) (val : Lanes) : State :=
  s.setX { s.x with flight := s.x.flight ++ [⟨s.x.bno + lat, unit, cluster, dest, what, lanes, val⟩] }

/-- A scalar result; s0 ignores it. -/
def State.landS (s : State) (d : BitVec 5) (v : Dword) (lat : Nat) : State :=
  if d = 0#5 then s else s.land lat 0 0 d.toNat 0 3#16 (lanesOfDword v)
/-- A predicate result; p0 ignores it. -/
def State.landP (s : State) (n : Nat) (b : Bool) (lat : Nat) : State :=
  if n = 0 then s else s.land lat 0 0 (32 + n) 0 1#16 (Lanes.of fun i => if i = 0 && b then 1#32 else 0#32)
/-- A lane-mask result; l0 ignores it. -/
def State.landMask (s : State) (cl n lat : Nat) (lanes : BitVec 16) (val : Lanes) : State :=
  if n = 0 then s else s.land lat 6 cl n 0 lanes val

/-! ## What a slot meets -/

/-- The default information of a cause: the op word, the cluster, and the bit position of the field (03 R69). -/
def State.slotInfo (s : State) (pos : Nat) : Dword :=
  s.cur.word.setWidth 64 ||| (BitVec.ofNat 64 (s.cur.cluster % 8) <<< 32) ||| (BitVec.ofNat 64 pos <<< 35)

/-- Record a cause of the slot in execution with its own information. -/
def State.causeI (s : State) (rank code : Nat) (info : Dword) : State :=
  s.setCur { s.cur with causes := s.cur.causes ++ [⟨s.cur.idx, rank, code, s.cur.cluster, info⟩] }
/-- Record a cause of execution (03 R69, last place) with the default information. -/
def State.cause (s : State) (code : Nat) : State := s.causeI 8 code (s.slotInfo 0)
/-- illegal-operand in the slot's kind at a bit position (03 R68). -/
def State.illOperand (s : State) (k : Kind) (pos : Nat) : State := s.causeI 3 (0x10 + k.num) (s.slotInfo pos)
/-- illegal-op in a kind (03 R68). -/
def State.illOp (s : State) (k : Kind) : State := s.causeI 2 (0x08 + k.num) (s.slotInfo 0)
/-- privilege (18 R371). -/
def State.privilege (s : State) : State := s.causeI 4 0xA0 (s.slotInfo 0)
/-- A reason why the bundle waits, by its code (18 R380). -/
def State.wait (s : State) (code : Nat) : State := s.setCur { s.cur with waits := s.cur.waits ++ [code] }
/-- An effect that later bundles see. -/
def State.post (s : State) (p : Post) : State := s.setCur { s.cur with posts := s.cur.posts ++ [p] }

/-- Do an instruction's effect only when the context is privileged; otherwise privilege is raised (18 R371). -/
def State.needPriv (s : State) (k : State → State) : State := if s.x.priv then k s else s.privilege

/-- The effect of an SR op under its predicate (03 R59). -/
def State.whenP (s : State) (p : BitVec 3) (k : State → State) : State := if s.x.preg p.toNat then k s else s

/-! ## The scratchpad and pitches (01 R21, 05 R109, 09 R190) -/

/-- The pitch of a pitch id on this core. -/
def CoreSt.pitchOf (c : CoreSt) (id : Nat) : Option Pitch :=
  if id % 128 = 0 || !decide (id / 128 = c.die * 128 + c.num) then none else c.pitches.find? fun p => p.idx = id % 128
/-- The pitch of the context on the issue path. -/
def State.pitch (s : State) : Option Pitch := s.core.pitchOf s.x.pitch
/-- The bytes at a physical scratchpad address. -/
def State.padRead (s : State) (a n : Nat) : List Byte := Map.bytes s.core.pad a n
/-- A number read from scratchpad. -/
def State.padNat (s : State) (a n : Nat) : Nat := leNat (s.padRead a n)
/-- Bytes written to scratchpad. -/
def State.padWrite (s : State) (a : Nat) (b : List Byte) : State :=
  s.setCore { s.core with pad := Map.setBytes s.core.pad a b }
/-- The full/empty bit of a line (09 R193). -/
def State.full (s : State) (line : Nat) : Bool := !Map.get false s.core.notFull line
/-- Set the full/empty bit of a line. -/
def State.setFull (s : State) (line : Nat) (f : Bool) : State :=
  s.setCore { s.core with notFull := Map.set false s.core.notFull line (!f) }
/-- Set the full/empty bits of lines upward. -/
def State.setFulls (s : State) (line : Nat) (f : Bool) : Nat → State
  | 0 => s
  | n + 1 => (s.setFull line f).setFulls (line + 1) f n

/-- An access of a lane: lane number, pitch offset (21 bits) and size. -/
abbrev Access := Nat × Nat × Nat

/-- The mask of the lanes of accesses. -/
def laneBits (l : List Access) : Nat := l.foldl (fun a x => a ||| 2 ^ (x.1 % 16)) 0

/-- The information of a scratchpad cause: the offset of the lowest faulting lane, the cluster and the lanes (09 R191); an op
that reaches no lane has its cluster alone. -/
def padInfo (cl : Nat) (bad : List Access) : Dword :=
  match bad with
  | [] => BitVec.ofNat 64 (cl % 8 * 2 ^ 32)
  | x :: _ => BitVec.ofNat 64 (x.2.1 + cl % 8 * 2 ^ 32 + laneBits bad * 2 ^ 48)

/-- The check of R191 for the accesses of an op in ascending lanes: alignment first, then bounds; a strand without a pitch
fails. The result is the physical base of the pitch, or the state with the cause. -/
def State.padCheckM (s : State) (mis : Access → Bool) (l : List Access) : Except State Nat :=
  let bad := l.filter mis
  if !bad.isEmpty then .error (s.causeI 8 0x41 (padInfo s.cur.cluster bad))
  else
    match s.pitch with
    | none => .error (s.causeI 8 0x40 (padInfo s.cur.cluster l))
    | some p =>
      let out := l.filter fun x => decide (p.lines * 128 < x.2.1 + x.2.2)
      if out.isEmpty then .ok (p.base * 128) else .error (s.causeI 8 0x40 (padInfo s.cur.cluster out))
/-- The same with one alignment for every access. -/
def State.padCheck (s : State) (align : Nat) (l : List Access) : Except State Nat :=
  s.padCheckM (fun x => !decide (x.2.1 % align = 0)) l

/-! ## The event log (18 R384) -/

/-- Add a record to the event log. -/
def State.logEvent (s : State) (src : Nat) (cause : Nat) (info pc : Dword) : State :=
  s.setPkg { s.pkg with
    log := s.pkg.log ++ [⟨s.gtc, BitVec.ofNat 16 src, BitVec.ofNat 8 cause, s.part.setup.num, info, pc⟩] }
/-- Whether record `a` stands before `b`: ascending GTC, then ascending source number. -/
def LogRec.first (a b : LogRec) : Bool := decide (a.gtc < b.gtc ∨ (a.gtc = b.gtc ∧ a.src ≤ b.src))
/-- Put a record in its place among ordered ones. -/
def logInsert (r : LogRec) : List LogRec → List LogRec
  | [] => [r]
  | x :: xs => if x.first r then x :: logInsert r xs else r :: x :: xs
/-- All records since reset in the order of the log. -/
def Pkg.logOrdered (p : Pkg) : List LogRec := p.log.foldl (fun l r => logInsert r l) []
/-- The records the ring holds: the oldest are overwritten when it is full. -/
def Pkg.logRing (p : Pkg) : List LogRec := p.logOrdered.drop (p.log.length - p.logSize)
/-- The count of records lost once record `i`, counted from reset, is written. -/
def Pkg.logLost (p : Pkg) (i : Nat) : Nat := min (i + 1 - p.logSize) (2 ^ 32 - 1)
/-- The 32 bytes of a record, with the count of records lost before it. -/
def LogRec.bytes (r : LogRec) (lost : Nat) : List Byte :=
  natBytes 8 r.gtc.toNat ++ natBytes 2 r.src.toNat ++
    [r.cause, BitVec.ofNat 8 (r.part % 4 + if lost = 0 then 0 else 128)] ++
    natBytes 4 lost ++ natBytes 8 r.info.toNat ++ natBytes 8 r.pc.toNat
/-- The 32 bytes in place `k` of the ring, zeros where none has been written; record `i` stands in place `i` modulo the size. -/
def Pkg.logSlot (p : Pkg) (k : Nat) : List Byte :=
  let old := p.log.length - p.logSize
  let i := old + (k + p.logSize - old % p.logSize) % p.logSize
  match p.logOrdered[i]? with
  | some r => r.bytes (p.logLost i)
  | none => List.replicate 32 0
/-- The cause codes that can stand in an event record (18 R376): every code but those marked not reported and 0xC0 to 0xFF. -/
def reportable (c : Nat) : Bool :=
  decide (c ≤ 0x1A) && !decide (c = 0x07) || decide (0x20 ≤ c ∧ c ≤ 0x37) || decide (0x40 ≤ c ∧ c ≤ 0x49) ||
  decide (0x60 ≤ c ∧ c ≤ 0x69) || decide (0x70 ≤ c ∧ c ≤ 0x72) || decide (0x80 ≤ c ∧ c ≤ 0x82) ||
  decide (0x88 ≤ c ∧ c ≤ 0x8D) || decide (0x90 ≤ c ∧ c ≤ 0x9A) || decide (0xA0 ≤ c ∧ c ≤ 0xA8) ||
  decide (0xB0 ≤ c ∧ c ≤ 0xB3) || decide (0xB8 ≤ c ∧ c ≤ 0xBF)
/-- A reportable cause that the specification leaves open: one of them, by a free value (log 7). -/
def openCause (v : Dword) : Nat :=
  let l := (List.range 256).filter reportable
  l.getD (v.toNat % l.length) 0
/-- Add a record whose cause and information the specification does not state (log 7). -/
def State.logOpen (s : State) (src : Nat) (pc : Dword) : State :=
  { s with free := s.free + 2 }.logEvent src (openCause (Config.freeValue s.free)) (Config.freeValue (s.free + 1)) pc
/-- The source number of an agent of the core's die (01 R18). -/
def State.source (s : State) (agent sub : Nat) : Nat := s.core.die * 2 ^ 14 + agent * 2 ^ 7 + sub
/-- The source number of a unit of this core on behalf of a context (01 R19). -/
def State.coreSource (s : State) (ctx unit : Nat) : Nat := s.source s.core.num (ctx % 8 * 16 + unit)

/-- An address in bits [55:2] of a dword. -/
def addrOf (v : Dword) : Addr := (v.extractLsb' 2 54) ++ 0#2
/-- A code address as a dword. -/
def addrDword (a : Addr) : Dword := a.setWidth 64

/-! ## Fatal errors, trap entry and return (03 R76, 04 R85, 18 R374, R375, R385, R388) -/

/-- A fatal cause that stops every partition: 0xBE, 0xBF, and an error in the receive engine or the root-of-trust core (18
R385). -/
def stopsAll (src cause : Nat) : Bool :=
  decide (cause = 0xBE) || decide (cause = 0xBF) || decide (src / 2 ^ 7 % 2 ^ 7 = 119) || decide (src / 2 ^ 7 % 2 ^ 7 = 120)
/-- The fatal event that the dump names: a dump begins with the first one, and an event met while it is written takes its place
only where it stands before it in the order of the log (18 R385, R386). -/
def Pkg.noteFatal (p : Pkg) (r : LogRec) : Pkg :=
  if p.dumping && (match p.fatal with | some q => q.first r | none => false) then p
  else { p with fatal := some r, dumping := true }
/-- A fatal cause stops its partition, or every one; a dump begins with it, and a cause during a dump is only logged (18 R385).
-/
def State.fatal (s : State) (src cause : Nat) (info pc : Dword) : State :=
  let s := s.logEvent src cause info pc
  let r : LogRec := ⟨s.gtc, BitVec.ofNat 16 src, BitVec.ofNat 8 cause, s.part.setup.num, info, pc⟩
  let s := { s with part := { s.part with stopped := true } }
  let s := if stopsAll src cause then
      s.setPkg { s.pkg with others := s.pkg.others.map fun o => { o with stopped := true } } else s
  s.setPkg (s.pkg.noteFatal r)

/-- ctx.dtgt as trap entry leaves it (04 R85, R104): the pending target with V, the held link with LK. DESIGN CHOICE (log 20):
where no link is held, which no rule says for lreg, lreg becomes 0 beside a pending target and stays as it was beside none. -/
def dtgtEntry (old : Dword) (pend : Option Addr) (link : Option Nat) : Dword :=
  let d := match pend with
    | some t => (t.setWidth 64 &&& 0x00FFFFFFFFFFFFFC#64) ||| 1#64
    | none => old &&& 0x1FFFFFFFFFFFFFFC#64
  match link with
  | some r => (d &&& 0x00FFFFFFFFFFFFFD#64) ||| 2#64 ||| (BitVec.ofNat 64 (r % 32) <<< 56)
  | none => d &&& ~~~(2#64)

/-- Taking a trap (18 R374): results in flight, holds and latches are put aside, the pending target moves to ctx.dtgt, the trap
registers are written, H is set and issue continues at ctx.tvec. In handler mode it is a double trap, which is fatal (R375). -/
def State.takeTrap (s : State) (cause : Nat) (fmask : BitVec 16) (tinfo : Dword) (tpc : Addr) : State :=
  if s.x.h then s.fatal (s.coreSource s.xn 0) 0xB8 tinfo (tpc.setWidth 64)
  else
    let c := s.x
    s.setX { c with
      saved := some ⟨c.bno, c.flight, c.latch, c.latchOk, c.holds⟩, flight := [], latchOk := 0, holds := [],
      dtgt := dtgtEntry c.dtgt c.pend c.link, pend := none, link := none,
      cause := BitVec.ofNat 8 cause, fmask := fmask, tpc := tpc &&& ~~~(3#56), tinfo := tinfo,
      h := true, pc := c.tvec, waited := 0, bankw := 0 }

/-- Return from a trap (03 R76, 04 R85, 18 R388): H clears, the results, holds and latches put aside come back under their own
numbering, and the bundle at ctx.tpc issues, with the target and the link of ctx.dtgt. -/
def Ctx.trapReturn (c : Ctx) : Ctx :=
  let k := c.saved.getD ⟨c.bno, c.flight, c.latch, c.latchOk, c.holds⟩
  { c with h := false, bno := k.bno, flight := k.flight, latch := k.latch, latchOk := k.latchOk, holds := k.holds,
           saved := none, pc := c.tpc,
           pend := if c.dtgt.getLsbD 0 then some (addrOf c.dtgt) else none,
           link := if c.dtgt.getLsbD 1 then some (c.dtgt.extractLsb' 56 5).toNat else none }

/-! ## Other contexts -/

/-- Context n: the one on the issue path, or another. -/
def State.ctx (s : State) (n : Nat) : Ctx := if n = s.xn then s.x else Map.get emptyCtx s.rest n
/-- Replace context n. -/
def State.setCtx (s : State) (n : Nat) (c : Ctx) : State :=
  if n = s.xn then s.setX c else { s with rest := Map.set emptyCtx s.rest n c }

end Sys2Proof.Machine
end

