-- ==== Sys2Proof/Machine/Flags.lean ====
section
/-! DEFINITION. The sticky flags of the vector units, their enables and the class-1 causes (08 R168 to R172). -/

namespace Sys2Proof.Machine

/-- The lanes of a lane-to-flags function that raise a flag number. -/
def flagLanes (fl : Nat → Nat) (n : Nat) : Nat :=
  (List.range 16).foldl (fun a i => a + (if fl i / 2 ^ n % 2 = 1 then 2 ^ i else 0)) 0

/-- Flags of the active lanes only (06 R130). -/
def activeFl (m : BitVec 16) (g : Nat → Nat) (i : Nat) : Nat := if m.getLsbD i then g i else 0
/-- The flags of each lane from those of elements of `w` bits in ascending order (06 R129). -/
def laneFlags (w : Nat) (fl : List Nat) (i : Nat) : Nat :=
  ((List.range fl.length).filter fun e => e * w / 32 = i).foldl (fun a e => a ||| fl.getD e 0) 0

/-- Raise the flags of an op, given for each lane, in a cluster with a unit code: they are joined into vstat when the bundle
commits, and each one whose enable is set is a class-1 cause. Of the clusters of a templated op those that have the enable set
are met, so that the lowest of these is reported (DEDUCED, log 58). -/
def State.raise (s : State) (cl unit : Nat) (fl : Nat → Nat) : State :=
  let all := (List.range 16).foldl (fun a i => a ||| fl i) 0
  if all = 0 then s
  else
    let en := (s.x.vst cl).toNat / 256
    let s := s.setCur { s.cur with flags := s.cur.flags ++ [(cl, all)] }
    (List.range 6).foldl (fun s n =>
      if all / 2 ^ n % 2 = 1 && en / 2 ^ n % 2 = 1 then
        s.causeI 7 (0x20 + 4 * n + unit) (s.slotInfo 0 ||| (BitVec.ofNat 64 (flagLanes fl n) <<< 48))
      else s) s

end Sys2Proof.Machine
end

