-- ==== Sys2Proof/Machine/Float.lean ====
section
/-! DEFINITION. Numbers and their formats (07 R145 to R159): exact values, decoding, rounding with flags, exact
arithmetic, comparison, and the L6 and MX block formats. -/

namespace Sys2Proof.Machine

/-! Flags as a bit set: NV 1, DZ 2, OF 4, UF 8, NX 16, RR 32 (08 R168). -/
abbrev fNV : Nat := 1
abbrev fDZ : Nat := 2
abbrev fOF : Nat := 4
abbrev fUF : Nat := 8
abbrev fNX : Nat := 16
abbrev fRR : Nat := 32

/-- An exact value: a NaN (signalling or not), an infinity with its sign, or (−1)^neg × m × 2^e. -/
inductive Fp where
  | nan (sig : Bool)
  | inf (neg : Bool)
  | fin (neg : Bool) (m : Nat) (e : Int)
  deriving DecidableEq, Repr

/-- The floating-point formats (R145, R150). -/
inductive Fmt where
  | f64 | f32 | f16 | bf16 | e4m3 | e5m2 | e2m1 | l6
  deriving DecidableEq, Repr

/-- Exponent width (R145). -/
def Fmt.eb : Fmt → Nat
  | .f64 => 11 | .f32 => 8 | .f16 => 5 | .bf16 => 8 | .e4m3 => 4 | .e5m2 => 5 | .e2m1 => 2 | .l6 => 0
/-- Fraction width (R145). -/
def Fmt.fb : Fmt → Nat
  | .f64 => 52 | .f32 => 23 | .f16 => 10 | .bf16 => 7 | .e4m3 => 3 | .e5m2 => 2 | .e2m1 => 1 | .l6 => 0
/-- Exponent bias (R145). -/
def Fmt.bias : Fmt → Int
  | .f64 => 1023 | .f32 => 127 | .f16 => 15 | .bf16 => 127 | .e4m3 => 7 | .e5m2 => 15 | .e2m1 => 1 | .l6 => 0
/-- Width in bits; an L6 code has 6 (R150). -/
def Fmt.width : Fmt → Nat
  | .f64 => 64 | .f32 => 32 | .f16 => 16 | .bf16 => 16 | .e4m3 => 8 | .e5m2 => 8 | .e2m1 => 4 | .l6 => 6
/-- The format has infinities (R145). -/
def Fmt.hasInf : Fmt → Bool
  | .f64 | .f32 | .f16 | .bf16 | .e5m2 => true
  | _ => false
/-- The magnitude bits of the largest finite value (R147). -/
def Fmt.maxBits : Fmt → Nat
  | .f64 => 0x7FEFFFFFFFFFFFFF | .f32 => 0x7F7FFFFF | .f16 => 0x7BFF | .bf16 => 0x7F7F | .e4m3 => 0x7E
  | .e5m2 => 0x7B | .e2m1 => 7 | .l6 => 31
/-- The default NaN (R147), NaR for L6; E2M1 has none. -/
def Fmt.nanBits : Fmt → Nat
  | .f64 => 0x7FF8000000000000 | .f32 => 0x7FC00000 | .f16 => 0x7E00 | .bf16 => 0x7FC0 | .e4m3 => 0x7F
  | .e5m2 => 0x7F | .e2m1 => 0 | .l6 => 0x20

/-- The mantissas of the L6 linear values (R150). -/
def l6T (f : Nat) : Nat := if f = 0 then 2048 else if f = 1 then 2435 else if f = 2 then 2896 else 3444

/-- The value of L6 position c, extended below 1 and above 31: T[f] × 2^(i − 11) with c − 16 = 4 i + f (R150, R156). -/
def l6Val (c : Int) : Nat × Int := (l6T ((c - 16) % 4).toNat, (c - 16) / 4 - 11)

/-- The exact value a code of a format stands for (R145, R150). -/
def Fmt.dec (f : Fmt) (x : Nat) : Fp :=
  let neg := decide (x / 2 ^ (f.width - 1) % 2 = 1)
  match f with
  | .l6 =>
    let c := x % 32
    if c = 0 then (if neg then .nan false else .fin false 0 0)
    else let v := l6Val c; .fin neg v.1 v.2
  | _ =>
    let e := x / 2 ^ f.fb % 2 ^ f.eb
    let fr := x % 2 ^ f.fb
    if f.hasInf && e = 2 ^ f.eb - 1 then
      (if fr = 0 then .inf neg else .nan (decide (fr < 2 ^ (f.fb - 1))))
    else if f = .e4m3 && e = 15 && fr = 7 then .nan false
    else if e = 0 then .fin neg fr (1 - f.bias - f.fb)
    else .fin neg (2 ^ f.fb + fr) (e - f.bias - f.fb)

/-- The sign bit of a format, when set. -/
def Fmt.sgn (f : Fmt) (neg : Bool) : Nat := if neg then 2 ^ (f.width - 1) else 0

/-- Does rounding go up in magnitude? Mode 0 RNE, 1 RTZ, 2 toward +∞, 3 toward −∞ (R154); `q` the kept magnitude, `r` the
dropped part of `2^k`. -/
def roundUp (rm : Nat) (neg : Bool) (q r k : Nat) : Bool :=
  match rm with
  | 0 => decide (2 * r > 2 ^ k) || (decide (2 * r = 2 ^ k) && decide (q % 2 = 1))
  | 1 => false
  | 2 => !neg && decide (r ≠ 0)
  | _ => neg && decide (r ≠ 0)

/-- Round m × 2^e to a multiple of 2^q: the multiple and whether it is inexact. -/
def roundTo (rm : Nat) (neg : Bool) (m : Nat) (e q : Int) : Nat × Bool :=
  if q ≤ e then (m * 2 ^ (e - q).toNat, false)
  else
    let k := (q - e).toNat
    let a := m / 2 ^ k
    let r := m % 2 ^ k
    (if roundUp rm neg a r k then a + 1 else a, decide (r ≠ 0))

/-- Compare m1 × 2^e1 with m2 × 2^e2. -/
def cmpMag (m1 : Nat) (e1 : Int) (m2 : Nat) (e2 : Int) : Ordering :=
  let e := min e1 e2
  compare (m1 * 2 ^ (e1 - e).toNat) (m2 * 2 ^ (e2 - e).toNat)

/-- The largest L6 position from 1 to 31 whose value is not above m × 2^e, searched downward; 0 with none. -/
def l6Floor (m : Nat) (e : Int) : Nat → Nat
  | 0 => 0
  | c + 1 => let v := l6Val (c + 1); if cmpMag v.1 v.2 m e = .gt then l6Floor m e c else c + 1

/-- Rounding of a magnitude between two neighbouring L6 values: up or not (R157). A tie goes to the even position. -/
def l6Up (rm : Nat) (neg : Bool) (lo : Nat × Int) (hi : Nat × Int) (m : Nat) (e : Int) (c : Nat) : Bool :=
  match rm with
  | 0 =>
    let q := min (min lo.2 hi.2) e
    let s (v : Nat × Int) : Nat := v.1 * 2 ^ (v.2 - q).toNat
    match compare (2 * s (m, e)) (s lo + s hi) with
    | .gt => true
    | .lt => false
    | .eq => decide (c % 2 = 1)
  | 1 => false
  | 2 => !neg
  | _ => neg

/-- A nonzero magnitude is tiny for L6 (R156): rounded in the mode to the linear values without a lower bound it stays below
code 0x01. Values not above the neighbour below code 0x01 round to at most it; between the two the rounding decides, and an
exact neighbour stays itself. -/
def l6Tiny (rm : Nat) (neg : Bool) (m : Nat) (e : Int) : Bool :=
  let lo := l6Val 0
  cmpMag lo.1 lo.2 m e ≠ .lt || (cmpMag (l6Val 1).1 (l6Val 1).2 m e = .gt && !l6Up rm neg lo (l6Val 1) m e 0)

/-- Round a nonzero magnitude to L6 (R156, R157): the position and the flags. -/
def l6Round (rm : Nat) (neg : Bool) (m : Nat) (e : Int) : Nat × Nat :=
  let c := l6Floor m e 31
  let lo := if c = 0 then (0, (0 : Int)) else l6Val c
  let exact := c ≠ 0 && cmpMag lo.1 lo.2 m e = .eq
  if exact then (c, 0)
  else
    let r := if l6Up rm neg lo (l6Val (c + 1)) m e c then c + 1 else c
    if 31 < r || cmpMag (l6Val 32).1 (l6Val 32).2 m e ≠ .gt then (31, fOF + fNX)
    else (r, fNX + (if l6Tiny rm neg m e then fUF else 0))

/-- Round a value into a format (R156): its code and the flags. A NaN gives the default NaN; signalling NaNs raise NV. -/
def Fmt.enc (f : Fmt) (rm : Nat) : Fp → Nat × Nat
  | .nan sig => (f.nanBits, if sig then fNV else 0)
  | .inf neg =>
    if f = .l6 then (f.sgn neg + 31, fOF)
    else if f.hasInf then (f.sgn neg + (2 ^ f.eb - 1) * 2 ^ f.fb, 0)
    else (f.sgn neg + f.maxBits, fOF)
  | .fin neg m e =>
    match f with
    | .l6 =>
      if m = 0 then (0, 0)
      else
        let r := l6Round rm neg m e
        (if r.1 = 0 then 0 else f.sgn neg + r.1, r.2)
    | _ =>
      if m = 0 then (f.sgn neg, 0)
      else
        let top : Int := e + Nat.log2 m + 1
        let emin : Int := 1 - f.bias
        let q := max (top - (f.fb + 1)) (emin - f.fb)
        let r := roundTo rm neg m e q
        let mag := (q + f.fb + f.bias).toNat * 2 ^ f.fb + r.1 - 2 ^ f.fb
        if f.maxBits < mag then
          let toInf := f.hasInf && !(f = .e5m2) &&
            (match rm with | 0 => true | 1 => false | 2 => !neg | _ => neg)
          (f.sgn neg + (if toInf then (2 ^ f.eb - 1) * 2 ^ f.fb else f.maxBits), fOF + fNX)
        else
          let u := roundTo rm neg m e (top - (f.fb + 1))
          let tiny := cmpMag u.1 (top - (f.fb + 1)) 1 emin = .lt
          (f.sgn neg + mag, if r.2 then fNX + (if tiny then fUF else 0) else 0)

/-- Round a value to an integer of n bits (R156): two's complement unless unsigned. A nonzero value that becomes zero raises UF
with NX. -/
def toIntFmt (n : Nat) (uns : Bool) (rm : Nat) : Fp → Nat × Nat
  | .nan _ => (0, fNV)
  | .inf neg =>
    (if neg then (if uns then 0 else 2 ^ (n - 1)) else (if uns then 2 ^ n - 1 else 2 ^ (n - 1) - 1), fNV)
  | .fin neg m e =>
    let r := roundTo rm neg m e 0
    let v : Int := if neg then -(r.1 : Int) else r.1
    let lo : Int := if uns then 0 else -(2 ^ (n - 1) : Nat)
    let hi : Int := if uns then (2 ^ n - 1 : Nat) else (2 ^ (n - 1) - 1 : Nat)
    if v < lo then ((lo % (2 ^ n : Nat)).toNat, fNV)
    else if hi < v then (hi.toNat, fNV)
    else ((v % (2 ^ n : Nat)).toNat, if r.2 then fNX + (if r.1 = 0 then fUF else 0) else 0)

/-- An integer as an exact value. -/
def ofInt (v : Int) : Fp := .fin (decide (v < 0)) v.natAbs 0

/-- The integer of an n-bit code. -/
def intOf (n : Nat) (uns : Bool) (x : Nat) : Int :=
  if !uns && decide (2 ^ (n - 1) ≤ x % 2 ^ n) then (x % 2 ^ n : Nat) - (2 ^ n : Nat) else (x % 2 ^ n : Nat)

/-! ## Exact arithmetic -/

/-- Is the value a NaN? -/
def Fp.isNan : Fp → Bool
  | .nan _ => true
  | _ => false
/-- Is the value a signalling NaN? -/
def Fp.isSig : Fp → Bool
  | .nan s => s
  | _ => false
/-- The sign; false for a NaN. -/
def Fp.neg? : Fp → Bool
  | .nan _ => false
  | .inf n => n
  | .fin n _ _ => n
/-- The value with its sign inverted. -/
def Fp.neg : Fp → Fp
  | .nan s => .nan s
  | .inf n => .inf (!n)
  | .fin n m e => .fin (!n) m e
/-- The magnitude. -/
def Fp.abs : Fp → Fp
  | .nan s => .nan s
  | .inf _ => .inf false
  | .fin _ m e => .fin false m e

/-- NV for a signalling operand (08 R174). -/
def sigFlag (l : List Fp) : Nat := if l.any Fp.isSig then fNV else 0

/-- A signed integer in units of 2^q as a value; `z` is the sign of an exact zero. -/
def ofScaled (v : Int) (q : Int) (z : Bool) : Fp :=
  if v = 0 then .fin z 0 0 else .fin (decide (v < 0)) v.natAbs q

/-- A finite value in units of 2^q, for q not above its exponent. -/
def scaled (q : Int) : Fp → Int
  | .fin n m e => let v : Int := (m * 2 ^ (e - q).toNat : Nat); if n then -v else v
  | _ => 0

/-- The exponent of a finite value. -/
def Fp.exp : Fp → Int
  | .fin _ _ e => e
  | _ => 0

/-- Is the value ±0? -/
def Fp.isZero : Fp → Bool
  | .fin _ m _ => decide (m = 0)
  | _ => false
/-- Is the value an infinity? -/
def Fp.isInf : Fp → Bool
  | .inf _ => true
  | _ => false

/-- The sign of an exact zero sum: all terms −0, or the mode toward −∞ with terms that cancel (08 R174). -/
def zeroSign (rm : Nat) (l : List Fp) : Bool :=
  if l.all (fun x => x.isZero && x.neg?) then true
  else if l.all (fun x => x.isZero && !x.neg?) then false
  else decide (rm = 3)

/-- The exact sum of values with the flags of its special cases; `z` is the sign of an exact zero (08 R174, R183). A NaN beside
+∞ and −∞ is the first case of R183, without NV (DEDUCED, log 58). -/
def Fp.sumZ (z : Bool) (l : List Fp) : Fp × Nat :=
  let sf := sigFlag l
  if l.any Fp.isNan then (.nan false, sf)
  else
    let p := l.any fun x => x = .inf false
    let n := l.any fun x => x = .inf true
    if p && n then (.nan false, fNV)
    else if p then (.inf false, 0)
    else if n then (.inf true, 0)
    else
      let q := l.foldl (fun a x => min a x.exp) 0
      (ofScaled (l.foldl (fun a x => a + scaled q x) 0) q z, 0)
/-- The exact sum with the sign of zero of a rounding mode (08 R174). -/
def Fp.sum (rm : Nat) (l : List Fp) : Fp × Nat := Fp.sumZ (zeroSign rm l) l

/-- The exact product with the flags of its special cases (08 R174). -/
def Fp.mul (x y : Fp) : Fp × Nat :=
  let sf := sigFlag [x, y]
  let n := x.neg? != y.neg?
  match x, y with
  | .nan _, _ | _, .nan _ => (.nan false, sf)
  | .inf _, b => if b.isZero then (.nan false, fNV) else (.inf n, 0)
  | a, .inf _ => if a.isZero then (.nan false, fNV) else (.inf n, 0)
  | .fin _ a ea, .fin _ b eb => (.fin n (a * b) (ea + eb), 0)

/-- Round an exact result into a format, joining flags. -/
def Fmt.rnd (f : Fmt) (rm : Nat) (r : Fp × Nat) : Nat × Nat :=
  let x := f.enc rm r.1
  (x.1, x.2 ||| r.2)

/-- x × y + z rounded once (08 R177): a 0 × ∞ product raises NV even beside a quiet NaN. -/
def Fmt.fma (f : Fmt) (rm : Nat) (x y z : Fp) : Nat × Nat :=
  let p := x.mul y
  let sf := sigFlag [x, y, z]
  if p.1.isNan then (f.nanBits, p.2 ||| sf)
  else let r := Fp.sum rm [p.1, z]; f.rnd rm (r.1, r.2 ||| sf)

/-- Order of two values that are no NaNs; −0 and +0 compare equal. -/
def Fp.cmp (x y : Fp) : Ordering :=
  match x, y with
  | .inf a, .inf b => if a = b then .eq else if a then .lt else .gt
  | .inf a, _ => if a then .lt else .gt
  | _, .inf b => if b then .gt else .lt
  | _, _ => let q := min x.exp y.exp; compare (scaled q x) (scaled q y)

/-- Is x below y, with −0 below +0 (08 R178)? -/
def Fp.below (x y : Fp) : Bool :=
  match x.cmp y with
  | .lt => true
  | .gt => false
  | .eq => x.isZero && y.isZero && x.neg? && !y.neg?

/-- The smaller or the larger of two values by the rules of vfmin and vfmax (08 R178). -/
def Fp.pick (mx : Bool) (x y : Fp) : Fp × Nat :=
  let sf := sigFlag [x, y]
  match x.isNan, y.isNan with
  | true, true => (.nan false, sf)
  | true, false => (y, sf)
  | false, true => (x, sf)
  | false, false => (if (if mx then x.below y else y.below x) then y else x, sf)

/-- The integer square root by digits: `n` more bits, the root so far, of the number `v` (its bits taken in pairs). -/
def isqrtGo (v : Nat) : Nat → Nat → Nat
  | 0, r => r
  | n + 1, r =>
    let t := r + 2 ^ n
    if t * t ≤ v then isqrtGo v n t else isqrtGo v n r
/-- The integer square root. -/
def isqrt (v : Nat) : Nat := isqrtGo v (Nat.log2 v / 2 + 1) 0

/-! ## MX blocks (R148, R149, R158) and FP8 vectors (R159) -/

/-- The element formats of MX blocks: 6 MXFP4, 7 MXINT8, 8 MXL6 by their codes in R199. -/
inductive Mx where
  | fp4 | int8 | l6
  deriving DecidableEq, Repr

/-- The value of an element of a block with a scale byte (R148 to R152). -/
def Mx.dec (k : Mx) (scale : Nat) (x : Nat) : Fp :=
  if scale = 0xFF then .nan false
  else
    let v := match k with
      | .fp4 => Fmt.e2m1.dec (x % 16)
      | .int8 => (let i := intOf 8 false x; Fp.fin (decide (i < 0)) i.natAbs (-6))
      | .l6 => Fmt.l6.dec (x % 64)
    match v with
    | .fin n m e => .fin n m (e + (scale : Int) - 127)
    | w => w

/-- floor(log2) of a positive finite magnitude. -/
def Fp.log2 : Fp → Int
  | .fin _ m e => e + Nat.log2 m
  | _ => 0

/-- The largest magnitude of a list of finite values. -/
def amax (l : List Fp) : Fp :=
  l.foldl (fun a x => if a.below x.abs then x.abs else a) (.fin false 0 0)

/-- Clamp to a byte exponent, 0 to 254. -/
def clampByte (v : Int) : Nat := if v < 0 then 0 else if 254 < v then 254 else v.toNat

/-- One element of a quantised block: clamped with NX, no OF (R158). -/
def Mx.elem (k : Mx) (byte : Nat) (x : Fp) : Nat × Nat :=
  let q := match x with
    | .fin n m e => Fp.fin n m (e + 127 - (byte : Int))
    | w => w
  match k with
  | .fp4 => let r := Fmt.e2m1.enc 0 q; (r.1, r.2 &&& (fNX + fUF))
  | .l6 => let r := Fmt.l6.enc 0 q; (r.1, r.2 &&& (fNX + fUF))
  | .int8 =>
    match q with
    | .fin n m e =>
      let r := roundTo 0 n m (e + 6) 0
      let a := if 127 < r.1 then 127 else r.1
      let inexact := r.2 || decide (127 < r.1)
      (if n && a ≠ 0 then 256 - a else a,
        (if inexact then fNX else 0) ||| (if inexact && m ≠ 0 && a = 0 then fUF else 0))
    | _ => (0, 0)

/-- Quantise 32 values into a block (R158): scale byte, element codes, flags. -/
def Mx.quant (k : Mx) (l : List Fp) : Nat × List Nat × Nat :=
  if l.any fun x => x.isNan || x.isInf then (0xFF, l.map fun _ => 0, fNV)
  else
    let a := amax l
    if a.isZero then (0, l.map fun _ => 0, 0)
    else
      let em : Int := match k with | .fp4 => 2 | .int8 => 0 | .l6 => 3
      let byte := clampByte (a.log2 - em + 127)
      let r := l.map (k.elem byte)
      (byte, r.map (·.1), r.foldl (fun f x => f ||| x.2) 0)

/-- The flags that each value of a quantised block raises (R158): NV by a NaN or an infinity, NX and UF by its rounding. -/
def Mx.flags (k : Mx) (l : List Fp) : List Nat :=
  if l.any fun x => x.isNan || x.isInf then l.map fun x => if x.isNan || x.isInf then fNV else 0
  else if (amax l).isZero then l.map fun _ => 0
  else l.map fun x => (k.elem (k.quant l).1 x).2

/-- ceil(log2(amax / max)) for a positive amax and the largest value mx of an FP8 format (R159). -/
def ceilLog2Ratio (a : Fp) (mx : Nat) : Int :=
  match a with
  | .fin _ m e =>
    -- the least k with m × 2^e ≤ mx × 2^k
    let k0 : Int := e + Nat.log2 m - Nat.log2 mx
    if cmpMag m e mx k0 = .gt then k0 + 1 else if cmpMag m e mx (k0 - 1) = .gt then k0 else k0 - 1
  | _ => 0

/-- An FP8 vector of a demoted frame (R159): scale byte and codes. -/
def fp8Vec (f : Fmt) (mx : Nat) (l : List Fp) : Nat × List Nat :=
  if l.any fun x => x.isNan || x.isInf then (0xFF, l.map fun _ => 0x7F)
  else
    let a := amax l
    let byte := if a.isZero then 127 else clampByte (ceilLog2Ratio a mx + 127)
    (byte, l.map fun x => match x with
      | .fin n m e => (f.enc 0 (.fin n m (e + 127 - (byte : Int)))).1
      | _ => 0x7F)

/-- The value of an FP8 element under its scale byte (R159). -/
def fp8Dec (f : Fmt) (byte x : Nat) : Fp :=
  if byte = 0xFF then .nan false
  else match f.dec x with
    | .fin n m e => .fin n m (e + (byte : Int) - 127)
    | w => w

end Sys2Proof.Machine
end

