-- ==== Sys2Proof/Machine/Formats.lean ====
section
/-! DEFINITION. The format codes of streams and copies (09 R199), conversion by code (07 R156), and the packing of
elements in lanes (06 R129). -/

namespace Sys2Proof.Machine

/-- The float format of an R199 code. -/
def fltOfCode : Nat → Option Fmt
  | 0 => some .f32 | 1 => some .bf16 | 2 => some .f16 | 3 => some .e4m3 | 4 => some .e5m2 | 5 => some .l6
  | 12 => some .f64
  | _ => none
/-- The integer width of an R199 code. -/
def intOfCode : Nat → Option Nat
  | 9 => some 32 | 10 => some 16 | 11 => some 8
  | _ => none
/-- The MX element format of an R199 code. -/
def mxOfCode : Nat → Option Mx
  | 6 => some .fp4 | 7 => some .int8 | 8 => some .l6
  | _ => none
/-- Element size in half bytes (R199). -/
def codeNibbles : Nat → Nat
  | 0 | 9 => 8
  | 1 | 2 | 10 => 4
  | 3 | 4 | 5 | 7 | 8 | 11 | 15 => 2
  | 6 => 1
  | 12 => 16
  | _ => 2
/-- Element size in bytes of a code of whole bytes. -/
def codeBytes (c : Nat) : Nat := codeNibbles c / 2
/-- Elements in the 64 bytes of a chunk of a lane format (R199). -/
def chunkElems (lane mem : Nat) : Nat := 128 / codeNibbles (if lane = 15 then mem else lane)

/-- The exact value of an element of a code. -/
def codeVal (c x : Nat) : Fp :=
  match fltOfCode c with
  | some f => f.dec x
  | none => match intOfCode c with
    | some n => ofInt (intOf n false x)
    | none => ofInt x
/-- A value converted into a code in a rounding mode, with the flags (R156). -/
def codeEnc (c rm : Nat) (v : Fp) : Nat × Nat :=
  match fltOfCode c with
  | some f => f.enc rm v
  | none => match intOfCode c with
    | some n => toIntFmt n false rm v
    | none => (0, 0)
/-- An element converted from one code to another; raw on either side passes it unchanged (R199, R251). -/
def codeConv (src dst rm x : Nat) : Nat × Nat :=
  if src = 15 || dst = 15 then (x, 0) else codeEnc dst rm (codeVal src x)

/-! ## Elements in lanes (06 R129) -/

/-- Element width of ty: 32, 16, 8. -/
def tyBits (t : BitVec 2) : Nat := if t = 0#2 then 32 else if t = 1#2 then 16 else 8
/-- Elements per lane of ty. -/
def tyPer (t : BitVec 2) : Nat := 32 / tyBits t
/-- Element j of n bits of a lane. -/
def elem (n : Nat) (x : Word) (j : Nat) : Nat := x.toNat / 2 ^ (n * j) % 2 ^ n
/-- A lane from its elements of n bits. -/
def packElems (n per : Nat) (f : Nat → Nat) : Word :=
  BitVec.ofNat 32 ((List.range per).foldl (fun a j => a + f j % 2 ^ n * 2 ^ (n * j)) 0)
/-- Element e of a whole register, of n bits and per-lane count. -/
def regElem (n per : Nat) (v : Lanes) (e : Nat) : Nat := elem n (v.at (e / per)) (e % per)
/-- Lanes from the elements of a whole register. -/
def lanesOfElems (n : Nat) (f : Nat → Nat) : Lanes :=
  Lanes.of fun i => packElems n (32 / n) fun j => f (32 / n * i + j)
/-- The 64 bytes of sixteen lanes. -/
def bytesOfLanes (v : Lanes) : List Byte := (List.range 16).flatMap fun i => natBytes 4 (v.at i).toNat
/-- Sixteen lanes from 64 bytes. -/
def lanesOfBytes (b : List Byte) : Lanes := Lanes.of fun i => BitVec.ofNat 32 (leNat ((b.drop (4 * i)).take 4))

/-- The float format of a vector ty (08 R173). -/
def tyFmt (t : BitVec 2) : Fmt := if t = 0#2 then .f32 else if t = 1#2 then .bf16 else .f16
/-- The width of a float element of ty: 32, or 16 for both packed types (08 R173). -/
def fltBits (t : BitVec 2) : Nat := if t = 0#2 then 32 else 16

end Sys2Proof.Machine
end

