-- ==== Sys2Proof/Machine/Operands.lean ====
section
/-! DEFINITION. Every operand form of the vector kinds: registers, latches, held operands, literals and streams as sources
(03 R56, R58, 09 R200 to R202), registers, latches, masks and streams as destinations (R57), and the SI immediates. -/

namespace Sys2Proof.Machine

/-- The unit code of a kind in the latches and in class-1 causes: A 0, B 1, F 2 or M and X 3 (08 R172). -/
def kFlagUnit : Kind → Nat
  | .A => 0 | .B => 1 | .F => 2
  | _ => 3
/-- The unit number of a kind in the replay buffer (18 R379). -/
def kFlightUnit : Kind → Nat
  | .A => 1 | .B => 2 | .M => 3 | .F => 4 | .X => 5
  | _ => 0
/-- The latch a kind's results land in (03 R57): A w0, B w1, M w2, F w3; none for X. -/
def kLatch : Kind → Option Nat
  | .A => some 0 | .B => some 1 | .M => some 2 | .F => some 3
  | _ => none

/-! ## Streams -/

/-- A stream that nothing has bound. -/
def Stream.unbound : Stream := ⟨false, 0, 0, 0, 0, 0, 0, 0, 0, 0⟩
/-- Stream register q. -/
def CoreSt.stream (c : CoreSt) (q : Nat) : Stream := Map.get Stream.unbound c.streams q
/-- Ring size in elements (09 R200). -/
def Stream.capacity (r : Stream) : Nat := 128 * 2 ^ r.k * 2 / codeNibbles r.mfmt
/-- Elements between head and tail (09 R200). -/
def Stream.fill (r : Stream) : Nat := (r.tail - r.head).toNat
/-- The half-byte address in scratchpad of element e (09 R200). -/
def Stream.nibble (r : Stream) (e : Nat) : Nat :=
  r.base * 256 + e * codeNibbles r.mfmt % (256 * 2 ^ r.k)
/-- The scratchpad address of the scale of MX block b (09 R200). -/
def Stream.scaleAt (r : Stream) (b : Nat) : Nat := r.sbase * 128 + b % (r.capacity / 32) * 2 ^ r.sstr
/-- The code of element e in memory. -/
def State.ringRaw (s : State) (r : Stream) (e : Nat) : Nat :=
  let nb := r.nibble e
  if r.mfmt = 6 then s.padNat (nb / 2) 1 / (if nb % 2 = 1 then 16 else 1) % 16
  else s.padNat (nb / 2) (codeBytes r.mfmt)
/-- The value of element e in memory (09 R200, 07 R158). -/
def State.ringVal (s : State) (r : Stream) (e : Nat) : Fp :=
  match mxOfCode r.mfmt with
  | some k => k.dec (s.padNat (r.scaleAt (e / 32)) 1) (s.ringRaw r e)
  | none => codeVal r.mfmt (s.ringRaw r e)

/-- May the context name the stream: it belongs to its pitch and has been bound (09 R198)? -/
def State.streamOwned (s : State) (q : Nat) : Bool :=
  match s.pitch with
  | some p => p.qset.getLsbD q
  | none => false

/-- The sum of the counts of a stream in a list. -/
def countOf (q : Nat) (l : List (Nat × Nat)) : Nat := l.foldl (fun a x => if x.1 = q then a + x.2 else a) 0

/-- The chunk at element `h` of a ring in the lane format of pops, with the flags of the conversion in each lane (09 R201, 06
R129). -/
def State.chunkAt (s : State) (r : Stream) (h : Nat) : Lanes × (Nat → Nat) :=
  let n := chunkElems r.popf r.mfmt
  let w := 512 / n
  let conv (j : Nat) : Nat × Nat :=
    if r.popf = 15 then (s.ringRaw r (h + j), 0) else codeEnc r.popf 0 (s.ringVal r (h + j))
  let cs := (List.range n).map conv
  (lanesOfElems w (fun e => (cs.getD e (0, 0)).1), laneFlags w (cs.map (·.2)))

/-- Pop one chunk of a stream for the slot in execution (09 R201, R202): stream-unbound, a wait for elements, or the lanes. The
head moves when the bundle commits. Flags of the conversion are the op's, in its active lanes (07 R160, 06 R130). -/
def State.popChunk (s : State) (k : Kind) (cl q : Nat) (m : BitVec 16) : State × Lanes :=
  let r := s.core.stream q
  if !(s.streamOwned q && r.bound) then (s.cause 0x98, Lanes.zero)
  else
    let done := countOf q s.cur.pops
    let n := chunkElems r.popf r.mfmt
    if r.fill < done + n then (s.wait 4, Lanes.zero)
    else
      let c := s.chunkAt r (r.head.toNat + done)
      let s := s.setCur { s.cur with pops := s.cur.pops ++ [(q, n)] }
      (s.raise cl (kFlagUnit k) (activeFl m c.2), c.1)

/-! ## Sources (03 R56) -/

/-- Read a source code of an op of a kind in a cluster, with the op's active lanes: the others are not read for faults (02 R35).
A stream is popped whatever the mask (06 R130). -/
def State.src (s : State) (k : Kind) (cl : Nat) (code : BitVec 6) (m : BitVec 16) : State × Lanes :=
  let n := code.toNat
  let stale (c : Nat) : State := if m = 0#16 then s else s.causeI 6 c (s.slotInfo 0)
  if n < 32 then (s, s.x.vreg cl n)
  else if n < 36 then
    (if s.x.latchOk.getLsbD (4 * cl + n % 4) then s else stale 0x19, s.x.latchOf cl (n % 4))
  else if n < 38 then
    match Map.get none s.x.holds (2 * cl + n % 2) with
    | some h => if h.kind = k then (s, h.val) else (stale 0x1A, Lanes.zero)
    | none => (stale 0x1A, Lanes.zero)
  else if n < 40 then (s, Lanes.zero)
  else if n < 48 then
    let w := s.cur.lits.getD (n % 8) 0#32
    (s, Lanes.of fun _ => w)
  else s.popChunk k cl (n % 16) m

/-- The active lanes of an op (06 R130). -/
def State.active (s : State) (f : VR) : BitVec 16 := s.x.lmask s.cur.cluster f.m.toNat

/-- Capture a source into a hold when its bit asks for it (03 R58): the value with all 16 lanes, whatever the lane mask of the
op (DEDUCED, log 58). -/
def State.capture (s : State) (h : Bool) (k : Kind) (cl side : Nat) (v : Lanes) : State :=
  if h then s.post (.hold (2 * cl + side) ⟨k, v⟩) else s

/-- Read source a of a VR word, capturing it into held A when ha is set. The lanes read are the active ones, or all for an op
that uses no lane mask. -/
def State.srcA (s : State) (k : Kind) (f : VR) (m : BitVec 16 := s.active f) : State × Lanes :=
  let r := s.src k s.cur.cluster f.a m
  (r.1.capture f.h k s.cur.cluster 0 r.2, r.2)
/-- Read source b of a VR word, capturing it into held B when hb is set. -/
def State.srcB (s : State) (k : Kind) (f : VR) (m : BitVec 16 := s.active f) : State × Lanes :=
  let r := s.src k s.cur.cluster f.b m
  (r.1.capture f.k k s.cur.cluster 1 r.2, r.2)
/-- Read both sources in order (09 R202), with captures. -/
def State.srcAB (s : State) (k : Kind) (f : VR) (m : BitVec 16 := s.active f) : State × Lanes × Lanes :=
  let r := s.srcA k f m
  let q := r.1.srcB k f m
  (q.1, r.2, q.2)

/-- vd read as a third source; a stream destination or nw = 1 reads v0 (06 R136). -/
def State.oldD (s : State) (f : VR) : Lanes :=
  s.x.vreg s.cur.cluster (if f.w || decide (31 < f.d.toNat) then 0 else f.d.toNat)

/-! ## Destinations (03 R57, 06 R130) -/

/-- The memory codes of a chunk in the lane format of pushes, the scale of an MX block, and the flags of each element (07 R160).
-/
def pushCodes (r : Stream) (v : Lanes) : List Nat × Nat × List Nat :=
  let n := chunkElems r.pushf r.mfmt
  let w := 512 / n
  let raw := (List.range n).map fun e => regElem w (32 / w) v e
  match mxOfCode r.mfmt with
  | some k =>
    let l := raw.map (codeVal r.pushf)
    ((k.quant l).2.1, (k.quant l).1, k.flags l)
  | none =>
    let cs := raw.map (codeConv r.pushf r.mfmt 0)
    (cs.map (·.1), 0, cs.map (·.2))
/-- The flags of a push in each lane. -/
def pushFlags (r : Stream) (v : Lanes) : Nat → Nat := laneFlags (512 / chunkElems r.pushf r.mfmt) (pushCodes r v).2.2

/-- The result of a vector op: it lands in vd, in a stream or in nothing, and in the unit's latch, under a mask (03 R57, 06
R130). A push carries zero in inactive lanes, reserves its room, and raises the flags of its conversion. -/
def State.landV (s : State) (k : Kind) (f : VR) (lat : Nat) (m : BitVec 16) (val : Lanes) : State :=
  let cl := s.cur.cluster
  let u := kFlightUnit k
  let hasLatch := (kLatch k).isSome
  if f.w then (if hasLatch then s.land lat u cl 0 1 m val else s)
  else if f.d.toNat < 32 then s.land lat u cl f.d.toNat (if hasLatch then 2 else 0) m val
  else
    let q := f.d.toNat % 16
    let r := s.core.stream q
    if !(s.streamOwned q && r.bound) then s.cause 0x98
    else
      let v := Lanes.merge m val Lanes.zero
      let s := s.raise cl (kFlagUnit k) (pushFlags r v)
      let s := s.setCur { s.cur with pushes := s.cur.pushes ++ [(q, chunkElems r.pushf r.mfmt)] }
      let s := s.land lat u cl q 3 0xFFFF#16 v
      if hasLatch then s.land lat u cl 0 1 m val else s

/-- What a reduction with no active lane leaves: a chunk of zeros in a stream, nothing in a register or a latch (08 R183). -/
def State.landNone (s : State) (k : Kind) (f : VR) (lat : Nat) : State :=
  let q := f.d.toNat % 16
  let r := s.core.stream q
  if f.w || decide (f.d.toNat < 32) then s
  else if !(s.streamOwned q && r.bound) then s.cause 0x98
  else (s.setCur { s.cur with pushes := s.cur.pushes ++ [(q, chunkElems r.pushf r.mfmt)] }).land lat (kFlightUnit k)
    s.cur.cluster q 3 0xFFFF#16 Lanes.zero

/-! ## Immediates (03 R59) -/

/-- imm15, or literal word 0 when imm15 = 0x4000, zero-extended. -/
def State.immZ (s : State) (i : BitVec 15) : Dword :=
  if i = 0x4000#15 then (s.cur.lits.getD 0 0#32).setWidth 64 else i.setWidth 64
/-- imm15, or literal word 0 when imm15 = 0x4000, sign-extended. -/
def State.immS (s : State) (i : BitVec 15) : Dword :=
  if i = 0x4000#15 then (s.cur.lits.getD 0 0#32).signExtend 64 else i.signExtend 64
/-- The stated run of park and wait: imm7, or literal word 0 when imm7 = 0x7F (05 R112). -/
def State.run7 (s : State) (i : BitVec 7) : Nat :=
  if i = 0x7F#7 then (s.cur.lits.getD 0 0#32).toNat else i.toNat

end Sys2Proof.Machine
end

