-- ==== Sys2Proof/Machine/VectorInt.lean ====
section
/-! DEFINITION. The integer vector instructions of units A and B (06 R129 to R144). The unit is the kind of the slot in
execution. -/

namespace Sys2Proof.Machine

/-- Element function on n-bit elements: width, x, y, result modulo 2^n. -/
abbrev ElemFn := Nat → Nat → Nat → Nat

/-- An n-bit element as a signed integer. -/
def sgn (n x : Nat) : Int := intOf n false x
/-- An integer modulo 2^n. -/
def wrap (n : Nat) (v : Int) : Nat := (v % (2 ^ n : Nat)).toNat
/-- Clamp to n bits signed. -/
def satN (n : Nat) (v : Int) : Int := max (-(2 ^ (n - 1) : Nat)) (min v ((2 ^ (n - 1) : Nat) - 1))

/-- The lanes of an element function over two operands (the common effect of chapter 06). -/
def elemwise (n : Nat) (g : ElemFn) (a b : Lanes) : Lanes :=
  Lanes.of fun i => packElems n (32 / n) fun j => g n (elem n (a.at i) j) (elem n (b.at i) j)

/-- A two-source op: element width n, latency, element function. -/
def vop2 (f : VR) (n lat : Nat) (g : ElemFn) (s : State) : Out :=
  let k := s.cur.kind
  let r := s.srcAB k f
  .next (r.1.landV k f lat (s.active f) (elemwise n g r.2.1 r.2.2))
/-- A one-source op. -/
def vop1 (f : VR) (n lat : Nat) (g : Nat → Nat → Nat) (s : State) : Out :=
  let k := s.cur.kind
  let r := s.srcA k f
  .next (r.1.landV k f lat (s.active f) (elemwise n (fun n x _ => g n x) r.2 r.2))

/-- A saturating op: elements are clamped, and OF is raised once when an active element was (R133, R135). -/
def vsatOp (f : VR) (g : Int → Int → Int) (s : State) : Out :=
  let k := s.cur.kind
  let n := tyBits f.t
  let r := s.srcAB k f
  let v (i j : Nat) : Int := g (sgn n (elem n (r.2.1.at i) j)) (sgn n (elem n (r.2.2.at i) j))
  let fl (i : Nat) : Nat := if (List.range (32 / n)).any fun j => satN n (v i j) ≠ v i j then fOF else 0
  let s' := r.1.raise s.cur.cluster (kFlagUnit k) (activeFl (s.active f) fl)
  .next (s'.landV k f 1 (s.active f) (Lanes.of fun i => packElems n (32 / n) fun j => wrap n (satN n (v i j))))

/-- vadd: wrapping (R135). -/
def execVadd (f : VR) (s : State) : Out := vop2 f (tyBits f.t) 1 (fun n x y => (x + y) % 2 ^ n) s

/-- vsub: wrapping (R135). -/
def execVsub (f : VR) (s : State) : Out := vop2 f (tyBits f.t) 1 (fun n x y => (x + 2 ^ n - y) % 2 ^ n) s

/-- vmul: low n bits, latency 3 (R136). -/
def execVmul (f : VR) (s : State) : Out := vop2 f (tyBits f.t) 3 (fun n x y => x * y % 2 ^ n) s

/-- vmulh: bits [2n−1:n] of the signed product, latency 3 (R136). -/
def execVmulh (f : VR) (s : State) : Out := vop2 f (tyBits f.t) 3 (fun n x y => wrap n (sgn n x * sgn n y / (2 ^ n : Nat))) s

/-- vmin: signed (R135). -/
def execVmin (f : VR) (s : State) : Out := vop2 f (tyBits f.t) 1 (fun n x y => if sgn n x ≤ sgn n y then x else y) s

/-- vmax: signed (R135). -/
def execVmax (f : VR) (s : State) : Out := vop2 f (tyBits f.t) 1 (fun n x y => if sgn n x ≤ sgn n y then y else x) s

/-- vminu: unsigned (R135). -/
def execVminu (f : VR) (s : State) : Out := vop2 f (tyBits f.t) 1 (fun _ x y => min x y) s

/-- vmaxu: unsigned (R135). -/
def execVmaxu (f : VR) (s : State) : Out := vop2 f (tyBits f.t) 1 (fun _ x y => max x y) s

/-- vand: whole lanes (R138). -/
def execVand (f : VR) (s : State) : Out := vop2 f 32 1 (fun _ x y => x &&& y) s

/-- vor: whole lanes (R138). -/
def execVor (f : VR) (s : State) : Out := vop2 f 32 1 (fun _ x y => x ||| y) s

/-- vxor: whole lanes (R138). -/
def execVxor (f : VR) (s : State) : Out := vop2 f 32 1 (fun _ x y => x ^^^ y) s

/-- vandn: x and not y, whole lanes (R138). -/
def execVandn (f : VR) (s : State) : Out := vop2 f 32 1 (fun n x y => x &&& (2 ^ n - 1 - y)) s

/-- vshl by y modulo n (R138). -/
def execVshl (f : VR) (s : State) : Out := vop2 f (tyBits f.t) 1 (fun n x y => x * 2 ^ (y % n) % 2 ^ n) s

/-- vshr: unsigned, by y modulo n (R138). -/
def execVshr (f : VR) (s : State) : Out := vop2 f (tyBits f.t) 1 (fun n x y => x / 2 ^ (y % n)) s

/-- vsar: signed, toward minus infinity, by y modulo n (R138). -/
def execVsar (f : VR) (s : State) : Out := vop2 f (tyBits f.t) 1 (fun n x y => wrap n (sgn n x / (2 ^ (y % n) : Nat))) s

/-- vrshr: rounds half up, by y modulo n (R138). -/
def execVrshr (f : VR) (s : State) : Out := vop2 f (tyBits f.t) 1 (fun n x y =>
    if y % n = 0 then x else wrap n ((sgn n x + (2 ^ (y % n - 1) : Nat)) / (2 ^ (y % n) : Nat))) s

/-- vcmp: the six condition bits (R139). -/
def execVcmp (f : VR) (s : State) : Out := vop2 f (tyBits f.t) 1 (fun n x y =>
    (if x = y then 1 else 2) + (if sgn n x < sgn n y then 4 else 8) + (if x < y then 16 else 32)) s

/-- vmov: whole lanes (R135). -/
def execVmov (f : VR) (s : State) : Out := vop1 f 32 1 (fun _ x => x) s

/-- vabs: wrapping (R135). -/
def execVabs (f : VR) (s : State) : Out := vop1 f (tyBits f.t) 1 (fun n x => wrap n (sgn n x).natAbs) s

/-- vneg: wrapping (R135). -/
def execVneg (f : VR) (s : State) : Out := vop1 f (tyBits f.t) 1 (fun n x => (2 ^ n - x) % 2 ^ n) s

/-- vclz: n for zero (R138). -/
def execVclz (f : VR) (s : State) : Out := vop1 f (tyBits f.t) 1 (fun n x => if x = 0 then n else n - 1 - Nat.log2 x) s

/-- vpopc (R138). -/
def execVpopc (f : VR) (s : State) : Out := vop1 f (tyBits f.t) 1 (fun n x => (List.range n).foldl (fun a i => a + x / 2 ^ i % 2) 0) s

/-- vaddsat: signed, clamped, OF (R135). -/
def execVaddsat (f : VR) (s : State) : Out := vsatOp f (· + ·) s

/-- vsubsat: signed, clamped, OF (R135). -/
def execVsubsat (f : VR) (s : State) : Out := vsatOp f (· - ·) s

/-- vmac: old + x × y, where old is vd at issue, latency 3 (R136). -/
def execVmac (f : VR) (s : State) : Out :=
  let k := s.cur.kind
  let n := tyBits f.t
  let r := s.srcAB k f
  let old := s.oldD f
  .next (r.1.landV k f 3 (s.active f) (Lanes.of fun i => packElems n (32 / n) fun j =>
    (elem n (old.at i) j + elem n (r.2.1.at i) j * elem n (r.2.2.at i) j) % 2 ^ n))

/-- A dot product of signed packed elements into whole lanes, latency 3 (R137). -/
def vdot (f : VR) (n : Nat) (s : State) : Out :=
  let k := s.cur.kind
  let r := s.srcAB k f
  let old := s.oldD f
  .next (r.1.landV k f 3 (s.active f) (Lanes.of fun i => BitVec.ofInt 32
    ((List.range (32 / n)).foldl (fun (a : Int) j => a + sgn n (elem n (r.2.1.at i) j) * sgn n (elem n (r.2.2.at i) j))
      ((old.at i).toNat : Int))))
/-- vdot4: four byte products (R137). -/
def execVdot4 (f : VR) (s : State) : Out := vdot f 8 s
/-- vdot2: two half products (R137). -/
def execVdot2 (f : VR) (s : State) : Out := vdot f 16 s

/-- vmskl: a lane test into lane mask d[1:0] and the latch (R140). -/
def execVmskl (f : VR) (s : State) : Out :=
  let k := s.cur.kind
  let r := s.srcAB k f
  let v := Lanes.of fun i => if r.2.1.at i &&& r.2.2.at i = 0#32 then 0#32 else 1#32
  let s' := if f.w then r.1 else r.1.landMask s.cur.cluster (f.d.toNat % 4) 1 (s.active f) v
  .next (s'.land 1 (kFlightUnit k) s.cur.cluster 0 1 (s.active f) v)

/-- vsel: all sixteen lanes, a where the mask is set and b elsewhere; of each source the other lanes are not read (R141, 02 R35). -/
def execVsel (f : VR) (s : State) : Out :=
  let k := s.cur.kind
  let a := s.srcA k f (s.active f)
  let b := a.1.srcB k f (~~~s.active f)
  .next (b.1.landV k f 1 0xFFFF#16 (Lanes.merge (s.active f) a.2 b.2))

/-- vpack: narrow with signed saturation; ty names the narrow type (R142). -/
def execVpack (f : VR) (s : State) : Out :=
  let k := s.cur.kind
  let n := tyBits f.t
  let r := s.srcAB k f
  let half := 16 / n
  let v (i j : Nat) : Int :=
    sgn (2 * n) (elem (2 * n) ((if j < half then r.2.1 else r.2.2).at i) (j % half))
  let fl (i : Nat) : Nat := if (List.range (32 / n)).any fun j => satN n (v i j) ≠ v i j then fOF else 0
  let s' := r.1.raise s.cur.cluster (kFlagUnit k) (activeFl (s.active f) fl)
  .next (s'.landV k f 1 (s.active f) (Lanes.of fun i => packElems n (32 / n) fun j => wrap n (satN n (v i j))))

/-- vunpk: widen a half of the lane by sign extension; the half comes from lane 0 of b (R142). -/
def execVunpk (f : VR) (s : State) : Out :=
  let k := s.cur.kind
  let n := tyBits f.t
  let r := s.srcAB k f
  let h := (r.2.2.at 0).toNat % 2
  let w := 2 * n
  .next (r.1.landV k f 1 (s.active f) (Lanes.of fun i => packElems w (32 / w) fun j =>
    wrap w (sgn n (elem n (r.2.1.at i) (32 / w * h + j)))))

/-- vbcast: one element into every element (R143). -/
def execVbcast (f : VR) (s : State) : Out :=
  let k := s.cur.kind
  let n := tyBits f.t
  let r := s.srcAB k f
  let e := (r.2.2.at 0).toNat % (16 * (32 / n))
  .next (r.1.landV k f 1 (s.active f) (Lanes.of fun _ => packElems n (32 / n) fun _ => regElem n (32 / n) r.2.1 e))

/-- vlane: permute lanes by index (R143). -/
def execVlane (f : VR) (s : State) : Out :=
  let k := s.cur.kind
  let r := s.srcAB k f
  .next (r.1.landV k f 1 (s.active f) (Lanes.of fun i => r.2.1.at ((r.2.2.at i).toNat % 16)))

/-- vext: slide the elements by a signed distance, zero from outside (R144). -/
def execVext (f : VR) (s : State) : Out :=
  let k := s.cur.kind
  let n := tyBits f.t
  let r := s.srcAB k f
  let d := (r.2.2.at 0).toInt
  let tot : Int := (16 * (32 / n) : Nat)
  .next (r.1.landV k f 1 (s.active f) (lanesOfElems n fun e =>
    let g : Int := (e : Int) + d
    if 0 ≤ g ∧ g < tot then regElem n (32 / n) r.2.1 g.toNat else 0))

/-- vins: element 0 of va into one element of vd, whose other lanes stay as they are; a push carries the active lanes of vd as
read with that element; nothing is written when its lane is inactive (R144, log 14). -/
def execVins (f : VR) (s : State) : Out :=
  let k := s.cur.kind
  let n := tyBits f.t
  let r := s.srcAB k f
  let old := s.oldD f
  let e := (r.2.2.at 0).toNat % (16 * (32 / n))
  let lane := e / (32 / n)
  let m := if f.w || decide (f.d.toNat < 32) then BitVec.ofNat 16 (2 ^ lane) else s.active f
  .next (if (s.active f).getLsbD lane then
      r.1.landV k f 1 m (lanesOfElems n fun g =>
        if g = e then regElem n (32 / n) r.2.1 0 else regElem n (32 / n) old g)
    else r.1)

end Sys2Proof.Machine
end

