-- ==== Sys2Proof/Machine/VectorFloat.lean ====
section
/-! DEFINITION. The floating-point and conversion instructions of units A and B (07 R161 to R167, 08 R173
to R183). -/

namespace Sys2Proof.Machine

/-- Element functions on float elements: format, rounding mode, x, y, old, the code and the flags. -/
abbrev FloatFn := Fmt → Nat → Fp → Fp → Fp → Nat × Nat

/-- The rounding mode of ctx.rm (07 R154). -/
def State.rmode (s : State) : Nat := s.x.rm.toNat

/-- Land the lanes of element results with flags, under the op's mask (08 R173). -/
def State.landFl (s : State) (k : Kind) (f : VR) (m : BitVec 16) (n lat : Nat) (g : Nat → Nat → Nat × Nat) : State :=
  let fl (i : Nat) : Nat := (List.range (32 / n)).foldl (fun a j => a ||| (g i j).2) 0
  let s := s.raise s.cur.cluster (kFlagUnit k) (activeFl m fl)
  s.landV k f lat m (Lanes.of fun i => packElems n (32 / n) fun j => (g i j).1)

/-- A float op of two sources, with vd as a third when the element function uses it. -/
def vfop (f : VR) (lat : Nat) (g : FloatFn) (s : State) : Out :=
  let k := s.cur.kind
  let n := fltBits f.t
  let r := s.srcAB k f
  let old := s.oldD f
  let fm := tyFmt f.t
  let v (x : Lanes) (i j : Nat) : Fp := fm.dec (elem n (x.at i) j)
  .next (r.1.landFl k f (s.active f) n lat fun i j => g fm s.rmode (v r.2.1 i j) (v r.2.2 i j) (v old i j))
/-- A float op of one source. -/
def vfop1 (f : VR) (lat : Nat) (g : Fmt → Nat → Nat → Nat × Nat) (s : State) : Out :=
  let k := s.cur.kind
  let n := fltBits f.t
  let r := s.srcA k f
  let fm := tyFmt f.t
  .next (r.1.landFl k f (s.active f) n lat fun i j => g fm s.rmode (elem n (r.2.at i) j))

/-- The code of a value that needs no rounding; a NaN becomes the default NaN with NV when signalling. -/
def Fmt.keep (f : Fmt) (x : Nat) (y : Nat) : Nat × Nat :=
  match f.dec x with
  | .nan sig => (f.nanBits, if sig then fNV else 0)
  | _ => (y, 0)

/-- vfadd (R176). -/
def execVfadd (f : VR) (s : State) : Out := vfop f 4 (fun fm rm x y _ => fm.rnd rm (Fp.sum rm [x, y])) s
/-- vfsub (R176). -/
def execVfsub (f : VR) (s : State) : Out := vfop f 4 (fun fm rm x y _ => fm.rnd rm (Fp.sum rm [x, y.neg])) s
/-- vfmul (R176). -/
def execVfmul (f : VR) (s : State) : Out := vfop f 4 (fun fm rm x y _ => fm.rnd rm (x.mul y)) s
/-- vfma: x × y + old, rounded once (R177). -/
def execVfma (f : VR) (s : State) : Out := vfop f 4 (fun fm rm x y o => fm.fma rm x y o) s
/-- vfms: old − x × y, rounded once (R177). -/
def execVfms (f : VR) (s : State) : Out := vfop f 4 (fun fm rm x y o => fm.fma rm x.neg y o) s
/-- vfmin (R178). -/
def execVfmin (f : VR) (s : State) : Out := vfop f 2 (fun fm _ x y _ => fm.rnd 0 (Fp.pick false x y)) s
/-- vfmax (R178). -/
def execVfmax (f : VR) (s : State) : Out := vfop f 2 (fun fm _ x y _ => fm.rnd 0 (Fp.pick true x y)) s
/-- vfabs (R179). -/
def execVfabs (f : VR) (s : State) : Out :=
  vfop1 f 1 (fun fm _ x => fm.keep x (x % 2 ^ (fm.width - 1))) s
/-- vfneg (R179). -/
def execVfneg (f : VR) (s : State) : Out :=
  vfop1 f 1 (fun fm _ x => fm.keep x ((x + 2 ^ (fm.width - 1)) % 2 ^ fm.width)) s

/-- The six condition bits of vfcmp (R180). -/
def fcmpBits (x y : Fp) : Nat :=
  if x.isNan || y.isNan then 8
  else match x.cmp y with
    | .eq => 1 + 16 + 32
    | .lt => 2 + 16
    | .gt => 4 + 32
/-- vfcmp (R180). -/
def execVfcmp (f : VR) (s : State) : Out := vfop f 2 (fun _ _ x y _ => (fcmpBits x y, sigFlag [x, y])) s

/-- The class bit of vfcls (R181). -/
def fclass (fm : Fmt) (x : Nat) : Nat :=
  match fm.dec x with
  | .nan sig => if sig then 256 else 512
  | .inf n => if n then 1 else 128
  | .fin n m _ =>
    if m = 0 then (if n then 8 else 16)
    else if m < 2 ^ fm.fb then (if n then 4 else 32)
    else (if n then 2 else 64)
/-- vfcls (R181). -/
def execVfcls (f : VR) (s : State) : Out := vfop1 f 1 (fun fm _ x => (fclass fm x, 0)) s

/-- x × 2^k; exponents beyond ±2,000 round alike in every format of a lane (R182). -/
def Fp.scale (x : Fp) (k : Int) : Fp :=
  match x with
  | .fin n m e => .fin n m (e + max (-2000) (min 2000 k))
  | v => v
/-- vfscl: k is the element of b as a signed integer (R182). -/
def execVfscl (f : VR) (s : State) : Out :=
  let k := s.cur.kind
  let n := fltBits f.t
  let r := s.srcAB k f
  let fm := tyFmt f.t
  .next (r.1.landFl k f (s.active f) n 2 fun i j =>
    fm.enc s.rmode ((fm.dec (elem n (r.2.1.at i) j)).scale (sgn n (elem n (r.2.2.at i) j))))

/-- vfrnd: to an integral value in the same format, NX never set (07 R165). -/
def execVfrnd (f : VR) (s : State) : Out :=
  let mode := if f.b.getLsbD 2 then (f.b.extractLsb' 0 2).toNat else s.rmode
  vfop1 f 2 (fun fm _ x =>
    match fm.dec x with
    | .fin n m e =>
      let r := roundTo mode n m e 0
      ((fm.enc 0 (.fin n r.1 0)).1, 0)
    | _ => fm.keep x x) s

/-! ## Reductions (A only) -/

/-- A reduction of the active lanes with lane 0 of b, broadcast to the active lanes (R183). With no active lane it writes no
register and no latch, and a stream receives a chunk of zeros. Its result belongs to no one lane: a flag that R172 reports names
every active lane (DESIGN CHOICE, log 58). -/
def vreduce (f : VR) (g : Fmt → Nat → List Fp → Nat × Nat) (s : State) : Out :=
  let k := s.cur.kind
  let n := fltBits f.t
  let r := s.srcAB k f
  let fm := tyFmt f.t
  let m := s.active f
  let acts := (List.range 16).filter fun i => m.getLsbD i
  let res (j : Nat) : Nat × Nat :=
    g fm s.rmode (acts.map (fun i => fm.dec (elem n (r.2.1.at i) j)) ++ [fm.dec (elem n (r.2.2.at 0) j)])
  .next (if m = 0#16 then r.1.landNone k f 4 else r.1.landFl k f m n 4 fun _ j => res j)
/-- The largest or smallest of a list by vfmax and vfmin. -/
def pickAll (mx : Bool) (fm : Fmt) (l : List Fp) : Nat × Nat :=
  match l with
  | [] => (0, 0)
  | x :: xs =>
    let r := xs.foldl (fun a y => let p := Fp.pick mx a.1 y; (p.1, a.2 ||| p.2)) (x, sigFlag [x])
    fm.rnd 0 r
/-- vrsum: the exact sum rounded once; an exact zero is −0 when every term is, and in the mode toward −∞ (R183). -/
def execVrsum (f : VR) (s : State) : Out :=
  vreduce f (fun fm rm l => fm.rnd rm (Fp.sumZ (l.all (fun x => x.isZero && x.neg?) || decide (rm = 3)) l)) s
/-- vrmax (R183). -/
def execVrmax (f : VR) (s : State) : Out := vreduce f (fun fm _ l => pickAll true fm l) s
/-- vrmin (R183). -/
def execVrmin (f : VR) (s : State) : Out := vreduce f (fun fm _ l => pickAll false fm l) s

/-! ## Conversions (07 R161 to R167) -/

/-- The float format of a lane code (R161). -/
def laneFmt : Nat → Fmt
  | 0 => .f32 | 1 => .bf16 | 2 => .f16 | 3 => .e4m3 | 4 => .e5m2
  | _ => .l6

/-- A conversion of the elements of a lane by R162: per-lane counts, part index, element conversion; elements that are not
mapped keep the old value of vd. -/
def vconvert (f : VR) (ps pd : Nat) (g : Nat → Nat → Nat × Nat) (s : State) : Out :=
  let k := s.cur.kind
  let r := s.srcA k f
  let old := s.oldD f
  let h := f.t.toNat
  let ws := 32 / ps
  let wd := 32 / pd
  .next (r.1.landFl k f (s.active f) wd 2 fun i j =>
    if ps < pd then
      (if ps * h ≤ j ∧ j < ps * h + ps then g s.rmode (elem ws (r.2.at i) (j - ps * h)) else (elem wd (old.at i) j, 0))
    else if pd < ps then g s.rmode (elem ws (r.2.at i) (pd * h + j))
    else g s.rmode (elem ws (r.2.at i) j))
/-- vcvt (R163). -/
def execVcvt (f : VR) (s : State) : Out :=
  let a := (f.b.extractLsb' 3 3).toNat
  let d := (f.b.extractLsb' 0 3).toNat
  vconvert f (fltPer a) (fltPer d) (fun rm x => (laneFmt d).enc rm ((laneFmt a).dec (x % 2 ^ (laneFmt a).width))) s
/-- Width of an integer lane code (R161). -/
def intBits (c : Nat) : Nat := if c = 0 then 32 else if c = 1 then 16 else 8
/-- vfcvti: float to integer, saturating with NV (R164). -/
def execVfcvti (f : VR) (s : State) : Out :=
  let a := (f.b.extractLsb' 3 3).toNat
  let d := (f.b.extractLsb' 1 2).toNat
  vconvert f (fltPer a) (intPer d)
    (fun rm x => toIntFmt (intBits d) (f.b.getLsbD 0) rm ((laneFmt a).dec (x % 2 ^ (laneFmt a).width))) s
/-- vicvtf: integer to float (R164). -/
def execVicvtf (f : VR) (s : State) : Out :=
  let d := (f.b.extractLsb' 3 3).toNat
  let a := (f.b.extractLsb' 1 2).toNat
  vconvert f (intPer a) (fltPer d) (fun rm x => (laneFmt d).enc rm (ofInt (intOf (intBits a) (f.b.getLsbD 0) x))) s

/-- The MX format of the lm field (R166). -/
def mxOfLm (m : BitVec 2) : Mx := if m = 0#2 then .fp4 else if m = 1#2 then .int8 else .l6
/-- The lanes of a quantised block (R166). -/
def mxLanes (k : Mx) (scale : Nat) (codes : List Nat) : Lanes :=
  Lanes.of fun i =>
    match k with
    | .fp4 => if i < 4 then packElems 4 8 (fun m => codes.getD (8 * i + m) 0) else if i = 4 then BitVec.ofNat 32 scale else 0#32
    | _ => if i < 8 then packElems 8 4 (fun m => codes.getD (4 * i + m) 0) else if i = 8 then BitVec.ofNat 32 scale else 0#32
/-- vqmx: one block of 32 values, without a lane mask (R166). A flag is reported for all sixteen lanes (DESIGN CHOICE, log 58). -/
def execVqmx (f : VR) (s : State) : Out :=
  let k := s.cur.kind
  let n := fltBits f.t
  let fm := tyFmt f.t
  let r := if f.t = 0#2 then s.srcAB k f 0xFFFF#16 else (let q := s.srcA k f 0xFFFF#16; (q.1, q.2, q.2))
  let vals := (List.range 32).map fun e =>
    fm.dec (if n = 32 then (if e < 16 then r.2.1.at e else r.2.2.at (e - 16)).toNat else regElem 16 2 r.2.1 e)
  let mk := mxOfLm f.m
  let q := mk.quant vals
  let s' := r.1.raise s.cur.cluster (kFlagUnit k) (fun _ => q.2.2)
  .next (s'.landV k f 4 0xFFFF#16 (mxLanes mk q.1 q.2.1))
/-- vdqmx: the values of a block, converted to ty in RNE, without a lane mask (R167). -/
def execVdqmx (f : VR) (s : State) : Out :=
  let k := s.cur.kind
  let n := fltBits f.t
  let fm := tyFmt f.t
  let r := if f.t = 0#2 then s.srcAB k f 0xFFFF#16 else (let q := s.srcA k f 0xFFFF#16; (q.1, q.2, q.2))
  let mk := mxOfLm f.m
  let h := if n = 32 then (r.2.2.at 0).toNat % 2 else 0
  let scale := (r.2.1.at (if mk = .fp4 then 4 else 8)).toNat % 256
  let code (e : Nat) : Nat := if mk = .fp4 then elem 4 (r.2.1.at (e / 8)) (e % 8) else elem 8 (r.2.1.at (e / 4)) (e % 4)
  let per := 32 / n
  .next (r.1.landFl k f 0xFFFF#16 n 4 fun i j => fm.enc 0 (mk.dec scale (code (16 * h + per * i + j))))

end Sys2Proof.Machine
end

