-- ==== Sys2Proof/Machine/LocalMem.lean ====
section
/-! DEFINITION. The M and X kinds: scratchpad loads and stores, full/empty bits, stream control, engine fences,
cross-cluster moves and the transpose unit (09 R190 to R211). Stores and bits take effect when the bundle commits. -/

namespace Sys2Proof.Machine

/-- A pitch offset: 21 bits (09). -/
def off21 (v : Word) : Nat := v.toNat % 2 ^ 21

/-- Note the lines that the M ops of the bundle touch (R192). -/
def State.touch (s : State) (l : List Nat) : State := s.setCur { s.cur with lines := s.cur.lines ++ l }

/-- Note the empty lines that a load of the bundle waits for (R194). -/
def State.waitLines (s : State) (l : List Nat) : State := s.setCur { s.cur with empties := s.cur.empties ++ l }

/-- The offset each active lane reaches, by lane number (R203). -/
def laneAccesses (m : BitVec 16) (x : Nat → Nat) : List Access :=
  ((List.range 16).filter fun i => m.getLsbD i).map fun i => (i, x i % 2 ^ 21, 4)

/-- The offsets of vld and vst: 64 bytes at A (R203). -/
def unitOff (a b : Lanes) (i : Nat) : Nat := off21 (a.at 0 + b.at 0) + 4 * i
/-- The offsets of vlds and vsts: a base and a signed stride (R203). -/
def strideOff (a b : Lanes) (i : Nat) : Nat := off21 (a.at 0 + BitVec.ofNat 32 i * b.at 0)
/-- The offsets of vldx and vstx: a base and an index for each lane (R203). -/
def indexOff (a b : Lanes) (i : Nat) : Nat := off21 (a.at 0 + b.at i)
/-- The offset of vldb: A for every lane (R203). -/
def sameOff (a b : Lanes) (_ : Nat) : Nat := off21 (a.at 0 + b.at 0)

/-- A masked load (R203): R191's check, a wait while a line it touches is empty (R194), the words at latency 4. -/
def mload (f : VR) (x : Lanes → Lanes → Nat → Nat) (mis : Lanes → Lanes → Access → Bool) (s : State) : Out :=
  let r := s.srcAB .M f
  let m := s.active f
  let acc := laneAccesses m (x r.2.1 r.2.2)
  .next (match r.1.padCheckM (mis r.2.1 r.2.2) acc with
    | .error t => t
    | .ok base =>
      let lines := acc.map fun y => (base + y.2.1) / 128
      let t := r.1.touch lines
      let t := if lines.all t.full then t else (t.waitLines (lines.filter fun n => !t.full n)).wait 1
      t.landV .M f 4 m (Lanes.of fun i => BitVec.ofNat 32 (s.padNat (base + x r.2.1 r.2.2 i % 2 ^ 21) 4)))

/-- A masked store of the source in d (R203), written when the bundle commits; a higher lane is kept (R195). -/
def mstore (f : VR) (x : Lanes → Lanes → Nat → Nat) (mis : Lanes → Lanes → Access → Bool) (s : State) : Out :=
  let r := s.srcAB .M f
  let d := r.1.src .M s.cur.cluster f.d (s.active f)
  let acc := laneAccesses (s.active f) (x r.2.1 r.2.2)
  .next (match d.1.padCheckM (mis r.2.1 r.2.2) acc with
    | .error t => t
    | .ok base =>
      (d.1.touch (acc.map fun y => (base + y.2.1) / 128)).post
        (.store (acc.map fun y => (base + y.2.1, natBytes 4 (d.2.at y.1).toNat))))

/-- vld and vst need a 64-aligned A. -/
def misUnit (a b : Lanes) (_ : Access) : Bool := !decide (off21 (a.at 0 + b.at 0) % 64 = 0)
/-- The others need word alignment of every lane. -/
def misWord (_ _ : Lanes) (y : Access) : Bool := !decide (y.2.1 % 4 = 0)

/-- vld (R203). -/
def execVld (f : VR) (s : State) : Out := mload f unitOff misUnit s
/-- vst (R203). -/
def execVst (f : VR) (s : State) : Out := mstore f unitOff misUnit s
/-- vlds (R203). -/
def execVlds (f : VR) (s : State) : Out := mload f strideOff misWord s
/-- vsts (R203). -/
def execVsts (f : VR) (s : State) : Out := mstore f strideOff misWord s
/-- vldx (R203). -/
def execVldx (f : VR) (s : State) : Out := mload f indexOff misWord s
/-- vstx (R203). -/
def execVstx (f : VR) (s : State) : Out := mstore f indexOff misWord s
/-- vldb (R203). -/
def execVldb (f : VR) (s : State) : Out := mload f sameOff misWord s

/-- vldt: 64 bytes at A whatever the bit; mask ln takes the bit (R204). -/
def execVldt (f : VR) (s : State) : Out :=
  let r := s.srcAB .M f 0xFFFF#16
  let a := off21 (r.2.1.at 0 + r.2.2.at 0)
  let acc : List Access := (List.range 16).map fun i => (i, (a + 4 * i) % 2 ^ 21, 4)
  .next (match r.1.padCheckM (misUnit r.2.1 r.2.2) acc with
    | .error t => t
    | .ok base =>
      let line := (base + a) / 128
      let t := r.1.touch [line]
      let t := t.landV .M f 4 0xFFFF#16 (lanesOfBytes (s.padRead (base + a) 64))
      t.landMask s.cur.cluster f.m.toNat 4 0xFFFF#16 (Lanes.of fun _ => if s.full line then 1#32 else 0#32))

/-- fefill and feempty (R205): n lines from L, n from 1 to 128. They have no lanes, and a bounds fault records lane 0's bit with
the offset of the first line, which R191 leaves open (DESIGN CHOICE, log 58). -/
def setLines (f : VR) (full : Bool) (s : State) : Out :=
  let r := s.srcAB .M f 0xFFFF#16
  let a := off21 (r.2.1.at 0)
  let n := (r.2.2.at 0).toNat
  .next (if n = 0 || decide (128 < n) then r.1.illOperand .M 6
    else match r.1.padCheck 128 [(0, a, 128 * n)] with
      | .error t => t
      | .ok base => (List.range n).foldl (fun t i => t.post (.line (base / 128 + a / 128 + i) full)) r.1)
/-- fefill (R205). -/
def execFefill (f : VR) (s : State) : Out := setLines f true s
/-- feempty (R205). -/
def execFeempty (f : VR) (s : State) : Out := setLines f false s

/-- fetest: the full bits of the lines from A div 128, one for each active lane, into mask d[1:0] and w2; a line past the last
one of the address space lies outside every pitch (R205). -/
def execFetest (f : VR) (s : State) : Out :=
  let r := s.srcAB .M f
  let l := off21 (r.2.1.at 0 + r.2.2.at 0) / 128
  let m := s.active f
  let acc : List Access := ((List.range 16).filter fun i => m.getLsbD i).map fun i => (i, (l + i) * 128, 128)
  .next (match r.1.padCheckM (fun _ => false) acc with
    | .error t => t
    | .ok base =>
      let v := Lanes.of fun i => if s.full (base / 128 + (l + i)) then 1#32 else 0#32
      let t := if f.w then r.1 else r.1.landMask s.cur.cluster (f.d.toNat % 4) 1 m v
      t.land 1 3 s.cur.cluster 0 1 m v)

/-! ## Streams -/

/-- The stream as it stands after the pops and stream effects of the bundle so far (R202). -/
def State.streamNow (s : State) (q : Nat) : Stream :=
  let r := s.core.stream q
  let r := { r with head := r.head + BitVec.ofNat 32 (countOf q s.cur.pops) }
  s.cur.posts.foldl (fun r p => match p with
    | .stream n v c => if n = q then { v with head := v.head + BitVec.ofNat 32 (countOf q s.cur.pops - c) } else r
    | _ => r) r

/-- Codes that mfmt may hold (R199). -/
def mfmtOk (c : Nat) : Bool := decide (c ≤ 11)
/-- Codes that a lane format may hold for a memory format (R198, R199): raw with an unscaled memory format; a push into an MX
format from BF16 or FP16. -/
def laneFmtOk (push : Bool) (c m : Nat) : Bool :=
  let base := [0, 1, 2, 9, 10, 11].contains c
  let mx := (mxOfCode m).isSome
  if c = 15 then !mx else if push && mx then c = 1 || c = 2 else base

/-- The stream a descriptor of 32 bytes describes, with pitch-relative lines (R198), or none when it is malformed. -/
def streamOfDesc (b : List Byte) : Option Stream :=
  let n (o k : Nat) : Nat := leNat ((b.drop o).take k)
  let base := n 0 2
  let k := n 2 1
  let m := n 3 1
  let f := n 4 1
  let ss := n 5 1
  let sb := n 6 2
  let r : Stream := ⟨true, base % 2 ^ 14, k % 16, m % 16, f % 16, f / 16, ss % 8, sb % 2 ^ 14,
    BitVec.ofNat 32 (n 8 4), BitVec.ofNat 32 (n 12 4)⟩
  if decide (2 ^ 14 ≤ base) || decide (14 < k) || decide (16 ≤ m) || decide (8 ≤ ss) || decide (2 ^ 14 ≤ sb) ||
      !((b.drop 16).all fun x => x = 0#8) || !mfmtOk r.mfmt || !laneFmtOk false r.popf r.mfmt ||
      !laneFmtOk true r.pushf r.mfmt || !decide (r.base % 2 ^ r.k = 0) || decide (r.capacity < r.fill) then none
  else some r

/-- The bytes of the ring and of the scale area of a stream with pitch-relative lines (R200). -/
def Stream.areas (r : Stream) : List (Nat × Nat) :=
  (r.base * 128, 128 * 2 ^ r.k) ::
  (if (mxOfCode r.mfmt).isSome then
    [(r.sbase * 128, (r.capacity / 32 - 1) * 2 ^ r.sstr + 1)] else [])

/-- Do something with a stream that the context's pitch owns, or raise stream-unbound (R198). -/
def State.withStream (s : State) (q : Nat) (bound : Bool) (k : Stream → State) : State :=
  match s.pitch with
  | none => s.causeI 8 0x40 (padInfo s.cur.cluster [])
  | some p => if p.qset.getLsbD q && (!bound || (s.streamNow q).bound) then k (s.streamNow q) else s.cause 0x98

/-- sbind: bind a stream from the descriptor at A (R198, R206). Neither rule says what a lane mask does to sbind, sfmt or sadv:
they act, and raise their causes, whatever the mask, lane 0 left out of it or not; and R191 names no lane for a fault of an op
without lanes: lane 0's bit is recorded, with the offset of the descriptor, ring or scale area (DESIGN CHOICE, log 58). -/
def execSbind (f : VR) (s : State) : Out :=
  let r := s.srcAB .M f
  let q := f.d.toNat % 16
  let a := off21 (r.2.1.at 0 + r.2.2.at 0)
  .next (match r.1.padCheck 32 [(0, a, 32)] with
    | .error t => t
    | .ok base => r.1.withStream q false fun _ =>
      match streamOfDesc (s.padRead (base + a) 32) with
      | none => r.1.cause 0x9A
      | some d =>
        match r.1.padCheck 1 (d.areas.map fun x => (0, x.1, x.2)) with
        | .error t => t
        | .ok _ => (r.1.touch [(base + a) / 128]).post
            (.stream q { d with base := d.base + base / 128, sbase := d.sbase + base / 128 } (2 ^ 32)))

/-- sfmt: the pop and push formats, checked, whatever the lane mask (R206; DESIGN CHOICE, log 58). -/
def execSfmt (f : VR) (s : State) : Out :=
  let r := s.srcA .M f
  let q := f.d.toNat % 16
  let v := (r.2.at 0).toNat
  .next (r.1.withStream q true fun d =>
    if laneFmtOk false (v % 16) d.mfmt && laneFmtOk true (v / 16 % 16) d.mfmt then
      r.1.post (.stream q { d with popf := v % 16, pushf := v / 16 % 16 } (countOf q r.1.cur.pops))
    else r.1.cause 0x9A)

/-- sadv: advance head or tail, whatever the lane mask (R206; DESIGN CHOICE, log 58). A head beyond tail, or a fill beyond the
capacity, is stream-overrun. -/
def execSadv (f : VR) (s : State) : Out :=
  let r := s.srcAB .M f
  let q := f.d.toNat % 16
  let m := r.2.1.at 0
  .next (r.1.withStream q true fun d =>
    let tail := (r.2.2.at 0).getLsbD 0
    if (if tail then decide (d.capacity < d.fill + m.toNat) else decide (d.fill < m.toNat)) then r.1.cause 0x99
    else r.1.post (.stream q (if tail then { d with tail := d.tail + m } else { d with head := d.head + m })
      (countOf q r.1.cur.pops)))

/-! ## Engine fences (R208) -/

/-- Every vector store of the context becomes visible to the engines. -/
def State.seeAll (s : State) : State := s.setX { s.x with unseen := [] }
/-- efence (R208). -/
def execEfence (_ : VR) (s : State) : Out := .next s.seeAll
/-- efence.rd: waits also until every engine command of the context has read its source bytes (R208). -/
def execEfenceRd (_ : VR) (s : State) : Out :=
  .next (if s.core.cmds.any fun c => c.ctx = s.xn && c.rd.isSome && !c.rdDone then s.wait 6 else s.seeAll)

/-! ## The X kind -/

/-- Source a of an X op for a cluster: a register of that cluster; any other code is read in the op's own cluster (R209, log
15). -/
def State.xregOr (s : State) (f : VR) (own : Lanes) (cl : Nat) : Lanes :=
  if f.a.toNat < 32 then s.x.vreg (cl % 8) f.a.toNat else own

/-- A cross-cluster move: the value of lane i from source a by cluster, lane and the lanes of b. -/
def xmove (f : VR) (g : (Nat → Lanes) → Nat → Lanes → Nat → Word) (s : State) : Out :=
  let ra := s.src .X s.cur.cluster f.a (s.active f)
  let rb := ra.1.srcB .X f
  let v := Lanes.of (g (s.xregOr f ra.2) s.cur.cluster rb.2)
  .next ((rb.1.capture f.h .X s.cur.cluster 0 v).landV .X f 1 (s.active f) v)
/-- xcp: from cluster p[2:0] (R210). -/
def execXcp (f : VR) (s : State) : Out := xmove f (fun va _ b i => (va ((b.at 0).toNat % 8)).at i) s
/-- xbc: lane p[3:0] of cluster p[6:4] to every lane (R210). -/
def execXbc (f : VR) (s : State) : Out :=
  xmove f (fun va _ b _ => (va ((b.at 0).toNat / 16 % 8)).at ((b.at 0).toNat % 16)) s
/-- xrot: from cluster (c + p[2:0]) mod 8 (R210). -/
def execXrot (f : VR) (s : State) : Out := xmove f (fun va c b i => (va ((c + (b.at 0).toNat % 8) % 8)).at i) s
/-- xshf: cluster s[6:4], lane s[3:0], with s from lane i of b (R210). -/
def execXshf (f : VR) (s : State) : Out :=
  xmove f (fun va _ b i => (va ((b.at i).toNat / 16 % 8)).at ((b.at i).toNat % 16)) s

/-- xred: a reduction over the eight clusters (R210). -/
def execXred (f : VR) (s : State) : Out :=
  let ra := s.srcA .X f
  let rb := ra.1.srcB .X f
  let fn := (rb.2.at 0).toNat % 4
  let at_ (i c : Nat) : Nat := ((s.xregOr f ra.2 c).at i).toNat
  let col (i : Nat) : List Nat := (List.range 8).map (at_ i)
  let g (i : Nat) : Nat × Nat :=
    match fn with
    | 0 => ((col i).foldl (· + ·) 0 % 2 ^ 32, 0)
    | 1 => Fmt.f32.rnd 0 (Fp.sum 0 ((col i).map Fmt.f32.dec))
    | 2 => (wrap 32 ((col i).foldl (fun a x => max a (sgn 32 x)) (-(2 ^ 31 : Nat))), 0)
    | _ => pickAll true .f32 ((col i).map Fmt.f32.dec)
  .next (rb.1.landFl .X f (s.active f) 32 4 fun i _ => g i)

/-- trpi: lane j of va into row (r + c) mod 16 of the transpose buffer, landing after 16 bundles (R211). -/
def execTrpi (f : VR) (s : State) : Out :=
  let r := s.srcAB .X f
  let row := ((r.2.2.at 0).toNat % 16 + s.cur.cluster) % 16
  .next (r.1.land 16 5 s.cur.cluster row 1 (s.active f) r.2.1)
/-- trpo: column k + c of the transpose buffer as it stands at issue (R211). -/
def execTrpo (f : VR) (s : State) : Out :=
  let r := s.srcA .X f
  let col := ((r.2.at 0).toNat % 16 + s.cur.cluster) % 16
  .next (r.1.landV .X f 16 (s.active f) (Lanes.of fun i => (Map.get Lanes.zero s.x.tbuf i).at col))

end Sys2Proof.Machine
end

