-- ==== Sys2Proof/Machine/Landing.lean ====
section
/-! DEFINITION. Landing of results (03 R71, R73, R76): one result, those due, and all of them before a strand gives up the
issue path. -/

namespace Sys2Proof.Machine

/-- The bytes a pushed chunk leaves at a ring address, by half bytes for MXFP4 (09 R200). -/
def State.ringStore (s : State) (r : Stream) : Nat → List Nat → State
  | _, [] => s
  | e, c :: cs =>
    let nb := r.nibble e
    let s :=
      if r.mfmt = 6 then
        let old := s.padNat (nb / 2) 1
        s.padWrite (nb / 2) [BitVec.ofNat 8 (if nb % 2 = 1 then old % 16 + 16 * c else old / 16 * 16 + c)]
      else s.padWrite (nb / 2) (natBytes (codeBytes r.mfmt) c)
    s.ringStore r (e + 1) cs

/-- A push made at its landing (09 R202): the chunk is written, the scale of an MX block with it, and tail advances. -/
def State.landPush (s : State) (q : Nat) (v : Lanes) : State :=
  let r := s.core.stream q
  let c := pushCodes r v
  let s := s.ringStore r r.tail.toNat c.1
  let s := if (mxOfCode r.mfmt).isSome then s.padWrite (r.scaleAt (r.tail.toNat / 32)) [BitVec.ofNat 8 c.2.1] else s
  s.setCore { s.core with
    streams := Map.set Stream.unbound s.core.streams q { r with tail := r.tail + BitVec.ofNat 32 c.1.length } }

/-- A vector register written under a lane mask. -/
def Ctx.landV (c : Ctx) (cl n : Nat) (m : BitVec 16) (v : Lanes) : Ctx :=
  { c with v := Map.set Lanes.zero c.v (32 * cl + n) (Lanes.merge m v (c.vreg cl n)) }
/-- A latch written under a lane mask; it is valid from then on (03 R58), be it that no lane is active (DEDUCED, log 58). -/
def Ctx.landLatch (c : Ctx) (cl u : Nat) (m : BitVec 16) (v : Lanes) : Ctx :=
  { c with latch := Map.set Lanes.zero c.latch (4 * cl + u) (Lanes.merge m v (c.latchOf cl u)),
           latchOk := c.latchOk ||| BitVec.ofNat 32 (2 ^ (4 * cl + u)) }

/-- A result of a context lands in its own registers; a push is left to the core. -/
def Ctx.landOne (c : Ctx) (f : Flight) : Ctx :=
  if f.what = 3 then c
  else if f.unit = 0 then
    (if 32 ≤ f.dest then c.setP (f.dest - 32) ((f.val.at 0).getLsbD 0) else c.setS f.dest (dwordOfLanes f.val))
  else if f.unit = 6 then
    let v := maskMerge f.lanes f.val (c.lmask f.cluster f.dest)
    if f.dest = 0 then c else { c with l := Map.set 0 c.l (4 * f.cluster + f.dest) v }
  else if f.unit = 5 && f.what = 1 then
    { c with tbuf := Map.set Lanes.zero c.tbuf f.dest (Lanes.merge f.lanes f.val (Map.get Lanes.zero c.tbuf f.dest)) }
  else
    let c := if f.what = 1 then c else c.landV f.cluster f.dest f.lanes f.val
    if f.what = 0 then c else c.landLatch f.cluster (f.unit - 1) f.lanes f.val

/-- A result lands. -/
def State.landOne (s : State) (f : Flight) : State :=
  if f.what = 3 then s.landPush f.dest f.val else s.setX (s.x.landOne f)

/-- Every result whose number has come lands, in the order of issue (R73). -/
def State.landDue (s : State) : State :=
  let due := s.x.flight.filter fun f => decide (f.due ≤ s.x.bno)
  let s := s.setX { s.x with flight := s.x.flight.filter fun f => !decide (f.due ≤ s.x.bno) }
  due.foldl State.landOne s

/-- Results ordered by their numbers, for equal numbers in the order of issue: `n` is the largest distance in bundles. -/
def byDue (fl : List Flight) (bno : Nat) : Nat → List Flight
  | 0 => fl.filter fun f => decide (f.due ≤ bno)
  | n + 1 => byDue fl bno n ++ fl.filter fun f => decide (f.due = bno + (n + 1))

/-- Every result in flight lands before the strand gives up the issue path, holds and latches become invalid (R58, R76), and the
transpose buffer reads as zero (09 R211, log 49). -/
def State.landAll (s : State) : State :=
  let fl := byDue s.x.flight s.x.bno 16
  let s := s.setX { s.x with flight := [] }
  let s := fl.foldl State.landOne s
  s.setX { s.x with holds := [], latchOk := 0, tbuf := [] }

end Sys2Proof.Machine
end

