-- ==== Sys2Proof/Machine/Csr.lean ====
section
/-! DEFINITION. The control registers by number (04 R102 to R105, and the chapters that assign numbers): which exist, what
csrr reads, who may write, and what a csrw sets field by field (00 R7). -/

namespace Sys2Proof.Machine

/-- The numbers that some chapter assigns (R102, R103, 05 R109, R117, 08 R169, 09 R207, 12 R264, 15 R327, R328, 18 R373, R380).
-/
def csrKnown (n : Nat) : Bool :=
  [0x000, 0x008, 0x010, 0x020, 0x022, 0x024, 0x048, 0x110, 0x111, 0x140, 0x141, 0x150].contains n ||
  (0x011 ≤ n && n ≤ 0x01C) || (0x030 ≤ n && n ≤ 0x035) || (0x038 ≤ n && n ≤ 0x03B) || (0x040 ≤ n && n ≤ 0x047) ||
  (0x100 ≤ n && n ≤ 0x103) || (0x120 ≤ n && n ≤ 0x13F)

/-- Writing the register needs privilege: the core registers (R102) and the trap registers but ctx.tsave0–3 (18 R371). -/
def csrPriv (n : Nat) : Bool := decide (0x100 ≤ n) || (0x030 ≤ n && n ≤ 0x035)

/-- Level k of the loop unit. -/
def Level.zero : Level := ⟨0, 0, 0, false⟩
/-- Level k of a context. -/
def Ctx.level (c : Ctx) (k : Nat) : Level := Map.get Level.zero c.levels k
/-- Replace level k of a context. -/
def Ctx.setLevel (c : Ctx) (k : Nat) (l : Level) : Ctx := { c with levels := Map.set Level.zero c.levels k l }

/-- ctx.lctl (R103). -/
def Ctx.lctl (c : Ctx) : Dword :=
  BitVec.ofNat 64 (c.depth + (if c.sk then 8 else 0) +
    (List.range 4).foldl (fun a k => a + (if (c.level k).p then 2 ^ (4 + k) else 0)) 0)

/-- core.iwa and core.iwb (R102): the window base and the bound bit. DESIGN CHOICE (log 3): the base of an unbound half reads as
0. -/
def windowReg : Option (BitVec 41) → Dword
  | none => 0
  | some b => (b.setWidth 64 <<< 15) ||| 1#64

/-- A bank nothing has claimed. -/
def Bank.empty : Bank := ⟨0, 0, 0, []⟩
/-- Bank b of the matrix unit. -/
def CoreSt.bank (c : CoreSt) (b : Nat) : Bank := Map.get Bank.empty c.banks b

/-- core.mxb0 and core.mxb1: zero to a context whose pitch does not own the bank (12 R264). The flags are kept as bits NV 0, OF
1, UF 2, NX 3. -/
def State.mxb (s : State) (b : Nat) : Dword :=
  let k := s.core.bank b
  if k.owner = 0 || !decide (k.owner = s.x.pitch % 128) then 0
  else BitVec.ofNat 64 (1 + k.mode * 4 + k.flags * 16 + k.owner * 256)

/-- The value csrr reads (R105). -/
def State.csrRead (s : State) (n : Nat) : Dword :=
  let c := s.x
  if n = 0x000 then BitVec.ofNat 64 (s.xn % 8 + s.core.num * 8 + s.core.die * 1024)
  else if n = 0x008 then c.rm.setWidth 64
  else if n = 0x010 then c.lctl
  else if n ≤ 0x014 then (c.level (n - 0x011)).count.setWidth 64
  else if n ≤ 0x018 then addrDword (c.level (n - 0x015)).start
  else if n ≤ 0x01C then addrDword (c.level (n - 0x019)).fin
  else if n = 0x020 then c.brec
  else if n = 0x022 then c.dtgt
  else if n = 0x024 then c.rtile
  else if n = 0x030 then addrDword c.tvec
  else if n = 0x031 then c.cause.setWidth 64
  else if n = 0x032 then c.fmask.setWidth 64
  else if n = 0x033 then addrDword c.tpc
  else if n = 0x034 then c.tinfo
  else if n = 0x035 then BitVec.ofNat 64 (c.h.toNat + 2 * c.priv.toNat + 4 * c.sp.toNat)
  else if n ≤ 0x03B then Map.get 0 c.tsave (n - 0x038)
  else if n ≤ 0x047 then (c.vst (n - 0x040)).setWidth 64
  else if n = 0x048 then
    BitVec.ofNat 64 ((List.range 8).foldl (fun a k => a ||| (c.vst k).toNat % 64) 0)
  else if n = 0x100 then BitVec.ofNat 64 s.core.maxrun
  else if n = 0x101 then BitVec.ofNat 64 s.core.deadline
  else if n = 0x102 then BitVec.ofNat 64 s.core.slice
  else if n = 0x103 then s.core.wdog.setWidth 64
  else if n = 0x110 then windowReg s.core.iwA
  else if n = 0x111 then windowReg s.core.iwB
  else if n ≤ 0x12F then (s.core.stream (n - 0x120)).head.setWidth 64
  else if n ≤ 0x13F then (s.core.stream (n - 0x130)).tail.setWidth 64
  else if n = 0x140 then s.mxb 0
  else if n = 0x141 then s.mxb 1
  else if n = 0x150 then BitVec.ofNat 64 s.core.rres
  else 0

/-- The fields of ctx.lctl written whole (R103): a depth of 5 to 7 leaves the depth. -/
def Ctx.setLctl (c : Ctx) (v : Dword) : Ctx :=
  let c := { c with sk := v.getLsbD 3, depth := if bits v 0 3 ≤ 4 then bits v 0 3 else c.depth }
  (List.range 4).foldl (fun c k => c.setLevel k { c.level k with p := v.getLsbD (4 + k) }) c

/-- What a csrw sets in the context's own registers; read-only and reserved fields ignore it (00 R7, R8). -/
def Ctx.csrWrite (c : Ctx) (n : Nat) (v : Dword) : Ctx :=
  if n = 0x008 then { c with rm := v.extractLsb' 0 2 }
  else if n = 0x010 then c.setLctl v
  else if 0x011 ≤ n ∧ n ≤ 0x014 then c.setLevel (n - 0x011) { c.level (n - 0x011) with count := v.extractLsb' 0 32 }
  else if 0x015 ≤ n ∧ n ≤ 0x018 then c.setLevel (n - 0x015) { c.level (n - 0x015) with start := addrOf v }
  else if 0x019 ≤ n ∧ n ≤ 0x01C then c.setLevel (n - 0x019) { c.level (n - 0x019) with fin := addrOf v }
  else if n = 0x022 then { c with dtgt := v &&& 0x1FFFFFFFFFFFFFFF#64 }
  else if n = 0x030 then { c with tvec := addrOf v }
  else if n = 0x031 then { c with cause := v.extractLsb' 0 8 }
  else if n = 0x032 then { c with fmask := v.extractLsb' 0 16 }
  else if n = 0x033 then { c with tpc := addrOf v }
  else if n = 0x034 then { c with tinfo := v }
  else if 0x038 ≤ n ∧ n ≤ 0x03B then { c with tsave := Map.set 0 c.tsave (n - 0x038) v }
  else if 0x040 ≤ n ∧ n ≤ 0x047 then
    { c with vstat := Map.set 0 c.vstat (n - 0x040) (v.extractLsb' 0 32 &&& 0x3F3F#32) }
  else c

/-- What a csrw sets in the core's registers (05 R117, 18 R380): a slice below 256 leaves core.slice. -/
def CoreSt.csrWrite (c : CoreSt) (n : Nat) (v : Dword) : CoreSt :=
  if n = 0x100 then { c with maxrun := bits v 0 16 }
  else if n = 0x101 then { c with deadline := bits v 0 20 }
  else if n = 0x102 then { c with slice := if bits v 0 16 < 256 then c.slice else bits v 0 16 }
  else if n = 0x103 then { c with wdog := v.extractLsb' 0 32 }
  else c

/-- csrr: the register lands in s[d] (R105); an unassigned number is illegal-operand (R102). -/
def execCsrr (f : SI) (s : State) : Out :=
  let n := (s.immZ f.i).toNat
  .next (if csrKnown n then s.landS f.d (s.csrRead n) 1 else s.illOperand .S 0)

/-- csrw: written from the next bundle (R105), under privilege for core and trap registers (R102, 18 R371). -/
def execCsrw (f : SI) (s : State) : Out :=
  let n := (s.immZ f.i).toNat
  .next (if !csrKnown n then s.illOperand .S 0
    else if csrPriv n && !s.x.priv then s.privilege
    else s.post (.csr n (s.x.sreg f.a.toNat)))

/-- gtc: the time-stamp counter of the cycle of issue (R106). -/
def execGtc (f : SR) (s : State) : Out := .next (s.whenP f.p fun s => s.landS f.d s.gtc 1)

end Sys2Proof.Machine
end

