-- ==== Sys2Proof/Machine/Control.lean ====
section
/-! DEFINITION. Control transfers, loops, code windows, the strand instructions and the software trap (04 R83 to R101,
05 R111 to R114, 18 R387, R388). An instruction records in the bundle frame what the commit then does. -/

namespace Sys2Proof.Machine

/-- The condition of an SB form (R83). -/
def State.sbCond (s : State) (f : SB) : Bool := s.x.preg f.p.toNat != f.n

/-- A taken transfer to a target, low bits cleared (R86). -/
def State.take (s : State) (t : Addr) : State := s.setCur { s.cur with transfer := some (t &&& ~~~(3#56)) }
/-- A transfer that links in a scalar register as its delay bundle issues (R87, R88). -/
def State.takeLink (s : State) (t : Addr) (d : Nat) : State :=
  let s := s.take t
  if d = 0 then s else s.setCur { s.cur with link := some d }

/-- The branch target A + 4 × sext(offset, 21) (R87). -/
def State.brTarget (s : State) (f : SB) : Addr := s.cur.addr + (f.o.signExtend 56 <<< 2)

/-- br (R87). -/
def execBr (f : SB) (s : State) : Out := .next (if s.sbCond f then s.take (s.brTarget f) else s)
/-- jmp: a line start, 64 × offset from the line of the bundle (R87). -/
def execJmp (f : SB) (s : State) : Out :=
  .next (if s.sbCond f then s.take ((s.cur.addr &&& ~~~(0x3F#56)) + (f.o.signExtend 56 <<< 6)) else s)
/-- call: links in s31 (R87). -/
def execCall (f : SB) (s : State) : Out := .next (if s.sbCond f then s.takeLink (s.brTarget f) 31 else s)
/-- jr: to s[a], linking in s[d] when d is not 0 (R88). -/
def execJr (f : SR) (s : State) : Out :=
  .next (s.whenP f.p fun s => s.takeLink ((s.x.sreg f.a.toNat).extractLsb' 0 56) f.d.toNat)
/-- ret: to s31 (R88). -/
def execRet (f : SR) (s : State) : Out :=
  .next (s.whenP f.p fun s => s.take ((s.x.sreg 31).extractLsb' 0 56))

/-- Open a level (R89, R90): a count of zero skips to the end bundle and a fifth level is loop-depth. An opening that is the
delay bundle of a taken transfer with count zero skips nothing. -/
def State.openLoop (s : State) (count : Word) (fin : Addr) (p : Bool) : State :=
  if s.x.h then s.illOp .S
  else if count = 0#32 then
    (if s.x.pend.isSome then s else s.setCur { s.cur with skip := some fin })
  else if 4 ≤ s.x.depth then s.cause 0xA2
  else s.setCur { s.cur with opened := some ⟨count, s.cur.seq, fin, p⟩ }

/-- An address a number of words past the bundle. -/
def State.wordsOn (s : State) (n : Nat) : Addr := s.cur.addr + BitVec.ofNat 56 (4 * n)

/-- loop: the count from s[a][31:0] (R94). Handler mode raises illegal-op whatever the predicate (18 R375). -/
def execLoop (f : SR) (s : State) : Out :=
  .next (if s.x.h then s.illOp .S
    else s.whenP f.p fun s =>
      s.openLoop ((s.x.sreg f.a.toNat).extractLsb' 0 32) (s.wordsOn (loopEnd f)) (f.d.getLsbD 4))
/-- loopi: the count from imm15 or literal word 0 (R94). -/
def execLoopi (f : SI) (s : State) : Out :=
  .next (s.openLoop ((s.immZ f.i).extractLsb' 0 32) (s.wordsOn (loopiEnd f)) (f.d.getLsbD 4))
/-- lbrk: a branch that closes the innermost level (R95). -/
def execLbrk (f : SB) (s : State) : Out :=
  .next (if s.x.h then s.illOp .S
    else if s.sbCond f then (s.setX { s.x with depth := s.x.depth - 1 }).take (s.brTarget f) else s)

/-- Which half holds a code address (R96): some false for A, some true for B. -/
def CoreSt.halfOf (c : CoreSt) (a : Addr) : Option Bool :=
  if c.iwA = some (a.extractLsb' 15 41) then some false
  else if c.iwB = some (a.extractLsb' 15 41) then some true
  else none

/-- iwin: bind a half to the window of s[a][55:15], from the next bundle fetched (R99). -/
def execIwin (f : SI) (s : State) : Out :=
  .next (s.post (.window (f.d.getLsbD 0) ((s.x.sreg f.a.toNat).extractLsb' 15 41)))

/-- Does an engine command write the instruction store? -/
def Cmd.writesStore (c : Cmd) : Bool :=
  match c.op with
  | .cqGo _ => decide (bits (c.args.getD 2 0) 10 2 = 2)
  | _ => false

/-- ifence: waits for instruction-store writes (R100); the model's contexts hold no line fetched ahead (R97: they may). -/
def execIfence (f : SR) (s : State) : Out :=
  .next (s.whenP f.p fun s =>
    if s.core.cmds.any Cmd.writesStore then s.wait 6 else s)

/-- swapb: a transfer into the other half; code-window-miss at issue when it is not bound (R101). -/
def execSwapb (f : SB) (s : State) : Out :=
  .next (if !s.sbCond f then s
    else
      let other := match s.core.halfOf s.cur.addr with
        | some true => s.core.iwA
        | _ => s.core.iwB
      match other with
      | none => s.causeI 8 0x48 (addrDword s.cur.addr)
      | some b => s.take ((b ++ 0#15) + (f.o.signExtend 56 <<< 2)))

/-- Ask for the issue path to be given up after the bundle. -/
def State.suspend (s : State) (x : Suspend) : State := s.setCur { s.cur with suspend := some x }

/-- yield with stated run k (05 R111); illegal-op in handler mode (18 R375). -/
def execYield (f : SI) (s : State) : Out :=
  .next (if s.x.h then s.illOp .S else s.suspend (.yield (s.immZ f.i).toNat))
/-- wait until the GTC reaches s[a] (05 R112). -/
def execWait (f : SR) (s : State) : Out :=
  .next (if s.x.h then s.illOp .S
    else s.whenP f.p fun s => s.suspend (.wait (s.run7 f.f) (s.x.sreg f.a.toNat)))
/-- trap: the bundle commits and trap entry follows with k (18 R387). -/
def execTrap (f : SI) (s : State) : Out := .next (s.setCur { s.cur with trap := some (s.cur.idx, s.immZ f.i) })
/-- tret: only in handler mode, where every context is privileged (18 R388). -/
def execTret (_ : SR) (s : State) : Out :=
  .next (if s.x.h then s.setCur { s.cur with tret := true } else s.illOperand .S 0)

end Sys2Proof.Machine
end

