-- ==== Sys2Proof/Machine/Memory.lean ====
section
/-! DEFINITION. Global memory: the physical map, keys and liveness, the translation tree and the TLBs (10 R213 to R227),
and the rate at which time passes (25 R437 to R440). Watch entries and device registers are added above this file. -/

namespace Sys2Proof.Machine

/-- Replace the die's units. -/
def State.setDie (s : State) (d : DieSt) : State := { s with die := d }
/-- Replace the partition. -/
def State.setPart (s : State) (p : Part) : State := { s with part := p }

/-! ## The physical map (R213) -/

/-- What stands at a physical address. -/
inductive Space where
  | hbm | carve | cxl | host | regs | none
  deriving DecidableEq, Repr

/-- The floor die of a carve address (R213). -/
def carveDie (pa : Nat) : Nat := pa / 2 ^ 30 % 4
/-- The carve ways of a floor die (01 R13). -/
def Pkg.waysOf (p : Pkg) (die : Nat) : Nat := Map.get 0 p.ways die
/-- The floor die that homes a line, its point of coherence (01 R12, R220). -/
def homeDie (pa : Nat) : Nat :=
  if 0x00C000000000 ≤ pa ∧ pa < 0x00C100000000 then carveDie pa
  else (pa / 2 ^ 7 % 4) ^^^ (pa / 2 ^ 15 % 4) ^^^ (pa / 2 ^ 23 % 4) ^^^ (pa / 2 ^ 31 % 4) ^^^ (pa / 2 ^ 39 % 4)

/-- The space of a physical address (R213): a carve address beyond the ways set aside on its floor die and a CXL address that
firmware has not mapped are unassigned. -/
def State.space (s : State) (pa : Nat) : Space :=
  if pa < 0x00C000000000 then .hbm
  else if pa < 0x00C100000000 then (if pa % 2 ^ 30 < s.pkg.waysOf (carveDie pa) * 2 ^ 27 then .carve else .none)
  else if pa < 0x010000000000 then .none
  else if pa < 0x400000000000 then
    (if s.part.setup.cxl.any fun r => r.1 ≤ pa && decide (pa < r.1 + r.2.1) then .cxl else .none)
  else if pa < 0x800000000000 then .host
  else if 0xFF0000000000 ≤ pa && decide (pa < 2 ^ 48) then .regs
  else .none

/-- A CXL address is interleaved over a port that is down (25 R442). -/
def State.cxlFail (s : State) (pa : Nat) : Bool :=
  s.part.setup.cxl.any fun r => r.1 ≤ pa && decide (pa < r.1 + r.2.1) && r.2.2.any fun k => s.pkg.cxlDown.getLsbD k

/-- The 2 MiB region of an HBM address is live (R227); other memories have no liveness bit. -/
def Pkg.liveAt (p : Pkg) (pa : Nat) : Bool := decide (0x00C000000000 ≤ pa) || Map.get false p.live (pa / 2 ^ 21)
/-- The key id of the line of an address (R225); host memory carries none. -/
def Pkg.keyAt (p : Pkg) (pa : Nat) : Nat := Map.get 0 p.key (pa / 128)
/-- A host address. -/
def isHost (pa : Nat) : Bool := decide (0x400000000000 ≤ pa) && decide (pa < 0x800000000000)

/-- A byte as a reader with a key id reads it (R226): zero where the region is not live, the line has key id 0 or the key
differs. -/
def Pkg.read (p : Pkg) (k pa : Nat) : Byte :=
  if isHost pa || (p.liveAt pa && decide (k ≠ 0) && decide (p.keyAt pa = k)) then Map.get 0 p.mem pa else 0#8
/-- Bytes read upward. -/
def Pkg.reads (p : Pkg) (k pa : Nat) : Nat → List Byte
  | 0 => []
  | n + 1 => p.read k pa :: p.reads k (pa + 1) n

/-- Entries of a sparse map outside a range of keys. -/
def Map.drop {α : Type} (m : List (Nat × α)) (lo n : Nat) : List (Nat × α) :=
  m.filter fun x => decide (x.1 < lo) || decide (lo + n ≤ x.1)

/-- The first write to a region that is not live (R227): the region becomes zero under key id 0 and live, and is being filled
for a while. -/
def Pkg.goLive (p : Pkg) (pa : Nat) : Pkg :=
  if p.liveAt pa then p
  else
    let r := pa / 2 ^ 21
    { p with mem := Map.drop p.mem (r * 2 ^ 21) (2 ^ 21), key := Map.drop p.key (r * 2 ^ 14) (2 ^ 14),
             live := Map.set false p.live r true, filling := p.filling ++ [r],
             corrupt := p.corrupt.filter fun l => !decide (l / 2 ^ 14 = r) }

/-- Take over a line for a writer's key: a line of another key reads as zeros first (R226). -/
def Pkg.claim (p : Pkg) (k pa : Nat) : Pkg :=
  if isHost pa || decide (p.keyAt pa = k) then p
  else { p with mem := Map.drop p.mem (pa / 128 * 128) 128, key := Map.set 0 p.key (pa / 128) k,
                corrupt := p.corrupt.filter fun l => l ≠ pa / 128 }

/-- A byte written under a key id (R225 to R227). -/
def Pkg.write (p : Pkg) (k pa : Nat) (b : Byte) : Pkg :=
  let p := (p.goLive pa).claim k pa
  { p with mem := Map.set 0 p.mem pa b }
/-- Bytes written upward. -/
def Pkg.writes (p : Pkg) (k pa : Nat) : List Byte → Pkg
  | [] => p
  | b :: bs => (p.write k pa b).writes k (pa + 1) bs

/-- Lines that a store has written whole hold a new code (R225, R226). -/
def Pkg.heal (p : Pkg) (pa n : Nat) : Pkg :=
  { p with corrupt := p.corrupt.filter fun l => !(decide (pa ≤ 128 * l) && decide (128 * l + 128 ≤ pa + n)) }

/-- The partition's key id as a number. -/
def State.keyId (s : State) : Nat := s.part.setup.key.toNat
/-- A number of n bytes read under the partition's key. -/
def State.memNat (s : State) (pa n : Nat) : Nat := leNat (s.pkg.reads s.keyId pa n)

/-! ## Translation (R214 to R216) -/

/-- The virtual address without its ignored bits (R214). -/
def va56 (v : Dword) : Nat := v.toNat % 2 ^ 56

/-- A TLB entry covers a virtual address. -/
def TlbEntry.covers (e : TlbEntry) (va : Nat) : Bool := va / 2 ^ e.size = e.vbase / 2 ^ e.size

/-- Is a table entry well formed at its level, 4 to 0 (R215)? -/
def entryOk (level : Nat) (e : Dword) : Bool :=
  let l := e.getLsbD 1
  e.getLsbD 0 && bits e 6 6 = 0 && !decide (bits e 4 2 = 3) && !(l && decide (3 ≤ level)) && (l || decide (level ≠ 0)) &&
  (!l || (bits e 12 4 = 0 &&
    (level ≠ 2 || bits e 16 14 = 0) && (level ≠ 1 || bits e 16 5 = 0)))

/-- The table index of a virtual address at a level (R214). -/
def levelIndex (level va : Nat) : Nat :=
  match level with
  | 4 => va / 2 ^ 48 % 256
  | 3 => va / 2 ^ 39 % 512
  | 2 => va / 2 ^ 30 % 512
  | 1 => va / 2 ^ 21 % 512
  | _ => va / 2 ^ 16 % 32

/-- log2 of the page a leaf of a level maps (R214). -/
def levelSize (level : Nat) : Nat := if level = 2 then 30 else if level = 1 then 21 else 16

/-- The integrity cause of a read under a key id (R226, 25 R442). -/
def State.integrityUnder (s : State) (k pa : Nat) : Bool :=
  s.cxlFail pa || (s.pkg.corrupt.contains (pa / 128) && s.pkg.liveAt pa && decide (s.pkg.keyAt pa = k))
/-- The integrity cause of a read of the partition. -/
def State.integrityFail (s : State) (pa : Nat) : Bool := s.integrityUnder s.keyId pa

/-- What stops a write of n bytes under a key id: a port that is down, or a line that fails its code where the write takes part
of a 32-byte sector, which is read first (R222, R226, 25 R442). -/
def State.writeFailUnder (s : State) (k pa n : Nat) : Bool :=
  decide (n ≠ 0) && (s.cxlFail pa || s.cxlFail (pa + n - 1) || (decide (pa % 32 ≠ 0) && s.integrityUnder k pa) ||
    (decide ((pa + n) % 32 ≠ 0) && s.integrityUnder k (pa + n - 1)))
/-- The same for a write of the partition. -/
def State.writeFail (s : State) (pa n : Nat) : Bool := s.writeFailUnder s.keyId pa n

/-- The walk from a table (R214, R215): the leaf with the P bits of the walk joined, and its page size; or the cause, which is
integrity where a table line fails (R226). DESIGN CHOICE (log 57): a table in an unassigned, host or device range is read as the
bytes of memory that stand there. -/
def State.walk (s : State) (va : Nat) : Nat → Nat → Bool → Except Nat (Dword × Nat)
  | 0, table, p => walkAt s va 0 table p fun _ _ => .error 0x42
  | level + 1, table, p => walkAt s va (level + 1) table p fun t q => State.walk s va level t q
where
  /-- One entry of the walk. -/
  walkAt (s : State) (va level table : Nat) (p : Bool) (k : Nat → Bool → Except Nat (Dword × Nat)) : Except Nat (Dword × Nat) :=
    let a := table + 8 * levelIndex level va
    let e := BitVec.ofNat 64 (s.memNat a 8)
    if s.integrityFail a then .error 0x46
    else if !entryOk level e then .error 0x42
    else if e.getLsbD 1 then .ok (if p then e ||| 8#64 else e, levelSize level)
    else k (bits e 12 36 * 2 ^ 12) (p || e.getLsbD 3)

/-- Look an address up in the TLBs, or walk and enter the leaf in both (R216). FIFO replacement: log 16. -/
def State.tlbFind (s : State) (va : Nat) : State × Except Nat TlbEntry :=
  match s.core.utlb.find? (·.covers va) with
  | some e => (s, .ok e)
  | none =>
    match s.die.tlb.find? (·.covers va) with
    | some e => (s.setCore { s.core with utlb := (e :: s.core.utlb).take 32 }, .ok e)
    | none =>
      match s.walk va 4 s.part.setup.root false with
      | .error c => (s, .error c)
      | .ok (leaf, n) =>
        let e : TlbEntry := ⟨va / 2 ^ n * 2 ^ n, n, leaf⟩
        let s := s.setCore { s.core with utlb := (e :: s.core.utlb).take 32 }
        (s.setDie { s.die with tlb := (e :: s.die.tlb).take 16384 }, .ok e)

/-- A translated access: the state with its TLB fills, and the cause or the physical address with the memory type. -/
abbrev Translated := State × Except Nat (Nat × Nat)

/-- An access through a leaf, in the order of causes of R243: page-privilege, write-protection, physical-range; or the physical
address with the memory type. -/
def State.leafAccess (s : State) (e : TlbEntry) (a : Nat) (write priv : Bool) : Except Nat (Nat × Nat) :=
  if e.leaf.getLsbD 3 && !priv then .error 0x44
  else if write && !e.leaf.getLsbD 2 then .error 0x43
  else
    let pa := bits e.leaf 16 32 * 2 ^ 16 / 2 ^ e.size * 2 ^ e.size + a % 2 ^ e.size
    if s.space pa = .none then .error 0x49 else .ok (pa, bits e.leaf 4 2)

/-- Translate for a read, or for a write or atomic, with the order of causes of R243: first that of the walk. -/
def State.translate (s : State) (va : Dword) (write priv : Bool) : Translated :=
  let a := va56 va
  let r := s.tlbFind a
  match r.2 with
  | .error c => (r.1, .error c)
  | .ok e => (r.1, s.leafAccess e a write priv)

/-- Remove translations (18 R390): commands keep those they have made, with a mark (R217). -/
def State.tlbRemove (s : State) (keep : TlbEntry → Bool) : State :=
  (s.setCore { s.core with
    utlb := s.core.utlb.filter keep,
    pages := s.core.pages.map fun p => if keep p.2.1 then p else (p.1, p.2.1, true) }).setDie
      { s.die with tlb := s.die.tlb.filter keep }

/-! ## Time (00 R6, 01 R17, 25 R437 to R440) -/

/-- GTC units in a nanosecond: 9 × 2^32 × 1,000, so that a core cycle of 4/9 ns, the rate and the slew are whole. -/
abbrev nsUnits : Nat := 9 * 2 ^ 32 * 1000
/-- The units of one core cycle at 2.25 GHz, before the rate; a lowered clock is Config's (R448, log 12). -/
def Pkg.cycleNs9 (p : Pkg) : Nat := if p.clock = 0 then 4 else 4 + Config.throttledCycle p.clock

/-- The clamped rate (R439): within ±2^20 units of 2^−32. -/
def clampRate (r : BitVec 32) : Int := max (-(2 ^ 20)) (min (2 ^ 20) r.toInt)

/-- An LTL port that is down and has counted nothing. -/
def Ltl.empty : Ltl := ⟨0, 0, 0, 0, 0, 0, 0⟩
/-- LTL port k. -/
def Pkg.port (p : Pkg) (k : Nat) : Ltl := Map.get Ltl.empty p.ltl k
/-- Replace a port. -/
def Pkg.setPort (p : Pkg) (k : Nat) (v : Ltl) : Pkg := { p with ltl := Map.set Ltl.empty p.ltl k v }
/-- A port is in training or in attestation. -/
def Ltl.busy (p : Ltl) : Bool := decide (p.state = 1 ∨ p.state = 2)
/-- Step 5 of bring-up has completed: after step 4 each link has been trained, and none is in training or attestation (R447, log
56). -/
def Pkg.linksDone (p : Pkg) : Bool :=
  decide (5 ≤ p.stage) || (decide (4 ≤ p.stage) && (List.range 6).all fun k => p.tried.getLsbD k && !(p.port k).busy)
/-- The source of the GTC by gtc.ctl, 0 for the host, which it is until step 6 of bring-up can begin (R438, R447, log 56). -/
def Pkg.source (p : Pkg) : Nat := if p.linksDone then p.gctl.toNat % 8 else 0
/-- Step 6: the source of the GTC is the host, or a link that it is locked to (R437, R438, R447). -/
def Pkg.gtcDone (p : Pkg) : Bool :=
  decide (6 ≤ p.stage) || (p.linksDone && (decide (p.source = 0) || p.gctl.getLsbD 3))
/-- The last step of bring-up that has completed, a cycle later: steps 2 to 4 follow step 1 one after another (R447; how long
they take is not stated, log 56). -/
def Pkg.nextStage (p : Pkg) : Nat :=
  if 1 ≤ p.stage ∧ p.stage < 4 then p.stage + 1
  else if p.stage = 4 ∧ p.linksDone = true then 5
  else if p.stage = 5 ∧ p.gtcDone = true then 6
  else p.stage
/-- One core cycle of time: the GTC advances by the rate, or at 0.999 while a negative step is absorbed (R439, R440). -/
def State.passCycle (s : State) : State :=
  let base := s.pkg.cycleNs9 * (2 ^ 32 + clampRate s.pkg.grate).toNat * 1000
  let cut := if s.pkg.gslew = 0 then 0 else min s.pkg.gslew (base / 1000)
  let t := s.pkg.gsub + base - cut
  { s with gtc := s.gtc + BitVec.ofNat 64 (t / nsUnits),
           pkg := { s.pkg with gsub := t % nsUnits, gslew := s.pkg.gslew - cut, stage := s.pkg.nextStage } }

end Sys2Proof.Machine
end

