-- ==== Sys2Proof/Machine/Registers.lean ====
section
/-! DEFINITION. The device registers of BAR0, which cores reach at physical 0xFF00_0000_0000 (25 R433, R435, R438 to R443):
what a dword read gives and what a dword write does; and the lengths of the work queues (05 R121). -/

namespace Sys2Proof.Machine

/-! ## Queues (05 R121) -/

/-- A queue with nothing in it. -/
def QueueSt.empty : QueueSt := ⟨0, 0, 0, 0⟩
/-- The hardware state of a queue. -/
def Part.queue (p : Part) (q : Nat) : QueueSt := Map.get QueueSt.empty p.queues q
/-- Replace it. -/
def State.setQueue (s : State) (q : Nat) (v : QueueSt) : State :=
  s.setPart { s.part with queues := Map.set QueueSt.empty s.part.queues q v }
/-- The descriptor of a queue. -/
def Part.desc (p : Part) (q : Nat) : Option QueueSetup := p.setup.queues.find? fun d => d.q = q

/-- The lowest-numbered die of a set. -/
def lowDie (d : BitVec 4) : Nat := ((List.range 4).find? fun k => d.getLsbD k).getD 0
/-- The source number of the dispatcher (01 R19). -/
def State.dispatcher (s : State) (slot : Nat) : Nat := s.source 113 (slot % 64)

/-- A write of n to a wake register: n is added to the length, or the write is discarded and logged (05 R121). A queue without a
descriptor has no entries. The record names the dispatcher with slot 0, the register not being one of a slot (log 39). -/
def State.wakeQueue (s : State) (q n : Nat) : State :=
  let v := s.part.queue q
  let size := match s.part.desc q with | some d => 2 ^ d.log2 | none => 0
  if n = 0 then s
  else if size < v.len + n then s.logOpen (s.dispatcher 0) 0
  else s.setQueue q { v with len := v.len + n }

/-! ## Lending keys (25 R444, R445) -/

/-- What firmware has set for the partitions of the package: the core's, and those of other dies. -/
def State.setups (s : State) : List PartSetup :=
  (if s.part.present then [s.part.setup] else []) ++ s.pkg.others.map (·.setup)

/-- A key id that a line, a partition or a lending key has. -/
def State.keyTaken (s : State) (k : Nat) : Bool :=
  (s.setups.any fun p => p.key.toNat = k) || (s.pkg.lkeys.any fun x => x.2 = k) || s.pkg.key.any fun x => x.2 = k
/-- The highest key id that is free, or 0 when none is (log 37). -/
def State.freshKey (s : State) : Nat :=
  (((List.range 4095).map fun i => 4095 - i).find? fun k => !s.keyTaken k).getD 0
/-- The pair with a peer gets a lending key under a key id of its own (R444). -/
def State.renewKey (s : State) (peer : Nat) : State :=
  s.setPkg { s.pkg with lkeys := Map.set 0 s.pkg.lkeys peer s.freshKey }
/-- The key id under which frames lent to a device are stored; 0 before the pair has a key. -/
def State.lendKey (s : State) (dev : Nat) : Nat := Map.get 0 s.pkg.lkeys dev

/-! ## The registers -/

/-- Which register stands at an offset. -/
inductive Reg where
  | devId | devPart | wake (p q : Nat) | mbox (o : Nat) | gtcNow | gtcCtl | gtcRate | gtcStep | gtcPps
  | ltl (k o : Nat) | pool (p n o : Nat) | none
  deriving DecidableEq, Repr

/-- The register of an offset (R435, R442, R443); an offset that the tables do not list, as one inside a dword, names none. -/
def regAt (o : Nat) : Reg :=
  if o = 0 then .devId
  else if o = 8 then .devPart
  else if o % 8 ≠ 0 then .none
  else if 0x100000 ≤ o ∧ o < 0x140000 then
    (if o % 0x10000 < 8 * 4096 then .wake ((o - 0x100000) / 0x10000) (o % 0x10000 / 8) else .none)
  else if 0x200000 ≤ o ∧ o < 0x204000 then .mbox (o - 0x200000)
  else if o = 0x300000 then .gtcNow
  else if o = 0x300008 then .gtcCtl
  else if o = 0x300010 then .gtcRate
  else if o = 0x300018 then .gtcStep
  else if o = 0x300020 then .gtcPps
  else if 0x400000 ≤ o ∧ o < 0x400600 then
    (if o % 0x100 < 0x30 then .ltl ((o - 0x400000) / 0x100) (o % 0x100) else .none)
  else if 0x500000 ≤ o ∧ o < 0x504000 then .pool ((o - 0x500000) / 0x1000) (o % 0x1000 / 0x40) (o % 0x40 / 8)
  else .none

/-- dev.part: the partition number of each die and the mask of the dies that belong to one (R435, log 32). -/
def State.devPart (s : State) : Dword :=
  BitVec.ofNat 64 ((List.range 4).foldl (fun a d =>
    match s.setups.find? fun p => p.dies.getLsbD d with
    | some p => a + p.num % 4 * 4 ^ d + 2 ^ (8 + d)
    | none => a) 0)

/-- A dword read of a register; write-only ones read zero (00 R7). In recovery only the mailbox of die 0 answers (R446). -/
def State.regRead (s : State) (o : Nat) : Dword :=
  match regAt o with
  | .mbox m => if s.pkg.recovery && decide (4096 ≤ m) then 0 else BitVec.ofNat 64 (leNat (Map.bytes s.pkg.mbox m 8))
  | r =>
    if s.pkg.recovery then 0
    else
      match r with
      | .devId => BitVec.ofNat 64 (s.pkg.pos.toNat + 0x4C * 2 ^ 24)
      | .devPart => s.devPart
      | .gtcNow => s.gtc
      | .gtcCtl => s.pkg.gctl.setWidth 64
      | .gtcRate => s.pkg.grate.setWidth 64
      | .gtcPps => s.pkg.gpps
      | .ltl k x =>
        let p := s.pkg.port k
        if x = 0 then BitVec.ofNat 64 (p.state % 8 + p.peer % 2 ^ 15 * 8)
        else if x = 8 then p.toff
        else if x = 0x10 then p.msgtx
        else if x = 0x18 then p.msgrx
        else if x = 0x20 then p.kvtx
        else p.kvrx
      | .pool p n x =>
        if s.part.present && p = s.part.setup.num then Map.get 0 s.pkg.counters (8 * n + x)
        else match s.pkg.others.find? fun o => o.setup.num = p with
          | some o => Map.get 0 o.counters (8 * n + x)
          | none => 0
      | _ => 0

/-- The BARs answer: the host link is up (R447), or the device is in recovery (R446). -/
def Pkg.answers (p : Pkg) : Bool := decide (3 ≤ p.stage) || p.recovery

/-- gtc.ctl: PE and src; a src of 7 leaves the field, and a new source has not been followed yet (R438). A link that is written
there before step 5 of bring-up has completed is chosen once it has (R447, log 56). -/
def Pkg.writeCtl (p : Pkg) (v : Dword) : Pkg :=
  let src := if bits v 0 3 = 7 then bits (p.gctl.setWidth 64) 0 3 else bits v 0 3
  let same := src = bits (p.gctl.setWidth 64) 0 3
  let lk := if same && p.gctl.getLsbD 3 then 8 else 0
  { p with gctl := BitVec.ofNat 5 (src + lk + (if v.getLsbD 4 then 16 else 0)), lkRun := if same then p.lkRun else 0 }

/-- gtc.rate: the clamped adjustment, unless a link is the source (R439). -/
def Pkg.writeRate (p : Pkg) (v : Dword) : Pkg :=
  if p.source ≠ 0 then p
  else { p with grate := BitVec.ofInt 32 (clampRate (v.extractLsb' 0 32)) }

/-- gtc.step: forward at once, less what remains of a negative step; a negative one is added to what is to be absorbed (R440).
-/
def State.writeStep (s : State) (v : Dword) : State :=
  if s.pkg.source ≠ 0 then s
  else if v.toInt < 0 then
    s.setPkg { s.pkg with gslew := s.pkg.gslew + v.toInt.natAbs * nsUnits }
  else
    let k := v.toNat * nsUnits
    let left := s.pkg.gslew - k
    let go := k - s.pkg.gslew + s.pkg.gsub
    { s with gtc := s.gtc + BitVec.ofNat 64 (go / nsUnits), pkg := { s.pkg with gslew := left, gsub := go % nsUnits } }

/-- A wake write to a queue of a partition of other dies: its length grows, or the write is discarded and logged (05 R121). -/
def State.wakeOther (s : State) (p q n : Nat) : State :=
  match s.pkg.others.find? fun o => o.setup.num = p with
  | none => s
  | some o =>
    let v := Map.get QueueSt.empty o.queues q
    let size := match o.setup.queues.find? fun d => d.q = q with | some d => 2 ^ d.log2 | none => 0
    if n = 0 then s
    else if size < v.len + n then s.logOpen (lowDie o.setup.dies * 2 ^ 14 + 113 * 2 ^ 7) 0
    else s.setPkg { s.pkg with others := s.pkg.others.map fun x =>
      if x.setup.num = p then { x with queues := Map.set QueueSt.empty x.queues q { v with len := v.len + n } } else x }

/-- A dword written to a register (R435). Writes to read-only registers and unlisted offsets are ignored. A write to the last
dword of a mailbox rings the firmware, whoever makes it (01 R15); firmware serves the ring in a step of its own (log 27), and in
recovery none is loaded (R446). -/
def State.regWrite (s : State) (o : Nat) (v : Dword) : State :=
  match regAt o with
  | .mbox m =>
    if s.pkg.recovery && decide (4096 ≤ m) then s
    else
      let p := { s.pkg with mbox := Map.setBytes s.pkg.mbox m (natBytes 8 v.toNat) }
      s.setPkg (if m % 4096 = 4088 && !s.pkg.recovery then { p with rings := p.rings + 1 } else p)
  | r =>
    if s.pkg.recovery then s
    else
      match r with
      | .wake p q => if s.part.present && p = s.part.setup.num then s.wakeQueue q v.toNat else s.wakeOther p q v.toNat
      | .gtcCtl => s.setPkg (s.pkg.writeCtl v)
      | .gtcRate => s.setPkg (s.pkg.writeRate v)
      | .gtcStep => s.writeStep v
      | _ => s

/-- The offset of a device register at a physical address (R433). -/
def regOff (pa : Nat) : Nat := pa - 0xFF0000000000
/-- A read of n bytes at a device register: dwords only (R435). -/
def State.regReadN (s : State) (pa n : Nat) : Nat :=
  if n = 8 && decide (regOff pa < 0x4000000) then (s.regRead (regOff pa)).toNat else 0
/-- A write of n bytes at a device register. -/
def State.regWriteN (s : State) (pa n v : Nat) : State :=
  if n = 8 && decide (regOff pa < 0x4000000) then s.regWrite (regOff pa) (BitVec.ofNat 64 v) else s

end Sys2Proof.Machine
end

