-- ==== Sys2Proof/Machine/Sched.lean ====
section
/-! DEFINITION. Strands and their records, wakes and watch entries, placement, parties and jobs, and the arbiter of the
core (01 R27 to R30, 05 R108 to R124, 10 R231 to R233). -/

namespace Sys2Proof.Machine

/-! ## Global bytes by virtual address, for the device's own agents -/

/-- Translate for a unit of the device, which is privileged (log 30); a line whose code fails, or a port that is down, is
integrity (10 R226). -/
def State.devTry (s : State) (va : Nat) (write : Bool) : Except Nat Nat :=
  match (s.translate (BitVec.ofNat 64 va) write true).2 with
  | .error c => .error c
  | .ok (pa, _) => if s.integrityFail pa then .error 0x46 else .ok pa
/-- Where a unit of the device writes n bytes at a virtual address; none where it cannot (10 R222, R226). -/
def State.devPlace (s : State) (va n : Nat) : Option Nat :=
  match (s.translate (BitVec.ofNat 64 va) true true).2 with
  | .error _ => none
  | .ok (pa, _) => if s.writeFail pa n then none else some pa
/-- A reading address without its cause. -/
def State.devAddr (s : State) (va : Nat) (write : Bool) : Option Nat :=
  match s.devTry va write with
  | .ok pa => some pa
  | .error _ => none

/-- A number read by a unit of the device; zero where the address cannot be read. -/
def State.devNat (s : State) (va n : Nat) : Nat :=
  match s.devAddr va false with
  | some pa => s.memNat pa n
  | none => 0

/-! ## Watch entries and wakes (R113, 10 R231) -/

/-- The record flags of a strand: state in bits [25:24], W in bit 26 of the dword at byte 8 (R108). -/
def recFlags (s : State) (rec_ : Dword) : Nat := s.devNat (va56 rec_ + 8) 8

/-- What a write to n bytes at a physical address makes the watch table do (10 R231). A write by which a wake marks a record is
such a write itself, so the functions below take it as an argument, and `fireLinesN` ties the knot. -/
abbrev FireFn := State → Nat → Nat → State

/-- Write bytes into a record; the write fires the monitors of its line as any other (10 R231, 19 R415). -/
def State.recWriteBy (F : FireFn) (s : State) (rec_ : Dword) (o : Nat) (b : List Byte) : State :=
  match s.devPlace (va56 rec_ + o) b.length with
  | some pa => F (s.setPkg (s.pkg.writes s.keyId pa b)) pa b.length
  | none => s
/-- Set the state field of a record (R108). -/
def State.recStateBy (F : FireFn) (s : State) (rec_ : Dword) (st : Nat) : State :=
  s.recWriteBy F rec_ 11 [BitVec.ofNat 8 (recFlags s rec_ / 2 ^ 24 % 256 / 4 * 4 + st)]
/-- Set or clear W (R108). -/
def State.recWBy (F : FireFn) (s : State) (rec_ : Dword) (w : Bool) : State :=
  let f := recFlags s rec_ / 2 ^ 24 % 256
  s.recWriteBy F rec_ 11 [BitVec.ofNat 8 (f / 8 * 8 + f % 4 + (if w then 4 else 0))]

/-- A bivouac record (01 R29, R108). -/
structure Record where
  pc : Addr
  rank : Nat
  psize : Nat
  pos : Nat
  state : Nat
  w : Bool
  rc : Bool
  rsv : Bool
  job : Nat
  pitch : Nat
  lines : Nat
  qset : BitVec 16
  run : Nat
  regs : List Dword
  deriving DecidableEq, Repr

/-- A record from its 64 bytes. -/
def recordOf (b : List Byte) : Record :=
  let n (o k : Nat) : Nat := leNat ((b.drop o).take k)
  let f := n 8 8
  let p := n 16 4
  { pc := addrOf (BitVec.ofNat 64 (n 0 8)), rank := f % 16, psize := f / 2 ^ 4 % 2 ^ 10, pos := f / 2 ^ 14 % 2 ^ 10,
    state := f / 2 ^ 24 % 4, w := f / 2 ^ 26 % 2 = 1, rc := f / 2 ^ 27 % 2 = 1,
    rsv := f / 2 ^ 28 % 16 ≠ 0 || p / 2 ^ 30 ≠ 0, job := f / 2 ^ 32, pitch := p % 2 ^ 16, lines := p / 2 ^ 16 % 2 ^ 14,
    qset := BitVec.ofNat 16 (n 20 2), run := n 22 2,
    regs := (List.range 5).map fun i => BitVec.ofNat 64 (n (24 + 8 * i) 8) }

/-- The 64 bytes at a record address, none where they cannot be read. -/
def State.recBytes (s : State) (va : Nat) : List Byte :=
  match s.devAddr va false with
  | some pa => s.pkg.reads s.keyId pa 64
  | none => []

/-- R108: a record whose reserved fields are not zero, whose pos exceeds psize or whose psize exceeds the die's limit is not
placed. -/
def State.recordOk (s : State) (r : Record) : Bool :=
  !r.rsv && decide (r.pos ≤ r.psize) && decide (r.psize < 768 - s.core.rres)

/-- Effective rank (R118). -/
def Ctx.effRank (c : Ctx) : Nat := c.rank + c.bonus
/-- A context the arbiter may choose. -/
def Ctx.isReady (c : Ctx) : Bool := c.status = .ready || c.status = .frozen

/-- Context n becomes ready with a status (R118, R119): the issuing context is asked to yield to a higher effective rank. -/
def State.makeReadyAs (s : State) (st : CtxStatus) (n : Nat) (c : Ctx) : State :=
  let s := s.setCtx n { c with status := st, wasReady := true }
  if s.run && s.x.req.isNone && decide (s.x.effRank < c.effRank) && n ≠ s.xn then
    s.setX { s.x with req := some 0 } else s
/-- Context n becomes ready. -/
def State.makeReady (s : State) (n : Nat) (c : Ctx) : State := s.makeReadyAs .ready n c

/-- The state a strand starts with in a context (R108, 03 R58, 06 R130, 08 R171, 11 R248, 16 R345, 18 R373): s1 to s5 and the
control fields of its record; registers the specification says nothing of keep what they hold (log 31). The age bonus starts at
0, also where a ready strand was saved before, which R118 does not say (DESIGN CHOICE, log 53). -/
def Ctx.start (c : Ctx) (tvec : Addr) (va : Dword) (r : Record) (sp : Bool) (rtile : Dword) (party : Nat)
    (ef : Option EngineFault) (ev : Bool) : Ctx :=
  let c := (List.range 5).foldl (fun c i => c.setS (i + 1) (r.regs.getD i 0)) c
  { c with l := [], latchOk := 0, holds := [], vstat := [], depth := 0, sk := false,
           levels := (List.range 4).foldl (fun m k => Map.set Level.zero m k { Map.get Level.zero m k with p := false }) c.levels,
           rm := 0, dtgt := 0, pend := none, link := none,
           tvec := tvec, tsave := [], h := false, sp := sp, brec := va, rtile := rtile, pc := r.pc, flight := [],
           saved := none, out := [], ruCfg := 0, ruGen := 0, ruD := false, copy := ⟨[], 0, none⟩, ef := ef, tbuf := [],
           rank := r.rank, psize := r.psize, pos := r.pos, job := r.job, pitch := r.pitch, rc := r.rc, run := r.run,
           bonus := 0, req := none, waited := 0,
           bankw := 0, unseen := [], party := party, efNow := ef.isSome, evicted := ev, wlines := [] }

/-- Free contexts of the die (01 R27, 15 R328). -/
def State.freeCount (s : State) : Nat :=
  ((List.range 8).filter fun n => (s.ctx n).status = .empty).length + s.die.otherFree

/-- The lowest free context of this core. -/
def State.freeCtx (s : State) : Option Nat := (List.range 8).find? fun n => (s.ctx n).status = .empty

/-- Free lines of the scratchpad for a new pitch: the lowest multiple of 128 with room (09 R190). -/
def CoreSt.freeBase (c : CoreSt) (lines : Nat) : Option Nat :=
  ((List.range 128).map (· * 128)).find? fun b => decide (b + lines ≤ 16384) &&
    c.pitches.all fun p => decide (p.base + p.lines ≤ b) || decide (b + lines ≤ p.base)
/-- The lowest free pitch index, 1 to 127. -/
def CoreSt.freeIdx (c : CoreSt) : Option Nat :=
  ((List.range 127).map (· + 1)).find? fun i => c.pitches.all fun p => p.idx ≠ i

/-- Find or make the pitch a record asks for (R109, 09 R190): none when it cannot be had on this core now; the pitch id and the
core with one holder more. -/
def CoreSt.getPitch (c : CoreSt) (r : Record) : Option (Nat × CoreSt) :=
  if r.pitch ≠ 0 then
    match c.pitchOf r.pitch with
    | none => none
    | some p => some (r.pitch, { c with
        pitches := c.pitches.map fun q => if q.idx = p.idx then { q with holders := q.holders + 1 } else q })
  else if r.lines = 0 then some (0, c)
  else
    let lines := (r.lines + 127) / 128 * 128
    if c.pitches.all fun p => p.qset &&& r.qset = 0#16 then
      match c.freeBase lines, c.freeIdx with
      | some b, some i =>
        some ((c.die * 128 + c.num) * 128 + i,
          { c with pitches := c.pitches ++ [⟨i, b, lines, r.qset, 1⟩],
                   streams := c.streams.filter fun q => !r.qset.getLsbD q.1 })
      | _, _ => none
    else none

/-- A strand releases its hold on its pitch, which is freed with its last holder (R109, R114), and its matrix banks with it (12
R263). -/
def State.dropPitch (s : State) (id : Nat) : State :=
  match s.core.pitchOf id with
  | none => s
  | some p =>
    let c := s.core
    let ps := c.pitches.map fun q => if q.idx = p.idx then { q with holders := q.holders - 1 } else q
    let gone := ps.any fun q => q.holders = 0
    s.setCore { c with pitches := ps.filter fun q => q.holders ≠ 0,
                       banks := if gone then c.banks.filter fun b => b.2.owner ≠ p.idx else c.banks }

/-- Place a strand from its record on a free context of this core. A new pitch's id is written into the record, whose state
becomes 1 (R109, 24 R430); a strand that resumes holds the pitch it names already. None when no context or pitch is to be had.
-/
def State.placeHereBy (F : FireFn) (s : State) (va : Dword) (r : Record) (k : Parked) (resume : Bool) : Option State :=
  match s.freeCtx with
  | none => none
  | some n =>
    match (if resume && r.pitch ≠ 0 then (if (s.core.pitchOf r.pitch).isSome then some (r.pitch, s.core) else none)
        else s.core.getPitch r) with
    | none => none
    | some (pid, core) =>
      let c := (s.ctx n).start (addrOf s.part.setup.trapVec) va { r with pitch := pid } k.sp k.rtile k.party k.ef k.evicted
      let s := (s.setCore core).makeReady n c
      let s := if pid = r.pitch then s else s.recWriteBy F va 16 (natBytes 2 pid)
      some (s.recStateBy F va 1)

/-- The id of a new pitch on another core of the die, by a free value: die, a core that is not this one, an index 1 to 127
(R108, R109, log 7). -/
def State.otherPitch (s : State) (v : Nat) : Nat :=
  s.core.die * 2 ^ 14 + (s.core.num + 1 + v % 95) % 96 * 2 ^ 7 + (v / 95 % 127 + 1)

/-- The id of a new pitch on another die, by a free value: die, core, an index 1 to 127 (R108, R109, log 7). -/
def pitchOn (d v : Nat) : Nat := d * 2 ^ 14 + v % 96 * 2 ^ 7 + (v / 96 % 127 + 1)
/-- Place a strand on another core (R109, R110, R115): the core of the pitch its record names, else one of the die with a free
context, where a new pitch's id is written into the record. None when it cannot be placed there. -/
def State.placeElsewhereBy (F : FireFn) (s : State) (va : Dword) (r : Record) : Option State :=
  if r.pitch ≠ 0 && decide (r.pitch / 128 = s.core.die * 128 + s.core.num) then none
  else if r.pitch ≠ 0 && decide (r.pitch / 2 ^ 14 ≠ s.core.die) then
    (if s.part.setup.dies.getLsbD (r.pitch / 2 ^ 14) then some (s.recStateBy F va 1) else none)
  else if s.die.otherFree = 0 then none
  else
    let s := s.setDie { s.die with otherFree := s.die.otherFree - 1 }
    let s := if r.pitch = 0 && decide (r.lines ≠ 0) then
        { s with free := s.free + 1 }.recWriteBy F va 16 (natBytes 2 (s.otherPitch (Config.freeValue s.free).toNat)) else s
    some (s.recStateBy F va 1)

/-- The context of this core that holds a strand, parked in place or not. -/
def State.ctxOf (s : State) (va : Dword) : Option Nat :=
  (List.range 8).find? fun n => decide ((s.ctx n).status ≠ .empty) && decide (va56 (s.ctx n).brec = va56 va)

/-- A record waits in the die's ready list. -/
def State.listed (s : State) (va : Dword) : Bool := s.die.ready.any fun e => decide (va56 e.addr = va56 va)
/-- Enter a record in the die's ready list of 1,024 places; false when it is full (R115). -/
def State.enterReady (s : State) (e : ReadyEnt) : State × Bool :=
  if s.die.ready.length < 1024 then (s.setDie { s.die with ready := s.die.ready ++ [e] }, true) else (s, false)

/-- What the core kept of a strand that parked. -/
def State.parkedOf (s : State) (va : Dword) (sp : Bool) : Parked :=
  (s.part.parked.find? fun p => va56 p.addr = va56 va).getD ⟨va, sp, 0, 0, none, false, []⟩
/-- A strand is parked no longer. -/
def State.unpark (s : State) (va : Dword) : State :=
  s.setPart { s.part with parked := s.part.parked.filter fun p => !decide (va56 p.addr = va56 va) }

/-- Another die of the partition has an idle context beside its recipe reserve (R30, 15 R328). -/
def State.idleOn (s : State) (d : Nat) : Bool :=
  decide (d ≠ s.core.die) && s.part.setup.dies.getLsbD d && decide (Map.get 0 s.die.away d + s.core.rres < 768)
/-- The lowest such die. -/
def State.idleDie (s : State) : Option Nat := (List.range 4).find? s.idleOn
/-- A strand takes a context of another die. -/
def State.takeAway (s : State) (d : Nat) : State :=
  s.setDie { s.die with away := Map.set 0 s.die.away d (Map.get 0 s.die.away d + 1) }
/-- Place a strand whose record names no pitch on another die of the partition (R30). -/
def State.placeAwayBy (F : FireFn) (s : State) (va : Dword) (r : Record) : Option State :=
  if r.pitch ≠ 0 then none
  else
    match s.idleDie with
    | none => none
    | some d =>
      let s := s.takeAway d
      let s := if r.lines ≠ 0 then
          { s with free := s.free + 1 }.recWriteBy F va 16 (natBytes 2 (pitchOn d (Config.freeValue s.free).toNat)) else s
      some (s.recStateBy F va 1)
/-- Place a parked strand on this core, on another one of the die, or on another die of the partition when it holds no pitch
(R30, R110), leaving the recipe reserve free (15 R328). -/
def State.resumeAnyBy (F : FireFn) (s : State) (va : Dword) (r : Record) (k : Parked) : Option State :=
  ((if s.freeCount ≤ s.core.rres then none
    else
      match s.placeHereBy F va r k true with
      | some t => some t
      | none => s.placeElsewhereBy F va r).or (s.placeAwayBy F va r)).map fun t => t.unpark va

/-- A record that R108 does not place is discarded, with a record of the agent that found it whose information is the record's
address (log 39). -/
def State.discard (s : State) (src : Nat) (va pc : Dword) : State := s.logEvent src 0xA4 va pc

/-- Make a parked strand ready: on its reserved context, on a free one, or by way of the ready list (R110, R115); a strand
already in that list has W set (R113, log 51). `src` and `pc` are those of the event record of an invalid record. With it the
value of a spawn, none where the record is discarded. DESIGN CHOICE (log 51): with no context free and the ready list full, a
case that R115 answers for spawn alone, a wake of a monitor or a barrier is dropped and the strand stays parked. -/
def State.resumeParkedBy (F : FireFn) (s : State) (va : Dword) (src : Nat) (pc : Dword) : State × Option Nat :=
  let r := recordOf (s.recBytes (va56 va))
  match s.ctxOf va with
  | some n =>
    let c := s.ctx n
    if c.status ≠ .reserved then (s, some 0)
    else if !s.recordOk r then (s.discard src va pc, none)
    else
      ((s.makeReady n
        (c.start (addrOf s.part.setup.trapVec) va { r with pitch := c.pitch } c.sp c.rtile c.party c.ef c.evicted)).recStateBy F va 1,
        some 0)
  | none =>
    if s.listed va then (s.recWBy F va true, some 0)
    else if !s.recordOk r then (s.discard src va pc, none)
    else
      let k := s.parkedOf va false
      match s.resumeAnyBy F va r k with
      | some t => (t, some 0)
      | none =>
        let t := s.enterReady ⟨va, k.sp, true, false, none⟩
        (t.1, some (if t.2 then 0 else 3))

/-- A wake reaches a strand (R113): a parked one becomes ready, a sleeping one sees its entry when it looks, and one that runs
or has not yet parked has W set. -/
def State.wakeBy (F : FireFn) (s : State) (va : Dword) : State :=
  if recFlags s va / 2 ^ 24 % 4 = 2 then (s.resumeParkedBy F va (s.coreSource 0 6) 0).1
  else if recFlags s va / 2 ^ 24 % 4 = 1 then s.recWBy F va true
  else s

/-- A strand asleep in mwait on context n returns with a code: its entries are freed, the code is in its register and the
context is ready (10 R240). -/
def State.mwaitReturn (s : State) (n : Nat) (code : Nat) : State :=
  let c := s.ctx n
  match c.status with
  | .sleeping _ d =>
    (s.setCore { s.core with watch := s.core.watch.filter fun w => !decide (va56 w.strand = va56 c.brec) }).makeReady n
      { c.setS d (BitVec.ofNat 64 code) with evicted := false }
  | _ => s

/-- An entry of a strand fires: a strand asleep in mwait returns with code 0, and the wake reaches it as any strand that has not
parked; any other is woken (R113, 10 R231, R240). -/
def State.fireStrandBy (F : FireFn) (s : State) (va : Dword) : State :=
  match s.ctxOf va with
  | some n =>
    match (s.ctx n).status with
    | .sleeping _ _ => (s.mwaitReturn n 0).wakeBy F va
    | _ => s.wakeBy F va
  | none => s.wakeBy F va

/-- Fire the watch entries that a test selects, and wake each of their strands once (10 R231). -/
def State.fireBy (F : FireFn) (s : State) (t : Watch → Bool) : State :=
  let hit := (s.core.watch.filter t).map fun w => va56 w.strand
  let s := s.setCore { s.core with watch := s.core.watch.map fun w => if t w then { w with fired := true } else w }
  (distinct hit).foldl (fun s va => s.fireStrandBy F (BitVec.ofNat 64 va)) s

/-- A mon entry on a line of a physical range. -/
def Watch.onLines (w : Watch) (pa n : Nat) : Bool :=
  !w.barrier && !w.pad && decide (pa / 128 * 128 ≤ w.addr) && decide (w.addr ≤ (pa + n - 1) / 128 * 128)
/-- The monitors of a range fire, and so do those of the records that this marks, to a depth of k (log 51). -/
def fireLinesN : Nat → FireFn
  | 0 => fun s _ _ => s
  | k + 1 => fun s pa n => if n = 0 then s else s.fireBy (fireLinesN k) fun w => w.onLines pa n
/-- The depth to which record writes fire monitors in turn: twice the entries of a full table (log 51). -/
abbrev fireDepth : Nat := 64
/-- Fire the watch entries that a test selects. -/
def State.fire (s : State) (t : Watch → Bool) : State := s.fireBy (fireLinesN fireDepth) t
/-- A write to the lines of a physical range has performed: monitors on them fire (10 R231). -/
def State.fireLines (s : State) (pa n : Nat) : State := if n = 0 then s else s.fire fun w => w.onLines pa n

/-- Write bytes into a record. -/
def State.recWrite (s : State) (rec_ : Dword) (o : Nat) (b : List Byte) : State := s.recWriteBy State.fireLines rec_ o b
/-- Set the state field of a record. -/
def State.recState (s : State) (rec_ : Dword) (st : Nat) : State := s.recStateBy State.fireLines rec_ st
/-- Set or clear W. -/
def State.recW (s : State) (rec_ : Dword) (w : Bool) : State := s.recWBy State.fireLines rec_ w
/-- Place a strand from its record on this core. -/
def State.placeHere (s : State) (va : Dword) (r : Record) (k : Parked) : Option State :=
  s.placeHereBy State.fireLines va r k false
/-- Place a strand on another core. -/
def State.placeElsewhere (s : State) (va : Dword) (r : Record) : Option State := s.placeElsewhereBy State.fireLines va r
/-- Make a parked strand ready. -/
def State.resumeParked (s : State) (va : Dword) (src : Nat) (pc : Dword) : State × Option Nat :=
  s.resumeParkedBy State.fireLines va src pc
/-- A wake reaches a strand. -/
def State.wake (s : State) (va : Dword) : State := s.wakeBy State.fireLines va

/-- A write by the partition at a physical address performs (10 R225 to R231). -/
def State.storeMem (s : State) (pa : Nat) (b : List Byte) : State :=
  (s.setPkg ((s.pkg.writes s.keyId pa b).heal pa b.length)).fireLines pa b.length

/-! ## Barrier objects (10 R232, R233) -/

/-- A barrier object's fields. -/
structure Barrier where
  arr : BitVec 32
  trn : BitVec 32
  exp : BitVec 32
  phase : BitVec 16
  deriving DecidableEq, Repr
/-- A barrier from its bytes (R232). -/
def barrierOf (b : List Byte) : Barrier :=
  let n (o k : Nat) : Nat := leNat ((b.drop o).take k)
  ⟨BitVec.ofNat 32 (n 0 4), BitVec.ofNat 32 (n 4 4), BitVec.ofNat 32 (n 8 4), BitVec.ofNat 16 (n 12 2)⟩
/-- Its sixteen bytes. -/
def Barrier.bytes (b : Barrier) : List Byte :=
  natBytes 4 b.arr.toNat ++ natBytes 4 b.trn.toNat ++ natBytes 4 b.exp.toNat ++ natBytes 2 b.phase.toNat ++ [0#8, 0#8]
/-- The evaluation after an update (R233): the next phase begins when arr and trn are zero. -/
def Barrier.eval (b : Barrier) : Barrier × Bool :=
  if b.arr = 0#32 && b.trn = 0#32 then ({ b with phase := b.phase + 1, arr := b.exp }, true) else (b, false)

/-- Where a barrier object stands: a scratchpad address or a physical address. -/
structure BarAt where
  pad : Bool
  addr : Nat
  deriving DecidableEq, Repr
/-- The object at a place. -/
def State.barGet (s : State) (a : BarAt) : Barrier :=
  barrierOf (if a.pad then s.padRead a.addr 16 else s.pkg.reads s.keyId a.addr 16)
/-- Write the object, evaluate it, and fire its entries when the phase changes (R231, R233). -/
def State.barPut (s : State) (a : BarAt) (b : Barrier) (evaluate : Bool) : State :=
  let e := if evaluate then b.eval else (b, false)
  let s := if a.pad then s.padWrite a.addr e.1.bytes else s.storeMem a.addr e.1.bytes
  if e.2 then s.fire fun w => w.barrier && w.pad = a.pad && w.addr = a.addr else s
/-- The evaluation after an op that changed neither arr nor trn (R233, R241). -/
def State.barEval (s : State) (a : BarAt) : State :=
  if (s.barGet a).eval.2 then s.barPut a (s.barGet a) true else s
/-- Subtract landed bytes from trn (11 R253, 17 R363). -/
def State.barSub (s : State) (a : BarAt) (n : Nat) : State :=
  let b := s.barGet a
  s.barPut a { b with trn := b.trn - BitVec.ofNat 32 n } true

/-! ## Jobs (R120) -/

/-- A write by a unit of the device at a physical address: a device register takes it as a store there would be taken (25 R435),
memory fires its monitors. -/
def State.storeAt (s : State) (pa : Nat) (b : List Byte) : State :=
  if s.space pa = .regs then s.regWriteN pa b.length (leNat b) else s.storeMem pa b

/-- A record about a job, by the dispatcher with slot 0 and with the job's index as its information (R120, log 39). -/
def State.logJob (s : State) (cause job : Nat) : State := s.logEvent (s.dispatcher 0) cause (BitVec.ofNat 64 job) 0

/-- The completion store of a job header at a virtual address; a fault is logged with the job's index (R120). -/
def State.completionStore (s : State) (hdr job : Nat) : State :=
  let word := s.devNat hdr 8
  let seq := s.devNat (hdr + 8) 8
  let scope := s.devNat (hdr + 20) 1
  let s := if 2 ≤ scope ∧ scope ≤ 4 then s else s.logJob 0xA4 job
  if word % 8 ≠ 0 then s.logJob 0x45 job
  else
    match s.devTry word true with
    | .error c => s.logJob c job
    | .ok pa => s.storeAt pa (natBytes 8 seq)

/-- A task of a job ends (R120): tasks falls by one, or an event record is written when it is zero already; so is one with the
cause when the header cannot be reached (log 39). -/
def State.taskEnd (s : State) (job : Nat) : State :=
  if job = 0 then s
  else
    let hdr := s.part.setup.jobs + 32 * job
    match s.devTry (hdr + 16) true with
    | .error c => s.logJob c job
    | .ok pa =>
      let n := s.memNat pa 4
      if n = 0 then s.logJob 0xA4 job
      else
        let s := s.storeMem pa (natBytes 4 (n - 1))
        if n = 1 then s.completionStore hdr job else s

/-- A member of a party halts; with the last one the party ends, and its task with it (R114). -/
def State.partyEnd (s : State) (id : Nat) : State :=
  match s.part.parties.find? fun p => p.id = id with
  | none => s
  | some p =>
    if p.left ≤ 1 then
      (s.setPart { s.part with parties := s.part.parties.filter fun q => q.id ≠ id }).taskEnd p.job
    else s.setPart { s.part with
      parties := s.part.parties.map fun q => if q.id = id then { q with left := q.left - 1 } else q }

/-- A new party. -/
def State.newParty (s : State) (job n : Nat) : State × Nat :=
  (s.setPart { s.part with parties := s.part.parties ++ [⟨s.part.nextParty, job, n⟩],
                           nextParty := s.part.nextParty + 1 }, s.part.nextParty)

/-! ## The arbiter (R118) -/

/-- The stated run the arbiter counts: core.maxrun for a frozen context (18 R378). -/
def State.countedRun (s : State) (c : Ctx) : Nat := if c.status = .frozen then s.core.maxrun else c.run

/-- The contexts in the order of ties: after the last one chosen, ascending and wrapping. -/
def State.ctxOrder (s : State) : List Nat := (List.range 8).map fun i => (s.core.last + 1 + i) % 8

/-- The first of the contexts that has the highest effective rank. -/
def State.best (s : State) (l : List Nat) : Option Nat :=
  l.foldl (fun a n => match a with
    | none => some n
    | some m => if (s.ctx m).effRank < (s.ctx n).effRank then some n else a) none

/-- Open a slice: contexts that were ready and not chosen gain age (R118). -/
def State.openSlice (s : State) : State :=
  let age (c : Ctx) : Ctx :=
    { c with bonus := if c.wasReady && !c.wasChosen then min 15 (c.bonus + 1) else c.bonus,
             wasReady := c.isReady, wasChosen := false }
  let s := (List.range 8).foldl (fun s n => s.setCtx n (age (s.ctx n))) s
  s.setCore { s.core with left := s.core.slice }

/-- Put a context on the issue path. -/
def State.issueCtx (s : State) (n : Nat) : State :=
  let c := s.ctx n
  let s := { s with rest := Map.set emptyCtx (Map.set emptyCtx s.rest s.xn s.x) n emptyCtx }
  { s with x := { c with status := .running, bonus := 0, wasChosen := true, req := none }, xn := n, run := true,
           core := { s.core with last := n } }

/-- The arbiter's choice when no context issues (R118); none while the partition is on its way out (18 R382). -/
def State.arbitrate (s : State) : State :=
  let ready := s.ctxOrder.filter fun n => (s.ctx n).isReady
  if ready.isEmpty || s.part.swapping then s
  else
    match s.best (ready.filter fun n => decide ((s.countedRun (s.ctx n) : Int) ≤ s.core.left)) with
    | some n => s.issueCtx n
    | none =>
      let s := s.openSlice
      match s.best ready with
      | some n => s.issueCtx n
      | none => s

/-- The running context gives up the issue path with a status; its stores are visible to the engines from then on (19 R408) and
the arbiter chooses again (R118). -/
def State.giveUp (s : State) (st : CtxStatus) : State :=
  let ready := st = .ready || st = .frozen
  let s := s.setX { s.x with status := st, wasReady := s.x.wasReady || ready, unseen := [], waited := 0, req := none }
  { s with run := false }.arbitrate

end Sys2Proof.Machine
end

