-- ==== Sys2Proof/Machine/Uses.lean ====
section
/-! DEFINITION. What an op word reads and writes by its encoding: the scalar registers for the interlock of outstanding
results (03 R72) and the destinations that two slots may not share (03 R74). -/

namespace Sys2Proof.Machine

/-- The scalar registers an op reads (the entries of 04, 05, 10 and the engine chapters). -/
def scalarReads : Instr → List (BitVec 5)
  | .add f | .sub f | .mul f | .mulh f | .mulhu f | .and f | .or f | .xor f | .andn f | .shl f | .shr f | .sar f
  | .min f | .max f | .minu f | .maxu f | .cmp f | .sel f | .ctxsv f | .ctxld f => [f.a, f.b]
  | .clz f | .popc f | .sext f | .bfx f | .jr f | .loop f | .wait f | .spawn f | .tlbinv f => [f.a]
  | .bfi f => [f.a, f.d]
  | .addi f | .andi f | .ori f | .xori f | .shli f | .shri f | .sari f | .cmpi f | .iwin f | .csrw f => [f.a]
  | .ret _ => [31]
  | .ldg f | .mon f | .mwait f | .barArrive f | .cmpl f | .pfg f => [f.b]
  | .stg f | .amo f | .barInit f | .barExpect f | .barWait f | .amof f => [f.b, f.d]
  | .cas f => [f.b, f.d, f.d + 1]
  | .cqLvl f | .mxLd f | .kvTrim f | .kvGrant f | .kvClass f | .tlDef f | .tlDefR f | .tlGet f | .tlPut f
  | .ruTab f => [f.a, f.b, f.c]
  | .cqGo f | .kvFork f | .kvFree f | .kvDemote f | .kvLend f | .kvPos f | .kvMerge f | .msgHnd f | .sctArm f =>
      [f.a, f.b]
  | .kvClassAll f => [f.a, f.c]
  | .cqCfg f | .cqBar f | .mxSetp f | .mxDrain f | .kvAttn f | .kvApp f | .kvSeal f | .kvUndo f | .kvPromote f
  | .kvPin f | .kvUnpin f | .kvRet f | .kvLen f | .kvLenT f | .tlDrop f | .tlDropF f | .tlPin f | .tlUnpin f
  | .ruCfg f | .ruStep f | .ruGenW f | .msgSend f | .msgPost f | .msgCancel f | .msgProbe f | .sctDisarm f
  | .sctTouch f | .sctDone f | .sctEvict f | .sctRead f => [f.a]
  | _ => []

/-- The scalar register an op writes, if any. -/
def scalarWrite : Instr → Option (BitVec 5)
  | .add f | .sub f | .mul f | .mulh f | .mulhu f | .and f | .or f | .xor f | .andn f | .shl f | .shr f | .sar f
  | .min f | .max f | .minu f | .maxu f | .sel f | .clz f | .popc f | .sext f | .bfx f | .bfi f | .jr f | .spawn f
  | .gtc f => some f.d
  | .addi f | .andi f | .ori f | .xori f | .shli f | .shri f | .sari f | .li f | .csrr f => some f.d
  | .call _ => some 31
  | .ldg f | .amo f | .cas f | .mon f | .mwait f | .barArrive f | .barWait f | .cmpl f | .amof f => some f.d
  | .mxGetp f | .kvApp f | .kvLend f | .kvLen f | .kvLenT f | .kvPos f | .ruGen f | .msgPost f | .msgCancel f
  | .msgProbe f | .sctRead f => some f.c
  | _ => none

/-- The predicate an op writes, if any (04 R80, R82). -/
def predWrite : Instr → Option Nat
  | .cmp f => some (f.d.toNat % 8)
  | .cmpi f => some (f.d.toNat % 8)
  | .plog f => some (f.d.toNat % 8)
  | _ => none

/-- Does an M op land a result in latch w2 (03 R57)? -/
def mLands : Instr → Bool
  | .vld _ | .vlds _ | .vldx _ | .vldb _ | .vldt _ | .fetest _ => true
  | _ => false

/-- The destinations of a vector op in a cluster: registers 64 + 32 c + n, masks 400 + 4 c + n without l0, the latch 500 + 4 c +
u, holds 600 + 2 c + side. -/
def vectorWrites (k : Kind) (cl : Nat) (i : Instr) : List Nat :=
  match vshape i with
  | none => []
  | some (f, sh) =>
    (if sh.d = .dest && !f.w && decide (f.d.toNat < 32) then [64 + 32 * cl + f.d.toNat] else []) ++
    (if sh.d = .mask && !f.w && decide (f.d.toNat % 4 ≠ 0) then [400 + 4 * cl + f.d.toNat % 4] else []) ++
    (match i with
      | .vldt g => if g.m = 0#2 then [] else [400 + 4 * cl + g.m.toNat]
      | _ => []) ++
    (match kLatch k with
      | some u => if k = .M && !mLands i then [] else [500 + 4 * cl + u]
      | none => []) ++
    (if f.h && sh.a then [600 + 2 * cl] else []) ++ (if f.k && sh.b then [601 + 2 * cl] else [])

/-- Every destination an op word writes on a cluster, as a number: scalar n below 32 but s0, predicates 32 + n but p0 (R74). -/
def writesOf (k : Kind) (cl : Nat) (i : Instr) : List Nat :=
  (match scalarWrite i with
    | some d => if d = 0#5 then [] else [d.toNat]
    | none => []) ++
  (match predWrite i with
    | some n => if n = 0 then [] else [32 + n]
    | none => []) ++ vectorWrites k cl i

/-- The register names of an op that an outstanding result may hold back (R72). -/
def scalarNames (i : Instr) : List Nat :=
  ((scalarReads i).map (·.toNat) ++ (match scalarWrite i with | some d => [d.toNat] | none => [])).filter (· ≠ 0)

end Sys2Proof.Machine
end

