-- ==== Sys2Proof/Machine/Commands.lean ====
section
/-! DEFINITION. Accepted engine commands: their regions in the range-overlap scoreboard, what they read, how they end, and
the faults they leave (11 R244 to R247, 09 R196, R197). -/

namespace Sys2Proof.Machine

/-- Two byte ranges overlap. -/
def overlaps (a n b m : Nat) : Bool := decide (a < b + m) && decide (b < a + n) && decide (0 < n) && decide (0 < m)
/-- A region: first physical scratchpad byte and length; an empty one is none. -/
def regionOf (a n : Nat) : Option (Nat × Nat) := if n = 0 then none else some (a, n)
/-- Two regions overlap. -/
def regionsMeet : Option (Nat × Nat) → Option (Nat × Nat) → Bool
  | some (a, n), some (b, m) => overlaps a n b m
  | _, _ => false

/-- The entries of the scoreboard (R245). -/
def CoreSt.entries (c : CoreSt) : List Cmd :=
  c.cmds.filter fun k => (k.rd.isSome || k.wr.isSome) && !(k.rdDone && k.wrDone)
/-- A command may read its read region (R246). -/
def CoreSt.canRead (c : CoreSt) (k : Cmd) : Bool :=
  c.cmds.all fun e => !(decide (e.id < k.id) && !e.wrDone && regionsMeet e.wr k.rd)
/-- A command may write its write region (R246). -/
def CoreSt.canWrite (c : CoreSt) (k : Cmd) : Bool :=
  c.cmds.all fun e => !(decide (e.id < k.id) &&
    ((!e.rdDone && regionsMeet e.rd k.wr) || (!e.wrDone && regionsMeet e.wr k.wr)))

/-- The lines that a byte range touches: the first, and how many. -/
def linesOf (a n : Nat) : Nat × Nat := if n = 0 then (a / 128, 0) else (a / 128, (a + n - 1) / 128 - a / 128 + 1)
/-- Do the bytes at a physical range exist and are they whole? -/
def State.physFault (s : State) (pa n : Nat) : Option Nat :=
  if n = 0 then none
  else if s.space pa = .none || s.space (pa + n - 1) = .none then some 0x49
  else
    let l := linesOf pa n
    if (List.range l.2).any fun i => s.integrityFail ((l.1 + i) * 128) then some 0x46 else none
/-- What stops a store of an engine to a physical range: bytes that do not exist, a port that is down, or a line that fails
where the store takes part of a 32-byte sector, which is read first (10 R222, R226). -/
def State.physWriteFault (s : State) (pa n : Nat) : Option Nat :=
  if n = 0 then none
  else if s.space pa = .none || s.space (pa + n - 1) = .none then some 0x49
  else if s.writeFail pa n then some 0x46
  else none
/-- Set the full/empty bits of a region. -/
def State.regionFull (s : State) (r : Option (Nat × Nat)) (full : Bool) : State :=
  match r with
  | some (a, n) => s.setFulls (linesOf a n).1 full (linesOf a n).2
  | none => s

/-- A command by its number. -/
def CoreSt.cmd (c : CoreSt) (id : Nat) : Option Cmd := c.cmds.find? fun k => k.id = id
/-- Replace a command. -/
def State.putCmd (s : State) (c : Cmd) : State :=
  s.setCore { s.core with cmds := s.core.cmds.map fun k => if k.id = c.id then c else k }
/-- The translation of a command with its privilege, which is made once for each page, at its first touch (10 R217). -/
def State.pageTranslate (s : State) (id : Nat) (priv : Bool) (va : Dword) (write : Bool) : Translated :=
  let a := va56 va
  match s.core.pages.find? fun p => p.1 = id && p.2.1.covers a with
  | some p => (s, s.leafAccess p.2.1 a write priv)
  | none =>
    let r := s.tlbFind a
    match r.2 with
    | .error e => (r.1, .error e)
    | .ok e =>
      (r.1.setCore { r.1.core with pages := r.1.core.pages ++ [(id, e, false)] }, s.leafAccess e a write priv)

/-! ## What an engine reads (09 R196, R197) -/

/-- A scratchpad byte as a command reads it: of a granule that a vector store may not have reached, or has reached since, one of
the granule's contents. -/
def State.engByte (s : State) (c : Cmd) (a : Nat) : Byte :=
  let g := a / 16 * 16
  let cand := c.old.filter fun x => x.1 = g
  let k := Config.pickGranule c.id g cand.length % (cand.length + 1)
  match cand[k]? with
  | some x => x.2.getD (a % 16) 0#8
  | none => Map.get 0 s.core.pad a
/-- The bytes of a granule as an engine's write of bytes at an address leaves them. -/
def overlay (a : Nat) (b : List Byte) (g : Nat) (old : List Byte) : List Byte :=
  (List.range 16).map fun i => if a ≤ g + i ∧ g + i < a + b.length then b.getD (g + i - a) 0 else old.getD i 0
/-- An engine writes scratchpad: a granule that is kept as it was before a vector store takes the engine's bytes as well, so
that a later command reads one of the two writes (09 R197, log 10). -/
def State.engWrite (s : State) (a : Nat) (b : List Byte) : State :=
  let s := s.padWrite a b
  let s := s.setX { s.x with unseen := s.x.unseen.map fun u => { u with old := overlay a b u.addr u.old } }
  s.setCore { s.core with cmds := s.core.cmds.map fun c => { c with old := c.old.map fun x => (x.1, overlay a b x.1 x.2) } }
/-- Bytes read upward. -/
def State.engBytes (s : State) (c : Cmd) (a n : Nat) : List Byte := (List.range n).map fun i => s.engByte c (a + i)

/-- A command leaves: its entry is freed, with the translations it made and the old words of the code it wrote (R244, 10 R217,
04 R97). -/
def CoreSt.dropCmd (c : CoreSt) (id : Nat) : CoreSt :=
  { c with cmds := c.cmds.filter fun k => k.id ≠ id, pages := c.pages.filter fun p => p.1 ≠ id,
           codeOld := c.codeOld.filter fun x => x.1 ≠ id }

/-! ## Microcode loads (12 R274) -/

/-- Micro-op n of a load is copied to the store. -/
def State.microCopy (s : State) (c : Cmd) : Nat → State
  | 0 => s
  | n + 1 =>
    let s := s.microCopy c n
    let v := BitVec.ofNat 64 (leNat (s.engBytes c ((c.rd.getD (0, 0)).1 + 8 * n) 8))
    s.setCore { s.core with micro := Map.set 0 s.core.micro (c.st.getD 0 0 + n) v }
/-- The slot that a microcode load names. -/
def Cmd.loadSlot (c : Cmd) : Option Nat := match c.op with | .mxLd f => some (f.i.extractLsb' 0 6).toNat | _ => none
/-- The store address and the length of a microcode load. -/
def Cmd.loadRange (c : Cmd) : Nat × Nat := (c.st.getD 0 0, c.st.getD 1 0)
/-- The slot of a call that has still to take its micro-ops, for which its progress is empty, and the place and length in the
store that the slot had at acceptance. -/
def Cmd.callSlot (c : Cmd) : Option (Nat × Nat × Nat) :=
  match c.op with
  | .mxCall f =>
    if c.st.isEmpty then some ((f.i.extractLsb' 0 6).toNat, leNat (c.req.take 4), leNat ((c.req.drop 4).take 4)) else none
  | _ => none
/-- A microcode load writes what a routine in the store runs: its slot or some of its words; the ROM's it never does (R268). -/
def Cmd.loads (k : Cmd) (r : Nat × Nat × Nat) : Bool :=
  decide (8 ≤ r.1) && k.loadSlot.isSome && (decide (k.loadSlot = some r.1) || overlaps k.loadRange.1 k.loadRange.2 r.2.1 r.2.2)
/-- A call accepted before a load has still to take micro-ops that the load writes. -/
def CoreSt.callBefore (c : CoreSt) (k : Cmd) : Bool :=
  c.cmds.any fun e => decide (e.id < k.id) && (match e.callSlot with | some r => k.loads r | none => false)
/-- A load accepted before a command has still to write its slot or words of the store that it writes as well: loads take effect
in the order of acceptance there. -/
def CoreSt.loadBefore (c : CoreSt) (k : Cmd) : Bool :=
  c.cmds.any fun e => decide (e.id < k.id) && e.loadSlot.isSome &&
    (decide (e.loadSlot = k.loadSlot) || overlaps e.loadRange.1 e.loadRange.2 k.loadRange.1 k.loadRange.2)
/-- A load copies its micro-ops, sets its slot and completes (R274). -/
def State.loadOne (s : State) (c : Cmd) : State :=
  let t := s.microCopy c c.loadRange.2
  let slots := match c.loadSlot with | some n => Map.set (0, 0) t.core.slots n c.loadRange | none => t.core.slots
  t.setCore { t.core.dropCmd c.id with slots := slots }
/-- The micro-ops of a slot: the ROM's, or those of the store at the start and of the length the slot names (R268). -/
def CoreSt.routine (c : CoreSt) (slot : Nat) (r : Nat × Nat) : List Dword :=
  if slot = 0 then [1#64 <<< 58, 0#64]
  else if slot = 1 then [2#64 <<< 58, 1#64 <<< 58, 0#64]
  else (List.range r.2).map fun i => Map.get 0 c.micro (r.1 + i)
/-- A call takes its micro-ops once every load accepted before it that writes some of them has been made (R274). -/
def CoreSt.takeOps (c : CoreSt) (e : Cmd) : Cmd :=
  match e.callSlot with
  | none => e
  | some r =>
    if c.cmds.any fun k => decide (k.id < e.id) && k.loads r then e
    else { e with args := e.args ++ c.routine r.1 r.2, st := [0, 1, 0] }
/-- Each microcode load that may read its region, and that no earlier call or load stands before, is made, and the calls that
waited for it take their micro-ops. -/
def State.loadMicro (s : State) : State :=
  s.core.cmds.foldl (fun t c =>
    if c.loadSlot.isSome && t.core.canRead c && !t.core.callBefore c && !t.core.loadBefore c then
      let u := t.loadOne c
      u.setCore { u.core with cmds := u.core.cmds.map u.core.takeOps }
    else t) s

/-! ## The matrix queue (12 R270) -/

/-- A command of the matrix queue (R270, 14 R317). -/
def Cmd.onMatrix (c : Cmd) : Bool :=
  match c.op with
  | .mxCall _ | .mxDrain _ | .mxZero _ | .kvAttn _ => true
  | _ => false
/-- The matrix queue, oldest first. -/
def CoreSt.matrixQueue (c : CoreSt) : List Cmd := c.cmds.filter Cmd.onMatrix
/-- The bank that belonged to a kv.attn stopped behind other commands of the queue becomes +0 once those have run (22 R426). -/
def CoreSt.zeroBanks (c : CoreSt) : CoreSt :=
  let due (x : Nat × Nat) : Bool := c.matrixQueue.all fun e => decide (x.2 ≤ e.id)
  { c with banks := (c.zeroAfter.filter due).foldl (fun m x => Map.set Bank.empty m x.1 { Map.get Bank.empty m x.1 with el := [] }) c.banks,
           zeroAfter := c.zeroAfter.filter fun x => !due x }

/-- A command completes and leaves (R244); one of the matrix queue may be what a bank waits for to become +0. -/
def State.endCmd (s : State) (c : Cmd) : State :=
  let k := s.core.dropCmd c.id
  (s.setCore (if c.onMatrix then k.zeroBanks else k)).loadMicro
/-- A command has read its last source byte, and goes on (R246). -/
def State.releaseRead (s : State) (id : Nat) : State :=
  (s.setCore { s.core with cmds := s.core.cmds.map fun k => if k.id = id then { k with rdDone := true } else k }).loadMicro
/-- A command has written its last destination byte, and goes on (R246). -/
def State.releaseWrite (s : State) (c : Cmd) : State := (s.putCmd { c with wrDone := true }).loadMicro

/-! ## Results in scalar registers (03 R72) -/

/-- The register of a scalar-returning command is outstanding until the engine delivers it. -/
def State.owes (s : State) (d : BitVec 5) : State :=
  if d = 0#5 then s else s.setX { s.x with out := s.x.out ++ [(d.toNat, none)] }
/-- A command still owes its register. -/
def State.owing (s : State) (c : Cmd) : Bool :=
  match scalarWrite c.op, s.ctxOf c.strand with
  | some d, some n => !c.orphan && (s.ctx n).out.contains (d.toNat, none)
  | _, _ => false
/-- The engine delivers the value of a command's register, once. -/
def State.deliver (s : State) (c : Cmd) (v : Dword) : State :=
  match scalarWrite c.op, s.ctxOf c.strand with
  | some d, some n =>
    let x := s.ctx n
    if !c.orphan && x.out.contains (d.toNat, none) then
      s.setCtx n { x.setS d.toNat v with out := x.out.erase (d.toNat, none) }
    else s
  | _, _ => s
/-- The same for a value the specification leaves open (log 7). -/
def State.deliverFree (s : State) (c : Cmd) : State :=
  if s.owing c then { s with free := s.free + 1 }.deliver c (Config.freeValue s.free) else s

/-! ## Engine faults (R247) -/

/-- A fault after acceptance is recorded for the strand of a command: the first is kept, the others counted. -/
def recordFault (info : Dword) (cause : Nat) : Option EngineFault → Option EngineFault
  | none => some ⟨info, BitVec.ofNat 8 cause, 0⟩
  | some e => some { e with more := e.more + 1 }
/-- The context of the strand, or its parked entry, takes the pending fault. -/
def State.strandFault (s : State) (strand info : Dword) (cause : Nat) : State :=
  match s.ctxOf strand with
  | some n => s.setCtx n { s.ctx n with ef := recordFault info cause (s.ctx n).ef }
  | none =>
    let hit (p : Parked) : Parked :=
      if va56 p.addr = va56 strand then { p with ef := recordFault info cause p.ef } else p
    s.setPart { s.part with parked := s.part.parked.map hit }
/-- A command stops with a fault: the lines of its write region become full and its entry is freed. -/
def State.failCmd (s : State) (c : Cmd) (info : Dword) (cause : Nat) : State :=
  ((s.regionFull c.wr true).endCmd c).strandFault c.strand info cause


end Sys2Proof.Machine
end

