-- ==== Sys2Proof/Machine/KvPool.lean ====
section
/-! DEFINITION. What the page-walk engines, the receive engine and firmware do with the pools of the page store: memory access,
pool and frame descriptors, and free lists (13 R278 to R280, R292). -/

namespace Sys2Proof.Machine

/-- A cause with its information; none stands for what the command names (11 R247). -/
abbrev KvErr := Nat × Option Dword
/-- Work of a page-walk engine for a command, or on its own account (none): it changes the state and may stop with a cause,
keeping what it has changed (11 R247). -/
abbrev Kv := ReaderT (Option Nat) (ExceptT KvErr (StateM State))
/-- The work done from a state: its result or cause, and the state it leaves. -/
def Kv.run {α : Type} (k : Kv α) (id : Option Nat) (s : State) : Except KvErr α × State := (ExceptT.run (k id)).run s
/-- Stop with a cause. -/
def kvFault {α : Type} (cause : Nat) : Kv α := throw (cause, none)
/-- Stop with a cause unless a condition holds. -/
def kvNeed (b : Bool) (cause : Nat) : Kv Unit := if b then pure () else kvFault cause

/-! ## Memory of the engines (log 30) -/

/-- Translate a virtual address of a table, with the integrity of a read. A command translates each page once, at its first
touch (10 R217); what an engine does on its own account translates anew. -/
def kvAddr (va : Nat) (write : Bool) : Kv Nat := do
  let s ← get
  let t := match ← read with
    | some id => s.pageTranslate id true (BitVec.ofNat 64 va) write
    | none => s.translate (BitVec.ofNat 64 va) write true
  set t.1
  match t.2 with
  | .error e => throw (e, some (BitVec.ofNat 64 (va % 2 ^ 56)))
  | .ok (pa, _) =>
    if t.1.integrityFail pa then throw (0x46, some (BitVec.ofNat 64 (va % 2 ^ 56))) else pure pa
/-- Bytes at a virtual address. -/
def kvRead (va n : Nat) : Kv (List Byte) := do
  let pa ← kvAddr va false
  let s ← get
  pure (s.pkg.reads s.keyId pa n)
/-- A number at a virtual address. -/
def kvNat (va n : Nat) : Kv Nat := do pure (leNat (← kvRead va n))
/-- Bytes stored at a virtual address. -/
def kvWrite (va : Nat) (b : List Byte) : Kv Unit := do
  let pa ← kvAddr va true
  modify fun s => s.storeMem pa b
/-- Bytes of a frame at a physical address. -/
def kvPhys (pa n : Nat) : Kv (List Byte) := do
  let s ← get
  match s.physFault pa n with
  | some e => kvFault e
  | none => pure (s.pkg.reads s.keyId pa n)
/-- Bytes of a frame stored at a physical address. -/
def kvPhysWrite (pa : Nat) (b : List Byte) : Kv Unit := do
  match (← get).physWriteFault pa b.length with
  | some e => kvFault e
  | none => modify fun s => s.storeMem pa b
/-- A pool counter grows (25 R442). -/
def State.countPool (s : State) (pool k n : Nat) : State :=
  let i := 8 * pool + k
  s.setPkg { s.pkg with
    counters := Map.set 0 s.pkg.counters i (Map.get 0 s.pkg.counters i + BitVec.ofNat 64 n) }

/-! ## Pools (R278, R279, R281) -/

/-- A pool descriptor. -/
structure Pool where
  id : Nat
  raw : List Byte
  deriving DecidableEq, Repr
/-- A field of a descriptor's bytes. -/
def fieldOf (b : List Byte) (o n : Nat) : Nat := leNat ((b.drop o).take n)
/-- Layers per frame. -/
def Pool.layers (p : Pool) : Nat := fieldOf p.raw 0 2
/-- KV heads per frame. -/
def Pool.heads (p : Pool) : Nat := fieldOf p.raw 2 1
/-- Head dimension code. -/
def Pool.ldim (p : Pool) : Nat := fieldOf p.raw 3 1
/-- log2 P. -/
def Pool.lp (p : Pool) : Nat := fieldOf p.raw 4 1
/-- Format at rung 0. -/
def Pool.hfmt (p : Pool) : Nat := fieldOf p.raw 5 1
/-- Pool valid. -/
def Pool.valid (p : Pool) : Bool := decide (fieldOf p.raw 6 1 % 2 = 1)
/-- Frames in the pool. -/
def Pool.nfr (p : Pool) : Nat := fieldOf p.raw 8 4
/-- Frame descriptor table. -/
def Pool.fdt (p : Pool) : Nat := fieldOf p.raw 16 8
/-- HBM home of frame 0. -/
def Pool.hbase (p : Pool) : Nat := fieldOf p.raw 24 8
/-- CXL home of frame 0. -/
def Pool.cbase (p : Pool) : Nat := fieldOf p.raw 32 8
/-- Shared free-list head. -/
def Pool.flist (p : Pool) : Nat := fieldOf p.raw 40 8
/-- Head of the list of frames to lend. -/
def Pool.llist (p : Pool) : Nat := fieldOf p.raw 48 8
/-- The per-core list heads. -/
def Pool.clist (p : Pool) : Nat := fieldOf p.raw 56 8
/-- A class-table byte. -/
def Pool.rungByte (p : Pool) (cls rung : Nat) : Nat := fieldOf p.raw (64 + 4 * cls + rung) 1
/-- Tokens per frame. -/
def Pool.P (p : Pool) : Nat := 2 ^ p.lp
/-- Head dimension. -/
def Pool.D (p : Pool) : Nat := 64 * 2 ^ p.ldim
/-- Bytes of a frame's home (R279). -/
def Pool.S (p : Pool) : Nat := (p.layers * 2 * p.P * p.heads * p.D * 2 + 127) / 128 * 128
/-- The geometry a lend request states (R297). -/
def Pool.geometry (p : Pool) : List Nat := [p.layers, p.heads, p.ldim, p.lp, p.hfmt]
/-- A descriptor keeps to its table (R278). -/
def Pool.ok (p : Pool) : Bool :=
  decide (1 ≤ p.layers) && decide (p.layers ≤ 256) && decide (1 ≤ p.heads) && decide (p.heads ≤ 64) &&
  decide (p.ldim < 3) && decide (2 ≤ p.lp) && decide (p.lp ≤ 6) && decide (p.hfmt < 2) && decide (fieldOf p.raw 6 1 < 2) &&
  decide (1 ≤ p.nfr) && decide (p.nfr ≤ 2 ^ 28) && decide (p.fdt % 32 = 0) &&
  fieldOf p.raw 7 1 = 0 && fieldOf p.raw 12 4 = 0 && fieldOf p.raw 96 32 = 0

/-- A pool descriptor as it stands in its table. -/
def kvPoolRaw (id : Nat) : Kv Pool := do pure ⟨id, ← kvRead ((← get).part.setup.pools + 128 * id) 128⟩
/-- A pool that a command uses: kv-config where it breaks its table (R278), another cause where V is 0. -/
def kvPool (id invalid : Nat) : Kv Pool := do
  let p ← kvPoolRaw id
  kvNeed p.valid invalid
  kvNeed p.ok 0x66
  pure p

/-! ## Frames (R279, R280) -/

/-- A frame descriptor. -/
structure Fdesc where
  id : Nat
  pool : Pool
  refcount : Nat
  fill : Nat
  cls : Nat
  tier : Nat
  rung : Nat
  fmt : Nat
  c : Bool
  readers : Nat
  key : Nat
  surv : Nat
  loc : Nat
  pins : Nat
  used : Nat
  deriving DecidableEq, Repr
/-- No frame. -/
abbrev noFrame : Nat := 0xFFFFFFFF
/-- The descriptor in 32 bytes. -/
def fdescOf (id : Nat) (p : Pool) (b : List Byte) : Fdesc :=
  let n := fieldOf b
  { id := id, pool := p, refcount := n 0 2, fill := n 2 1 % 128, cls := n 3 1 % 8, tier := n 3 1 / 8 % 8, rung := n 3 1 / 64,
    fmt := n 4 1 % 16, c := decide (n 4 1 / 32 % 2 = 1), readers := n 5 1, key := n 6 2 % 4096, surv := n 8 8, loc := n 16 6,
    pins := n 22 1, used := n 24 8 }
/-- Its 32 bytes. -/
def Fdesc.bytes (d : Fdesc) : List Byte :=
  natBytes 2 d.refcount ++ natBytes 1 d.fill ++ natBytes 1 (d.cls + 8 * d.tier + 64 * d.rung) ++
  natBytes 1 (d.fmt + (if d.pins = 0 then 0 else 16) + (if d.c then 32 else 0)) ++ natBytes 1 d.readers ++
  natBytes 2 d.key ++ natBytes 8 d.surv ++ natBytes 6 d.loc ++ natBytes 1 d.pins ++ [0#8] ++ natBytes 8 d.used
/-- The index of a frame id in its pool. -/
def Fdesc.idx (d : Fdesc) : Nat := d.id % 2 ^ 28
/-- HBM home. -/
def Fdesc.home (d : Fdesc) : Nat := d.pool.hbase + d.idx * d.pool.S
/-- CXL home. -/
def Fdesc.cxlHome (d : Fdesc) : Nat := d.pool.cbase + d.idx * d.pool.S
/-- Lender or borrower in the location of a tier 2 or 3 frame. -/
def Fdesc.peer (d : Fdesc) : Nat := d.loc / 2 ^ 32 % 2 ^ 15
/-- The remote frame id. -/
def Fdesc.remote (d : Fdesc) : Nat := d.loc % 2 ^ 32

/-- The descriptor of a frame id (R280). -/
def kvFrame (id : Nat) : Kv Fdesc := do
  let id := id % 2 ^ 32
  kvNeed (id ≠ noFrame) 0x67
  let p ← kvPool (id / 2 ^ 28) 0x67
  kvNeed (decide (id % 2 ^ 28 < p.nfr)) 0x67
  pure (fdescOf id p (← kvRead (p.fdt + 32 * (id % 2 ^ 28)) 32))
/-- Write a descriptor, as one atomic at its home (R280). -/
def kvPutFrame (d : Fdesc) : Kv Unit := kvWrite (d.pool.fdt + 32 * d.idx) d.bytes

/-! ## Free lists (R292) -/

/-- Push a frame onto the list at a head: its tier becomes 4, it links to the old first frame, and the counter grows. -/
def kvPush (head : Nat) (d : Fdesc) : Kv Unit := do
  let old ← kvNat head 8
  kvPutFrame { d with tier := 4, loc := old % 2 ^ 32 }
  kvWrite head (natBytes 4 d.id ++ natBytes 4 (old / 2 ^ 32 + 1))
/-- Pop the first frame of a list. -/
def kvPop (head : Nat) (fdt : Nat) : Kv (Option Nat) := do
  let old ← kvNat head 8
  let f := old % 2 ^ 32
  if f = noFrame then pure none
  else
    let next ← kvNat (fdt + 32 * (f % 2 ^ 28) + 16) 4
    kvWrite head (natBytes 4 next ++ natBytes 4 (old / 2 ^ 32 + 1))
    pure (some f)

/-- The frames of a list, counted up to n. -/
def kvListLength (fdt : Nat) : Nat → Nat → Kv Nat
  | 0, _ => pure 0
  | n + 1, f =>
    if f = noFrame then pure 0
    else do
      let next ← kvNat (fdt + 32 * (f % 2 ^ 28) + 16) 4
      pure ((← kvListLength fdt n next) + 1)
/-- Move up to n frames from the list at one head to the list at another. -/
def kvMoveFrames (p : Pool) (dst : Nat) : Nat → Kv Unit
  | 0 => pure ()
  | n + 1 => do
    match ← kvPop p.flist p.fdt with
    | none => pure ()
    | some id =>
      kvPush dst (← kvFrame id)
      kvMoveFrames p dst n
/-- Firmware tops up the list of a package core from the shared list of a pool to 32 frames (R292). -/
def kvTopUp (pool core : Nat) : Kv Unit := do
  let p ← kvPool pool 0x66
  let dst := p.clist + 16 * core
  let have_ ← kvListLength p.fdt 32 ((← kvNat dst 8) % 2 ^ 32)
  kvMoveFrames p dst (32 - have_)

/-- Bytes that the dump takes; what cannot be read is zero (log 52). -/
def kvDumpRead (va n : Nat) : Kv (List Byte) := tryCatch (kvRead va n) fun _ => pure (List.replicate n 0)
/-- The descriptor of a pool and the heads of its lists (18 R386): the shared list, the list to lend, the lists of the package's
cores. -/
def kvPoolDump (id : Nat) : Kv (List Byte × List Byte) := do
  let p : Pool := ⟨id, ← kvDumpRead ((← get).part.setup.pools + 128 * id) 128⟩
  if p.valid && p.ok then
    let shared ← kvDumpRead p.flist 8
    let lend ← kvDumpRead p.llist 8
    let cores ← (List.range 384).mapM fun n => kvDumpRead (p.clist + 16 * n) 8
    pure (p.raw, shared ++ lend ++ cores.flatten)
  else pure (p.raw, [])

end Sys2Proof.Machine
end

