-- ==== Sys2Proof/Machine/Directory.lean ====
section
/-! DEFINITION. The tile directory of the partition: descriptors, the room they hold, eviction, and the abandonment of a
build (15 R321 to R324, R330). -/

namespace Sys2Proof.Machine

/-! ## Descriptors (R321, R322) -/

/-- A tile descriptor (R322). -/
structure Tile where
  id : Nat
  st : Nat
  r : Bool
  v : Bool
  depth : Nat
  pins : Nat
  size : Nat
  loc : Nat
  aux : Nat
  parent : Nat
  waiters : Nat
  deriving DecidableEq, Repr
/-- No tile. -/
abbrev noTile : Nat := 0xFFFFFFFF
/-- A descriptor from its 32 bytes. -/
def tileOf (id : Nat) (b : List Byte) : Tile :=
  let n (o k : Nat) : Nat := leNat ((b.drop o).take k)
  { id := id, st := n 0 1 % 4, r := decide (n 0 1 / 4 % 2 = 1), v := decide (n 0 1 / 8 % 2 = 1), depth := n 1 1 % 8, pins := n 2 2,
    size := n 4 4, loc := n 8 8, aux := n 16 8, parent := n 24 4, waiters := n 28 2 }
/-- Its 32 bytes; reserved bits are zero. -/
def Tile.bytes (t : Tile) : List Byte :=
  natBytes 1 (t.st % 4 + (if t.r then 4 else 0) + (if t.v then 8 else 0)) ++ natBytes 1 (t.depth % 8) ++ natBytes 2 t.pins ++
  natBytes 4 t.size ++ natBytes 8 t.loc ++ natBytes 8 t.aux ++ natBytes 4 t.parent ++ natBytes 2 t.waiters ++ [0#8, 0#8]

/-- The descriptor of an id in the table (log 42). -/
def State.tileAt (s : State) (id : Nat) : Tile :=
  tileOf id (s.pkg.reads s.keyId (s.part.setup.tileTable + 32 * id) 32)
/-- A tile id names a descriptor (R321). -/
def State.tileId (s : State) (id : Nat) : Bool := decide (id < s.part.setup.tileCount) && decide (id ≠ noTile)
/-- A valid tile (R321). -/
def State.tile (s : State) (id : Nat) : Option Tile :=
  if s.tileId id && (s.tileAt id).v then some (s.tileAt id) else none
/-- Why the descriptor of an id cannot be read (10 R226). -/
def State.tileFault (s : State) (id : Nat) : Option Nat := s.physFault (s.part.setup.tileTable + 32 * id) 32
/-- A descriptor changes, as one atomic at the directory (R322). -/
def State.putTile (s : State) (t : Tile) : State := s.storeMem (s.part.setup.tileTable + 32 * t.id) t.bytes

/-! ## Commands at the directory: phase 0 before they are carried out, 1 copying, 2 waiting on a build, 3 waiting for room -/

/-- A command of the tile directory. -/
def Cmd.isTile (c : Cmd) : Bool :=
  match c.op with
  | .tlDef _ | .tlDefR _ | .tlGet _ | .tlPut _ | .tlDrop _ | .tlDropF _ | .tlPin _ | .tlUnpin _ | .tlDone _ => true
  | _ => false
/-- The tile it names. -/
def Cmd.tile (c : Cmd) : Nat := (c.args.getD 0 0).toNat
/-- Its phase. -/
def Cmd.tilePhase (c : Cmd) : Nat := c.st.getD 0 0
/-- A command copies the bytes of a tile. -/
def CoreSt.copying (c : CoreSt) (id : Nat) : Bool := c.cmds.any fun k => k.isTile && k.tile = id && k.tilePhase = 1

/-- A command fails at the directory: a load of its strand that waits on a destination line takes the fault as well (R247, 15).
-/
def State.failTile (s : State) (c : Cmd) (info : Dword) (cause : Nat) : State :=
  let s := s.failCmd c info cause
  match c.wr, s.ctxOf c.strand with
  | some (a, n), some k =>
    let x := s.ctx k
    let l := linesOf a n
    if x.wlines.any fun y => decide (l.1 ≤ y) && decide (y < l.1 + l.2) then s.setCtx k { x with efNow := true } else s
  | _, _ => s
/-- A command fails with a cause of this chapter, on the tile it names (R247, R338). -/
def State.failOn (s : State) (c : Cmd) (cause : Nat) : State := s.failTile c (c.args.getD 0 0) cause

/-! ## Room (R324) -/

/-- The bytes that tiles hold in the tile area and the overflow range. -/
def State.tileSpans (s : State) : List (Nat × Nat) :=
  s.part.tiles.map fun id => ((s.tileAt id).loc, (s.tileAt id).size)
/-- The lowest room of a size in a range (log 43). -/
def State.roomIn (s : State) (lo n size : Nat) : Option Nat :=
  let used := s.tileSpans
  let ok (a : Nat) : Bool := decide (lo ≤ a) && decide (a + size ≤ lo + n) && used.all fun u => !overlaps a size u.1 u.2
  (lo :: used.map fun u => u.1 + u.2).foldl (fun r a => if ok a && (match r with | some b => decide (a < b) | none => true)
    then some a else r) none
/-- Room in the tile area. -/
def State.areaRoom (s : State) (size : Nat) : Option Nat := s.roomIn s.part.setup.tileArea s.part.setup.tileAreaSize size
/-- An address lies in the tile area. -/
def State.inArea (s : State) (a : Nat) : Bool :=
  decide (s.part.setup.tileArea ≤ a) && decide (a < s.part.setup.tileArea + s.part.setup.tileAreaSize)
/-- A tile no longer holds room. -/
def State.freeRoom (s : State) (id : Nat) : State := s.setPart { s.part with tiles := s.part.tiles.filter fun x => x ≠ id }
/-- A tile holds room, and is the last one read or written. -/
def State.holdRoom (s : State) (id : Nat) : State :=
  s.setPart { s.part with tiles := (s.part.tiles.filter fun x => x ≠ id) ++ [id] }
/-- A tile has been read or written. -/
def State.touchTile (s : State) (id : Nat) : State := if s.part.tiles.contains id then s.holdRoom id else s
/-- Bytes of a tile are copied from one place to another. -/
def State.moveTile (s : State) (a b n : Nat) : State := s.storeMem b (s.pkg.reads s.keyId a n)

/-- The bytes of a tile can be copied to another place: all can be read, and all have a place there (10 R226). -/
def State.canCopy (s : State) (a b n : Nat) : Bool := (s.physFault a n).isNone && (s.physWriteFault b n).isNone
/-- The tile to evict next: the one least recently used that R324 allows; one whose bytes cannot be copied to its home stays
(log 43). -/
def State.victim (s : State) : Option Nat :=
  s.part.tiles.find? fun id =>
    let t := s.tileAt id
    t.st = 0 && t.pins = 0 && !s.core.copying id && (t.r || s.canCopy t.loc t.aux t.size)
/-- A tile is evicted: dropped when a recipe can rebuild it, else copied to its home (R324). -/
def State.evict (s : State) (id : Nat) : State :=
  let t := s.tileAt id
  let s := s.freeRoom id
  if t.r then s.putTile { t with st := 2, loc := 0 }
  else (s.moveTile t.loc t.aux t.size).putTile { t with st := 1, loc := t.aux }
/-- Tiles are evicted one at a time until the tile area has room (R324). -/
def State.makeRoom (s : State) (size : Nat) : Nat → State × Option Nat
  | 0 => (s, s.areaRoom size)
  | n + 1 =>
    match s.areaRoom size, s.victim with
    | some a, _ => (s, some a)
    | none, some id => (s.evict id).makeRoom size n
    | none, none => (s, none)
/-- Room for a tile: in the tile area, else in the overflow range; none when it must wait (R324). -/
def State.allocTile (s : State) (size : Nat) : State × Option Nat :=
  let r := s.makeRoom size s.part.tiles.length
  match r.2 with
  | some a => (r.1, some a)
  | none => (r.1, r.1.roomIn s.part.setup.tileOvf s.part.setup.tileOvfSize size)
/-- A tile in state 1 moves into the tile area when there is room and nothing copies it (R324); one that cannot be read whole
stays, and the command that reads it meets the cause. -/
def State.moveIn (s : State) (t : Tile) : State :=
  match s.areaRoom t.size with
  | some a =>
    if s.core.copying t.id || !s.canCopy t.loc a t.size then s
    else (((s.moveTile t.loc a t.size).putTile { t with st := 0, loc := a }).holdRoom t.id)
  | none => s

/-! ## The end of a build (R330, R335) -/

/-- The pins of a build's sources are released. -/
def State.releasePins (s : State) (l : List Nat) : State :=
  l.foldl (fun s id => let t := s.tileAt id; s.putTile { t with pins := t.pins - 1 }) s
/-- The commands that wait on a tile's build. -/
def CoreSt.waitingOn (c : CoreSt) (id : Nat) : List Cmd := c.cmds.filter fun k => k.isTile && k.tile = id && k.tilePhase = 2
/-- A build is given up with a cause: its bytes are freed, its pins released, and each waiting tl.get fails (R330). -/
def State.giveUpBuild (s : State) (b : Build) (cause : Nat) : State :=
  let t := s.tileAt b.tile
  let s := s.freeRoom b.tile
  let s := s.putTile { t with st := 2, loc := 0, waiters := 0 }
  let s := s.releasePins b.srcs
  let s := s.setPart { s.part with builds := s.part.builds.filter fun x => x ≠ b }
  (s.core.waitingOn b.tile).foldl (fun s c => s.failOn c cause) s
/-- A recipe strand ends: a build it has not published is abandoned (R330). -/
def State.abandon (s : State) (rec_ : Dword) : State :=
  match s.part.builds.find? fun b => va56 b.rec_ = va56 rec_ with
  | some b => s.giveUpBuild b 0x97
  | none => s
/-- A fatal cause ends every strand of the partition, and with them every build (R330, 18 R385). -/
def State.abandonAll (s : State) : State := s.part.builds.foldl (fun s b => s.giveUpBuild b 0x97) s

end Sys2Proof.Machine
end

