-- ==== Sys2Proof/Machine/Posted.lean ====
section
/-! DEFINITION. What a strand's end and its parks do in the receive engine: its unmatched receives are cancelled, and a
held handler start is made (17 R364, R365). -/

namespace Sys2Proof.Machine

/-- A receive is withdrawn: its scratchpad lines become full (17 R365, R368). -/
def State.withdraw (s : State) (r : Recv) : State :=
  (s.setPart { s.part with posted := s.part.posted.filter fun x => x.id ≠ r.id }).setFulls r.lines.1 true r.lines.2
/-- A strand halts: every receive it posted that has not matched is cancelled (17 R365). -/
def State.cancelRecvs (s : State) (rec_ : Dword) : State :=
  let s := (s.part.posted.filter fun r => va56 r.strand = va56 rec_).foldl State.withdraw s
  s.setPart { s.part with matched := s.part.matched.filter fun x => !decide (va56 x.2 = va56 rec_) }
/-- The oldest handler start held for a strand. -/
def State.heldStart (s : State) (rec_ : Dword) : Option Start := s.part.starts.find? fun h => va56 h.rec_ = va56 rec_
/-- A held start is made at a park, which parks nothing: the strand keeps its context and goes on at the handler PC with s1 to
s3 of the start, without privilege (17 R364, 18 R371, log 48). -/
def State.makeStart (s : State) (h : Start) : State :=
  let s := s.setPart { s.part with starts := s.part.starts.erase h }
  let x := ((s.x.setS 1 h.word).setS 2 h.tag).setS 3 h.dest
  s.setX { x with pc := addrOf h.pc, sp := false }

end Sys2Proof.Machine
end

