-- ==== Sys2Proof/Machine/RuleUnit.lean ====
section
/-! DEFINITION. The rule unit: configuration words, one generation of a tile, the counter of a context, and the end or stop
of a step (16 R339 to R349). -/

namespace Sys2Proof.Machine

/-! ## Configuration words (R345) -/

/-- Bits of a cell. -/
def ruW (c : Dword) : Nat := 2 ^ bits c 0 2
/-- Rows. -/
def ruRows (c : Dword) : Nat := bits c 21 7 + 1
/-- Cells of a row. -/
def ruWidth (c : Dword) : Nat := 64 * (bits c 28 13 + 1)
/-- Bytes of a row (R339). -/
def ruRowLen (c : Dword) : Nat := ruWidth c * ruW c / 8
/-- Bytes of the tile. -/
def ruSize (c : Dword) : Nat := ruRows c * ruRowLen c
/-- Chequerboard mode. -/
def ruU (c : Dword) : Bool := c.getLsbD 7
/-- The neighbours' offsets in order (R340). -/
def ruNear (c : Dword) : List (Int × Int) :=
  match bits c 2 2 with
  | 0 =>
    let r := bits c 4 2
    (List.range r).map (fun (i : Nat) => ((i : Int) - r, 0)) ++ (List.range r).map fun (i : Nat) => ((i : Int) + 1, 0)
  | 1 => [(0, -1), (-1, 0), (1, 0), (0, 1)]
  | _ => [(-1, -1), (0, -1), (1, -1), (-1, 0), (1, 0), (-1, 1), (0, 1), (1, 1)]

/-! ## A generation (R339 to R343) -/

/-- The code of a cell in the bytes of a tile (R339). -/
def ruCell (c : Dword) (b : List Byte) (x y : Nat) : Nat :=
  (b.getD (y * ruRowLen c + x * ruW c / 8) 0).toNat / 2 ^ (x * ruW c % 8) % 2 ^ ruW c
/-- A coordinate under the boundary mode; none reads the fixed code (R342). -/
def ruCoord (bd n : Nat) (u : Int) : Option Nat :=
  if 0 ≤ u ∧ u < n then some u.toNat
  else if bd = 1 then some (u % n).toNat
  else if bd = 2 then some (if u < 0 then -1 - u else 2 * n - 1 - u).toNat
  else none
/-- The code of the neighbour at an offset from a cell. -/
def ruNeighbour (c : Dword) (b : List Byte) (x y : Nat) (o : Int × Int) : Nat :=
  match ruCoord (bits c 8 2) (ruWidth c) (x + o.1), ruCoord (bits c 8 2) (ruRows c) (y + o.2) with
  | some u, some v => ruCell c b u v
  | _, _ => bits c 10 4
/-- The codes of the neighbours joined, the first lowest. -/
def ruJoin (w : Nat) : List Nat → Nat
  | [] => 0
  | x :: l => x + 2 ^ w * ruJoin w l
/-- The table index of a cell (R341). -/
def ruIndex (c : Dword) (b : List Byte) (x y : Nat) : Nat :=
  let w := ruW c
  let near := (ruNear c).map (ruNeighbour c b x y)
  let n := near.length
  let own := ruCell c b x y
  if (1 + n) * w ≤ 16 && !c.getLsbD 6 then own * 2 ^ (n * w) + ruJoin w near else own * 256 + near.foldl (· + ·) 0
/-- The new code of a cell from the table RAM (R341). -/
def ruNew (c : Dword) (t : List Host.Cell) (b : List Byte) (x y : Nat) : Nat :=
  let i := ruIndex c b x y
  (Map.get 0 t (i / 2)).toNat / 2 ^ (4 * (i % 2)) % 2 ^ (min 4 (ruW c))
/-- A tile's bytes after a generation, or after a half-step of the cells of one parity (R343). -/
def ruNext (c : Dword) (t : List Host.Cell) (b : List Byte) (parity : Option Nat) : List Byte :=
  let w := ruW c
  let cell (x y : Nat) : Nat :=
    match parity with
    | some p => if (x + y + bits c 20 1) % 2 = p then ruNew c t b x y else ruCell c b x y
    | none => ruNew c t b x y
  (List.range (ruSize c)).map fun j =>
    let y := j / ruRowLen c
    let x := j % ruRowLen c * 8 / w
    BitVec.ofNat 8 (ruJoin w ((List.range (8 / w)).map fun i => cell (x + i) y))
/-- The plane: bit 0 of every cell as a tile of 1-bit codes (R349). -/
def ruPlane (c : Dword) (b : List Byte) : List Byte :=
  let n := ruWidth c / 8
  (List.range (ruRows c * n)).map fun j =>
    BitVec.ofNat 8 (ruJoin 1 ((List.range 8).map fun i => ruCell c b (j % n * 8 + i) (j / n) % 2))

/-! ## Commands of the rule unit: args configuration, target, flags (1 N, 2 X), the physical tile and alternate area; st
phase (0 queued, 1 running, 2 stopped before it ran), whether its context's counter is its own, and else its counter and the
park that made it -/

/-- A ru.step. -/
def Cmd.isStep (c : Cmd) : Bool := match c.op with | .ruStep _ => true | _ => false
/-- A command of the rule-unit queue (R347). -/
def Cmd.isRule (c : Cmd) : Bool := c.isStep || (match c.op with | .ruTab _ => true | _ => false)
/-- Its configuration. -/
def Cmd.ruC (c : Cmd) : Dword := c.args.getD 0 0
/-- Its target (R346). -/
def Cmd.ruTarget (c : Cmd) : Nat := (c.args.getD 1 0).toNat
/-- N. -/
def Cmd.ruN (c : Cmd) : Bool := (c.args.getD 2 0).getLsbD 0
/-- X. -/
def Cmd.ruX (c : Cmd) : Bool := (c.args.getD 2 0).getLsbD 1
/-- The physical offset of the tile. -/
def Cmd.ruTile (c : Cmd) : Nat := (c.args.getD 3 0).toNat
/-- The physical offset of the alternate area. -/
def Cmd.ruAlt (c : Cmd) : Nat := (c.args.getD 4 0).toNat
/-- Its phase. -/
def Cmd.ruPhase (c : Cmd) : Nat := c.st.getD 0 0
/-- It uses its context's counter. -/
def Cmd.ruLinked (c : Cmd) : Bool := c.st.getD 1 0 = 1

/-- The counter a step reads (R345, R346). -/
def State.ruCount (s : State) (c : Cmd) : Nat :=
  match c.ruLinked, s.ctxOf c.strand with
  | true, some n => (s.ctx n).ruGen.toNat
  | _, _ => c.st.getD 2 0
/-- The park that gave a step a counter apart from its context's, or 0. -/
def Cmd.ruGroup (c : Cmd) : Nat := c.st.getD 3 0
/-- A step writes its counter; after a park the steps of that strand that parked together share one (R345, R346, log 46). -/
def State.setRuCount (s : State) (c : Cmd) (v : Nat) : State :=
  match c.ruLinked, s.ctxOf c.strand with
  | true, some n => s.setCtx n { s.ctx n with ruGen := BitVec.ofNat 10 v }
  | _, _ =>
    let shares (k : Cmd) : Bool := k.isStep && !k.ruLinked && k.ruGroup = c.ruGroup && va56 k.strand = va56 c.strand
    let put (k : Cmd) : Cmd := if k.id = c.id || shares k then { k with st := [k.ruPhase, 0, v, k.ruGroup] } else k
    s.setCore { s.core with cmds := s.core.cmds.map put }

/-- Each ru.gen of a strand that no earlier step of its context holds back returns the counter and D (R353). -/
def State.ruReturns (s : State) (strand : Dword) : State :=
  s.core.cmds.foldl (fun t c =>
    match c.op, t.ctxOf strand with
    | .ruGen _, some n =>
      let held := t.core.cmds.any fun k => k.isStep && k.ruLinked && decide (k.id < c.id) && va56 k.strand = va56 strand
      if va56 c.strand ≠ va56 strand || held then t
      else
        let x := t.ctx n
        (t.deliver c (BitVec.ofNat 64 (x.ruGen.toNat + 1024 * x.ruD.toNat))).endCmd c
    | _, _ => t) s

/-- The bytes of the alternate area after a synchronous step (R343, log 11). -/
def altBytes (k n : Nat) : List Byte := (List.range n).map (Config.altByte k)
/-- A step that has run ends: at its target with D set and the plane written, or at a stop (R343, R347 to R349). -/
def State.ruEnd (s : State) (c : Cmd) (done : Bool) : State :=
  let s := if ruU c.ruC then s else { s with free := s.free + 1 }.engWrite c.ruAlt (altBytes s.free (ruSize c.ruC))
  let s := if done && c.ruX then s.engWrite c.ruAlt (ruPlane c.ruC (s.padRead c.ruTile (ruSize c.ruC))) else s
  let later := s.core.cmds.any fun k => k.isStep && decide (c.id < k.id) && va56 k.strand = va56 c.strand
  let s := match done && c.ruLinked && !later, s.ctxOf c.strand with
    | true, some n => s.setCtx n { s.ctx n with ruD := true }
    | _, _ => s
  ((s.regionFull c.wr true).endCmd c).ruReturns c.strand

/-- The steps of a strand stop (R348): one that runs stands at a boundary and ends, done when it has its target (R352); one in
the queue sets the counter as it would on starting (log 46), its lines become full, and it completes. -/
def State.ruStop (s : State) (strand : Dword) : State :=
  let s := s.core.cmds.foldl (fun t c =>
    if !(c.isStep && c.ruLinked && va56 c.strand = va56 strand) then t
    else if c.ruPhase = 1 then t.ruEnd c (decide (c.ruTarget ≤ t.ruCount c))
    else
      let t := if c.ruN then t.setRuCount c 0 else t
      (t.regionFull c.wr true).endCmd c) s
  s.ruReturns strand

/-- Is it a ru.gen? -/
def Cmd.isGen (c : Cmd) : Bool := match c.op with | .ruGen _ => true | _ => false
/-- A strand parks: its steps go on from a counter that no context reads (R345), and no register waits for what its commands
return, so that its ru.gens are over (01 R30). -/
def State.ruPark (s : State) (strand : Dword) (count : Nat) : State :=
  let own (c : Cmd) : Cmd :=
    if va56 c.strand ≠ va56 strand then c
    else if c.isStep && c.ruLinked then { c with orphan := true, st := [c.ruPhase, 0, count, s.core.nextId] }
    else { c with orphan := true }
  s.setCore { s.core with cmds := (s.core.cmds.map own).filter fun c => !(c.isGen && va56 c.strand = va56 strand) }

/-- The commands of a context are told to stop at a freeze, at ctxsv and at a swap; kv.attn does so at its next fold, ru.step at
its boundary, and no other command looks at it (14 R313, 16 R348, 12 R270). -/
def State.stopSteps (s : State) (n : Nat) : State :=
  let strand := (s.ctx n).brec
  let mark (c : Cmd) : Cmd := if c.ctx = n && va56 c.strand = va56 strand then { c with stop := true } else c
  (s.setCore { s.core with cmds := s.core.cmds.map mark }).ruStop strand

end Sys2Proof.Machine
end

