-- ==== Sys2Proof/Machine/Issue.lean ====
section
/-! DEFINITION. The issue path: fetch, the causes a bundle meets, the waits, the commit and how a context gives up the
path (03 R53, R54, R68 to R76, 04 R83 to R95, 05 R110 to R114, 18 R371 to R380). The meaning of an instruction comes in
as an argument, and Machine/Step.lean passes exec. -/

namespace Sys2Proof.Machine

/-! ## Fetch (03 R53, R54, 04 R86, R90, R96) -/

/-- The place in the instruction store of a code address. -/
def CoreSt.codeIdx (c : CoreSt) (a : Addr) : Option Nat :=
  (c.halfOf a).map fun h => (if h then 8192 else 0) + a.toNat % 32768 / 4
/-- A word of the instruction store as a fetch finds it: the old word or the new one, each word by itself, while a copy that has
written it is not complete (R97, log 53). -/
def CoreSt.codeWord (c : CoreSt) (k : Nat) : Word :=
  match c.codeOld.find? fun x => x.2.1 = k with
  | some (id, _, w) => if Config.fetchesOld id k c.left then w else Map.get 0 c.istore k
  | none => Map.get 0 c.istore k
/-- The words from a code address to the end of its 64-byte line; none when no window holds it. -/
def CoreSt.lineWords (c : CoreSt) (a : Addr) : Option (List Word) :=
  (c.codeIdx a).map fun k => (List.range (16 - a.toNat / 4 % 16)).map fun i => c.codeWord (k + i)
/-- The start of the line after an address. -/
def nextLine (a : Addr) : Addr := (a ||| 63#56) + 1#56
/-- An address a number of words on. -/
def addrWords (a : Addr) (n : Nat) : Addr := a + BitVec.ofNat 56 (4 * n)

/-- What fetch finds from the pc: a code-window-miss or an illegal-bundle at an address, or a bundle. `sk` says that a skip is
still to be made. -/
inductive Fetch where
  | miss (a : Addr) (sk : Bool)
  | bad (a : Addr) (sk : Bool) (code : Nat) (h : Word)
  | got (a : Addr) (words : Nat) (slots : List Slot) (empty : Bool)

/-- Fetch from an address: padding goes to the next line, and one bundle is skipped when SK is set (R54, R90). -/
def CoreSt.fetch (c : CoreSt) : Nat → Bool → Addr → Fetch
  | 0, sk, a => .miss a sk
  | n + 1, sk, a =>
    match c.lineWords a with
    | none => .miss a sk
    | some ws =>
      match decodeBundle ws with
      | .padding => c.fetch n sk (nextLine a)
      | .bad code h => .bad a sk code h
      | .empty => if sk then c.fetch n false (addrWords a 1) else .got a 1 [] true
      | .bundle k sl => if sk then c.fetch n false (addrWords a k) else .got a k sl false

/-- The address of the bundle that begins at an address, past line padding (R54, R89). -/
def CoreSt.seqAddr (c : CoreSt) : Nat → Addr → Addr
  | 0, a => a
  | n + 1, a =>
    match c.codeIdx a with
    | none => a
    | some k => if c.codeWord k = 0#32 then c.seqAddr n (nextLine a) else a

/-! ## Causes the encoding decides (03 R68, R69, R74) -/

/-- The instruction of a slot. -/
def slotInstr (x : Slot) : Option Instr := decodeOp x.kind x.word
/-- A cause of a slot with the default information (R69). -/
def slotCause (x : Slot) (rank code pos : Nat) : CauseRec :=
  ⟨x.idx, rank, code, x.cluster,
    x.word.setWidth 64 ||| (BitVec.ofNat 64 (x.cluster % 8) <<< 32) ||| (BitVec.ofNat 64 pos <<< 35)⟩
/-- illegal-op and illegal-operand of a slot in a bundle of n words. -/
def decodeCauses (n : Nat) (x : Slot) : List CauseRec :=
  match slotInstr x with
  | none => [slotCause x 2 (0x08 + x.kind.num) 0]
  | some i =>
    match operandFault x.lits.length n i with
    | some pos => [slotCause x 3 (0x10 + x.kind.num) pos]
    | none => []
/-- The destinations of a slot (R74). -/
def slotDests (x : Slot) : List Nat :=
  match slotInstr x with
  | some i => writesOf x.kind x.cluster i
  | none => []
/-- Every slot that shares a destination with another one (R74). -/
def dupCauses (sl : List Slot) : List CauseRec :=
  let d : List (Slot × List Nat) := sl.map fun x => (x, slotDests x)
  (d.filter fun x => d.any fun y =>
    !(x.1.kind = y.1.kind && x.1.cluster = y.1.cluster) && x.2.any fun n => y.2.contains n).map
      fun x => slotCause x.1 5 0x18 0

/-- The order in which the causes of one op word are reported: alignment before bounds (09 R191), else by code. -/
def causeKey (code : Nat) : Nat := if code = 0x41 then 0x3F else code
/-- Is a cause reported before another (R69, R172, R377)? -/
def CauseRec.before (a b : CauseRec) : Bool :=
  if a.rank ≠ b.rank then decide (a.rank < b.rank)
  else if a.slot ≠ b.slot then decide (a.slot < b.slot)
  else if a.code ≠ b.code then decide (causeKey a.code < causeKey b.code)
  else decide (a.cluster < b.cluster)
/-- The cause reported. -/
def reported : List CauseRec → Option CauseRec
  | [] => none
  | c :: l =>
    match reported l with
    | none => some c
    | some d => if d.before c then some d else some c

/-! ## Slots -/

/-- The order of execution (09 R202, log 19): clusters ascending with X, A, B, M, F in each, then S, G, E (19 R403). -/
def execOrder (l : List Slot) : List Slot :=
  ((List.range 8).flatMap fun c => [Kind.X, .A, .B, .M, .F].flatMap fun k =>
    l.filter fun x => x.kind = k && x.cluster = c) ++
  [Kind.S, .G, .E].flatMap fun k => l.filter fun x => x.kind = k

/-- A frame for a bundle at an address. -/
def Frame.start (a seq : Addr) (n : Nat) : Frame := { emptyFrame with addr := a, seq := seq, words := n }

/-- An outstanding result holds a register back (R72). -/
def Ctx.held (c : Ctx) (n : Nat) : Bool := c.out.any fun x => x.1 = n

/-- The op words, beside the G ops (`State.gAddr`), that read or write global memory as they issue: a record, an image, or the
tables of the page store, the directory, the receive engine and the stream contexts. -/
def reachesMemory : Instr → Bool
  | .cmpl _ | .park _ | .halt _ | .spawn _ | .ctxsv _ | .ctxld _ | .kvAttn _ | .kvApp _ | .kvFork _ | .kvFree _ | .kvSeal _ | .kvUndo _
  | .kvTrim _ | .kvClass _ | .kvClassAll _ | .kvDemote _ | .kvPromote _ | .kvPin _ | .kvUnpin _ | .kvLend _ | .kvRet _
  | .kvLen _ | .kvLenT _ | .kvPos _ | .kvGrant _ | .tlDef _ | .tlDefR _ | .tlGet _ | .tlPut _ | .tlDrop _ | .tlDropF _
  | .tlPin _ | .tlUnpin _ | .tlDone _ | .msgSend _ | .msgPost _ | .msgCancel _ | .msgProbe _ | .sctArm _ | .sctDisarm _
  | .sctTouch _ | .sctDone _ | .sctEvict _ | .sctRead _ => true
  | _ => false
/-- The G ops whose stores can fire a watch entry, which writes the record of a strand (10 R231). -/
def mayWake : Instr → Bool
  | .stg _ | .amo _ | .cas _ | .amof _ | .barInit _ | .barArrive _ | .barExpect _ | .barWait _ => true
  | _ => false
/-- An op word that reaches global memory, be it by a wake, waits while a region is being filled (10 R227; the model waits for a
fill of any region, log 40). -/
def State.fillHolds (s : State) (i : Instr) : Bool :=
  !s.pkg.filling.isEmpty && (reachesMemory i || (mayWake i && !s.core.watch.isEmpty))

/-- The scalar registers whose value decides whether an op word is an illegal-operand (05 R115, 10 R241, 18 R389). -/
def operandReads : Instr → List (BitVec 5)
  | .spawn f => [f.a]
  | .barInit f => [f.d]
  | .ctxsv f | .ctxld f => [f.b]
  | _ => []

/-- Run one slot of a bundle of the context `x0`: a register that is outstanding before the bundle makes it wait (19 R403), as a
region that is being filled does. An illegal-operand met on a value that is still to come, of a register or of a stream, is left
out, and so is what a word that waits for a register would tell other contexts. -/
def State.runSlot (ex : Instr → State → Out) (x0 : Ctx) (i : Instr) (x : Slot) (s : State) : Out :=
  let f := s.cur
  let s := s.setCur { f with idx := x.idx, kind := x.kind, cluster := x.cluster, word := x.word, lits := x.lits }
  let owed := (scalarNames i).any x0.held
  let s := if owed then s.wait 3 else s
  let s := if s.fillHolds i then s.wait 7 else s
  match ex i s with
  | .next t =>
    let early := ((operandReads i).any fun r => x0.held r.toNat) || (t.cur.waits.drop f.waits.length).contains 4
    .next (t.setCur { t.cur with
      causes := if early then f.causes ++ (t.cur.causes.drop f.causes.length).filter fun c => c.rank ≠ 3 else t.cur.causes
      stops := if owed then f.stops else t.cur.stops })
  | r => r

/-- Run the slots in order, each one on the sources as they are before the bundle (02 R35, 19 R403). -/
def runSlots (ex : Instr → State → Out) (x0 : Ctx) : List Slot → State → Out
  | [], s => .next s
  | x :: l, s =>
    match slotInstr x with
    | none => runSlots ex x0 l s
    | some i =>
      match s.runSlot ex x0 i x with
      | .next t => runSlots ex x0 l t
      | r => r

/-- The elements reserved for pushes in flight to a stream (09 R201). -/
def pushCount (r : Stream) (q : Nat) (fl : List Flight) : Nat :=
  chunkElems r.pushf r.mfmt * (fl.filter fun f => f.what = 3 && f.dest = q).length
/-- Every result in flight of a context, those put aside by a trap among them. -/
def Ctx.allFlights (c : Ctx) : List Flight := c.flight ++ (match c.saved with | some k => k.flight | none => [])
/-- Every result in flight on the core, the replay buffers and the pushes of saved contexts among them. -/
def State.flights (s : State) : List Flight :=
  ((List.range 8).flatMap fun n => (s.ctx n).allFlights) ++ s.part.parked.flatMap (·.pushes)
/-- The bundle's pushes have room (R201): `s` is the state before the bundle. -/
def State.roomFor (s : State) (f : Frame) : Bool :=
  f.pushes.all fun p =>
    let r := s.core.stream p.1
    decide (r.fill - countOf p.1 f.pops + pushCount r p.1 s.flights + countOf p.1 f.pushes ≤ r.capacity)

/-- The cycles a bundle waits for its banks: one less than the most distinct lines of one bank (09 R192). -/
def bankWait (lines : List Nat) : Nat :=
  let d := distinct lines
  d.foldl (fun a x => max a ((d.filter fun y => y % 128 = x % 128).length - 1)) 0

/-! ## Cycles, waits and traps -/

/-- A core cycle passes: the time, the slice and the age of a pre-emption request (05 R118, R119). -/
def State.tick (s : State) : State :=
  let s := s.passCycle
  let s := s.setCore { s.core with left := s.core.left - 1 }
  s.setX { s.x with req := s.x.req.map (· + 1) }

/-- The information of a pending engine fault (11 R247). -/
def EngineFault.tinfo (e : EngineFault) : Dword :=
  (e.info &&& 0xFFFFFFFFFF#64) ||| (BitVec.ofNat 64 (min e.more 255) <<< 40) ||| (e.cause.setWidth 64 <<< 56)
/-- engine-fault is taken: the pending fault is cleared (11 R247). -/
def State.clearFault (s : State) : State := s.setX { s.x with ef := none, efNow := false }

/-- A trap is taken; a double trap, which is fatal, ends the builds of the partition's recipe strands (15 R330). -/
def State.enterTrap (s : State) (cause : Nat) (fmask : BitVec 16) (tinfo : Dword) (tpc : Addr) : State :=
  let t := s.takeTrap cause fmask tinfo tpc
  let t := t.setX { t.x with wlines := [] }
  if s.x.h then t.abandonAll else t

/-- The information of the cause reported: for class 1 with the lanes of every raise of that flag by that op word in that
cluster (08 R172). -/
def CauseRec.joined (c : CauseRec) (all : List CauseRec) : Dword :=
  if c.rank = 7 then
    (all.filter fun x => x.slot = c.slot && x.code = c.code && x.cluster = c.cluster).foldl (fun a x => a ||| x.info) c.info
  else c.info
/-- The trap for the cause reported, with every op word that meets it (R69). -/
def State.report (s : State) (c : CauseRec) (all : List CauseRec) (a : Addr) : State :=
  let m := (all.filter fun x => x.rank = c.rank).foldl (fun a x => a ||| 2 ^ (x.slot % 16)) 0
  let s := if c.code = 0x82 then s.clearFault else s
  (s.enterTrap c.code (BitVec.ofNat 16 m) (c.joined all) a).tick

/-- The bundle has waited core.wdog cycles (18 R380). -/
def State.wdogOver (s : State) : Bool := s.core.wdog ≠ 0#32 && decide (s.core.wdog.toNat ≤ s.x.waited)
/-- The bundle waits one cycle with a code, or raises watchdog (R72, 18 R380). -/
def State.hold (ex : Instr → State → Out) (s : State) (code : Nat) (lines : List Nat) : Out :=
  let s := s.setX { s.x with wcode := code, wlines := lines }
  if s.wdogOver then ex .watchdog s
  else .next (s.setX { s.x with waited := s.x.waited + 1 }).tick

/-- watchdog: a bundle that has waited core.wdog cycles traps instead of issuing (18 R380). -/
def execWatchdog (s : State) : Out :=
  .next (if s.run && s.wdogOver then
      (s.enterTrap 0xA5 0 (BitVec.ofNat 64 (s.x.wcode % 8)) s.x.pc).tick
    else s)

/-! ## The commit (R75) -/

/-- The granules of 16 bytes that a byte range touches. -/
def granules (a n : Nat) : List Nat :=
  if n = 0 then [] else (List.range ((a + n - 1) / 16 - a / 16 + 1)).map fun i => (a / 16 + i) * 16
/-- A command has still to read a granule. -/
def Cmd.reads (c : Cmd) (g : Nat) : Bool :=
  !c.rdDone && (match c.rd with | some (a, n) => overlaps a n g 16 | none => false)

/-- A vector store commits: the bytes of its lanes are written, and each granule is kept once as it was before the store for the
engines that may still read it so (09 R195 to R197). DESIGN CHOICE (log 10): of an engine write and a vector store to one
granule that nothing orders, the granule keeps the one that comes later in the order of steps. -/
def State.padStore (s : State) (l : List (Nat × List Byte)) : State :=
  let old := (distinct (l.flatMap fun x => granules x.1 x.2.length)).map fun x => (x, s.padRead x 16)
  let s := s.setX { s.x with unseen := s.x.unseen ++ old.map fun x => ⟨8, x.1, x.2⟩ }
  let s := s.setCore { s.core with
    cmds := s.core.cmds.map fun c => { c with old := c.old ++ old.filter fun x => c.reads x.1 } }
  l.foldl (fun s x => s.padWrite x.1 x.2) s

/-- A code window bound: a half that held the same window is unbound (04 R99). -/
def CoreSt.bind (c : CoreSt) (half : Bool) (b : BitVec 41) : CoreSt :=
  if half then { c with iwB := some b, iwA := if c.iwA = some b then none else c.iwA }
  else { c with iwA := some b, iwB := if c.iwB = some b then none else c.iwB }

/-- An effect of the bundle that takes place as it commits; control registers are written by `applyCsr`. -/
def State.applyPost (s : State) : Post → State
  | .store l => s.padStore l
  | .line n f => s.setFull n f
  | .hold key h => s.setX { s.x with holds := Map.set none s.x.holds key (some h) }
  | .stream q v p =>
    let r := { v with head := v.head + BitVec.ofNat 32 (countOf q s.cur.pops - p) }
    s.setCore { s.core with streams := Map.set Stream.unbound s.core.streams q r }
  | .csr _ _ => s
  | .window half b => s.setCore (s.core.bind half b)
/-- A control register write, after the loop test of its bundle (04 R105). -/
def State.applyCsr (s : State) : Post → State
  | .csr n v => (s.setX (s.x.csrWrite n v)).setCore (s.core.csrWrite n v)
  | _ => s

/-- The heads of streams popped advance (09 R201). -/
def State.applyPop (s : State) (p : Nat × Nat) : State :=
  let r := s.core.stream p.1
  s.setCore { s.core with
    streams := Map.set Stream.unbound s.core.streams p.1 { r with head := r.head + BitVec.ofNat 32 p.2 } }
/-- Flags are ORed into vstat, after a csrw of the same bundle (R75, 08 R170). -/
def State.applyFlag (s : State) (f : Nat × Nat) : State :=
  s.setX { s.x with vstat := Map.set 0 s.x.vstat f.1 (s.x.vst f.1 ||| BitVec.ofNat 32 f.2) }

/-- The loop test at a bundle that issues in sequence (04 R91): levels that end here close, or one takes its back edge, which
gives its start and whether it is pre-emptible. -/
def Ctx.loopTest (c : Ctx) (a : Addr) : Nat → Ctx × Option (Addr × Bool)
  | 0 => (c, none)
  | n + 1 =>
    if c.depth = 0 then (c, none)
    else
      let l := c.level (c.depth - 1)
      if l.fin ≠ a then (c, none)
      else if 1 < l.count.toNat then (c.setLevel (c.depth - 1) { l with count := l.count - 1 }, some (l.start, l.p))
      else Ctx.loopTest { c with depth := c.depth - 1 } a n

/-- Open the level of a loop instruction. -/
def Ctx.openLevel (c : Ctx) : Option Level → Ctx
  | none => c
  | some l => { c.setLevel (c.depth % 4) l with depth := c.depth + 1 }

/-- The flow after a bundle (04 R83, R84, R89 to R92): the context with its next pc, pending target and link, and whether the
implicit yield of a pre-emptible back edge is due. A count of zero skips unless a level that ends at its bundle takes its back
edge (log 53). -/
def Ctx.flow (c : Ctx) (f : Frame) : Ctx × Bool :=
  let next := addrWords f.addr f.words
  let c := c.openLevel f.opened
  match c.pend with
  | some t => ({ c with pc := t, pend := f.transfer, link := f.link }, false)
  | none =>
    match f.transfer with
    | some t => ({ c with pc := next, pend := some t, link := f.link }, false)
    | none =>
      let r := c.loopTest f.addr 4
      match r.2, f.skip with
      | some (a, p), _ => ({ r.1 with pc := a }, p && c.req.isSome)
      | none, some a => ({ r.1 with pc := a, sk := true }, false)
      | none, none => ({ r.1 with pc := next }, false)

/-- Where a context resumes: the next bundle, past line padding (R54). -/
def State.resumePc (s : State) (c : Ctx) : Addr := s.core.seqAddr 1025 c.pc
/-- A strand parks (05 R110, R112, 17 R364): a held handler start is made; W acts as yield; else the record takes the resume PC,
s1 to s5 and the run, and the context stays reserved for a member of a party or is freed. -/
def State.parkStrand (s : State) (run : Nat) : State :=
  let va := s.x.brec
  match s.heldStart va with
  | some h => ((s.makeStart h).setX { (s.makeStart h).x with run := run }).giveUp .ready
  | none =>
    if recFlags s va / 2 ^ 26 % 2 = 1 then ((s.recW va false).setX { s.x with run := run }).giveUp .ready
    else
      let s := s.recWrite va 0 (natBytes 8 (s.resumePc s.x).toNat)
      let s := s.recWrite va 22 (natBytes 2 run)
      let s := s.recWrite va 24 ((List.range 5).flatMap fun i => natBytes 8 (s.x.sreg (i + 1)).toNat)
      let s := (s.recState va 2).ruPark va s.x.ruGen.toNat
      if s.x.psize = 0 then
        (s.setPart { s.part with parked := s.part.parked ++ [⟨va, s.x.sp, s.x.rtile, s.x.party, s.x.ef, s.x.evicted, []⟩] }).giveUp .empty
      else s.giveUp .reserved

/-- A strand ends (05 R109, R114, 10 R231, 15 R330, 17 R365). -/
def State.haltStrand (s : State) : State :=
  let s := ((s.abandon s.x.brec).cancelRecvs s.x.brec).recState s.x.brec 3
  let s := s.setCore { s.core with watch := s.core.watch.filter fun w => !decide (va56 w.strand = va56 s.x.brec) }
  let party := s.x.party
  ((s.dropPitch s.x.pitch).giveUp .empty).partyEnd party

/-- The context gives up the issue path as the bundle asked (05 R111 to R114, 10 R240). -/
def State.giveUpBy (s : State) : Suspend → State
  | .yield k => (s.setX { s.x with run := k }).giveUp .ready
  | .park k => s.parkStrand k
  | .wait k t =>
    (s.setX { s.x with run := k }).giveUp (if t.toNat ≤ s.gtc.toNat then .ready else .waiting t)
  | .mwait k t d => (s.setX { s.x with run := k }).giveUp (.sleeping t d)
  | .halt => s.haltStrand
  | .stay => s

/-- The registers, numbering and time after the effects of a bundle: results that are due land (R71), stores grow visible to the
engines (09 R196), a cycle passes. -/
def State.advance (s : State) : State :=
  let u := (s.x.unseen.map fun g => { g with left := g.left - 1 }).filter fun g => g.left ≠ 0
  let s := s.setX { s.x with bno := s.x.bno + 1, unseen := u, waited := 0, bankw := 0, wlines := [] }
  s.landDue.tick

/-- The next bundle in sequence after a bundle that went on in sequence, past line padding (R54); else where it went. -/
def Frame.resume (f : Frame) (pc : Addr) : Addr := if pc = addrWords f.addr f.words then f.seq else pc

/-- The bundle commits (R75). Where a trap op and the back edge of a pre-emptible level with the request flag set come together,
everything lands, the trap is taken, and then the path is given up (log 53). -/
def State.commit (s : State) : State :=
  let f := s.cur
  let s := f.pops.foldl State.applyPop s
  let s := f.posts.foldl State.applyPost s
  let fl := s.x.flow f
  let s := (f.flags.foldl State.applyFlag (f.posts.foldl State.applyCsr (s.setX fl.1))).advance
  let s := s.setCur emptyFrame
  let s := if f.suspend.isSome || fl.2 then s.landAll else s
  let s := match f.trap with
    | some k =>
      let a := f.resume s.x.pc
      (s.setX { s.x with pend := if s.x.h then s.x.pend else none }).enterTrap 0xA1 (BitVec.ofNat 16 (2 ^ k.1)) k.2 a
    | none => s
  let s := if f.tret then
      let t := (byDue s.x.flight s.x.bno 16).foldl State.landOne (s.setX { s.x with flight := [] })
      t.setX t.x.trapReturn
    else s
  match f.suspend with
  | some x => s.giveUpBy x
  | none => if fl.2 then s.giveUp .ready else s

/-- The empty bundle takes a cycle and a number (R54). -/
def execEmptyBundle (s : State) : Out := .next (if s.run && s.cur.words = 1 then s.commit else s)

/-! ## One cycle of the issue path -/

/-- A link held for the delay bundle lands as its headers are decoded (04 R85, R87). -/
def Ctx.landLink (c : Ctx) (after : Addr) : Ctx :=
  match c.link with
  | none => c
  | some r => { c.setS r (addrDword after) with link := none }

/-- The context with fetch at an address and its skip made or not. -/
def Ctx.fetchedAt (c : Ctx) (a : Addr) (sk : Bool) : Ctx := { c with pc := a, sk := if c.h then c.sk else sk }

/-- The code of the wait of a bundle that waits (18 R380): that of the first word that waits, where a hold on engine commands
goes before one on global accesses. -/
def waitCode (l : List Nat) : Option Nat :=
  match l with
  | 7 :: _ => some (if l.contains 6 then 6 else 7)
  | w :: _ => some w
  | [] => none

/-- What becomes of a bundle whose slots have run: `s` is the state before it, `t` the state after them (R69, R72, R75). DESIGN
CHOICE (log 53): a bundle that meets a cause and a wait, which no rule ranks, traps at once for the causes that R69 ranks before
the faults of execution, and waits first for those. -/
def State.settle (ex : Instr → State → Out) (s t : State) : Out :=
  let f := if s.roomFor t.cur then t.cur else { t.cur with waits := t.cur.waits ++ [4] }
  let c := reported f.causes
  let s := if c.isNone then f.stops.foldl State.stopSteps s else s
  match c, waitCode f.waits with
  | some x, none => .next (s.report x f.causes f.addr)
  | some x, some w => if x.rank ≤ 6 then .next (s.report x f.causes f.addr) else s.hold ex w f.empties
  | none, some w => s.hold ex w f.empties
  | none, none =>
    if s.x.bankw < bankWait f.lines then (s.setX { s.x with bankw := s.x.bankw + 1 }).hold ex 0 []
    else if s.wdogOver then ex .watchdog s
    else .next t.commit

/-- A strand that resumed with a pending engine fault takes it at this bundle: its first one, and not one of a handler that
another trap of that bundle has entered (R69, 11 R247). -/
def Ctx.faultNow (c : Ctx) : Option EngineFault := if c.efNow && !c.h then c.ef else none
/-- The pending engine fault taken at a bundle. -/
def State.takeFault (s : State) (e : EngineFault) (a : Addr) : State := (s.clearFault.enterTrap 0x82 0 e.tinfo a).tick
/-- Issue the bundle found at an address. A pending engine fault that is taken here comes after the causes that R69 ranks before
the faults of execution. -/
def State.issueAt (s : State) (ex : Instr → State → Out) (a : Addr) (n : Nat) (sl : List Slot) (empty : Bool) : Out :=
  let f := Frame.start a (s.core.seqAddr 1025 (addrWords a n)) n
  if empty then
    match s.x.faultNow with
    | some e => .next (s.takeFault e a)
    | none => ex .emptyBundle (s.setCur f)
  else
    match runSlots ex s.x (execOrder sl) (s.setCur { f with causes := sl.flatMap (decodeCauses n) ++ dupCauses sl }) with
    | .next t =>
      match s.x.faultNow with
      | some e => if t.cur.causes.any fun c => decide (c.rank ≤ 6) then s.settle ex t else .next (s.takeFault e a)
      | none => s.settle ex t
    | r => r

/-- One cycle of the issue path for the issuing context. -/
def State.issue (ex : Instr → State → Out) (s : State) : Out :=
  match s.core.fetch 1025 (s.x.sk && !s.x.h) s.x.pc with
  | .miss a sk =>
    let t := { s with free := s.free + 1 }.setX (s.x.fetchedAt a sk)
    .next (t.enterTrap 0x48 0 (Config.freeValue s.free) a).tick
  | .bad a sk code h =>
    .next ((s.setX (s.x.fetchedAt a sk)).enterTrap code 0 (h.setWidth 64) a).tick
  | .got a n sl empty =>
    let s := s.setX ((s.x.fetchedAt a false).landLink (addrWords a n))
    s.issueAt ex a n sl empty

end Sys2Proof.Machine
end

