-- ==== Sys2Proof/Machine/Runs.lean ====
section
/-! DEFINITION. The loader's checks of stated runs (05 R116): the bundles of an image are followed from every place at which a
strand can begin or resume, and the image is rejected when a run that a bundle states or a path is too long, when a `loop` without P lies
inside a run, or when a cycle holds no suspension point (such a path is longer than any bound). -/

namespace Sys2Proof.Machine

/-- An open level on a path: start, end, P, and its count; none where it is not known, as that of `loop`. -/
structure PathLevel where
  start : Addr
  fin : Addr
  p : Bool
  count : Option Nat
  deriving DecidableEq, Repr
/-- A place on a path: the address, the pending target (`some none` is one the loader cannot know), and the open levels, the
innermost first. -/
structure PathPos where
  pc : Addr
  pend : Option (Option Addr)
  levels : List PathLevel
  deriving DecidableEq, Repr
/-- The place as a resume leaves it: a level of `loopi` without P keeps its count, and of one with P, whose back edge ends a run
anyway, the count does not matter. -/
def PathPos.resumed (w : PathPos) : PathPos :=
  { w with levels := w.levels.map fun l => if l.p then { l with count := none } else l }

/-- A condition of an op: it holds, it does not, or the loader cannot say. -/
def sbHolds (f : SB) : Option Bool := if f.p = 0#3 then some (!f.n) else none
/-- The same for the predicate of an SR op. -/
def srHolds (f : SR) : Option Bool := if f.p = 0#3 then some true else none

/-- A transfer that a bundle at an address may take: its condition and its target, none where the loader cannot know it. -/
def pathTransfer (a : Addr) : Instr → Option (Option Bool × Option Addr)
  | .br f | .call f | .lbrk f => some (sbHolds f, some ((a + (f.o.signExtend 56 <<< 2)) &&& ~~~(3#56)))
  | .jmp f => some (sbHolds f, some ((a &&& ~~~(0x3F#56)) + (f.o.signExtend 56 <<< 6)))
  | .swapb f => some (sbHolds f, none)
  | .jr f | .ret f => some (srHolds f, none)
  | _ => none
/-- A suspension point (R116): whether it suspends, and whether the strand goes on after it. -/
def pathSuspend : Instr → Option (Option Bool × Bool)
  | .yield _ => some (some true, true)
  | .park f | .wait f => some (srHolds f, true)
  | .halt f => some (srHolds f, false)
  | .mwait _ => some (some true, true)
  | .tret _ => some (some true, false)
  | _ => none
/-- A level that a bundle at an address opens, with its start: whether it opens, its end, P and count. -/
def pathLoop (a start : Addr) : Instr → Option (Option Bool × PathLevel)
  | .loop f => some (srHolds f, ⟨start, a + BitVec.ofNat 56 (4 * loopEnd f), f.d.getLsbD 4, none⟩)
  | .loopi f => some (some true, ⟨start, a + BitVec.ofNat 56 (4 * loopiEnd f), f.d.getLsbD 4, some f.i.toNat⟩)
  | _ => none
/-- A count of loopi in literal word 0 (R94). -/
def literalCount (x : Slot) (l : PathLevel) : PathLevel :=
  if l.count = some 0x4000 then { l with count := some (x.lits.getD 0 0#32).toNat } else l
/-- The possible outcomes of a condition. -/
def outcomes : Option Bool → List Bool
  | some b => [b]
  | none => [true, false]

/-- The places after the loop test at a bundle (04 R91), each with whether a run ends there: at the back edge of a level with P.
-/
def pathTest (a next : Addr) : List PathLevel → List (PathPos × Bool)
  | [] => [(⟨next, none, []⟩, false)]
  | l :: ls =>
    if l.fin ≠ a then [(⟨next, none, l :: ls⟩, false)]
    else
      let back (c : Option Nat) : PathPos × Bool := (⟨l.start, none, { l with count := c } :: ls⟩, l.p)
      match l.count with
      | some k => if 1 < k then [back (some (k - 1))] else pathTest a next ls
      | none => back none :: pathTest a next ls

/-- The places after a bundle of n words at an address, each with whether a run ends there. -/
def CoreSt.pathNext (c : CoreSt) (w : PathPos) (a : Addr) (n : Nat) (sl : List Slot) : List (PathPos × Bool) :=
  let is := sl.filterMap fun x => (slotInstr x).map fun i => (x, i)
  let next := addrWords a n
  let start := c.seqAddr 1025 next
  let susp := (is.findSome? fun x => pathSuspend x.2).getD (some false, true)
  let tr := is.findSome? fun x => pathTransfer a x.2
  let closes := is.any fun x => match x.2 with | .lbrk _ => true | _ => false
  let op := is.findSome? fun x => (pathLoop a start x.2).map fun l => (l.1, literalCount x.1 l.2)
  (outcomes susp.1).flatMap fun stop =>
    (outcomes ((tr.map (·.1)).getD (some false))).flatMap fun taken =>
      (outcomes ((op.map (·.1)).getD (some false))).flatMap fun opens =>
        let opened := if opens then op.toList.map (·.2) else []
        let zero := opened.filter fun l => l.count = some 0
        let levels := (opened.filter fun l => l.count ≠ some 0) ++ (if taken && closes then w.levels.drop 1 else w.levels)
        let target := (tr.bind (·.2))
        let skips (x : PathPos × Bool) : PathPos × Bool :=
          match zero with
          | l :: _ =>
            if x.1.pc = next then
              (match c.fetch 1025 true l.fin with | .got b _ _ _ => ({ x.1 with pc := b }, x.2) | _ => x)
            else x
          | [] => x
        let after : List (PathPos × Bool) :=
          match w.pend, taken with
          | some (some t), _ => [(⟨t, if taken then some target else none, levels⟩, false)]
          | some none, _ => []
          | none, true => [(⟨next, some target, levels⟩, false)]
          | none, false => (pathTest a next levels).map skips
        if stop then (if susp.2 then after.map fun x => (x.1, true) else []) else after

/-- The run that a suspension op states (05 R111, R112, 10 R240): its field, or literal word 0. -/
def slotRun (x : Slot) : Option Nat :=
  let lit : Nat := (x.lits.getD 0 0#32).toNat
  match slotInstr x with
  | some (.yield f) => some (if f.i = 0x4000#15 then lit else f.i.toNat)
  | some (.park f) | some (.wait f) => some (if f.f = 0x7F#7 then lit else f.f.toNat)
  | some (.mwait f) => some (f.o.extractLsb' 0 10).toNat
  | _ => none
/-- A bundle states a run that is longer than core.maxrun. -/
def CoreSt.statesTooLong (c : CoreSt) (sl : List Slot) : Bool :=
  sl.any fun x => match slotRun x with | some n => decide (c.maxrun < n) | none => false

/-- A path from a place that issues more than n bundles before its run ends, or comes to a bundle that states too long a run. A
`loop` without P that lies inside a run, all of its body passed without a suspension, is such a path: its count is not known, so
that its back edge can always be taken. -/
def CoreSt.overrun (c : CoreSt) : Nat → PathPos → Bool
  | n, w =>
    match c.fetch 1025 false w.pc with
    | .got a k sl _ =>
      match n with
      | 0 => true
      | m + 1 => c.statesTooLong sl || (c.pathNext w a k sl).any fun x => !x.2 && CoreSt.overrun c m x.1
    | _ => false

/-- The places at which runs begin that a path of at most n bundles reaches: after its suspension points and back edges, and
after the delay bundles of its calls. -/
def CoreSt.resumesFrom (c : CoreSt) : Nat → PathPos → List PathPos
  | 0, _ => []
  | n + 1, w =>
    match c.fetch 1025 false w.pc with
    | .got a k sl _ =>
      let ret : List PathPos :=
        if sl.any fun x => match slotInstr x with | some (.call _) => true | _ => false then
          (match c.fetch 1025 false (addrWords a k) with
            | .got b m _ _ => [(⟨addrWords b m, none, w.levels⟩ : PathPos).resumed]
            | _ => [])
        else []
      ret ++ (c.pathNext w a k sl).flatMap fun x => if x.2 then [x.1.resumed] else CoreSt.resumesFrom c n x.1
    | _ => []

/-- Some run from the places of a list, or from one that they lead to, is not allowed: `fuel` bounds the places. -/
def CoreSt.badRuns (c : CoreSt) : Nat → List PathPos → List PathPos → Bool
  | 0, todo, _ => !todo.isEmpty
  | _ + 1, [], _ => false
  | fuel + 1, w :: l, seen =>
    if seen.contains w then c.badRuns fuel l seen
    else c.overrun c.maxrun w || c.badRuns fuel (l ++ c.resumesFrom c.maxrun w) (w :: seen)

/-- The loader rejects the image a core holds, from the addresses at which its strands, handlers and computed transfers can
begin (R116). -/
def CoreSt.rejects (c : CoreSt) (entries : List Nat) : Bool :=
  c.badRuns (2 ^ 32) (entries.map fun a => ⟨BitVec.ofNat 56 a, none, []⟩) []

end Sys2Proof.Machine
end

