-- ==== Sys2Proof/Machine/Strand.lean ====
section
/-! DEFINITION. park, halt and spawn, the placing of single records, and the steps by which sleeping, waiting and listed
strands come back (05 R110 to R119, 10 R240, 18 R378). -/

namespace Sys2Proof.Machine

/-- A result that lands in s[d] once the interlock is released (03 R72). -/
def State.returns (s : State) (d : BitVec 5) (v : Dword) : State :=
  if d = 0#5 then s else s.setX { s.x with out := s.x.out ++ [(d.toNat, some v)] }
/-- The same for a value the specification leaves open (log 7). -/
def State.returnsFree (s : State) (d : BitVec 5) : State :=
  { s with free := s.free + 1 }.returns d (Config.freeValue s.free)

/-- park: waits for the strand's G loads (19 R406) and for s1 to s5, which it reads (03 R72), and gives up the path (R112). -/
def execPark (f : SR) (s : State) : Out :=
  .next (if s.x.h then s.illOp .S
    else s.whenP f.p fun s =>
      if (List.range 5).any fun i => s.x.held (i + 1) then s.wait 3
      else if s.x.out.any fun x => x.2.isSome then s.wait 7
      else s.suspend (.park (s.run7 f.f)))

/-- An engine command of the strand has still to complete. -/
def State.busy (s : State) : Bool := s.core.cmds.any fun c => decide (va56 c.strand = va56 s.x.brec)

/-- A pending engine fault is taken before the bundle commits (11 R247); otherwise go on. -/
def State.faultFirst (s : State) (k : State → State) : State :=
  match s.x.ef with
  | some e => s.causeI 8 0x82 e.tinfo
  | none => k s

/-- halt: waits for the strand's engine commands; its G accesses perform as they issue (R114). -/
def execHalt (f : SR) (s : State) : Out :=
  .next (s.whenP f.p fun s => s.faultFirst fun s => if s.busy then s.wait 6 else s.suspend .halt)

/-- Place a new party of one from its record on this core or on another one of the die; a placing other than a recipe spawn
leaves the reserve free (15 R328), and nothing is placed before the partition has an image (04 R98). None when there is no room.
DESIGN CHOICE (log 51): the record's job counts a task of this party, though it comes from no work queue. -/
def State.placeOne (s : State) (va : Dword) (r : Record) (sp : Bool) (rtile : Dword) (recipe : Bool) : Option State :=
  if !s.part.loaded || decide (s.freeCount ≤ (if recipe then 0 else s.core.rres)) then none
  else
    let t := s.newParty r.job 1
    match t.1.placeHere va r ⟨va, sp, rtile, t.2, none, false, []⟩ with
    | some u => some u
    | none => t.1.placeElsewhere va r

/-- The same for a record that a handler starts: where it is pitchless it may run on any idle context of the partition (17
R364). -/
def State.placeAnywhere (s : State) (va : Dword) (r : Record) (sp : Bool) : Option State :=
  match s.placeOne va r sp 0 false with
  | some t => some t
  | none => if s.part.loaded then s.placeAwayBy State.fireLines va r else none

/-- The effect of spawn on a record whose address translates (R115): the state and the value for s[d], or none where the record
is discarded and the value is not stated. A new record with psize other than 0 is discarded as an invalid one, and a record that
waits in the ready list has W set (log 51). -/
def State.spawnRecord (s : State) (va : Dword) : State × Option Nat :=
  let r := recordOf (s.recBytes (va56 va))
  let src := s.coreSource s.xn 0
  let pc := addrDword s.cur.addr
  match r.state with
  | 1 => (s.recW va true, some 1)
  | 2 => s.resumeParked va src pc
  | 3 => (s, some 2)
  | _ =>
    if s.listed va then (s.recW va true, some 0)
    else if r.psize ≠ 0 || !s.recordOk r then (s.discard src va pc, none)
    else
      match s.placeOne va r s.x.sp 0 false with
      | some t => (t, some 0)
      | none =>
        let t := s.enterReady ⟨va, s.x.sp, false, false, none⟩
        (t.1, some (if t.2 then 0 else 3))

/-- spawn (R115). -/
def execSpawn (f : SR) (s : State) : Out :=
  .next (s.whenP f.p fun s =>
    let va := s.x.sreg f.a.toNat
    if va.toNat % 64 ≠ 0 then s.illOperand .S 15
    else
      let t := s.translate va false s.x.priv
      match t.2 with
      | .error c => t.1.causeI 8 c (BitVec.ofNat 64 (va56 va))
      | .ok (pa, _) =>
        if s.integrityFail pa then t.1.causeI 8 0x46 (BitVec.ofNat 64 (va56 va))
        else
          let r := t.1.spawnRecord va
          match r.2 with
          | some v => r.1.returns f.d (BitVec.ofNat 64 v)
          | none => r.1.returnsFree f.d)

/-! ## Steps -/

/-- What placing an entry of the ready list gives: the record is read again, an invalid one is discarded by the dispatcher
(R108, log 39); none when there is no room. -/
def State.placeEntry (s : State) (e : ReadyEnt) : Option State :=
  let s := s.setDie { s.die with ready := s.die.ready.erase e }
  let r := recordOf (s.recBytes (va56 e.addr))
  match e.tile with
  | some (tile, depth) => s.placeOne e.addr r false (BitVec.ofNat 64 (2 ^ 63 + depth % 8 * 2 ^ 32 + tile % 2 ^ 32)) true
  | none =>
    if !s.recordOk r then some (s.discard (s.dispatcher 0) e.addr 0)
    else if e.resume then s.resumeAnyBy State.fireLines e.addr r (s.parkedOf e.addr e.sp)
    else if e.far then s.placeAnywhere e.addr r e.sp
    else s.placeOne e.addr r e.sp 0 false
/-- The oldest record of the ready list is placed when there is room (R115); a recipe spawn, which may take a context of the
reserve, does not wait behind a record that may not (15 R326, R328, log 51). -/
def State.readyPlace (s : State) : Option State :=
  ((s.die.ready.take 1) ++ (s.die.ready.filter fun e => e.tile.isSome).take 1).findSome? s.placeEntry
/-- READY_LIST_PLACE (R115). -/
def execReadyListPlace (s : State) : Out := .next (s.readyPlace.getD s)

/-- The contexts of which a test holds, lowest first. -/
def State.firstCtx (s : State) (t : Ctx → Bool) : Option Nat := (List.range 8).find? fun n => t (s.ctx n)

/-- The GTC has reached a waiting context's value. -/
def Ctx.waitOver (c : Ctx) (gtc : Dword) : Bool :=
  match c.status with
  | .waiting t => decide (t.toNat ≤ gtc.toNat)
  | _ => false
/-- WAIT_EXPIRY (R112). -/
def execWaitExpiry (s : State) : Out :=
  .next (match s.firstCtx fun c => c.waitOver s.gtc with
    | some n => s.makeReady n (s.ctx n)
    | none => s)

/-- The GTC has reached a sleeping context's timeout. -/
def Ctx.sleepOver (c : Ctx) (gtc : Dword) : Bool :=
  match c.status with
  | .sleeping t _ => decide (t.toNat ≤ gtc.toNat)
  | _ => false
/-- MWAIT_TIMEOUT: code 1 (10 R240). -/
def execMwaitTimeout (s : State) : Out :=
  .next (match s.firstCtx fun c => c.sleepOver s.gtc with
    | some n => s.mwaitReturn n 1
    | none => s)

/-- PARTITION_WIDE_WAKE_BROADCAST: every strand asleep in mwait returns with code 4 (10 R240). -/
def execPartitionWideWakeBroadcast (s : State) : Out :=
  .next ((List.range 8).foldl (fun s n => s.mwaitReturn n 4) s)

/-- The slice has run out while another context is ready and no request stands (R119). -/
def State.sliceOver (s : State) : Bool :=
  s.run && decide (s.core.left ≤ 0) && s.x.req.isNone &&
    (List.range 8).any fun n => n ≠ s.xn && (s.ctx n).isReady
/-- SLICE_EXPIRY: the request flag of the issuing context is raised (R119). -/
def execSliceExpiry (s : State) : Out := .next (if s.sliceOver then s.setX { s.x with req := some 0 } else s)

/-- A request has stood for core.deadline cycles (18 R378). -/
def State.freezeDue (s : State) : Bool :=
  s.run && (match s.x.req with | some k => decide (s.core.deadline ≤ k) | none => false)

/-- Every G load of a context that has a value lands (18 R378). -/
def Ctx.landOut (c : Ctx) : Ctx :=
  c.out.foldl (fun c x => match x.2 with
    | some v => { c.setS x.1 v with out := c.out.filter fun y => !decide (y = x) }
    | none => c) c

/-- A command of the issuing context that a freeze stops has not been told to (18 R378, step 1). -/
def State.freezeBegins (s : State) : Bool :=
  s.core.cmds.any fun c => decide (c.ctx = s.xn) && decide (va56 c.strand = va56 s.x.brec) && !c.stop
/-- FREEZE: steps of long commands stop, outstanding registers land, the rest stays in flight, and the context is ready (18
R378). While an engine still owes a register the freeze is not complete: the request stands and nothing issues. -/
def execFreeze (s : State) : Out :=
  .next (if !s.freezeDue then s
    else
      let s := s.stopSteps s.xn
      let s := s.setX s.x.landOut
      if !s.x.out.isEmpty then s
      else
        let s := s.logEvent (s.coreSource s.xn 0) 0xA6 s.x.tinfo (addrDword s.x.pc)
        s.giveUp .frozen)

/-- GLOAD_RETURN: an outstanding value lands in its register (03 R72). -/
def execGloadReturn (c r : Nat) (s : State) : Out :=
  let k := s.ctx c
  .next (match k.out.find? fun x => x.1 = r with
    | some (n, some v) => s.setCtx c { k.setS n v with out := k.out.erase (n, some v) }
    | _ => s)

end Sys2Proof.Machine
end

