-- ==== Sys2Proof/Machine/Queue.lean ====
section
/-! DEFINITION. Work queues and their wake registers, the dispatcher of the die, and the stream-context table with its
timer logic (05 R121 to R128). -/

namespace Sys2Proof.Machine

/-! ## The dispatcher (R109, R122 to R124) -/

/-- The address of an entry of a queue's ring. -/
def ringEntry (d : QueueSetup) (i : Nat) : Nat := d.base + 64 * (i % 2 ^ d.log2)

/-- The effective rank of a queue: that of its head record and the age bonus (R122). -/
def State.queueRank (s : State) (d : QueueSetup) : Nat :=
  let v := s.part.queue d.q
  (recordOf (s.recBytes (ringEntry d v.head))).rank + v.bonus

/-- Does one queue precede another in a remap (R122)? Numbers with their rank and the remaps since they were mapped. -/
def queueBefore (a b : Nat × Nat × Nat) : Bool :=
  if a.2.1 ≠ b.2.1 then decide (b.2.1 < a.2.1)
  else if a.2.2 ≠ b.2.2 then decide (b.2.2 < a.2.2)
  else decide (a.1 < b.1)
/-- Put a queue into its place. -/
def insertQueue (x : Nat × Nat × Nat) : List (Nat × Nat × Nat) → List (Nat × Nat × Nat)
  | [] => [x]
  | y :: l => if queueBefore x y then x :: y :: l else y :: insertQueue x l

/-- The queues with work in the order of R122. -/
def State.queueOrder (s : State) : List Nat :=
  let work := s.part.setup.queues.filter fun d => decide (0 < (s.part.queue d.q).len)
  ((work.map fun d => (d.q, s.queueRank d, (s.part.queue d.q).idle)).foldl (fun l x => insertQueue x l) []).map (·.1)

/-- DIE_SLICE_REMAP: the 64 slots go to the queues with work of highest effective rank, the others with work grow older, and
every queue without a slot has been unmapped for one remap more (R122). Before the die slice has ended nothing is remapped. -/
def execDieSliceRemap (s : State) : Out :=
  if s.gtc.toNat < s.die.dnext.toNat then .next s
  else
  let order := s.queueOrder
  let top := order.take 64
  let s := s.setDie { s.die with qslots := (List.range top.length).zip top, dnext := s.die.dnext + s.die.dslice }
  let s := top.foldl (fun s q => s.setQueue q { s.part.queue q with bonus := 0, idle := 0 }) s
  .next ((s.part.setup.queues.filter fun d => !top.contains d.q).foldl (fun s d =>
    let v := s.part.queue d.q
    s.setQueue d.q { v with bonus := if 0 < v.len then min 15 (v.bonus + 1) else v.bonus, idle := v.idle + 1 }) s)

/-- Member i of a party: its record goes to the next place of the strand area, and it is placed on this core or on another core
of the die (R109, R124). A place is not used again (log 51). -/
def State.placeMember (s : State) (bytes : List Byte) (r : Record) (sp : Bool) (party i : Nat) : Option State :=
  let va := s.part.setup.strandArea + 64 * s.part.nextStrand
  let rec_ : Dword := BitVec.ofNat 64 va
  let flags := leNat ((bytes.drop 8).take 4)
  let flags := flags % 2 ^ 14 + i * 2 ^ 14 + 2 ^ 24 + flags / 2 ^ 26 * 2 ^ 26
  let s := s.recWrite rec_ 0 (bytes.take 8 ++ natBytes 4 flags ++ bytes.drop 12)
  let s := s.setPart { s.part with nextStrand := s.part.nextStrand + 1 }
  let r := { r with pos := i }
  match s.placeHere rec_ r ⟨rec_, sp, 0, party, none, false, []⟩ with
  | some t => some t
  | none => s.placeElsewhere rec_ r
/-- The members from number i on, all or none. -/
def State.placeMembers (s : State) (bytes : List Byte) (r : Record) (sp : Bool) (party : Nat) : Nat → Nat → Option State
  | _, 0 => some s
  | i, n + 1 =>
    match s.placeMember bytes r sp party i with
    | some t => t.placeMembers bytes r sp party (i + 1) n
    | none => none

/-- What a slot does with the head of its queue (R108, R124): none while it does not fit, or while the partition has no image
(04 R98). An entry that cannot be read is discarded as an invalid one is, with its cause (log 39). -/
def State.dispatch (s : State) (slot : Nat) : Option State :=
  match s.die.qslots.find? fun x => x.1 = slot with
  | none => none
  | some (_, q) =>
    match s.part.desc q with
    | none => none
    | some d =>
      let v := s.part.queue q
      if v.len = 0 then none
      else
        let va := ringEntry d v.head
        let bytes := s.recBytes va
        let r := recordOf bytes
        let done (t : State) : State := t.setQueue q { v with head := v.head + 1, len := v.len - 1 }
        match s.devTry va false with
        | .error c => some (done (s.logEvent (s.dispatcher slot) c (BitVec.ofNat 64 va) 0))
        | .ok _ =>
        if !s.recordOk r then some (done (s.discard (s.dispatcher slot) (BitVec.ofNat 64 va) 0))
        else if !s.part.loaded || decide (s.freeCount < r.psize + 1 + s.core.rres) then none
        else
          let p := s.newParty r.job (r.psize + 1)
          (p.1.placeMembers bytes r d.priv p.2 0 (r.psize + 1)).map done
/-- DISPATCH_PLACE (R124). -/
def execDispatchPlace (slot : Nat) (s : State) : Out := .next ((s.dispatch slot).getD s)

/-! ## The stream-context table (R125) -/

/-- An entry of the table. -/
structure Sct where
  sid : Nat
  flags : Nat
  queue : Nat
  next : Nat
  period : Nat
  quiet : Nat
  last : Nat
  state : Nat
  size : Nat
  back : Nat
  tmpl : Nat

/-- The physical address of an entry. -/
def State.sctAt (s : State) (i : Nat) : Nat := s.part.setup.sct + 64 * i
/-- The line of an entry fails its code (10 R226). -/
def State.sctFail (s : State) (i : Nat) : Bool := s.integrityFail (s.sctAt i)
/-- An entry read at the timer logic. Of a line that fails its code nothing is read, and the entry counts as not valid (10 R226,
log 57). -/
def State.sctGet (s : State) (i : Nat) : Sct :=
  let n (o k : Nat) : Nat := if s.sctFail i then 0 else s.memNat (s.sctAt i + o) k
  { sid := n 0 4, flags := n 4 2, queue := n 6 2 % 4096, next := n 8 8, period := n 16 4, quiet := n 20 4, last := n 24 8,
    state := n 32 8, size := n 40 4, back := n 48 8, tmpl := n 56 8 }
/-- Flag k of an entry: V 0, A 1, E 2, L 3, B 4, M 5. -/
def Sct.flag (e : Sct) (k : Nat) : Bool := decide (e.flags / 2 ^ k % 2 = 1)
/-- Bytes of an entry written by the timer logic. -/
def State.sctPut (s : State) (i o n v : Nat) : State := s.storeMem (s.sctAt i + o) (natBytes n v)
/-- Set or clear a flag. -/
def State.sctFlag (s : State) (i k : Nat) (b : Bool) : State :=
  let f := (s.sctGet i).flags
  let f := if f / 2 ^ k % 2 = 1 then f - 2 ^ k else f
  s.sctPut i 4 2 (if b then f + 2 ^ k else f)

/-- The source number of the timer logic (01 R19): on the lowest-numbered die of the partition. -/
def State.timerSource (s : State) : Nat := lowDie s.part.setup.dies * 2 ^ 14 + 114 * 2 ^ 7

/-- Copy bytes between physical addresses under the partition's key. Lines of the source that fail their code give nothing: no
byte is copied, and the timer logic logs integrity (10 R226, log 57). -/
def State.copyMem (s : State) (src dst n : Nat) : State :=
  match s.physFault src n with
  | some e => s.logEvent s.timerSource e (BitVec.ofNat 64 src) 0
  | none =>
    match s.physWriteFault dst n with
    | some e => s.logEvent s.timerSource e (BitVec.ofNat 64 dst) 0
    | none => s.storeMem dst (s.pkg.reads s.keyId src n)

/-- The bytes of an entry's state that its copies move: its size, and no more than a slot holds (R125, log 59). -/
def State.sctBytes (s : State) (e : Sct) : Nat := min e.size s.part.setup.sctSize

/-- The launch of an entry whose state is in place (R126, steps 2 to 4). A full queue takes nothing (R121). DESIGN CHOICE (log
59): a template that cannot be read, or a ring entry that cannot be written, leaves the entry unwritten, and steps 3 and 4
follow. -/
def State.sctLaunch (s : State) (i : Nat) : State :=
  let e := s.sctGet i
  let s := match s.part.desc e.queue with
    | none => s
    | some d =>
      let v := s.part.queue e.queue
      if 2 ^ d.log2 ≤ v.len || (s.recBytes e.tmpl).isEmpty then s
      else
        let b := s.recBytes e.tmpl
        let b := b.take 24 ++ natBytes 8 e.sid ++ b.drop 32
        match s.devPlace (ringEntry d (v.head + v.len)) 64 with
        | some pa => s.storeMem pa b
        | none => s
  let s := s.wakeQueue e.queue 1
  let s := s.sctFlag i 3 true
  (s.sctPut i 24 8 s.gtc.toNat).sctPut i 8 8 (e.next + e.period)

/-- Take a slot of the free list for an entry's restore copy, or wait a microsecond for one (R126, step 1). -/
def State.sctRestore (s : State) (i : Nat) : State :=
  let p := { s.part with sctWait := s.part.sctWait.filter fun x => x.1 ≠ i }
  match p.sctFree with
  | a :: l => (s.setPart { p with sctFree := l, sctBusy := p.sctBusy ++ [(i, a, s.gtc.toNat)] }).sctFlag i 4 true
  | [] => (s.setPart { p with sctWait := p.sctWait ++ [(i, s.gtc.toNat + 1000)] }).logOpen s.timerSource 0

/-- An armed entry whose launch is due and which nothing holds back. -/
def State.sctDue (s : State) (i : Nat) : Bool :=
  let e := s.sctGet i
  e.flag 0 && e.flag 1 && !e.flag 4 && decide (e.next ≤ s.gtc.toNat) && s.part.sctWait.all fun x => x.1 ≠ i
/-- The due entry with the earliest time, the lowest index among equal times (R126, 25 R440). -/
def State.sctFirst (s : State) : Option Nat :=
  (List.range s.part.setup.sctCount).foldl (fun a i =>
    if s.sctDue i then
      match a with
      | none => some i
      | some j => if (s.sctGet i).next < (s.sctGet j).next then some i else some j
    else a) none
/-- STREAM_LAUNCH (R126). -/
def execStreamLaunch (s : State) : Out :=
  .next (match s.sctFirst with
    | none => s
    | some i => if (s.sctGet i).flag 2 then s.sctRestore i else s.sctLaunch i)

/-- STREAM_SLOT_RETRY: each microsecond (R126). DESIGN CHOICE (log 59): an entry disarmed while its launch waits for a slot is
restored all the same, and no launch follows. -/
def execStreamSlotRetry (s : State) : Out :=
  .next (match s.part.sctWait.find? fun x => decide (x.2 ≤ s.gtc.toNat) with
    | none => s
    | some (i, t) =>
      match s.part.sctFree with
      | [] => s.setPart { s.part with sctWait := s.part.sctWait.map fun x => if x = (i, t) then (i, t + 1000) else x }
      | _ => s.sctRestore i)

/-- A copy of the timer logic ended later than 20 µs after the time given, the timeout of an eviction or the taking of a slot: M
is set and a record written (R126, R127). -/
def State.sctLate (s : State) (i start : Nat) : State :=
  if start + 20000 < s.gtc.toNat then (s.sctFlag i 5 true).logOpen s.timerSource 0 else s

/-- STREAM_RESTORE_DONE (R126): the state is in its slot, E clears, and the launch proceeds. -/
def execStreamRestoreDone (i : Nat) (s : State) : Out :=
  .next (match s.part.sctBusy.find? fun x => x.1 = i with
    | some (_, a, t) =>
      let e := s.sctGet i
      if !e.flag 2 then s
      else
        let s := s.setPart { s.part with sctBusy := s.part.sctBusy.filter fun x => x.1 ≠ i }
        let s := (s.copyMem e.back a (s.sctBytes e)).sctPut i 32 8 a
        let s := (s.sctFlag i 2 false).sctFlag i 4 false
        let s := s.sctLate i t
        if e.flag 1 then s.sctLaunch i else s
    | none => s)

/-- Start the eviction copy of an entry, due from a time on (R127). -/
def State.sctEvict (s : State) (i due : Nat) : State :=
  (s.setPart { s.part with sctBusy := s.part.sctBusy ++ [(i, (s.sctGet i).state, due)] }).sctFlag i 4 true
/-- The timeout of an entry (R127). -/
def Sct.timeout (e : Sct) : Nat := e.last + e.quiet * 1000
/-- An entry that has been quiet too long (R127). -/
def State.sctQuiet (s : State) (i : Nat) : Bool :=
  let e := s.sctGet i
  e.flag 0 && e.flag 1 && !e.flag 3 && !e.flag 2 && !e.flag 4 && decide (e.timeout < s.gtc.toNat)
/-- The lowest entry that has been quiet too long. -/
def State.sctQuietFirst (s : State) : Option Nat := (List.range s.part.setup.sctCount).find? s.sctQuiet
/-- STREAM_QUIET_EVICT (R127). -/
def execStreamQuietEvict (s : State) : Out :=
  .next (match s.sctQuietFirst with
    | none => s
    | some i => s.sctEvict i (s.sctGet i).timeout)
/-- STREAM_EVICT_DONE (R127): the state is at back, the slot free, E set and B clear. -/
def execStreamEvictDone (i : Nat) (s : State) : Out :=
  .next (match s.part.sctBusy.find? fun x => x.1 = i with
    | some (_, a, t) =>
      let e := s.sctGet i
      if e.flag 2 then s
      else
        let s := s.setPart { s.part with sctBusy := s.part.sctBusy.filter fun x => x.1 ≠ i,
                                         sctFree := s.part.sctFree ++ [a] }
        let s := (s.copyMem a e.back (s.sctBytes e)).sctPut i 32 8 0
        let s := (s.sctFlag i 2 true).sctFlag i 4 false
        s.sctLate i t
    | none => s)

/-! ## sct.arm, sct.touch, sct.evict, sct.read (R128) -/

/-- An op on the entry that register a names: sct-index for an index beyond the table or an entry with V = 0, integrity for one
whose line fails its code (10 R226). -/
def State.withSct (s : State) (f : EF) (k : State → Nat → State) : State :=
  let i := (s.x.sreg f.a.toNat).toNat
  if decide (i < s.part.setup.sctCount) && s.sctFail i then s.cause 0x46
  else if s.part.setup.sctCount ≤ i || !(s.sctGet i).flag 0 then s.cause 0xA3 else k s i

/-- sct.arm (R128). -/
def execSctArm (f : EF) (s : State) : Out :=
  .next (s.withSct f fun s i => (s.sctPut i 8 8 (s.x.sreg f.b.toNat).toNat).sctFlag i 1 true)
/-- sct.disarm (R128). -/
def execSctDisarm (f : EF) (s : State) : Out := .next (s.withSct f fun s i => s.sctFlag i 1 false)
/-- sct.touch (R128). -/
def execSctTouch (f : EF) (s : State) : Out := .next (s.withSct f fun s i => s.sctPut i 24 8 s.gtc.toNat)
/-- sct.done (R128). -/
def execSctDone (f : EF) (s : State) : Out :=
  .next (s.withSct f fun s i => (s.sctPut i 24 8 s.gtc.toNat).sctFlag i 3 false)
/-- sct.evict, under privilege (R128). DESIGN CHOICE (log 59): an entry with A = 0 is evicted as well; R127 asks for A = 1 and
R128 sets only last and L aside. -/
def execSctEvict (f : EF) (s : State) : Out :=
  .next (s.needPriv fun s => s.withSct f fun s i =>
    let e := s.sctGet i
    if e.flag 2 || e.flag 4 then s else s.sctEvict i s.gtc.toNat)
/-- sct.read: dword k of the entry (R128). -/
def execSctRead (f : EF) (s : State) : Out :=
  .next (s.withSct f fun s i =>
    s.returns f.c (BitVec.ofNat 64 (s.memNat (s.sctAt i + 8 * (f.i.extractLsb' 0 3).toNat) 8)))

end Sys2Proof.Machine
end

