-- ==== Sys2Proof/Machine/Global.lean ====
section
/-! DEFINITION. The G kind: loads, stores, atomics, fences, monitors, barrier objects and completions (10 R228 to R243). An
access performs as its bundle issues (log 8), in one order for all agents of the model, so order and scope ask for no
more. -/

namespace Sys2Proof.Machine

/-- The information of a translation fault (R219): the address and the access, 0 read, 1 write, 2 atomic, 3 barrier or monitor.
-/
def gInfo (va : Dword) (acc : Nat) : Dword := BitVec.ofNat 64 (va56 va + acc * 2 ^ 56)

/-- Number of n bytes at a physical address: a device register, or memory. -/
def State.paRead (s : State) (pa n : Nat) : Nat := if s.space pa = .regs then s.regReadN pa n else s.memNat pa n
/-- Write a number of n bytes at a physical address. -/
def State.paWrite (s : State) (pa n v : Nat) : State :=
  if s.space pa = .regs then s.regWriteN pa n v else s.storeMem pa (natBytes n v)

/-- The region of an HBM address is being zero-filled (R227). -/
def State.fillsAt (s : State) (pa : Nat) : Bool := decide (pa < 0x00C000000000) && s.pkg.filling.contains (pa / 2 ^ 21)
/-- A fill that an access at a virtual address waits for: of the region it reaches, or, where no TLB holds the address and the
walk reads tables, of any region (R227, log 40). -/
def State.fillWaits (s : State) (va : Dword) (pa : Nat) : Bool :=
  s.fillsAt pa || (!s.pkg.filling.isEmpty && !(s.core.utlb ++ s.die.tlb).any (·.covers (va56 va)))

/-- The checks of a G access in the order of R243, and the wait for a region that is being filled (R227): the state with the
cause or wait, or the state and the physical address. `noDev` is an access that device memory refuses, `narrow` one of a byte or
a half. -/
def State.gAddr (s : State) (va : Dword) (align acc : Nat) (write noDev narrow : Bool) : Except State (State × Nat) :=
  if va.toNat % align ≠ 0 then .error (s.causeI 8 0x45 (gInfo va acc))
  else
    let t := s.translate va write s.x.priv
    match t.2 with
    | .error c => .error (t.1.causeI 8 c (gInfo va acc))
    | .ok (pa, ty) =>
      if (noDev && ty = 2) || (narrow && s.space pa = .regs) then .error (t.1.causeI 8 0x47 (gInfo va acc))
      else if s.integrityFail pa then .error (t.1.causeI 8 0x46 (gInfo va acc))
      else if s.fillWaits va pa then .error (t.1.wait 7)
      else .ok (t.1, pa)

/-- s[b] and an offset. -/
def State.gBase (s : State) (f : GF) (off : Nat) : Dword := s.x.sreg f.b.toNat + BitVec.ofNat 64 off

/-! ## Loads, stores, atomics (R234 to R237) -/

/-- Bytes of a size code. -/
def gSize (f : GF) : Nat := 2 ^ (f.o.extractLsb' 8 2).toNat
/-- The offset of ldg, stg and pfg. -/
def gOff (f : GF) : Nat := (f.o.extractLsb' 0 8).toNat * gSize f

/-- ldg (R234). -/
def execLdg (f : GF) (s : State) : Out :=
  .next (match s.gAddr (s.gBase f (gOff f)) (gSize f) 0 false false (decide (gSize f < 4)) with
    | .error t => t
    | .ok (t, pa) => t.returns f.d (BitVec.ofNat 64 (t.paRead pa (gSize f))))
/-- stg (R234). -/
def execStg (f : GF) (s : State) : Out :=
  .next (match s.gAddr (s.gBase f (gOff f)) (gSize f) 1 true false (decide (gSize f < 4)) with
    | .error t => t
    | .ok (t, pa) => t.paWrite pa (gSize f) (s.x.sreg f.d.toNat).toNat)
/-- pfg: no visible effect and no fault (R234). -/
def execPfg (_ : GF) (s : State) : Out := .next s

/-- Bytes of an atomic's size bit. -/
def aSize (f : GF) : Nat := if f.o.getLsbD 5 then 8 else 4
/-- Its offset. -/
def aOff (f : GF) : Nat := (f.o.extractLsb' 0 5).toNat * aSize f

/-- The function of an amo on n-bit numbers (R235). -/
def amoFn (fn n old y : Nat) : Nat :=
  match fn with
  | 0 => (old + y) % 2 ^ n
  | 1 => old &&& y
  | 2 => old ||| y
  | 3 => old ^^^ y
  | 4 => if sgn n old ≤ sgn n y then old else y
  | 5 => if sgn n old ≤ sgn n y then y else old
  | 6 => min old y
  | 7 => max old y
  | _ => y

/-- A read-modify-write of n bytes at A (R230): `g` gives the new value, or none where nothing is written. -/
def State.atomic (s : State) (f : GF) (n off : Nat) (g : Nat → Option Nat) : State :=
  match s.gAddr (s.gBase f off) n 2 true true false with
  | .error t => t
  | .ok (t, pa) =>
    let old := t.memNat pa n
    (match g old with
      | some v => t.storeMem pa (natBytes n v)
      | none => t).returns f.d (BitVec.ofNat 64 old)

/-- amo (R235). -/
def execAmo (f : GF) (s : State) : Out :=
  let y := (s.x.sreg f.d.toNat).toNat % 2 ^ (8 * aSize f)
  .next (s.atomic f (aSize f) (aOff f) fun old => some (amoFn (f.o.extractLsb' 6 4).toNat (8 * aSize f) old y))
/-- cas (R236). -/
def execCas (f : GF) (s : State) : Out :=
  let m := 2 ^ (8 * aSize f)
  .next (s.atomic f (aSize f) (aOff f) fun old =>
    if old = (s.x.sreg f.d.toNat).toNat % m then some ((s.x.sreg (f.d.toNat + 1)).toNat % m) else none)
/-- amof: an FP32 sum rounded to nearest even, no flag (R237). -/
def execAmof (f : GF) (s : State) : Out :=
  let y := (s.x.sreg f.d.toNat).toNat % 2 ^ 32
  .next (s.atomic f 4 ((f.o.extractLsb' 0 5).toNat * 4) fun old =>
    some (Fmt.f32.rnd 0 (Fp.sum 0 [Fmt.f32.dec old, Fmt.f32.dec y])).1)

/-! ## fence, drain (R238) -/

/-- fence: every earlier access has performed (log 8). -/
def execFence (_ : GF) (s : State) : Out := .next s
/-- drain (R238). -/
def execDrain (_ : GF) (s : State) : Out := .next s
/-- drain.e: a pending engine fault first (11 R247), then it waits for the strand's engine commands (R238). -/
def execDrainE (_ : GF) (s : State) : Out :=
  .next (s.faultFirst fun s => if s.busy then s.wait 6 else s)

/-! ## mon, mwait (R231, R239, R240) -/

/-- The strand of an evicted entry: its mwait returns with code 2, now or when it comes, be it after a park (R231, R240). Where
the entry had fired before it was evicted, its mark goes with it and the code is 2, though R240 returns the lowest code of those
that hold and settles no such case (DESIGN CHOICE, log 51). -/
def State.evictWatch (s : State) (va : Dword) : State :=
  match s.ctxOf va with
  | some n =>
    match (s.ctx n).status with
    | .sleeping _ _ => s.mwaitReturn n 2
    | _ => s.setCtx n { s.ctx n with evicted := true }
  | none => s.setPart { s.part with
      parked := s.part.parked.map fun p => if va56 p.addr = va56 va then { p with evicted := true } else p }
/-- Arm an entry for the issuing strand; a full table of 32 frees the one armed longest ago (R231). -/
def State.arm (s : State) (barrier pad : Bool) (a : Nat) : State :=
  let w : Watch := ⟨s.x.brec, barrier, pad, a, false⟩
  match s.core.watch with
  | old :: l =>
    if s.core.watch.length < 32 then s.setCore { s.core with watch := s.core.watch ++ [w] }
    else (s.setCore { s.core with watch := l ++ [w] }).evictWatch old.strand
  | [] => s.setCore { s.core with watch := [w] }

/-- mon: reads the dword and arms an entry on its line in one act (R239). -/
def execMon (f : GF) (s : State) : Out :=
  .next (match s.gAddr (s.gBase f (f.o.toNat * 8)) 8 3 false true false with
    | .error t => t
    | .ok (t, pa) => (t.returns f.d (BitVec.ofNat 64 (t.memNat pa 8))).arm false false (pa / 128 * 128))

/-- An entry belongs to the issuing strand. -/
def State.ownWatch (s : State) (w : Watch) : Bool := decide (va56 w.strand = va56 s.x.brec)
/-- The code with which mwait returns at once, if it does (R240). -/
def State.mwaitNow (s : State) (t : Dword) : Option Nat :=
  if s.core.watch.any fun w => s.ownWatch w && w.fired then some 0
  else if t.toNat ≤ s.gtc.toNat then some 1
  else if s.x.evicted then some 2
  else none
/-- mwait (R240); illegal-op in handler mode (18 R375). One that returns at once lands what is in flight and invalidates holds
and latches as well (03 R58). -/
def execMwait (f : GF) (s : State) : Out :=
  let t := s.x.sreg f.b.toNat
  .next (if s.x.h then s.illOp .G
    else
      match s.mwaitNow t with
      | some c =>
        let s := s.setCore { s.core with watch := s.core.watch.filter fun w => !s.ownWatch w }
        ((s.setX { s.x with evicted := false }).returns f.d (BitVec.ofNat 64 c)).suspend .stay
      | none => s.suspend (.mwait f.o.toNat t f.d.toNat))

/-! ## Barrier objects (R232, R233, R241) -/

/-- R191's check for one access of a G or E op: alignment before bounds, with the offset as information. -/
def State.padOne (s : State) (align n : Nat) (a : Nat) : Except State Nat :=
  if a % align ≠ 0 then .error (s.causeI 8 0x41 (BitVec.ofNat 64 (a % 2 ^ 21)))
  else
    match s.pitch with
    | none => .error (s.causeI 8 0x40 (BitVec.ofNat 64 (a % 2 ^ 21)))
    | some p =>
      if p.lines * 128 < a + n then .error (s.causeI 8 0x40 (BitVec.ofNat 64 (a % 2 ^ 21)))
      else .ok (p.base * 128 + a)

/-- Where the barrier object of a bar op stands (R241). -/
def State.barAt (s : State) (f : GF) : Except State (State × BarAt) :=
  let va := s.gBase f ((f.o.extractLsb' 0 9).toNat * 16)
  if f.o.getLsbD 9 then
    match s.padOne 16 16 va.toNat with
    | .error t => .error t
    | .ok a => .ok (s, ⟨true, a⟩)
  else
    match s.gAddr va 16 3 true true false with
    | .error t => .error t
    | .ok (t, pa) => .ok (t, ⟨false, pa⟩)

/-- bar.init (R241). -/
def execBarInit (f : GF) (s : State) : Out :=
  let n := (s.x.sreg f.d.toNat).extractLsb' 0 32
  .next (if n = 0#32 || n.getLsbD 31 then s.illOperand .G 20
    else
      match s.barAt f with
      | .error t => t
      | .ok (t, a) => t.barPut a ⟨n, 0, n, 0⟩ true)
/-- bar.arrive (R241); a discarded arrival is followed by the evaluation too. -/
def execBarArrive (f : GF) (s : State) : Out :=
  .next (match s.barAt f with
    | .error t => t
    | .ok (t, a) =>
      let b := t.barGet a
      if b.arr = 0#32 then (t.barEval a).returns f.d (BitVec.ofNat 64 (b.phase.toNat + 2 ^ 63))
      else (t.barPut a { b with arr := b.arr - 1 } true).returns f.d (b.phase.setWidth 64))
/-- bar.expect (R241). -/
def execBarExpect (f : GF) (s : State) : Out :=
  .next (match s.barAt f with
    | .error t => t
    | .ok (t, a) =>
      let b := t.barGet a
      t.barPut a { b with trn := b.trn + (s.x.sreg f.d.toNat).extractLsb' 0 32 } true)
/-- bar.wait (R241), followed by the evaluation. -/
def execBarWait (f : GF) (s : State) : Out :=
  .next (match s.barAt f with
    | .error t => t
    | .ok (t, a) =>
      let b := t.barGet a
      if b.phase ≠ (s.x.sreg f.d.toNat).extractLsb' 0 16 then
        (t.barEval a).returns f.d (BitVec.ofNat 64 (b.phase.toNat + 2 ^ 16))
      else ((t.returns f.d (b.phase.setWidth 64)).arm true a.pad a.addr).barEval a)

/-! ## cmpl (R242) -/

/-- cmpl (R242). -/
def execCmpl (f : GF) (s : State) : Out :=
  let va := s.gBase f ((f.o.extractLsb' 0 5).toNat * 32)
  .next (match s.gAddr va 32 2 true true false with
    | .error t => t
    | .ok (t, pa) =>
      let n := t.memNat (pa + 16) 4
      if n = 0 then t.returns f.d (BitVec.allOnes 64)
      else
        let t := t.storeMem (pa + 16) (natBytes 4 (n - 1))
        let t := if n = 1 then t.completionStore (va56 va) ((va56 va - t.part.setup.jobs) / 32) else t
        t.returns f.d (BitVec.ofNat 64 (n - 1)))

/-- LIVENESS_FILL_DONE: the region is filled, and accesses that waited perform (R227). -/
def execLivenessFillDone (region : Nat) (s : State) : Out :=
  .next (s.setPkg { s.pkg with filling := s.pkg.filling.erase region })

end Sys2Proof.Machine
end

