-- ==== Sys2Proof/Machine/Image.lean ====
section
/-! DEFINITION. Context images (18 R379, R381): a context as the pieces of its image, and a context from an image. Where the
manual lists the content of an area without offsets, the offsets are the model's (log 33). -/

namespace Sys2Proof.Machine

/-- A piece of an image: offset and bytes. -/
abbrev Piece := Nat × List Byte
/-- A dword piece. -/
def dwordAt (o : Nat) (v : Nat) : Piece := (o, natBytes 8 v)
/-- The sixteen lanes of a register as 64 bytes. -/
def lanesBytes (l : Lanes) : List Byte := (List.range 16).flatMap fun i => natBytes 4 (l.at i).toNat

/-- An entry of the replay buffer (R379): distances count from a bundle number. -/
def Flight.bytes (f : Flight) (bno : Nat) : List Byte :=
  lanesBytes f.val ++ [BitVec.ofNat 8 (f.unit + 16 * f.cluster), BitVec.ofNat 8 (f.dest % 64 + 64 * f.what),
    BitVec.ofNat 8 (f.due - bno), 0#8] ++ natBytes 2 f.lanes.toNat
/-- An entry from its bytes. -/
def flightOf (b : List Byte) (bno : Nat) : Flight :=
  let at_ (i : Nat) : Nat := (b.getD i 0#8).toNat
  { due := bno + at_ 66, unit := at_ 64 % 8, cluster := at_ 64 / 16 % 8, dest := at_ 65 % 64, what := at_ 65 / 64,
    lanes := BitVec.ofNat 16 (at_ 68 + 256 * at_ 69),
    val := Lanes.of fun i => BitVec.ofNat 32 (leNat ((b.drop (4 * i)).take 4)) }

/-- The results, numbering, latches and holds of a context: first those of what issues, a handler's in handler mode, then those
that a trap has put aside until tret (03 R76). -/
def Ctx.flows (c : Ctx) : List SavedFlow :=
  ⟨c.bno, c.flight, c.latch, c.latchOk, c.holds⟩ :: (match c.saved with | some k => [k] | none => [])
/-- The bytes of the replay buffer: the results of each flow with its own distances (R379). -/
def Ctx.replay (c : Ctx) : List (List Byte) := c.flows.flatMap fun k => k.flight.map fun f => f.bytes k.bno

/-- The state field of the format word (R381). -/
def Ctx.imageState (c : Ctx) : Nat :=
  match c.status with
  | .frozen => 1
  | .waiting _ => 2
  | .sleeping _ _ => 3
  | _ => 0

/-- The pieces of the first 4 KiB of an image. -/
def Ctx.headPieces (c : Ctx) : List Piece :=
  let wait := match c.status with | .waiting t => t.toNat | _ => 0
  let pend := (dtgtEntry 0 c.pend c.link).toNat
  [ dwordAt 0 (1 + c.imageState * 2 ^ 16 + c.h.toNat * 2 ^ 18 + c.sp.toNat * 2 ^ 19 + c.replay.length * 2 ^ 32),
    dwordAt 8 c.pc.toNat ] ++
  (List.range 31).map (fun i => dwordAt (0x10 + 8 * i) (c.sreg (i + 1)).toNat) ++
  [ (0x108, [c.p &&& 0xFE#8]), dwordAt 0x110 c.bno ] ++
  (List.range 8).map (fun i => dwordAt (0x118 + 8 * i) (Map.get 0 c.m i).toNat) ++
  ((List.range 4).flatMap fun i =>
    let l := c.level i
    [ dwordAt (0x158 + 32 * i) l.count.toNat, dwordAt (0x160 + 32 * i) l.start.toNat,
      dwordAt (0x168 + 32 * i) l.fin.toNat ]) ++
  [ dwordAt 0x1D8 c.lctl.toNat, dwordAt 0x1E0 c.rm.toNat, dwordAt 0x1E8 c.dtgt.toNat, dwordAt 0x1F0 c.tvec.toNat,
    dwordAt 0x1F8 c.cause.toNat, dwordAt 0x200 c.fmask.toNat, dwordAt 0x208 c.tpc.toNat, dwordAt 0x210 c.tinfo.toNat ] ++
  (List.range 4).map (fun i => dwordAt (0x218 + 8 * i) (Map.get 0 c.tsave i).toNat) ++
  [ dwordAt 0x238 c.rtile.toNat, dwordAt 0x240 c.brec.toNat, dwordAt 0x260 c.ruCfg.toNat,
    dwordAt 0x268 (c.ruGen.toNat + 1024 * c.ruD.toNat) ] ++
  ((List.range 6).flatMap fun i =>
    let l := Map.get ⟨0, 0, 0⟩ c.copy.levels i
    [ dwordAt (0x270 + 24 * i) l.count.toNat, dwordAt (0x278 + 24 * i) l.ss.toNat,
      dwordAt (0x280 + 24 * i) l.ds.toNat ]) ++
  [ dwordAt 0x300 c.copy.cfg.toNat,
    dwordAt 0x308 (match c.copy.bar with | some b => b.2.toNat | none => 0),
    dwordAt 0x310 (match c.copy.bar with | some b => 1 + 2 * b.1.toNat | none => 0),
    dwordAt 0x320 wait,
    dwordAt 0x328 (match c.ef with
      | some e => (e.info.toNat % 2 ^ 40) + e.cause.toNat * 2 ^ 56 | none => 0),
    dwordAt 0x330 ((match c.ef with | some e => e.more | none => 0) % 2 ^ 32 + c.efNow.toNat * 2 ^ 32), dwordAt 0x338 pend,
    dwordAt 0x340 (match c.saved with | some k => k.bno | none => 0), dwordAt 0x348 c.flight.length ]

/-- The latches, holds, hold kinds and validity bits of a flow in a cluster, from an offset on. -/
def SavedFlow.pieces (k : SavedFlow) (cl o : Nat) : List Piece :=
  let hold (n : Nat) : Option Hold := Map.get none k.holds (2 * cl + n)
  let hv (n : Nat) : Lanes := match hold n with | some h => h.val | none => Lanes.zero
  let hk (n : Nat) : Nat := match hold n with | some h => h.kind.num | none => 0
  (List.range 4).map (fun n => (o + 64 * n, lanesBytes (Map.get Lanes.zero k.latch (4 * cl + n)))) ++
  [ (o + 0x100, lanesBytes (hv 0)), (o + 0x140, lanesBytes (hv 1)),
    (o + 0x180, [BitVec.ofNat 8 (hk 0), BitVec.ofNat 8 (hk 1)]),
    dwordAt (o + 0x198) (k.latchOk.toNat / 2 ^ (4 * cl) % 16 + 16 * (hold 0).isSome.toNat + 32 * (hold 1).isSome.toNat) ]
/-- The offset of a flow in the area of a cluster: the one that issues first, what a trap put aside after it (log 33). -/
def flowAt (cl i : Nat) : Nat := 0x5000 + 0x400 * cl + 0x200 * i
/-- The pieces of a cluster. -/
def Ctx.clusterPieces (c : Ctx) (cl : Nat) : List Piece :=
  let o := flowAt cl 0
  (List.range 32).map (fun n => (0x1000 + 0x800 * cl + 64 * n, lanesBytes (c.vreg cl n))) ++
  ((List.range 2).zip c.flows).flatMap (fun x => x.2.pieces cl (flowAt cl x.1)) ++
  [ (o + 0x188, (List.range 3).flatMap fun n => natBytes 2 (c.lmask cl (n + 1)).toNat), dwordAt (o + 0x190) (c.vst cl).toNat ]

/-- The pieces of an image; every other byte is zero (R381). -/
def Ctx.pieces (c : Ctx) : List Piece :=
  c.headPieces ++ (List.range 8).flatMap c.clusterPieces ++
  (List.range 16).map (fun i => (0x7000 + 64 * i, lanesBytes (Map.get Lanes.zero c.tbuf i))) ++
  ((List.range c.replay.length).zip c.replay).map fun x => (0x8000 + 128 * x.1, x.2)

/-- Kind from its number. -/
def kindOf (n : Nat) : Kind :=
  ([Kind.S, .G, .E, .X, .A, .B, .M, .F]).getD (n % 8) .S

/-- A flow from an image: its place among the flows, its numbering, and the replay entries from one number to another. -/
def flowOfImage (r : Nat → Nat → Nat) (bytes : Nat → List Byte) (i bno lo hi : Nat) : SavedFlow :=
  let lanesAt (o : Nat) : Lanes := Lanes.of fun i => BitVec.ofNat 32 (r 4 (o + 4 * i))
  let cls := List.range 8
  { bno := bno,
    flight := (List.range (hi - lo)).map fun k => flightOf (bytes (0x8000 + 128 * (lo + k))) bno,
    latch := cls.foldl (fun m cl => (List.range 4).foldl (fun m n =>
      Map.set Lanes.zero m (4 * cl + n) (lanesAt (flowAt cl i + 64 * n))) m) [],
    latchOk := BitVec.ofNat 32 (cls.foldl (fun a cl => a + r 8 (flowAt cl i + 0x198) % 16 * 2 ^ (4 * cl)) 0),
    holds := cls.foldl (fun m cl => (List.range 2).foldl (fun m n =>
      Map.set none m (2 * cl + n)
        (if r 8 (flowAt cl i + 0x198) / 2 ^ (4 + n) % 2 = 1 then
          some ⟨kindOf (r 1 (flowAt cl i + 0x180 + n)), lanesAt (flowAt cl i + 0x100 + 64 * n)⟩ else none)) m) [] }

/-- A context from an image (R381, R389): `r n o` is the number of n bytes at offset o; the control fields come from the
strand's record, its stated run among them, which an image does not hold (log 53); nor does it hold the age bonus, which R118
zeroes only when the context is chosen: it starts at 0 (DESIGN CHOICE, log 53). Reserved fields of registers read as zero (00
R8). -/
def Ctx.ofImage (c : Ctx) (r : Nat → Nat → Nat) (bytes : Nat → List Byte) (rec_ : Record) : Ctx :=
  let d (o : Nat) : Dword := BitVec.ofNat 64 (r 8 o)
  let lanesAt (o : Nat) : Lanes := Lanes.of fun i => BitVec.ofNat 32 (r 4 (o + 4 * i))
  let fmt := r 8 0
  let h := decide (fmt / 2 ^ 18 % 2 = 1)
  let cls := List.range 8
  let total := fmt / 2 ^ 32 % 2 ^ 11
  let own := if h then min (r 8 0x348) total else total
  let flow := flowOfImage r bytes 0 (r 8 0x110) 0 own
  let pend := d 0x338
  let c := (List.range 31).foldl (fun c i => c.setS (i + 1) (d (0x10 + 8 * i))) c
  let c := (List.range 4).foldl (fun c i =>
    c.setLevel i ⟨BitVec.ofNat 32 (r 4 (0x158 + 32 * i)), addrOf (d (0x160 + 32 * i)), addrOf (d (0x168 + 32 * i)), false⟩) c
  let c := c.setLctl (d 0x1D8)
  { c with
    p := BitVec.ofNat 8 (r 1 0x108) &&& 0xFE#8, pc := addrOf (d 8),
    m := (List.range 8).foldl (fun m i => Map.set 0 m i (d (0x118 + 8 * i))) [],
    rm := BitVec.ofNat 2 (r 1 0x1E0), dtgt := d 0x1E8 &&& 0x1FFFFFFFFFFFFFFF#64, tvec := addrOf (d 0x1F0),
    cause := BitVec.ofNat 8 (r 1 0x1F8), fmask := BitVec.ofNat 16 (r 2 0x200), tpc := addrOf (d 0x208), tinfo := d 0x210,
    tsave := (List.range 4).foldl (fun m i => Map.set 0 m i (d (0x218 + 8 * i))) [],
    rtile := d 0x238 &&& 0x80000007FFFFFFFF#64, brec := d 0x240, ruCfg := d 0x260, ruGen := BitVec.ofNat 10 (r 2 0x268),
    ruD := decide (r 2 0x268 / 1024 % 2 = 1),
    copy := { levels := (List.range 6).foldl (fun m i => Map.set ⟨0, 0, 0⟩ m i
                ⟨BitVec.ofNat 32 (r 4 (0x270 + 24 * i)), d (0x278 + 24 * i), d (0x280 + 24 * i)⟩) [],
              cfg := d 0x300,
              bar := if r 1 0x310 % 2 = 1 then some (decide (r 1 0x310 / 2 % 2 = 1), d 0x308) else none },
    ef := if r 1 0x32F = 0 then none
          else some ⟨BitVec.ofNat 64 (r 8 0x328 % 2 ^ 40), BitVec.ofNat 8 (r 1 0x32F), r 4 0x330⟩,
    efNow := decide (r 1 0x334 % 2 = 1), evicted := false, wlines := [],
    v := cls.foldl (fun m cl => (List.range 32).foldl (fun m n =>
      Map.set Lanes.zero m (32 * cl + n) (lanesAt (0x1000 + 0x800 * cl + 64 * n))) m) [],
    l := cls.foldl (fun m cl => (List.range 3).foldl (fun m n =>
      Map.set 0 m (4 * cl + n + 1) (BitVec.ofNat 16 (r 2 (0x5188 + 0x400 * cl + 2 * n)))) m) [],
    vstat := cls.foldl (fun m cl => Map.set 0 m cl (BitVec.ofNat 32 (r 4 (0x5190 + 0x400 * cl)) &&& 0x3F3F#32)) [],
    tbuf := (List.range 16).foldl (fun m i => Map.set Lanes.zero m i (lanesAt (0x7000 + 64 * i))) [],
    h := h, sp := decide (fmt / 2 ^ 19 % 2 = 1),
    bno := flow.bno, flight := flow.flight, latch := flow.latch, latchOk := flow.latchOk, holds := flow.holds,
    saved := if h then some (flowOfImage r bytes 1 (r 8 0x340) own total) else none,
    pend := if pend.getLsbD 0 then some (addrOf pend) else none,
    link := if pend.getLsbD 1 then some (bits pend 56 5) else none,
    rank := rec_.rank, psize := rec_.psize, pos := rec_.pos, job := rec_.job, pitch := rec_.pitch, rc := rec_.rc,
    run := rec_.run, bonus := 0, out := [], req := none, waited := 0, bankw := 0, unseen := [] }

end Sys2Proof.Machine
end

