-- ==== Sys2Proof/Machine/System.lean ====
section
/-! DEFINITION. The privileged system instructions: ctxsv and ctxld, tlbinv and tlbsync (18 R389, R390). -/

namespace Sys2Proof.Machine

/-- Bytes of an image. -/
def imageSize : Nat := 0x28000

/-- The first line of a physical range that a read of the partition cannot take: one that fails its code, or any when a port of
the range is down (10 R226, 25 R442). -/
def State.firstBad (s : State) (pa n : Nat) : Option Nat :=
  if s.cxlFail pa then some (pa / 128)
  else
    match s.pkg.corrupt.filter fun l => decide (pa / 128 ≤ l) && decide (128 * l < pa + n) && s.integrityFail (128 * l) with
    | [] => none
    | l :: ls => some (ls.foldl min l)
/-- The first fault of an image access over the 64 KiB pages it spans (R389): a cause of a page with its first byte, or the
first line that a read cannot take. A save writes whole lines and reads none (10 R222). -/
def State.imageFault (s : State) (va : Nat) (write : Bool) : Option (Nat × Nat) :=
  (List.range 4).findSome? fun i =>
    let a := max va (va / 2 ^ 16 * 2 ^ 16 + i * 2 ^ 16)
    let n := min (va + imageSize) ((a / 2 ^ 16 + 1) * 2 ^ 16) - a
    if va + imageSize ≤ a then none
    else
      match (s.translate (BitVec.ofNat 64 a) write true).2 with
      | .error c => some (c, a)
      | .ok (pa, _) =>
        if write then (if s.cxlFail pa then some (0x46, a) else none)
        else (s.firstBad pa n).map fun l => (0x46, a + (128 * l - pa))

/-- Zeros over a physical range of whole lines under the partition's key. -/
def Pkg.zeros (p : Pkg) (k pa n : Nat) : Pkg :=
  let p := (p.goLive pa).goLive (pa + n - 1)
  { p with mem := Map.drop p.mem pa n,
           corrupt := p.corrupt.filter fun l => decide (l < pa / 128) || decide (pa / 128 + n / 128 ≤ l),
           key := if isHost pa then p.key
                  else (List.range (n / 128)).foldl (fun m i => Map.set 0 m (pa / 128 + i) k) p.key }

/-- Write an image at a virtual address: zeros, then its pieces (R381). -/
def State.writeImage (s : State) (va : Nat) (l : List Piece) : State :=
  let s := (List.range 40).foldl (fun s i =>
    match s.devPlace (va + 4096 * i) 4096 with
    | some pa => (s.setPkg (s.pkg.zeros s.keyId pa 4096)).fireLines pa 4096
    | none => s) s
  l.foldl (fun s x =>
    match s.devPlace (va + x.1) x.2.length with
    | some pa => s.setPkg (s.pkg.writes s.keyId pa x.2)
    | none => s) s

/-- The checks both ops make first (R389): s[b][63:3], which comes before privilege (03 R69), the alignment of s[a], and the
issuer. -/
def State.imageOp (s : State) (f : SR) (k : State → Nat → Nat → State) : State :=
  let n := (s.x.sreg f.b.toNat).toNat
  if s.x.preg f.p.toNat && decide (8 ≤ n) then s.illOperand .S 10
  else s.needPriv fun s => s.whenP f.p fun s =>
    let va := s.x.sreg f.a.toNat
    if va.toNat % 4096 ≠ 0 then s.causeI 8 0x45 (gInfo va 0)
    else if n = s.xn then s.cause 0xA8
    else k s (va56 va) n

/-- What a context saved by ctxsv has become: its outstanding registers have landed, and a strand asleep in mwait has code 3 (10
R240, 18 R378). -/
def State.settled (s : State) (n : Nat) : Ctx :=
  let c := (s.ctx n).landOut
  match c.status with
  | .sleeping _ d => c.setS d 3
  | _ => c
/-- The pushes in flight of a context. -/
def Ctx.pushesOut (c : Ctx) : List Flight := c.allFlights.filter fun f => f.what = 3
/-- The pending engine fault of a loaded context: that of its image, with what has been met since it was saved (11 R247). -/
def mergeFault : Option EngineFault → Option EngineFault → Option EngineFault
  | some a, some b => some { a with more := a.more + b.more + 1 }
  | some a, none => some a
  | none, b => b

/-- ctxsv (R389). While the saved context is owed a register the bundle waits, its long commands having been told to stop. The
strand's party and the room of its pushes in flight (09 R201) are kept by the core until the image is loaded again. -/
def execCtxsv (f : SR) (s : State) : Out :=
  .next (s.imageOp f fun s va n =>
    let c := s.ctx n
    if c.status = .empty || c.status = .reserved then s.cause 0xA8
    else
      match s.imageFault va true with
      | some (code, a) => s.causeI 8 code (gInfo (BitVec.ofNat 64 a) 1)
      | none =>
        let s := s.stopSteps n
        if (s.ctx n).out.any fun x => x.2.isNone then (s.setCur { s.cur with stops := s.cur.stops ++ [n] }).wait 7
        else
          let k := s.settled n
          let s := s.writeImage va { k with pc := s.resumePc k }.pieces
          let s := s.setCore { s.core with watch := s.core.watch.filter fun w => !decide (va56 w.strand = va56 k.brec) }
          let s := s.setPart { s.part with parked := s.part.parked ++ [⟨k.brec, k.sp, k.rtile, k.party, none, false, k.pushesOut⟩] }
          s.setCtx n { k with status := .empty, flight := [], saved := none })

/-- ctxld (R389). -/
def execCtxld (f : SR) (s : State) : Out :=
  .next (s.imageOp f fun s va n =>
    if (s.ctx n).status ≠ .empty then s.cause 0xA8
    else
      match s.imageFault va false with
      | some (code, a) => s.causeI 8 code (gInfo (BitVec.ofNat 64 a) 0)
      | none =>
        let r (k o : Nat) : Nat := s.devNat (va + o) k
        let bytes (o : Nat) : List Byte :=
          match s.devAddr (va + o) false with | some pa => s.pkg.reads s.keyId pa 128 | none => []
        let fmt := r 8 0
        if fmt % 2 ^ 16 ≠ 1 || decide (1024 < fmt / 2 ^ 32 % 2 ^ 11) then s.cause 0xA7
        else
          let brec := r 8 0x240
          let rec_ := recordOf (s.recBytes brec)
          if rec_.pitch ≠ 0 && (s.core.pitchOf rec_.pitch).isNone then s.cause 0xA8
          else
            let k := s.part.parked.find? fun p => va56 p.addr = va56 (BitVec.ofNat 64 brec)
            let i := (s.ctx n).ofImage r bytes rec_
            let c := { i with party := (k.map (·.party)).getD 0, ef := mergeFault i.ef (k.bind (·.ef)) }
            let s := s.setPart { s.part with
              parked := s.part.parked.filter fun p => !decide (va56 p.addr = va56 (BitVec.ofNat 64 brec)) }
            match fmt / 2 ^ 16 % 4 with
            | 1 => s.makeReadyAs .frozen n c
            | 2 => s.setCtx n { c with status := .waiting (BitVec.ofNat 64 (r 8 0x320)) }
            | _ => s.makeReady n c)

/-- tlbinv: every entry that maps s[a] (R390). -/
def execTlbinv (f : SR) (s : State) : Out :=
  .next (s.needPriv fun s => s.whenP f.p fun s => s.tlbRemove fun e => !e.covers (va56 (s.x.sreg f.a.toNat)))
/-- tlbinv.all: every entry of the partition (R390). -/
def execTlbinvAll (f : SR) (s : State) : Out :=
  .next (s.needPriv fun s => s.whenP f.p fun s => s.tlbRemove fun _ => false)
/-- A command in flight has translated through an entry that a tlbinv has removed since (10 R217). -/
def CoreSt.stalePage (c : CoreSt) : Bool := c.pages.any fun p => p.2.2
/-- tlbsync: an invalidation takes effect as it issues, and the commands that translated through a removed entry are waited for
(10 R217, R390). -/
def execTlbsync (f : SR) (s : State) : Out :=
  .next (s.needPriv fun s => s.whenP f.p fun s => if s.core.stalePage then s.wait 7 else s)

end Sys2Proof.Machine
end

