-- ==== Sys2Proof/Machine/Platform.lean ====
section
/-! DEFINITION. The package and its firmware: reset, partitions, images, the host's register writes, time, links, power and
fatal errors (04 R98, 18 R376, R385, 25). -/

namespace Sys2Proof.Machine

/-! ## Reset, partitions, images -/

/-- DEVICE_RESET: everything goes back to its reset value, and bring-up stands after step 1; host memory keeps its bytes, and
those under an owner's key can be read by nobody, the key being gone (log 29); a firmware image that fails its check leaves the
device in recovery (25 R446, R447). -/
def execDeviceReset (rotOk ccOk : Bool) (s : State) : Out :=
  let r := State.reset
  .next { r with
    agenda := s.agenda, free := s.free,
    core := { r.core with die := s.core.die, num := s.core.num },
    pkg := { r.pkg with mem := s.pkg.mem.filter fun x => isHost x.1, pos := s.pkg.pos, stage := if rotOk && ccOk then 1 else 0,
                        recovery := !(rotOk && ccOk), inbox := s.pkg.inbox, hostw := s.pkg.hostw, fw := s.pkg.fw } }

/-- The sets of dies a partition may have (01 R26). -/
def diesOk (d : BitVec 4) : Bool :=
  [0b0001#4, 0b0010#4, 0b0100#4, 0b1000#4, 0b0011#4, 0b1100#4, 0b1111#4].contains d

/-- A pool range that firmware may map (R442): units of 256 MiB in the CXL range, interleaved over 1, 2, 4 or 8 ports. -/
def cxlRangeOk (r : Nat × Nat × List Nat) : Bool :=
  decide (r.1 % 2 ^ 28 = 0) && decide (r.2.1 % 2 ^ 28 = 0) && decide (0x010000000000 ≤ r.1) &&
    decide (r.1 + r.2.1 ≤ 0x400000000000) && [1, 2, 4, 8].contains r.2.2.length && r.2.2.all fun k => decide (k < 8)
/-- A range lies in the carve that a partition has of a floor die (01 R13, 10 R213); an empty one does. -/
def inCarve (p : PartSetup) (d a n : Nat) : Bool :=
  let ways := match p.ways.find? fun w => w.1 = d with | some w => w.2 | none => 0
  let base := 0x00C000000000 + d * 2 ^ 30
  n = 0 || (decide (base ≤ a) && decide (a + n ≤ base + ways * 2 ^ 27))
/-- The same for some floor die of the partition. -/
def carved (p : PartSetup) (a n : Nat) : Bool := (List.range 4).any fun d => p.dies.getLsbD d && inCarve p d a n
/-- A range of HBM (10 R213). -/
def inHbm (a n : Nat) : Bool := decide (a + n ≤ 0x00C000000000)
/-- The tables of a partition lie where they belong: the tile table and the tile area in the carve under its lowest-numbered die
and the overflow range in HBM (15 R321), the stream-context table and its slots in the carve (05 R125). -/
def tablesOk (p : PartSetup) : Bool :=
  inCarve p (lowDie p.dies) p.tileTable (32 * p.tileCount) && inCarve p (lowDie p.dies) p.tileArea p.tileAreaSize &&
    inHbm p.tileOvf p.tileOvfSize && carved p p.sct (64 * p.sctCount) && p.sctSlots.all fun a => carved p a p.sctSize
/-- Endpoints of a partition (17 R355): each number of 0 to 254 once, for a core of the package or a queue of the partition. -/
def endpointsOk (p : PartSetup) : Bool :=
  decide ((p.endpoints.map fun x => x.1).Nodup) && p.endpoints.all fun x => decide (x.1 < 255) &&
    match x.2 with
    | .core n => decide (n < 384)
    | .queue q => p.queues.any fun d => d.q = q
/-- The limits of what firmware sets: partition number 0 to 3, a set of dies (01 R26), a key id 1 to 4,095 (25 R445), at most 8
ways of each of its floor dies (01 R13), at most 2^20 tiles (15 R321), at most 65,536 stream contexts (05 R125), at most 2^20
overflow receives (17 R359), an unexpected pool of 1 MiB to 4 GiB in whole MiB (17 R360), CXL ranges (R442), queues of 2^4 to
2^16 entries in rings that are 64-byte aligned (05 R121). -/
def setupLimits (p : PartSetup) : Bool :=
  decide (p.num < 4) && diesOk p.dies && !(p.key = 0#12) && (p.ways.all fun w => decide (w.2 ≤ 8)) &&
    decide (p.tileCount ≤ 2 ^ 20) && decide (p.sctCount ≤ 65536) && decide (p.postOverflow ≤ 2 ^ 20) &&
    decide (2 ^ 20 ≤ p.unexpPool) && decide (p.unexpPool ≤ 2 ^ 32) && decide (p.unexpPool % 2 ^ 20 = 0) && p.cxl.all cxlRangeOk &&
    tablesOk p && endpointsOk p &&
    p.queues.all fun q => decide (q.q < 4096) && decide (q.base % 64 = 0) && decide (4 ≤ q.log2 ∧ q.log2 ≤ 16)
/-- A partition firmware can create (01 R26, 17 R355, 25 R445, R447): bring-up has come to it, its dies belong to no other one,
its number is free, no line, partition or lending key has its key id, and no other one has an endpoint of it. -/
def State.setupOk (s : State) (p : PartSetup) : Bool :=
  !s.pkg.recovery && s.pkg.gtcDone && setupLimits p && !s.keyTaken p.key.toNat &&
    s.setups.all fun q => decide (q.num ≠ p.num) && decide (q.dies &&& p.dies = 0#4) &&
      q.endpoints.all fun x => p.endpoints.all fun y => decide (x.1 ≠ y.1)

/-- The ways of a set of dies are set aside as given (01 R13). -/
def Pkg.setWays (p : Pkg) (dies : BitVec 4) (l : List (Nat × Nat)) : Pkg :=
  { p with ways := (List.range 4).foldl (fun m d =>
    if dies.getLsbD d then Map.set 0 m d (match l.find? fun x => x.1 = d with | some x => x.2 | none => 0) else m) p.ways }

/-- PARTITION_CREATE: key, translation root, queues, tables, carve (25 R445); the reserve is 1 to 16, else 4 (15 R328).
Firmware's writes fire monitors as any others (19 R415). A partition that does not hold the core's die is one of the others. -/
def execPartitionCreate (p : PartSetup) (s : State) : Out :=
  .next (if !s.setupOk p then s
    else
      let s := s.setPkg ({ s.pkg with stage := 7 }.setWays p.dies p.ways)
      let s := if p.dies.getLsbD s.core.die then
          let s := s.setPart { emptyPart with present := true, setup := p, sctFree := p.sctSlots }
          let s := s.setCore { s.core with rres := if 1 ≤ p.reserve ∧ p.reserve ≤ 16 then p.reserve else 4 }
          let s := s.setDie { s.die with dnext := s.gtc.toNat + s.die.dslice }
          s.setPkg { s.pkg with counters := [] }
        else s.setPkg { s.pkg with others := s.pkg.others ++ [⟨p, [], [], false, []⟩] }
      p.tables.foldl (fun s t => (s.setPkg ((s.pkg.writes p.key.toNat t.1 t.2).heal t.1 t.2.length)).fireLines t.1 t.2.length) s)

/-- The regions of HBM that hold a line under a key id of an owner. -/
def Pkg.regionsOf (p : Pkg) (own : Nat → Bool) : List Nat :=
  distinct ((p.key.filter fun x => own x.2 && decide (x.1 < 0x00C000000000 / 128)).map fun x => x.1 / 2 ^ 14)
/-- The key ids under which the core's partition has lines: its own, and those of the frames it lends, which no other partition
has (13 R297). -/
def State.ownKey (s : State) (k : Nat) : Bool := decide (k ≠ 0) && s.pkg.others.all fun o => decide (o.setup.key.toNat ≠ k)
/-- What a destroyed partition leaves behind (25 R445): its regions are not live, the carve of its dies is given back, and CXL
bytes under its keys can be read by nobody, the keys being gone (log 29). -/
def Pkg.forget (p : Pkg) (own : Nat → Bool) (dies : BitVec 4) : Pkg :=
  let rs := p.regionsOf own
  let gone (a : Nat) : Bool :=
    if a < 0x00C000000000 then rs.contains (a / 2 ^ 21)
    else if a < 0x00C100000000 then dies.getLsbD (carveDie a)
    else if a < 0x400000000000 then own (p.keyAt a)
    else false
  { p with mem := p.mem.filter fun x => !gone x.1, key := p.key.filter fun x => !gone (x.1 * 128),
           live := rs.foldl (fun m r => Map.set false m r false) p.live, filling := p.filling.filter fun r => !rs.contains r,
           corrupt := p.corrupt.filter fun l => !gone (l * 128) }.setWays dies []

/-- A partition ends: every region of the partition is marked not live, and nothing of it stays on the core (25 R445). -/
def State.destroy (s : State) (num : Nat) : State :=
  if s.part.present && decide (s.part.setup.num = num) then
    let gone (c : Ctx) : Ctx := { c with status := .empty }
    { s with
      x := gone s.x, run := false,
      rest := (List.range 8).foldl (fun m n => Map.set emptyCtx m n (gone (Map.get emptyCtx m n))) s.rest,
      part := emptyPart, agenda := s.agenda,
      core := { s.core with pitches := [], cmds := [], pages := [], watch := [], utlb := [], codeOld := [], zeroAfter := [],
                            streams := [], banks := [], slots := [],
                            micro := [], notFull := [], rres := 4 },
      die := { resetDie with dslice := s.die.dslice },
      pkg := { s.pkg.forget s.ownKey s.part.setup.dies with counters := [] } }
  else
    match s.pkg.others.find? fun o => o.setup.num = num with
    | none => s
    | some o =>
      let p := s.pkg.forget (fun k => k = o.setup.key.toNat) o.setup.dies
      s.setPkg { p with others := p.others.filter fun x => x.setup.num ≠ num }
/-- PARTITION_DESTROY: firmware destroys the partition that the host's request names (25 R445). -/
def execPartitionDestroy (s : State) : Out :=
  .next (match s.pkg.fw with
    | .destroy num :: l => (s.setPkg { s.pkg with fw := l }).destroy num
    | _ => s)

/-- No strand of the partition runs or is parked (04 R98). DESIGN CHOICE (log 55): a record that waits in the ready list counts
as one of them. -/
def State.noStrands (s : State) : Bool :=
  ((List.range 8).all fun n => (s.ctx n).status = .empty) && s.part.parked.isEmpty && s.die.ready.isEmpty

/-- The words of a window laid into a half; the rest of the half is zero. -/
def loadHalf (m : List (Nat × Word)) (base : Nat) (w : List Word) : List (Nat × Word) :=
  let m := Map.drop m base 8192
  ((List.range 8192).zip w).foldl (fun m x => Map.set 0 m (base + x.1) x.2) m
/-- A window of an image as a binding. -/
def windowOf (w : Nat × List Word) : BitVec 41 := BitVec.ofNat 41 (w.1 / 2 ^ 15)

/-- The core with the windows of an image in its halves. DESIGN CHOICE (log 55): a half for which the image has no window is
unbound and keeps its words; R98 speaks of the windows an image has. -/
def CoreSt.withImage (c : CoreSt) (img : Image) : CoreSt :=
  let st := match img.a with | some w => loadHalf c.istore 0 w.2 | none => c.istore
  let st := match img.b with | some w => loadHalf st 8192 w.2 | none => st
  { c with istore := st, codeOld := [], iwA := img.a.map windowOf, iwB := img.b.map windowOf }
/-- IMAGE_LOAD: the windows are written and the halves bound, unless a strand of the partition runs or is parked, the run it
states is longer than core.maxrun, or a run of its code is not allowed (02 R49, 04 R98, 05 R116). -/
def execImageLoad (img : Image) (s : State) : Out :=
  .next (if !s.part.present || !s.noStrands || decide (s.core.maxrun < img.maxrun) || (s.core.withImage img).rejects img.entries
    then s
    else (s.setCore (s.core.withImage img)).setPart { s.part with loaded := true })

/-! ## The host's register writes (25 R435) -/

/-- The host write at the head of the queue, when it names a register of the kind a step stands for and the BARs answer: it is
taken and performs. -/
def State.hostWrite (s : State) (t : Nat → Bool) : State :=
  match s.pkg.hostw with
  | (o, v) :: l => if s.pkg.answers && t o then (s.setPkg { s.pkg with hostw := l }).regWrite o v else s
  | [] => s

/-- The last dword of a die's mailbox (R435). -/
def isRing (o : Nat) : Bool := match regAt o with | .mbox m => decide (m % 4096 = 4088) | _ => false
/-- WAKE_REGISTER_WRITE (05 R121). -/
def execWakeRegisterWrite (s : State) : Out :=
  .next (s.hostWrite fun o => match regAt o with | .wake _ _ => true | _ => false)
/-- What firmware does with something that it may set: the event log's ring (18 R384) and the dump region of 2 GiB (R434) lie in
HBM. A ring that is set anew begins empty (log 50). -/
def State.firmware (s : State) : FwAct → State
  | .nothing | .destroy _ => s
  | .dieSlice ns => if 10000 ≤ ns ∧ ns ≤ 1000000 then s.setDie { s.die with dslice := ns } else s
  | .eventLog base k =>
    if 10 ≤ k ∧ k ≤ 24 ∧ inHbm base (32 * 2 ^ k) = true then s.setPkg { s.pkg with logBase := base, logSize := 2 ^ k, log := [] } else s
  | .dumpRegion base => if inHbm base (2 ^ 31) then s.setPkg { s.pkg with dumpBase := base } else s
  | .cxlRanges l back =>
    if s.part.present && l.all cxlRangeOk then
      (s.setPkg { s.pkg with cxlDown := back.foldl (fun m k => if k < 8 then setBit8 m k false else m) s.pkg.cxlDown }).setPart
        { s.part with setup := { s.part.setup with cxl := l } }
    else s
  | .refill pool core => ((kvTopUp pool core).run none s).2
  | .release r =>
    if (s.pkg.regionsOf s.ownKey).contains r then
      s.setPkg { s.pkg with mem := Map.drop s.pkg.mem (r * 2 ^ 21) (2 ^ 21), key := Map.drop s.pkg.key (r * 2 ^ 14) (2 ^ 14),
                            live := Map.set false s.pkg.live r false, filling := s.pkg.filling.filter fun x => x ≠ r,
                            corrupt := s.pkg.corrupt.filter fun x => !decide (x / 2 ^ 14 = r) }
    else s
/-- Firmware is rung: it does the next thing asked of it; a partition is destroyed in a step of its own. -/
def State.firmwareNext (s : State) : State :=
  match s.pkg.fw with
  | .destroy _ :: _ | [] => s
  | a :: l => (s.setPkg { s.pkg with fw := l }).firmware a
/-- A ring that is pending is served. -/
def State.serveRing (s : State) : State :=
  if s.pkg.rings = 0 then s else (s.setPkg { s.pkg with rings := s.pkg.rings - 1 }).firmwareNext
/-- MAILBOX_RING: a ring of the host is written, and the firmware serves a ring, the host's or that of an earlier store (R435,
01 R15). -/
def execMailboxRing (s : State) : Out := .next (s.hostWrite isRing).serveRing
/-- GTC_CTL_WRITE (R438). -/
def execGtcCtlWrite (s : State) : Out := .next (s.hostWrite fun o => regAt o = .gtcCtl)
/-- GTC_RATE_WRITE (R439). -/
def execGtcRateWrite (s : State) : Out := .next (s.hostWrite fun o => regAt o = .gtcRate)
/-- GTC_STEP_WRITE (R440). -/
def execGtcStepWrite (s : State) : Out := .next (s.hostWrite fun o => regAt o = .gtcStep)
/-- REGISTER_WRITE: a register with no behaviour of its own takes the value in its RW fields; the others ignore it (00 R7). -/
def execRegisterWrite (s : State) : Out :=
  .next (s.hostWrite fun o => !isRing o && (match regAt o with
    | .wake _ _ | .gtcCtl | .gtcRate | .gtcStep => false
    | _ => true))

/-! ## Time (25 R437 to R441) -/

/-- PPS_EDGE (R435, R438). -/
def execPpsEdge (s : State) : Out :=
  .next (if s.pkg.gctl.getLsbD 4 then s.setPkg { s.pkg with gpps := s.gtc } else s)

/-- STEP_ABSORBED_BY_SLEWING: the core cycle that absorbs the rest of a negative step; from then on the rate is the normal one
(R440). It counts for the slice and a request as any other cycle (05 R118, R119). -/
def execStepAbsorbedBySlewing (s : State) : Out :=
  .next (if s.pkg.gslew = 0 then s
    else
      let t := s.tick
      if t.pkg.gslew = 0 then t else s)

/-- gtc.ctl with LK set or cleared. -/
def Pkg.setLk (p : Pkg) (b : Bool) : Pkg :=
  { p with gctl := BitVec.ofNat 5 (p.gctl.toNat % 8 + (if b then 8 else 0) + p.gctl.toNat / 16 * 16) }
/-- Port k is the source of the GTC. -/
def Pkg.isSource (p : Pkg) (k : Nat) : Bool := decide (p.source = k + 1)

/-- LTL_TIME_MEASURE: the offset is shown; as the source the link sets the rate, by a rule the manual does not give (log 7), and
LK is set after a second of offsets within 20 ns (R438, R439, R441). -/
def execLtlTimeMeasure (k : Nat) (off : Dword) (s : State) : Out :=
  .next (if (s.pkg.port k).state ≠ 3 then s
    else
      let p := s.pkg.setPort k { s.pkg.port k with toff := off }
      if !p.isSource k then s.setPkg p
      else
        let near := decide (off.toInt.natAbs ≤ 20)
        let run := if near then p.lkRun + 1 else 0
        let rate := clampRate ((Config.freeValue s.free).extractLsb' 0 32)
        { s with free := s.free + 1 }.setPkg
          ({ p with lkRun := run, grate := BitVec.ofInt 32 rate }.setLk (decide (1000000 ≤ run))))

/-- LTL_LINK_DOWN: LK clears where gtc.ctl names the link, and the rate stays (R441). -/
def execLtlLinkDown (k : Nat) (s : State) : Out :=
  let p := s.pkg.setPort k { s.pkg.port k with state := 0 }
  .next (s.setPkg (if p.gctl.toNat % 8 = k + 1 then { p with lkRun := 0 }.setLk false else p))
/-- The link that is trained next: the lowest one that is down and has not been trained since reset, else the lowest one that is
down. -/
def Pkg.nextLink (p : Pkg) : Option Nat :=
  let down := (List.range 6).filter fun k => decide ((p.port k).state = 0)
  match down.find? fun k => !p.tried.getLsbD k with
  | some k => some k
  | none => down.head?
/-- LINK_BRING_UP: a link that is down begins training (R444), once step 4 of bring-up has completed (R447), which in recovery
it has not (R446). -/
def execLinkBringUp (s : State) : Out :=
  .next (if s.pkg.recovery || decide (s.pkg.stage < 4) then s else match s.pkg.nextLink with
    | some k => s.setPkg { s.pkg.setPort k { s.pkg.port k with state := 1 } with tried := setBit8 s.pkg.tried k true }
    | none => s)
/-- LTL_ATTEST: a link in training reaches attestation; one in attestation is keyed, with a new lending key for the pair, or
fails (R443, R444). Which peer stands at its end is the torus's own (log 7). -/
def execLtlAttest (k : Nat) (ok : Bool) (s : State) : Out :=
  let p := s.pkg.port k
  .next (if p.state = 1 then s.setPkg (s.pkg.setPort k { p with state := 2 })
    else if p.state = 2 then
      if ok then
        let peer := (Config.freeValue s.free).toNat % 2 ^ 15
        ({ s with free := s.free + 1 }.setPkg (s.pkg.setPort k { p with state := 3, peer := peer })).renewKey peer
      else s.setPkg (s.pkg.setPort k { p with state := 4 })
    else s)
/-- CXL_PORT_DOWN (R442). -/
def execCxlPortDown (k : Nat) (s : State) : Out :=
  .next (if 8 ≤ k then s else s.setPkg { s.pkg with cxlDown := setBit8 s.pkg.cxlDown k true })

/-! ## Errors, power (18 R376, R385, 25 R448) -/

/-- The die of an LTL port and of a CXL port (01 R16). -/
def ltlDie (k : Nat) : Nat := [0, 1, 2, 3, 0, 2].getD k 0
/-- The die of a CXL port (01 R16). -/
def cxlDie (k : Nat) : Nat := k / 2
/-- The source numbers that event records can have (01 R16, R18, R19); the timer logic of a partition stands on its
lowest-numbered die. -/
def State.sourceOk (s : State) (src : Nat) : Bool :=
  let die := src / 2 ^ 14 % 4
  let sub := src % 2 ^ 7
  let agent := src / 2 ^ 7 % 2 ^ 7
  if agent < 96 then decide (sub % 16 ≤ 8)
  else if agent = 113 then decide (sub < 64)
  else if agent = 114 then decide (sub = 0) && s.setups.any fun p => decide (lowDie p.dies = die)
  else if agent = 116 then decide (sub < 3)
  else if agent = 117 then decide (sub < 8 ∧ die = cxlDie sub)
  else if agent = 118 then decide (sub < 6 ∧ die = ltlDie sub)
  else if 119 ≤ agent then decide (agent ≤ 121 ∧ die = 0 ∧ sub = 0)
  else decide (sub = 0)

/-- The PC in a record of an agent (18 R384): that of the context whose issue path it is, 0 for an agent without one; of another
core's context it is not known and is `v`. -/
def State.sourcePc (s : State) (src : Nat) (v : Dword) : Dword :=
  let agent := src / 2 ^ 7 % 2 ^ 7
  if 96 ≤ agent ∨ src % 16 ≠ 0 then 0
  else if agent = s.core.num ∧ src / 2 ^ 14 % 4 = s.core.die then addrDword (s.ctx (src % 2 ^ 7 / 16)).pc
  else v
/-- A fatal cause of an agent (18 R385): it stops the core's partition, another one, or every one; on a die of no partition it
is logged and dumped alone. -/
def State.fatalOn (s : State) (src cause : Nat) (info pc : Dword) : State :=
  let die := src / 2 ^ 14 % 4
  if stopsAll src cause || (s.part.present && s.part.setup.dies.getLsbD die) then (s.fatal src cause info pc).abandonAll
  else
    let hit (o : Other) : Bool := o.setup.dies.getLsbD die
    let num := match s.pkg.others.find? hit with | some o => o.setup.num | none => 0
    let r : LogRec := ⟨s.gtc, BitVec.ofNat 16 src, BitVec.ofNat 8 cause, num, info, pc⟩
    let p := { s.pkg with log := s.pkg.log ++ [r],
                          others := s.pkg.others.map fun o => if hit o then { o with stopped := true } else o }
    s.setPkg (p.noteFatal r)
/-- FATAL_ERROR: a cause of 0xB8 to 0xBF met by an agent; the information of its record is not stated, nor is the PC of another
core's context (log 7). -/
def execFatalError (e : FatalEvent) (s : State) : Out :=
  .next (if 0xB8#8 ≤ e.code ∧ e.code ≤ 0xBF#8 ∧ s.sourceOk e.src.toNat = true then
      { s with free := s.free + 2 }.fatalOn e.src.toNat e.code.toNat (Config.freeValue s.free)
        (s.sourcePc e.src.toNat (Config.freeValue (s.free + 1)))
    else s)

/-- The dump of a fatal event (18 R386): the sections of the core's partition when it is stopped (log 52). -/
def State.dumpOf (s : State) (r : LogRec) : Dump :=
  let mine := s.part.stopped
  let dies := (s.pkg.others.filter fun o => o.stopped).foldl (fun a o => a ||| o.setup.dies) 0#4
  let list {α : Type} (l : List α) : List α := if mine then l else []
  let pool (k : Nat) : List Byte × List Byte :=
    match (kvPoolDump k).run none s with
    | (.ok x, _) => x
    | _ => (List.replicate 128 0, [])
  let pools := (List.range 16).flatMap fun k => (pool k).1
  let heads := (List.range 16).flatMap fun k => (pool k).2
  { first := r, gtc := s.gtc, dies := if mine then dies ||| s.part.setup.dies else dies,
    images := list ((List.range 8).map fun n => if (s.ctx n).status = .empty then [] else { s.ctx n with pc := s.resumePc (s.ctx n) }.pieces),
    pad := list s.core.pad, notFull := list s.core.notFull, cmds := list s.core.cmds, pwe := list s.die.pwe,
    qslots := list s.die.qslots, builds := list s.part.builds, tiles := list s.part.tiles,
    sct := list ((List.range s.part.setup.sctCount).map fun i => s.pkg.reads s.keyId (s.sctAt i) 64),
    pools := list pools, heads := list heads,
    log := s.pkg.logRing.drop (s.pkg.logRing.length - 65536) }
/-- DUMP_COMPLETE: the dump is written and FERR_N asserts (R385, R386). -/
def execDumpComplete (s : State) : Out :=
  .next (match s.pkg.dumping, s.pkg.fatal with
    | true, some r => s.setPkg { s.pkg with dumping := false, ferr := true, dump := some (s.dumpOf r) }
    | _, _ => s)
/-- SOFT_ERROR_CORRECT: corrected and counted (R376). -/
def execSoftErrorCorrect (unit : Nat) (s : State) : Out :=
  .next (s.setPkg { s.pkg with soft := Map.set 0 s.pkg.soft unit (Map.get 0 s.pkg.soft unit + 1) })
/-- THERMAL_THROTTLE: the core clock is lowered by a step (25 R448). -/
def execThermalThrottle (s : State) : Out := .next (s.setPkg { s.pkg with clock := s.pkg.clock + 1 })
/-- THERMAL_SHUTDOWN: cause 0xBF (25 R448, R385), reported by the control core of the core's die (log 39). -/
def execThermalShutdown (s : State) : Out := .next (s.fatal (s.source 112 0) 0xBF 0 0).abandonAll

end Sys2Proof.Machine
end

