-- ==== Sys2Proof/Machine/Engine.lean ====
section
/-! DEFINITION. The acceptance of engine commands, what they translate and subtract, and request blocks (11 R244, R245, 03
R61). -/

namespace Sys2Proof.Machine

/-- A command is accepted (R244, R245): a command with a region needs an entry, else the bundle waits; `mark` sets the lines of
the write region empty (09 R193); the granules of its read region that the engines may not see yet are kept (09 R196). -/
def State.accept (s : State) (op : Instr) (args : List Dword) (req : List Byte) (rd wr : Option (Nat × Nat))
    (mark : Bool) (st : List Nat) : State :=
  if (rd.isSome || wr.isSome) && decide (32 ≤ s.core.entries.length) then s.wait 2
  else
    let c : Cmd :=
      { id := s.core.nextId, ctx := s.xn, strand := s.x.brec, pitch := s.x.pitch, op := op, priv := s.x.priv,
        args := args, req := req, rd := rd, wr := wr, rdDone := rd.isNone, wrDone := wr.isNone, stop := false, orphan := false,
        st := st, att := none,
        old := (s.x.unseen.filter fun u => regionsMeet (some (u.addr, 16)) rd).map fun u => (u.addr, u.old) }
    let s := s.setCore { s.core with cmds := s.core.cmds ++ [c], nextId := s.core.nextId + 1 }
    if mark then s.regionFull wr false else s

/-- A command's translation (10 R217). -/
def State.engTranslate (s : State) (c : Cmd) (va : Dword) (write : Bool) : Translated := s.pageTranslate c.id c.priv va write
/-- An engine's address for a command, with the integrity of what it reads. -/
def State.engAddr (s : State) (c : Cmd) (va : Dword) (write : Bool) : State × Except Nat Nat :=
  let t := s.engTranslate c va write
  match t.2 with
  | .error e => (t.1, .error e)
  | .ok (pa, _) => if s.integrityFail pa then (t.1, .error 0x46) else (t.1, .ok pa)

/-- A barrier object of a command: its address in scratchpad, or a global address that is translated for each subtraction
(R257). Zero bytes are not subtracted. DESIGN CHOICE (log 41): a global address that is not 16-aligned, for which no rule names
a cause of an engine, stops the command with global-alignment. -/
def State.engBarrier (s : State) (c : Cmd) (pad : Bool) (a : Dword) (n : Nat) : State × Option Nat :=
  if n = 0 then (s, none)
  else if pad then (s.barSub ⟨true, a.toNat⟩ n, none)
  else if a.toNat % 16 ≠ 0 then (s, some 0x45)
  else
    let t := s.translate a true c.priv
    match t.2 with
    | .error e => (t.1, some e)
    | .ok (pa, ty) =>
      if ty = 2 then (t.1, some 0x47) else if s.integrityFail pa then (t.1, some 0x46)
      else (t.1.barSub ⟨false, pa⟩ n, none)

/-! ## Request blocks (03 R61) -/

/-- The request block of 64 bytes at a pitch offset: the bundle waits for earlier engine writes to it and for its lines. -/
def State.request (s : State) (a : Nat) : Except State (List Byte) :=
  match s.padOne 64 64 a with
  | .error t => .error t
  | .ok p =>
    if s.core.cmds.any fun c => !c.wrDone && regionsMeet c.wr (some (p, 64)) then .error (s.wait 6)
    else if !s.full (p / 128) then .error (s.wait 1)
    else .ok (s.padRead p 64)

end Sys2Proof.Machine
end

