-- ==== Sys2Proof/Machine/Copy.lean ====
section
/-! DEFINITION. The copy sequencer (11 R248 to R259). -/

namespace Sys2Proof.Machine

/-! ## Staging (R248, R255 to R257) -/

/-- A level that nothing has staged. -/
def CopyLevel.zero : CopyLevel := ⟨0, 0, 0⟩

/-- cq.lvl (R255). -/
def execCqLvl (f : EF) (s : State) : Out :=
  let l : CopyLevel := ⟨(s.x.sreg f.a.toNat).extractLsb' 0 32, s.x.sreg f.b.toNat, s.x.sreg f.c.toNat⟩
  .next (s.setX { s.x with copy := { s.x.copy with
    levels := Map.set CopyLevel.zero s.x.copy.levels (f.i.extractLsb' 0 3).toNat l } })
/-- cq.cfg (R256). -/
def execCqCfg (f : EF) (s : State) : Out :=
  .next (s.setX { s.x with copy := { s.x.copy with cfg := s.x.sreg f.a.toNat } })
/-- cq.bar (R257). -/
def execCqBar (f : EF) (s : State) : Out :=
  .next (s.setX { s.x with copy := { s.x.copy with bar := some (f.i.getLsbD 0, s.x.sreg f.a.toNat) } })

/-! ## The configuration (R249, R251) -/

/-- Formats a copy converts between. -/
def copyFmt (c : Nat) : Bool := decide (c ≤ 5) || (decide (9 ≤ c) && decide (c ≤ 11))
/-- Bytes of an element of a copy. -/
def copySize (c : Nat) : Nat := if c = 15 then 1 else codeBytes c

/-- A copy as cq.go finds it: source, destination, configuration, levels from the innermost, barrier. -/
structure CopyJob where
  src : Dword
  dst : Dword
  cfg : Dword
  levels : List CopyLevel
  bar : Option (Bool × Dword)

/-- Source format. -/
def CopyJob.sf (j : CopyJob) : Nat := bits j.cfg 0 4
/-- Destination format. -/
def CopyJob.df (j : CopyJob) : Nat := bits j.cfg 4 4
/-- Source space. -/
def CopyJob.ssp (j : CopyJob) : Nat := bits j.cfg 8 2
/-- Destination space. -/
def CopyJob.dsp (j : CopyJob) : Nat := bits j.cfg 10 2
/-- Any count is zero: nothing is copied (R250). -/
def CopyJob.empty (j : CopyJob) : Bool := j.levels.any fun l => l.count = 0#32

/-- The smallest range of addresses of an access of n bytes over the levels: the strides of a base (R244). -/
def spanOf (base : Int) (size : Nat) : List (Word × Dword) → Int × Int
  | [] => (base, base + size)
  | (c, d) :: l =>
    let r := spanOf base size l
    let k : Int := ((c.toNat : Int) - 1) * d.toInt
    if k < 0 then (r.1 + k, r.2) else (r.1, r.2 + k)
/-- The source range. -/
def CopyJob.srcSpan (j : CopyJob) : Int × Int :=
  spanOf j.src.toInt (copySize j.sf) (j.levels.map fun l => (l.count, l.ss))
/-- The destination range. -/
def CopyJob.dstSpan (j : CopyJob) : Int × Int :=
  spanOf j.dst.toInt (copySize j.df) (j.levels.map fun l => (l.count, l.ds))

/-- copy-config (R249, R251, R253). -/
def CopyJob.bad (j : CopyJob) : Bool :=
  let n := bits j.cfg 12 3
  let raw := j.sf = 15 && j.df = 15
  let mult (k : Nat) (v : Dword) : Bool := v.toNat % k = 0
  let ss := copySize j.sf
  let ds := if j.dsp = 2 then 4 else copySize j.df
  bits j.cfg 16 48 ≠ 0 || n = 0 || n = 7 || j.dsp = 3 || decide (2 ≤ j.ssp) ||
    !(raw || (copyFmt j.sf && copyFmt j.df)) || !mult ss j.src || !mult ds j.dst ||
    !(j.levels.all fun l => mult ss l.ss && mult ds l.ds) ||
    (j.dsp = 2 && (j.df ≠ 15 || j.bar.isSome ||
      (!j.empty && (decide (j.dstSpan.1 < 0) || decide (0x10000 < j.dstSpan.2)))))

/-- The staged copy with its bases. -/
def State.copyJob (s : State) (f : EF) : CopyJob :=
  let c := s.x.copy
  { src := s.x.sreg f.a.toNat, dst := s.x.sreg f.b.toNat, cfg := c.cfg, bar := c.bar,
    levels := (List.range (bits c.cfg 12 3)).map fun i => Map.get CopyLevel.zero c.levels i }

/-- The range of a scratchpad side inside the pitch, or scratchpad-bounds with its lowest offset (R191, R244). -/
def State.spanRegion (s : State) (r : Int × Int) : Except State (Option (Nat × Nat)) :=
  let bad := s.causeI 8 0x40 (BitVec.ofInt 64 (r.1 % 2 ^ 21))
  match s.pitch with
  | none => .error bad
  | some p =>
    if r.1 < 0 ∨ (p.lines * 128 : Int) < r.2 then .error bad
    else .ok (regionOf (p.base * 128 + r.1.toNat) (r.2 - r.1).toNat)

/-- A side of a copy that is no scratchpad range has no region. -/
def State.sideRegion (s : State) (pad : Bool) (r : Int × Int) : Except State (Option (Nat × Nat)) :=
  if pad then s.spanRegion r else .ok none

/-- cq.go (R258): engine-fault, copy-config, alignment, bounds, copy-overlap in this order; a copy of nothing completes at once;
the binding is cleared. -/
def execCqGo (f : EF) (s : State) : Out :=
  .next (s.faultFirst fun s =>
    let j := s.copyJob f
    if j.bad then s.cause 0x80
    else
      let bar : Except State (Nat × Dword) :=
        match j.bar with
        | none => .ok (0, 0)
        | some (false, a) => .ok (1, a)
        | some (true, a) =>
          match s.padOne 16 16 a.toNat with
          | .error t => .error t
          | .ok p => .ok (2, BitVec.ofNat 64 p)
      match bar with
      | .error t => t
      | .ok (bk, ba) =>
        let done := s.setX { s.x with copy := { s.x.copy with bar := none } }
        if j.empty then done
        else
          match s.sideRegion (j.ssp = 0) j.srcSpan, s.sideRegion (j.dsp = 0) j.dstSpan with
          | .error t, _ => t
          | _, .error t => t
          | .ok rd, .ok wr =>
            if regionsMeet rd wr then s.cause 0x81
            else
              let base := match s.pitch with | some p => p.base * 128 | none => 0
              done.accept (.cqGo f)
                ([j.src, j.dst, j.cfg, ba] ++ j.levels.flatMap fun l => [l.count.setWidth 64, l.ss, l.ds])
                [] rd wr (!j.cfg.getLsbD 15) [bk, base])

/-! ## The copy itself (R250, R253) -/

/-- The elements of a nest of levels, outermost first, in loop order: source and destination addresses (R250). -/
def copyElems : List (Dword × Dword × Dword) → Dword → Dword → List (Dword × Dword)
  | [], sa, da => [(sa, da)]
  | (n, ss, ds) :: l, sa, da =>
    (List.range n.toNat).flatMap fun i =>
      copyElems l (sa + BitVec.ofNat 64 i * ss) (da + BitVec.ofNat 64 i * ds)
/-- Triples of a list. -/
def triples : List Dword → List (Dword × Dword × Dword)
  | a :: b :: c :: l => (a, b, c) :: triples l
  | _ => []
/-- The elements of an accepted copy. -/
def Cmd.elems (c : Cmd) : List (Dword × Dword) :=
  copyElems (triples (c.args.drop 4)).reverse (c.args.getD 0 0) (c.args.getD 1 0)
/-- The configuration of an accepted copy. -/
def Cmd.copyCfg (c : Cmd) : Dword := c.args.getD 2 0
/-- The physical base of its pitch. -/
def Cmd.copyBase (c : Cmd) : Nat := c.st.getD 1 0
/-- A destination address as a number: a physical scratchpad address, a virtual address without its ignored bits (10 R214), or a
byte of the instruction store. -/
def Cmd.destOf (c : Cmd) (da : Dword) : Nat :=
  match bits c.copyCfg 10 2 with
  | 0 => c.copyBase + da.toNat
  | 1 => va56 da
  | _ => da.toNat
/-- The number of the destination line of an address. -/
def Cmd.lineOf (c : Cmd) (da : Dword) : Nat := c.destOf da / 128
/-- The destination lines still to land. -/
def Cmd.linesLeft (c : Cmd) : List Nat :=
  distinct ((c.elems.map fun e => c.lineOf e.2).filter fun l => !(c.st.drop 2).contains l)

/-- Read a source element. -/
def State.copyRead (s : State) (c : Cmd) (sa : Dword) : State × Except Nat Nat :=
  let n := copySize (bits c.copyCfg 0 4)
  if bits c.copyCfg 8 2 = 0 then (s, .ok (leNat (s.engBytes c (c.copyBase + sa.toNat) n)))
  else
    let t := s.engAddr c sa false
    match t.2 with
    | .error e => (t.1, .error e)
    | .ok pa => (t.1, .ok (t.1.paRead pa n))
/-- The elements of a destination line cover the 32-byte sector of one of them. -/
def Cmd.coversSector (c : Cmd) (es : List (Dword × Dword)) (da : Dword) : Bool :=
  let n := copySize (bits c.copyCfg 4 4)
  (List.range 32).all fun i => let a := c.destOf da / 32 * 32 + i
    es.any fun e => decide (c.destOf e.2 ≤ a) && decide (a < c.destOf e.2 + n)
/-- Write a destination element of a line whose elements are given. Of a line that fails its code nothing is read where the
elements cover the whole sector (10 R222, R226). -/
def State.copyWrite (s : State) (c : Cmd) (es : List (Dword × Dword)) (da : Dword) (v : Nat) : State × Option Nat :=
  let n := copySize (bits c.copyCfg 4 4)
  match bits c.copyCfg 10 2 with
  | 0 => (s.engWrite (c.copyBase + da.toNat) (natBytes n v), none)
  | 1 =>
    let t := s.engTranslate c da true
    match t.2 with
    | .error e => (t.1, some e)
    | .ok (pa, _) =>
      if t.1.cxlFail pa || (t.1.integrityFail pa && !c.coversSector es da) then (t.1, some 0x46)
      else (t.1.paWrite pa n v, none)
  | _ =>
    let k := da.toNat / 4
    let b := da.toNat % 4
    let w := Map.get 0 s.core.istore k
    let w := (w &&& ~~~(0xFF#32 <<< (8 * b))) ||| (BitVec.ofNat 32 (v % 256) <<< (8 * b))
    (s.setCore { s.core with istore := Map.set 0 s.core.istore k w }, none)

/-- Copy elements in order up to the first fault, which comes with its address (R247, R250). -/
def State.copyAll (s : State) (c : Cmd) (es : List (Dword × Dword)) : List (Dword × Dword) → State × Option (Dword × Nat)
  | [] => (s, none)
  | (sa, da) :: l =>
    let r := s.copyRead c sa
    match r.2 with
    | .error e => (r.1, some (sa, e))
    | .ok x =>
      let sf := bits c.copyCfg 0 4
      let v := if sf = 15 then x else (codeConv sf (bits c.copyCfg 4 4) 0 x).1
      let w := r.1.copyWrite c es da v
      match w.2 with
      | some e => (w.1, some (da, e))
      | none => w.1.copyAll c es l

/-- The distinct bytes that elements of n bytes write. -/
def Cmd.bytesWritten (c : Cmd) (n : Nat) (l : List (Dword × Dword)) : Nat :=
  (distinct (l.flatMap fun e => (List.range n).map fun i => c.destOf e.2 + i)).length
/-- At its completion a copy fills the lines of its write region in which it wrote no byte (R253). -/
def State.fillRest (s : State) (c : Cmd) : State :=
  match c.wr with
  | none => s
  | some (a, n) =>
    let lines := distinct (c.elems.map fun e => c.lineOf e.2)
    ((List.range (linesOf a n).2).filter fun i => !lines.contains ((linesOf a n).1 + i)).foldl
      (fun s i => s.setFull ((linesOf a n).1 + i) true) s

/-- The words of the instruction store that elements write, as they are before it (04 R97). -/
def State.keepCode (s : State) (c : Cmd) (es : List (Dword × Dword)) : State :=
  s.setCore { s.core with codeOld := s.core.codeOld ++
    (distinct (es.map fun e => e.2.toNat / 4)).map fun k => (c.id, k, Map.get 0 s.core.istore k) }
/-- A line of global memory that the elements have covered holds a new code (10 R225, R226). -/
def State.healLine (s : State) (c : Cmd) (es : List (Dword × Dword)) : State :=
  match es with
  | e :: _ =>
    match (s.engTranslate c e.2 true).2 with
    | .ok (pa, _) =>
      if (List.range 4).all fun k => c.coversSector es (BitVec.ofNat 64 (c.lineOf e.2 * 128 + 32 * k)) then
        s.setPkg (s.pkg.heal (pa / 128 * 128) 128) else s
    | .error _ => s
  | [] => s
/-- COPY_LINE_LAND: the elements of one destination line are copied, the line becomes full and the barrier is reduced (R253);
with the last line the command completes. Until then a fetch finds the old or the new one of each word of the instruction store
that it has written (04 R97, log 53). -/
def execCopyLineLand (id line : Nat) (s : State) : Out :=
  .next (match s.core.cmd id with
    | none => s
    | some c =>
      match c.op with
      | .cqGo _ =>
        if !(s.core.canRead c && s.core.canWrite c && c.linesLeft.contains line) then s
        else
          let es := c.elems.filter fun e => c.lineOf e.2 = line
          let r := (if bits c.copyCfg 10 2 = 2 then s.keepCode c es else s).copyAll c es es
          match r.2 with
          | some (va, e) => r.1.failCmd c va e
          | none =>
            let keep := c.copyCfg.getLsbD 15
            let t := if bits c.copyCfg 10 2 = 0 && !keep then r.1.setFull line true
              else if bits c.copyCfg 10 2 = 1 && !r.1.pkg.corrupt.isEmpty then r.1.healLine c es else r.1
            let bk := c.st.getD 0 0
            let ba := c.args.getD 3 0
            let u := if bk = 0 then (t, none)
              else t.engBarrier c (bk = 2) ba (c.bytesWritten (copySize (bits c.copyCfg 4 4)) es)
            match u.2 with
            | some e => u.1.failCmd c ba e
            | none =>
              let c := { c with st := c.st ++ [line] }
              if c.linesLeft.isEmpty then (if keep then u.1 else u.1.fillRest c).endCmd c
              else u.1.putCmd c
      | _ => s)

/-- The next line of a copy that can land. -/
def State.copyDue (s : State) : Option Instr :=
  s.core.cmds.findSome? fun c =>
    match c.op with
    | .cqGo _ =>
      if s.core.canRead c && s.core.canWrite c then c.linesLeft.head?.map fun l => Instr.copyLineLand c.id l else none
    | _ => none

end Sys2Proof.Machine
end

