-- ==== Sys2Proof/Machine/Matrix.lean ====
section
/-! DEFINITION. The matrix unit (12 R260 to R277): formats, banks, the exact accumulation, routines and microcode, and the
queue of its commands. -/

namespace Sys2Proof.Machine

/-! ## Formats (R260) -/

/-- The format codes of a call. -/
def mxKnown (f : Nat) : Bool := decide (f ≤ 8) || f = 11 || f = 16
/-- The group size g. -/
def mxG (f : Nat) : Nat :=
  if f = 1 || f = 2 then 2 else if f = 3 || f = 4 || f = 7 then 4 else if f = 5 || f = 6 || f = 8 then 8 else 1
/-- The alignment window w. -/
def mxW (f : Nat) : Nat := if f = 1 || f = 2 then 48 else if f = 3 || f = 4 || f = 7 then 36 else 40
/-- The bank mode a format requires: 0 FP32, 1 INT32, 2 FP64. -/
def mxMode (f : Nat) : Nat := if f = 16 then 2 else if f = 11 then 1 else 0
/-- A ring counted in elements of a call's format (R262). -/
def Stream.inFmt (r : Stream) (f : Nat) : Stream := { r with mfmt := if f = 16 then 12 else f }

/-! ## Banks (R263, R264) -/

/-- Both banks' owner and mode. -/
abbrev Claims := (Nat × Nat) × (Nat × Nat)
/-- One of them. -/
def Claims.of (c : Claims) (b : Nat) : Nat × Nat := if b % 2 = 0 then c.1 else c.2
/-- Replace one of them. -/
def Claims.put (c : Claims) (b : Nat) (v : Nat × Nat) : Claims := if b % 2 = 0 then (v, c.2) else (c.1, v)
/-- The bank an E word of a kind names. -/
def mxBankOf : Instr → Nat
  | .mxCall f => (f.i.extractLsb' 6 1).toNat
  | .mxDrain f => (f.i.extractLsb' 4 1).toNat
  | .mxZero f => (f.i.extractLsb' 2 1).toNat
  | _ => 0
/-- What a command does to the claims in queue order (R275, R276). -/
def Claims.after (c : Claims) (op : Instr) (p : Nat) : Claims :=
  match op with
  | .mxZero f =>
    let m := (f.i.extractLsb' 0 2).toNat
    let b := mxBankOf op
    if m = 2 then ((p, 2), (p, 2))
    else
      let o := c.of (b + 1)
      (c.put (b + 1) (if o.2 = 2 then (0, 0) else o)).put b (p, m)
  | .mxDrain f =>
    let b := mxBankOf op
    if f.i.getLsbD 5 then (if (c.of b).2 = 2 then ((0, 0), (0, 0)) else c.put b (0, 0)) else c
  | _ => c

/-- The claims once every queued command has run: acceptance checks look at these (log 35). -/
def CoreSt.claims (c : CoreSt) : Claims :=
  c.matrixQueue.foldl (fun a k => a.after k.op (k.pitch % 128))
    (((c.bank 0).owner, (c.bank 0).mode), ((c.bank 1).owner, (c.bank 1).mode))
/-- A command enters the matrix queue, or the bundle waits while it is full (R270). -/
def State.matrixAccept (s : State) (k : State → State) : State :=
  if 8 ≤ s.core.matrixQueue.length then s.wait 5 else k s

/-- Replace a bank. -/
def State.putBank (s : State) (b : Nat) (k : Bank) : State :=
  s.setCore { s.core with banks := Map.set Bank.empty s.core.banks b k }

/-! ## The exact accumulation (R265, R266) -/

/-- An operand: the scale byte of its block and its code. -/
abbrev MxEl := Nat × Nat
/-- Its value. -/
def mxVal (f : Nat) (x : MxEl) : Fp :=
  match mxOfCode f with
  | some k => k.dec x.1 x.2
  | none => codeVal (if f = 16 then 12 else f) x.2
/-- The code product of two L6 codes, no NaR and no zero (07 R151). -/
def l6Prod (a b : Nat) : Nat × Int := l6Val ((a % 32 + b % 32 : Nat) - 16)
/-- The exact product with both scales. -/
def mxProd (f : Nat) (x y : MxEl) : Fp :=
  if f = 5 || f = 8 then
    let a := x.2 % 64
    let b := y.2 % 64
    if (mxVal f x).isNan || (mxVal f y).isNan then .nan false
    else if a = 0 || b = 0 then .fin false 0 0
    else
      let v := l6Prod a b
      .fin (decide (a / 32 ≠ b / 32)) v.1 (v.2 + (if f = 8 then (x.1 : Int) + y.1 - 254 else 0))
  else ((mxVal f x).mul (mxVal f y)).1

/-- A product cut toward zero to a multiple of 2^q. -/
def truncTo (q : Int) : Fp → Int
  | .fin n m e =>
    let v : Int := if q ≤ e then ((m * 2 ^ (e - q).toNat : Nat) : Int) else ((m / 2 ^ (q - e).toNat : Nat) : Int)
    if n then -v else v
  | _ => 0

/-- One group added into an FP32 accumulator: the new word and the flags (R266). -/
def mxGroup (w : Nat) (acc : Word) (nanOp : Bool) (p : List Fp) (undef : Bool) : Word × Nat :=
  let a := Fmt.f32.dec acc.toNat
  let both := (p.contains (.inf false)) && p.contains (.inf true)
  let fin (x : Fp) : Word × Nat := let r := Fmt.f32.rnd 0 (Fp.sum 0 [a, x]); (BitVec.ofNat 32 r.1, r.2)
  if nanOp || undef || both then (BitVec.ofNat 32 Fmt.f32.nanBits, if undef || both then fNV else 0)
  else
    match p.find? Fp.isInf with
    | some x => fin x
    | none =>
      let nz := p.filter fun x => !x.isZero
      match nz with
      | [] => fin (.fin (p.all Fp.neg?) 0 0)
      | x :: l =>
        let e := l.foldl (fun m y => max m y.log2) x.log2
        let q := e - w + 1
        fin (ofScaled (p.foldl (fun t y => t + truncTo q y) 0) q false)

/-- A list in groups of g. -/
def chunksOf {α : Type} (g : Nat) : Nat → List α → List (List α)
  | 0, _ => []
  | n + 1, l => if l.isEmpty then [] else l.take g :: chunksOf g n (l.drop g)

/-- Pairs of values with their products added into an FP32 accumulator, group by group of g in a window w (R266). -/
def fpDot (g w : Nat) (acc : Word) (l : List (Fp × Fp × Fp)) : Word × Nat :=
  (chunksOf g l.length l).foldl (fun a k =>
    let nanOp := k.any fun x => x.1.isNan || x.2.1.isNan
    let undef := k.any fun x => !x.1.isNan && !x.2.1.isNan && x.2.2.isNan
    let r := mxGroup w a.1 nanOp (k.map fun x => x.2.2) undef
    (r.1, a.2 ||| r.2)) (acc, 0)
/-- A dot product over pairs of operands added into an FP32 accumulator (R265, R266). -/
def mxDot (f : Nat) (acc : Word) (l : List (MxEl × MxEl)) : Word × Nat :=
  if f = 0 then
    l.foldl (fun a x =>
      let r := Fmt.f32.fma 0 (mxVal 0 x.1) (mxVal 0 x.2) (Fmt.f32.dec a.1.toNat)
      (BitVec.ofNat 32 r.1, a.2 ||| r.2)) (acc, 0)
  else fpDot (mxG f) (mxW f) acc (l.map fun x => (mxVal f x.1, mxVal f x.2, mxProd f x.1 x.2))
/-- INT8 operands added exactly modulo 2^32 (R266). -/
def mxDotInt (acc : Word) (l : List (MxEl × MxEl)) : Word :=
  l.foldl (fun a x => a + BitVec.ofInt 32 (intOf 8 false x.1.2 * intOf 8 false x.2.2)) acc
/-- FP64 operands, fused one after another (R266). -/
def mxDot64 (acc : Nat) (l : List (MxEl × MxEl)) : Nat × Nat :=
  l.foldl (fun a x =>
    let r := Fmt.f64.fma 0 (mxVal 16 x.1) (mxVal 16 x.2) (Fmt.f64.dec a.1)
    (r.1, a.2 ||| r.2)) (acc, 0)

/-- The bits of a bank's status for flags: NV 0, OF 1, UF 2, NX 3 (R264). -/
def mxFlags (f : Nat) : Nat :=
  (if f &&& fNV ≠ 0 then 1 else 0) + (if f &&& fOF ≠ 0 then 2 else 0) + (if f &&& fUF ≠ 0 then 4 else 0) +
    (if f &&& fNX ≠ 0 then 8 else 0)

/-- A 32-bit accumulator element. -/
def CoreSt.acc (c : CoreSt) (b i j : Nat) : Word := Map.get 0 (c.bank b).el (128 * i + j)
/-- Write it, joining flags into the status. -/
def State.setAcc (s : State) (b i j : Nat) (v : Word) (fl : Nat) : State :=
  let k := s.core.bank b
  s.putBank b { k with el := Map.set 0 k.el (128 * i + j) v, flags := k.flags ||| mxFlags fl }
/-- A binary64 accumulator element of the pair: bank 0 holds rows 0 to 63 (R263). -/
def CoreSt.acc64 (c : CoreSt) (i j : Nat) : Nat :=
  let el := (c.bank (i / 64)).el
  let k := 256 * (i % 64) + 2 * j
  (Map.get 0 el k).toNat + 2 ^ 32 * (Map.get 0 el (k + 1)).toNat
/-- Write it; both banks' status takes the flags (log 36). -/
def State.setAcc64 (s : State) (i j : Nat) (v fl : Nat) : State :=
  let b := i / 64
  let k := s.core.bank b
  let o := s.core.bank (1 - b)
  let n := 256 * (i % 64) + 2 * j
  (s.putBank b { k with
    el := Map.set 0 (Map.set 0 k.el n (BitVec.ofNat 32 v)) (n + 1) (BitVec.ofNat 32 (v / 2 ^ 32)),
    flags := k.flags ||| mxFlags fl }).putBank (1 - b) { o with flags := o.flags ||| mxFlags fl }

/-! ## Routines (R268, R269, R271) -/

/-- Parameter register k of an accepted call. -/
def Cmd.mreg (c : Cmd) (k : Nat) : Dword := c.args.getD k 0
/-- Format of a call. -/
def Cmd.mxFmt (c : Cmd) : Nat := bits (c.mreg 4) 0 5
/-- Rows in range. -/
def Cmd.mxM (c : Cmd) : Nat := bits (c.mreg 3) 0 7 + 1
/-- Columns in range. -/
def Cmd.mxN (c : Cmd) : Nat := bits (c.mreg 3) 7 7 + 1
/-- The micro-ops it runs; the parameters come before them, and the routine's place in the store. -/
def Cmd.micro (c : Cmd) : List Dword := c.args.drop 9

/-- An element of a ring with the scale of its block. -/
def State.ringEl (s : State) (r : Stream) (e : Nat) : MxEl :=
  (if (mxOfCode r.mfmt).isSome then s.padNat (r.scaleAt (e / 32)) 1 else 127, s.ringRaw r e)
/-- Row n of a k-block at the head of a ring (R261). -/
def State.kRow (s : State) (r : Stream) (n : Nat) : List MxEl :=
  (List.range 32).map fun t => s.ringEl r (r.head.toNat + 32 * n + t)
/-- Replace a stream. -/
def State.putStream (s : State) (q : Nat) (r : Stream) : State :=
  s.setCore { s.core with streams := Map.set Stream.unbound s.core.streams q r }
/-- A ring gives up elements. -/
def State.consume (s : State) (q n : Nat) : State :=
  let r := s.core.stream q
  s.putStream q { r with head := r.head + BitVec.ofNat 32 n }
/-- A ring holds a whole k-block in the format of a call. -/
def State.kReady (s : State) (c : Cmd) (k : Nat) : Bool :=
  decide (4096 ≤ (s.core.stream (bits (c.mreg k) 0 4)).fill)

/-- Every element in range (R261). -/
def Cmd.inRange (c : Cmd) : List (Nat × Nat) :=
  (List.range c.mxM).flatMap fun i => (List.range c.mxN).map fun j => (i, j)
/-- One k-block accumulated and consumed (R261, R262, R266). -/
def State.mma (s : State) (c : Cmd) : State :=
  let f := c.mxFmt
  let qa := bits (c.mreg 0) 0 4
  let qb := bits (c.mreg 1) 0 4
  let ra := (s.core.stream qa).inFmt f
  let rb := (s.core.stream qb).inFmt f
  let rows := (List.range c.mxM).map (s.kRow ra)
  let cols := (List.range c.mxN).map (s.kRow rb)
  let b := mxBankOf c.op
  let t := c.inRange.foldl (fun (t : State) ij =>
    let l := (rows.getD ij.1 []).zip (cols.getD ij.2 [])
    if f = 16 then let r := mxDot64 (t.core.acc64 ij.1 ij.2) l; t.setAcc64 ij.1 ij.2 r.1 r.2
    else if f = 11 then t.setAcc b ij.1 ij.2 (mxDotInt (t.core.acc b ij.1 ij.2) l) 0
    else let r := mxDot f (t.core.acc b ij.1 ij.2) l; t.setAcc b ij.1 ij.2 r.1 r.2) s
  (t.consume qa 4096).consume qb 4096
/-- Elements in range become zero (R269). -/
def State.mxClear (s : State) (c : Cmd) : State :=
  let b := mxBankOf c.op
  c.inRange.foldl (fun (t : State) ij =>
    if c.mxFmt = 16 then t.setAcc64 ij.1 ij.2 0 0 else t.setAcc b ij.1 ij.2 0 0) s

/-- The progress of a call: micro-op, k-blocks left of it (none begun: 0 with `fresh`), open levels (start, runs left),
innermost first. -/
structure Run where
  pc : Nat
  fresh : Bool
  left : Nat
  stack : List (Nat × Nat)
/-- Progress as it stands in the command. -/
def Cmd.run (c : Cmd) : Run :=
  ⟨c.st.getD 0 0, c.st.getD 1 1 = 1, c.st.getD 2 0,
    match c.st.drop 3 with | [a, b] => [(a, b)] | [a, b, d, e] => [(a, b), (d, e)] | _ => []⟩
/-- Put progress into the command. -/
def Cmd.setRun (c : Cmd) (r : Run) : Cmd :=
  { c with st := [r.pc, r.fresh.toNat, r.left] ++ r.stack.flatMap fun x => [x.1, x.2] }

/-- The micro-op after the end of the body that begins at pc, with levels open in it; none when it has no end (R269). -/
def bodyEnd (l : List Dword) (pc : Nat) : Nat → Nat → Option Nat
  | 0, _ => none
  | n + 1, d =>
    match l[pc]? with
    | none => none
    | some w =>
      if bits w 58 6 = 3 then bodyEnd l (pc + 1) n (d + 1)
      else if bits w 58 6 = 4 then (if d = 0 then some (pc + 1) else bodyEnd l (pc + 1) n (d - 1))
      else bodyEnd l (pc + 1) n d

/-- What a call does next. -/
inductive Next where
  | done
  | bad
  | clear (r : Run)
  | go (r : Run)
  | block (r : Run) (skip : Option Nat)

/-- The next thing a call does (R269). -/
def Run.next (r : Run) (l : List Dword) (kb : Nat) : Next :=
  match l[r.pc]? with
  | none => .bad
  | some w =>
    let n := bits w 0 16
    let nxt : Run := ⟨r.pc + 1, true, 0, r.stack⟩
    let blocks (k : Nat) (sk : Option Nat) : Next :=
      let left := if r.fresh then k else r.left
      if left = 0 then .go nxt else .block ⟨r.pc, false, left - 1, r.stack⟩ sk
    match bits w 58 6 with
    | 0 => if bits w 0 58 = 0 then .done else .bad
    | 1 => if bits w 16 42 = 0 then blocks (if n = 0 then kb else n) none else .bad
    | 2 => if bits w 0 58 = 0 then .clear nxt else .bad
    | 3 =>
      if bits w 16 42 ≠ 0 then .bad
      else if n = 0 then
        match bodyEnd l (r.pc + 1) l.length 0 with
        | some e => .go ⟨e, true, 0, r.stack⟩
        | none => .go ⟨l.length, true, 0, r.stack⟩
      else if 2 ≤ r.stack.length then .bad
      else .go ⟨r.pc + 1, true, 0, (r.pc + 1, n) :: r.stack⟩
    | 4 =>
      if bits w 0 58 ≠ 0 then .bad
      else
        match r.stack with
        | [] => .bad
        | (a, k) :: st => if k ≤ 1 then .go ⟨r.pc + 1, true, 0, st⟩ else .go ⟨a, true, 0, (a, k - 1) :: st⟩
    | 5 => if bits w 17 41 = 0 then blocks n (some (bits w 16 1)) else .bad
    | _ => .bad

/-- Run a call's micro-ops up to its next k-block; with `eat` the k-block is consumed first when it is there. It ends with END,
or as matrix-micro with the store address (R247, R269). -/
def State.runCall (s : State) (c : Cmd) (eat : Bool) : Nat → Run → State
  | 0, r => s.putCmd (c.setRun r)
  | n + 1, r =>
    match r.next c.micro (bits (c.mreg 3) 14 16 + 1) with
    | .done => s.endCmd c
    | .bad =>
      s.failCmd c (c.mreg 8 + BitVec.ofNat 64 r.pc) 0x8B
    | .clear r => (s.mxClear c).runCall c eat n r
    | .go r => s.runCall c eat n r
    | .block q sk =>
      let ready := match sk with
        | none => s.kReady c 0 && s.kReady c 1
        | some k => s.kReady c k
      if eat && ready then
        (match sk with
          | none => s.mma c
          | some k => s.consume (bits (c.mreg k) 0 4) 4096).runCall c false n q
      else s.putCmd (c.setRun r)

/-- The fuel of a call between two k-blocks: more than two levels of 65,535 runs of the whole store can take. -/
abbrev callFuel : Nat := 2 ^ 50

/-! ## The commands -/

/-- A stream that a call names: the ring it reads, or stream-unbound (R271). -/
def State.mxRing (s : State) (q f : Nat) : State :=
  let r := s.core.stream q
  if !(s.streamOwned q && r.bound) then s.cause 0x98
  else if (r.inFmt f).capacity < 4096 then s.cause 0x88
  else s

/-- A slot as a call accepted now finds it: as the last load that is still to be made sets it, else as it stands (R274). -/
def CoreSt.slotOf (c : CoreSt) (slot : Nat) : Nat × Nat :=
  match (c.cmds.filter fun k => decide (k.loadSlot = some slot)).getLast? with
  | some k => k.loadRange
  | none => Map.get (0, 0) c.slots slot
/-- mx.call (R272): the checks of acceptance, then the queue; the slot is read at this moment, and its micro-ops as well unless
a load is still to write some of them (R274). -/
def execMxCall (f : EF) (s : State) : Out :=
  let slot := (f.i.extractLsb' 0 6).toNat
  let m (k : Nat) : Dword := Map.get 0 s.x.m k
  let fmt := bits (m 4) 0 5
  let qa := bits (m 0) 0 4
  let qb := bits (m 1) 0 4
  let cl := s.core.claims.of (if mxMode fmt = 2 then 0 else mxBankOf (.mxCall f))
  let badCfg := !mxKnown fmt || bits (m 0) 4 60 ≠ 0 || bits (m 1) 4 60 ≠ 0 || bits (m 3) 30 34 ≠ 0 ||
    bits (m 4) 5 59 ≠ 0 || qa = qb
  let badSlot := (decide (2 ≤ slot) && decide (slot ≤ 7)) || (decide (8 ≤ slot) && (s.core.slotOf slot).2 = 0)
  let badBank := cl.1 = 0 || !decide (cl.1 = s.x.pitch % 128) || (mxKnown fmt && !decide (cl.2 = mxMode fmt))
  let t := if badCfg then s.cause 0x88 else s
  let t := if badSlot then t.cause 0x89 else t
  let t := if badBank then t.cause 0x8A else t
  let t := (t.mxRing qa fmt).mxRing qb fmt
  .next (t.matrixAccept fun t =>
    let r := t.core.slotOf slot
    let pend := t.core.cmds.any fun k => k.loads (slot, r)
    let ops := if pend then [] else t.core.routine slot r
    t.accept (.mxCall f) ((List.range 8).map m ++ [BitVec.ofNat 64 r.1] ++ ops) (natBytes 4 r.1 ++ natBytes 4 r.2) none none false
      (if pend then [] else [0, 1, 0]))

/-- mx.setp (R273). -/
def execMxSetp (f : EF) (s : State) : Out :=
  .next (s.setX { s.x with m := Map.set 0 s.x.m (f.i.extractLsb' 0 3).toNat (s.x.sreg f.a.toNat) })
/-- mx.getp (R273). -/
def execMxGetp (f : EF) (s : State) : Out := .next (s.returns f.c (Map.get 0 s.x.m (f.i.extractLsb' 0 3).toNat))

/-- mx.ld (R274): the micro-ops are copied and then the slot is set, when the region may be read; a call accepted from now on
sees both. -/
def execMxLd (f : EF) (s : State) : Out :=
  let slot := (f.i.extractLsb' 0 6).toNat
  let n := (s.x.sreg f.c.toNat).toNat
  let d := bits (s.x.sreg f.b.toNat) 0 11
  let t := if n = 0 || decide (2048 < n) || decide (2048 < d + n) then s.cause 0x88 else s
  let t := if slot ≤ 7 then t.cause 0x89 else t
  let t := if decide (8 ≤ slot) && decide (slot ≤ 31) && !s.x.priv then t.privilege else t
  .next (match t.padOne 8 (8 * n) (s.x.sreg f.a.toNat).toNat with
    | .error u => u
    | .ok p =>
      let u := t.accept (.mxLd f) [] [] (regionOf p (8 * n)) none false [d, n]
      if 0 < u.cur.waits.length || 0 < u.cur.causes.length then u
      else u.loadMicro)

/-- Does a bank mode accept a drain format (R275)? -/
def drainOk (mode f : Nat) : Bool :=
  match mode with
  | 0 => copyFmt f
  | 1 => copyFmt f
  | _ => f = 0 || f = 12
/-- mx.drain (R275). -/
def execMxDrain (f : EF) (s : State) : Out :=
  let fmt := (f.i.extractLsb' 0 4).toNat
  let cl := s.core.claims.of (mxBankOf (.mxDrain f))
  let mine := decide (cl.1 ≠ 0) && decide (cl.1 = s.x.pitch % 128)
  let t := if (if mine then drainOk cl.2 fmt else copyFmt fmt || fmt = 12) then s else s.cause 0x88
  let t := if mine then t else t.cause 0x8A
  let n := 16384 * codeBytes fmt
  .next (match t.padOne 128 n (s.x.sreg f.a.toNat).toNat with
    | .error u => u
    | .ok p => t.matrixAccept fun t => t.accept (.mxDrain f) [] [] none (regionOf p n) true [])

/-- mx.zero (R276). -/
def execMxZero (f : EF) (s : State) : Out :=
  let cl := s.core.claims
  let b := mxBankOf (.mxZero f)
  let free (b : Nat) : Bool := (cl.of b).1 = 0 || decide ((cl.of b).1 = s.x.pitch % 128)
  let ok := s.pitch.isSome && free b && ((f.i.extractLsb' 0 2).toNat ≠ 2 || free 1)
  let t := if ok then s else s.cause 0x8A
  .next (t.matrixAccept fun t => t.accept (.mxZero f) [] [] none none false [])

/-! ## Steps of the unit -/

/-- The command at the head of the matrix queue, of a kind. -/
def State.matrixHead (s : State) (t : Cmd → Bool) : Option Cmd :=
  match s.core.matrixQueue with
  | c :: _ => if t c then some c else none
  | [] => none
/-- Is it a call? -/
def Cmd.isCall (c : Cmd) : Bool := match c.op with | .mxCall _ => true | _ => false
/-- Is it a drain? -/
def Cmd.isDrain (c : Cmd) : Bool := match c.op with | .mxDrain _ => true | _ => false
/-- Is it a zero? -/
def Cmd.isZero (c : Cmd) : Bool := match c.op with | .mxZero _ => true | _ => false

/-- MX_KBLOCK: the call at the head runs its micro-ops to the next k-block, consumes and accumulates it, and runs on to the one
after (R262, R266, R269); one whose micro-ops an earlier load is still to write waits (R274). -/
def execMxKblock (s : State) : Out :=
  .next (match s.matrixHead Cmd.isCall with
    | none => s
    | some c =>
      if c.st.isEmpty then s else s.runCall c true callFuel c.run)

/-- The code of an accumulator element in a drain format. -/
def CoreSt.drainCode (c : CoreSt) (b mode f i j : Nat) : Nat :=
  if mode = 2 then (if f = 12 then c.acc64 i j else (codeConv 12 f 0 (c.acc64 i j)).1)
  else if mode = 1 then (if f = 9 then (c.acc b i j).toNat else (codeConv 9 f 0 (c.acc b i j).toNat).1)
  else (codeConv 0 f 0 (c.acc b i j).toNat).1

/-- Set a bank's claim. -/
def State.setClaim (s : State) (b : Nat) (v : Nat × Nat) : State :=
  let k := s.core.bank b
  if v.1 = 0 then s.putBank b { Bank.empty with el := k.el } else s.putBank b { k with owner := v.1, mode := v.2 }

/-- MX_DRAIN_RUN: the drain at the head writes its bank, the lines become full, and a release clears the claim (R275). -/
def execMxDrainRun (s : State) : Out :=
  .next (match s.matrixHead Cmd.isDrain with
    | none => s
    | some c =>
      if !s.core.canWrite c then s
      else
        match c.op, c.wr with
        | .mxDrain f, some (a, _) =>
          let fmt := (f.i.extractLsb' 0 4).toNat
          let b := mxBankOf c.op
          let mode := (s.core.bank b).mode
          let k := codeBytes fmt
          let t := (List.range 16384).foldl (fun (t : State) e =>
            t.engWrite (a + k * e) (natBytes k (s.core.drainCode b mode fmt (e / 128) (e % 128)))) s
          let t := t.regionFull c.wr true
          let cl : Claims := (((s.core.bank 0).owner, (s.core.bank 0).mode), ((s.core.bank 1).owner, (s.core.bank 1).mode))
          let n := cl.after c.op (c.pitch % 128)
          let t := if f.i.getLsbD 5 then
              (if mode = 2 then (t.setClaim 0 n.1).setClaim 1 n.2 else t.setClaim b (n.of b))
            else t
          t.endCmd c
        | _, _ => s)

/-- MX_ZERO_RUN: the zero at the head claims its bank or both, with every element zero and no flag; a pair that ends releases
the other bank (R276). -/
def execMxZeroRun (s : State) : Out :=
  .next (match s.matrixHead Cmd.isZero with
    | none => s
    | some c =>
      let cl : Claims := (((s.core.bank 0).owner, (s.core.bank 0).mode), ((s.core.bank 1).owner, (s.core.bank 1).mode))
      let n := cl.after c.op (c.pitch % 128)
      let put (t : State) (b : Nat) : State :=
        let v := n.of b
        if v.1 = 0 then t.putBank b Bank.empty
        else if n.of b = cl.of b && !(mxBankOf c.op = b) && !(v.2 = 2) then t
        else t.putBank b ⟨v.1, v.2, 0, []⟩
      (put (put s 0) 1).endCmd c)

/-- The next step of the unit, if its queue's head can take one. -/
def State.matrixDue (s : State) : Option Instr :=
  match s.core.matrixQueue with
  | [] => none
  | c :: _ =>
    match c.op with
    | .mxZero _ => some .mxZeroRun
    | .mxDrain _ => if s.core.canWrite c then some .mxDrainRun else none
    | .mxCall _ =>
      if c.st.isEmpty then none
      else
        match c.run.next c.micro (bits (c.mreg 3) 14 16 + 1) with
        | .block _ none => if s.kReady c 0 && s.kReady c 1 then some .mxKblock else none
        | .block _ (some k) => if s.kReady c k then some .mxKblock else none
        | _ => some .mxKblock
    | _ => none

end Sys2Proof.Machine
end

