-- ==== Sys2Proof/Machine/Links.lean ====
section
/-! DEFINITION. Messages on the torus as the engines send and take them (17 R356, R357, 25 R443). -/

namespace Sys2Proof.Machine

/-- The endpoint of a device's own engines (17 R355). -/
abbrev engineEp : Nat := 255
/-- This device's position. -/
def State.me (s : State) : Nat := s.pkg.pos.toNat
/-- The port towards a device: the one its peer stands at, else the first that is up (25 R443, log 38). -/
def State.portTo (s : State) (dev : Nat) : Option Nat :=
  let up := (List.range 6).filter fun k => decide ((s.pkg.port k).state = 3)
  match up.find? fun k => decide ((s.pkg.port k).peer = dev) with
  | some k => some k
  | none => up.head?
/-- A message can reach a device. -/
def State.reaches (s : State) (dev : Nat) : Bool := decide (dev = s.me) || (s.portTo dev).isSome
/-- A reachable peer (13 R300). -/
def State.isPeer (s : State) (dev : Nat) : Bool := !decide (dev = s.me) && s.reaches dev
/-- The payload that follows a clear-to-send: it belongs to a message whose header has gone before, so it has no header of its
own, and `x` holds the landing that the clear-to-send named (17 R357, log 38). -/
def isPayload (m : Msg) : Bool := decide (m.kind ≤ 1) && m.z && !m.payload.isEmpty
/-- The 32-byte header of a message (17 R356). -/
def msgHeader (m : Msg) : List Byte :=
  natBytes 2 (m.dst % 2 ^ 15) ++ natBytes 1 m.dep ++ natBytes 1 (m.kind % 16 + (if m.z then 16 else 0)) ++
    natBytes 2 (m.sdev % 2 ^ 15) ++ natBytes 1 m.sep ++ natBytes 1 (if m.kind = 1 then m.hidx else 0) ++ natBytes 4 m.tag.toNat ++
    natBytes 4 (m.len % 2 ^ 25) ++ natBytes 1 (m.fmt % 16) ++
    (if m.kind ≤ 1 then natBytes 15 0 else (List.range 15).map (Config.engineByte m.x))
/-- The bytes of a message on a link. -/
def msgBytes (m : Msg) : Nat := (if isPayload m then 0 else (msgHeader m).length) + m.payload.length
/-- The counters of a port for a message sent or received (25 R443). -/
def Ltl.counted (p : Ltl) (m : Msg) (tx : Bool) : Ltl :=
  let n := BitVec.ofNat 64 (msgBytes m)
  match tx, decide (2 ≤ m.kind) with
  | true, true => { p with kvtx := p.kvtx + n }
  | true, false => { p with msgtx := p.msgtx + n }
  | false, true => { p with kvrx := p.kvrx + n }
  | false, false => { p with msgrx := p.msgrx + n }
/-- A message leaves for its device by a port in state 3, or arrives here when it is for this one; without a route nothing is
sent (25 R443). -/
def State.sendMsg (s : State) (m : Msg) : State :=
  if m.dst = s.me then s.setPkg { s.pkg with inbox := s.pkg.inbox ++ [m] }
  else
    match s.portTo m.dst with
    | some k =>
      let p := s.pkg.setPort k ((s.pkg.port k).counted m true)
      s.setPkg { p with outbox := p.outbox ++ [m] }
    | none => s
/-- A message of the engines (17 R357): kind and fields as log 37 lays them out. -/
def State.engineMsg (s : State) (dst kind : Nat) (x : List Nat) (pay : List Byte) : Msg :=
  { dst := dst, dep := engineEp, kind := kind, z := false, sdev := s.me, sep := engineEp, hidx := 0, tag := 0, len := pay.length,
    fmt := 15, x := x, payload := pay }
/-- The port a message came by: 0 to 5, or 6 for the local path. -/
def State.cameBy (s : State) (m : Msg) : Nat := if m.sdev = s.me then 6 else (s.portTo m.sdev).getD 0
/-- The first message that stands at the head of its port and of which a test holds, and the messages left (17 R360). -/
def pickMsg (port : Msg → Nat) (t : Msg → Bool) : List Nat → List Msg → Option (Msg × List Msg)
  | _, [] => none
  | seen, m :: l =>
    if !seen.contains (port m) && t m then some (m, l)
    else (pickMsg port t (port m :: seen) l).map fun x => (x.1, m :: x.2)
/-- The handler that a landing starts (17 R364). -/
def Landing.handler (l : Landing) : Option Nat :=
  if l.msg.kind = 1 then some l.msg.hidx else if l.recv.act = 3 then some l.recv.hidx else none
/-- An entry of the handler table (17 R369). -/
def State.handlerEntry (s : State) (k : Nat) : Option (Dword × Dword) :=
  (s.part.handlers.find? fun h => h.1 = k).map fun h => h.2
/-- A landing's handler cannot be held: its strand runs and the entry's list of 16 is full (17 R364). -/
def State.startsFull (s : State) (l : Landing) : Bool :=
  match l.handler with
  | none => false
  | some k =>
    match s.handlerEntry k with
    | none => false
    | some (rec_, _) =>
      (recordOf (s.recBytes (va56 rec_))).state = 1 && decide (16 ≤ (s.part.starts.filter fun h => h.entry = k).length)
/-- The port of a message takes nothing: a full list of starts holds back a landing that came by it (17 R360, R364). -/
def State.stalled (s : State) (m : Msg) : Bool :=
  s.part.landings.any fun l => l.here && s.cameBy l.msg = s.cameBy m && s.startsFull l

/-- A message at the head of its port of which a test holds: it is taken and counted. One of another device comes by a port in
state 3 only (25 R443, R444). -/
def State.takeMsg (s : State) (t : Msg → Bool) : Option (Msg × State) :=
  match pickMsg s.cameBy (fun m => s.reaches m.sdev && !s.stalled m && t m) [] s.pkg.inbox with
  | none => none
  | some (m, l) =>
    let p := { s.pkg with inbox := l }
    let p := if m.sdev = s.me then p
      else match s.portTo m.sdev with
        | some k => p.setPort k ((p.port k).counted m false)
        | none => p
    some (m, s.setPkg p)
/-- The source number of the receive engine, which stands on die 0 (01 R16, R18, R19). -/
def receiveSource : Nat := 119 * 2 ^ 7
/-- A record of the receive engine whose information the specification does not state (log 7). -/
def State.logReceive (s : State) (cause : Nat) : State :=
  { s with free := s.free + 1 }.logEvent receiveSource cause (Config.freeValue s.free) 0

end Sys2Proof.Machine
end

