-- ==== Sys2Proof/Machine/KvStore.lean ====
section
/-! DEFINITION. The key-value page store (13 R278 to R302, 21 R423 to R425): frame bytes, sequences, and what each store command
does. The steps that carry the commands out are in Machine/PageWalk.lean. -/

namespace Sys2Proof.Machine

/-! ## Rungs and vectors (R279, R281, R283) -/

/-- A rung of a class: tier (0 HBM, 1 CXL, 4 drop) and format; none where it breaks R281. -/
def Pool.rung (p : Pool) (cls rung : Nat) : Option (Nat × Nat) :=
  let b := p.rungByte cls rung
  let t := b / 16
  let f := b % 16
  let ok := (t = 0 || t = 1 || t = 4) && decide (f ≤ 5) && (rung ≠ 0 || (t = 0 && f = p.hfmt)) &&
    (t ≠ 4 || cls = 7) && (t ≠ 1 || decide (p.cbase ≠ 0))
  if ok then some (t, f) else none

/-- The bits of a number that are set. -/
def popcNat (n : Nat) : Nat := ((List.range 64).filter fun i => n.testBit i).length
/-- The slot of an offset (R283). -/
def Fdesc.slot (d : Fdesc) (o : Nat) : Nat := popcNat (d.surv % 2 ^ o)
/-- Is the token at an offset present (R283)? -/
def Fdesc.present (d : Fdesc) (o : Nat) : Bool := d.surv.testBit o && decide (o < d.fill)
/-- Slots that hold present tokens. -/
def Fdesc.slots (d : Fdesc) : Nat := popcNat (d.surv % 2 ^ d.fill)

/-- Half bytes of an element of a frame format (R279). -/
def kvNib (fmt : Nat) : Nat := if fmt ≤ 1 then 4 else if fmt = 4 then 1 else 2
/-- Scale bytes of a vector. -/
def Pool.scaleLen (p : Pool) (fmt : Nat) : Nat :=
  if fmt = 2 || fmt = 3 then 1 else if fmt = 4 || fmt = 5 then p.D / 32 else 0
/-- Bytes of a vector's elements. -/
def Pool.vecLen (p : Pool) (fmt : Nat) : Nat := p.D * kvNib fmt / 2
/-- The number of a vector in a frame (R279). -/
def Pool.vecIdx (p : Pool) (layer kv slot head : Nat) : Nat := ((layer * 2 + kv) * p.P + slot) * p.heads + head
/-- The offset of its elements. -/
def Pool.vecOff (p : Pool) (fmt layer kv slot head : Nat) : Nat := p.vecIdx layer kv slot head * p.vecLen fmt
/-- The offset of its scale bytes. -/
def Pool.scaleOff (p : Pool) (fmt layer kv slot head : Nat) : Nat :=
  p.layers * 2 * p.P * p.heads * p.vecLen fmt + p.vecIdx layer kv slot head * p.scaleLen fmt

/-- The codes in the bytes of a vector. -/
def vecCodes (fmt : Nat) (b : List Byte) : List Nat :=
  match kvNib fmt with
  | 4 => (List.range (b.length / 2)).map fun i => fieldOf b (2 * i) 2
  | 1 => b.flatMap fun x => [x.toNat % 16, x.toNat / 16]
  | _ => b.map (·.toNat)
/-- The bytes of a vector of codes. -/
def codeVec (fmt : Nat) (l : List Nat) : List Byte :=
  match kvNib fmt with
  | 4 => l.flatMap fun x => natBytes 2 x
  | 1 => (List.range (l.length / 2)).map fun i => BitVec.ofNat 8 (l.getD (2 * i) 0 % 16 + 16 * (l.getD (2 * i + 1) 0 % 16))
  | _ => l.map fun x => BitVec.ofNat 8 x
/-- The values of a vector (R295: dequantised exactly; 07 R158, R159). A product of 2^128 or more does not fit the FP32 that
R295 names: its exact finite value is kept and quantised again, where R156 would make it an infinity (DESIGN CHOICE, log 18). -/
def vecVals (fmt : Nat) (el sc : List Byte) : List Fp :=
  let c := vecCodes fmt el
  let s (i : Nat) : Nat := (sc.getD i 0#8).toNat
  match fmt with
  | 0 => c.map Fmt.bf16.dec
  | 1 => c.map Fmt.f16.dec
  | 2 => c.map (fp8Dec .e4m3 (s 0))
  | 3 => c.map (fp8Dec .e5m2 (s 0))
  | _ =>
    let k : Mx := if fmt = 4 then .fp4 else .int8
    (List.range c.length).map fun i => k.dec (s (i / 32)) (c.getD i 0)
/-- A vector written in a frame format: element bytes and scale bytes (R295). -/
def vecEnc (fmt : Nat) (l : List Fp) : List Byte × List Byte :=
  match fmt with
  | 0 => (codeVec 0 (l.map fun x => (Fmt.bf16.enc 0 x).1), [])
  | 1 => (codeVec 1 (l.map fun x => (Fmt.f16.enc 0 x).1), [])
  | 2 => let r := fp8Vec .e4m3 448 l; (codeVec 2 r.2, [BitVec.ofNat 8 r.1])
  | 3 => let r := fp8Vec .e5m2 57344 l; (codeVec 3 r.2, [BitVec.ofNat 8 r.1])
  | _ =>
    let k : Mx := if fmt = 4 then .fp4 else .int8
    let q := (chunksOf 32 l.length l).map k.quant
    (codeVec fmt (q.flatMap (·.2.1)), q.map fun x => BitVec.ofNat 8 x.1)

/-- The byte ranges of the first k slots of every layer at rung 0: offset and length. -/
def Pool.slotRanges (p : Pool) (k : Nat) : List (Nat × Nat) :=
  if k = 0 then []
  else (List.range (p.layers * 2)).map fun i => (i * p.P * p.heads * p.vecLen p.hfmt, k * p.heads * p.vecLen p.hfmt)
/-- Cut bytes that stand one after another into ranges with their bytes. -/
def cutRanges : List (Nat × Nat) → List Byte → List (Nat × List Byte)
  | [], _ => []
  | (o, n) :: l, b => (o, b.take n) :: cutRanges l (b.drop n)
/-- Read ranges of a frame at a physical base. -/
def kvRanges (base : Nat) (l : List (Nat × Nat)) : Kv (List (Nat × List Byte)) :=
  l.mapM fun x => do pure (x.1, ← kvPhys (base + x.1) x.2)
/-- Write them. -/
def kvWriteRanges (base : Nat) (l : List (Nat × List Byte)) : Kv Unit :=
  l.forM fun x => kvPhysWrite (base + x.1) x.2

/-! ## Sequences (R282, R283) -/

/-- A sequence descriptor with its pool. -/
structure Seq where
  h : Nat
  va : Nat
  Lc : Nat
  Lt : Nat
  nblk : Nat
  cap : Nat
  bt : Nat
  dcls : Nat
  pool : Pool
  deriving DecidableEq, Repr
/-- The descriptor of a handle: kv-handle and kv-config (R282). -/
def kvSeq (h : Nat) : Kv Seq := do
  let p := (← get).part.setup
  kvNeed (decide (h < p.sdtCount)) 0x60
  let va := p.sdt + 128 * h
  let b ← kvRead va 128
  let n := fieldOf b
  kvNeed (decide (n 27 1 % 2 = 1)) 0x60
  kvNeed (decide (n 24 1 < 16) && decide (n 25 1 < 8) && decide (n 26 1 < 8) && decide (n 27 1 < 2) && n 28 4 = 0 &&
    n 40 24 = 0) 0x66
  let pool ← kvPool (n 24 1) 0x66
  kvNeed (decide (n 25 1 = pool.lp)) 0x66
  pure ⟨h, va, n 0 4, n 4 4, n 8 4, n 12 4, n 16 8, n 26 1, pool⟩
/-- Set Lc, Lt and nblk, as one atomic (R284). -/
def kvPutSeq (d : Seq) : Kv Unit := kvWrite d.va (natBytes 4 d.Lc ++ natBytes 4 d.Lt ++ natBytes 4 d.nblk)
/-- Block-table entry b. -/
def kvBlock (d : Seq) (b : Nat) : Kv Nat := kvNat (d.bt + 4 * b) 4
/-- Set a block-table entry. -/
def kvPutBlock (d : Seq) (b f : Nat) : Kv Unit := kvWrite (d.bt + 4 * b) (natBytes 4 f)

/-! ## Commands: names, order, progress (R284, 21 R423) -/

/-- How far a command has come: its phase (0 not begun, 1 kv-read of a split's source, 2 kv-write of a split's slots, 3 kv-write
of the token, 4 frames still to free, 5 transit, 6 lend request, 7 waiting for readers, 8 kv-read of kv.ret). -/
def Cmd.phase (c : Cmd) : Nat := c.st.getD 0 0
/-- The time the phase counts from. -/
def Cmd.since (c : Cmd) : Nat := c.st.getD 1 0
/-- What a command does next: nothing more, or wait in a phase. -/
inductive KvNext where
  | done
  | wait (st : List Nat)
/-- Wait in a phase from now on. -/
def kvWait (phase : Nat) (rest : List Nat) : Kv KvNext := do pure (.wait (phase :: (← get).gtc.toNat :: rest))

/-- Register operand k of a command: s[a], s[b], s[c] at acceptance. -/
def Cmd.arg (c : Cmd) (k : Nat) : Nat := (c.args.getD k 0).toNat
/-- A field of its request block. -/
def Cmd.reqField (c : Cmd) (o n : Nat) : Nat := fieldOf c.req o n

/-- What a command names: handles as (0, h) and frames as (1, f) (21 R423). -/
def Cmd.kvNames (c : Cmd) : List (Nat × Nat) :=
  let fr (k : Nat) : Nat × Nat := (1, c.arg k % 2 ^ 32)
  match c.op with
  | .kvApp _ =>
    (0, c.reqField 0 4 % 2 ^ 24) :: (if c.reqField 24 4 = noFrame then [] else [(1, c.reqField 24 4)])
  | .kvAttn _ => [(0, c.reqField 0 4 % 2 ^ 24)]
  | .kvFork _ => [(0, c.arg 0), (0, c.arg 1)]
  | .kvFree _ | .kvTrim _ | .kvClass _ | .kvClassAll _ => [(0, c.arg 0)]
  | .kvSeal _ | .kvUndo _ | .kvLen _ | .kvLenT _ | .kvPos _ => [(0, c.arg 0 % 2 ^ 24)]
  | .kvDemote _ | .kvPromote _ | .kvPin _ | .kvUnpin _ | .kvLend _ | .kvRet _ => [fr 0]
  | .kvGrant _ => [fr 1]
  | _ => []
/-- A command of the page-walk engines (14 R303). -/
def Cmd.isKv (c : Cmd) : Bool :=
  match c.op with
  | .kvAttn _ | .kvApp _ | .kvFork _ | .kvFree _ | .kvSeal _ | .kvUndo _ | .kvTrim _ | .kvClass _ | .kvClassAll _
  | .kvDemote _ | .kvPromote _ | .kvPin _ | .kvUnpin _ | .kvLend _ | .kvRet _ | .kvLen _ | .kvLenT _ | .kvPos _
  | .kvMerge _ | .kvGrant _ => true
  | _ => false
/-- No earlier kv command of its context or of its strand names what it names (R284, 19 R405, R406). -/
def CoreSt.kvFirst (k : CoreSt) (c : Cmd) : Bool :=
  k.cmds.all fun e => !(e.isKv && decide (e.id < c.id) && decide (e.ctx = c.ctx ∨ va56 e.strand = va56 c.strand) &&
    e.kvNames.any fun n => c.kvNames.contains n)
/-- What a cause without an address is reported with (11 R247). -/
def Cmd.kvIdent (c : Cmd) : Dword := BitVec.ofNat 64 ((c.kvNames.getD 0 (0, 0)).2)

/-- Send an engine message for a command to a lender and wait in a phase; kv-lend where no route leads to it (R299). -/
def kvSend (c : Cmd) (dst kind : Nat) (x : List Nat) (pay : List Byte) (phase : Nat) (rest : List Nat) : Kv KvNext := do
  kvNeed ((← get).isPeer dst) 0x68
  modify fun s => s.sendMsg (s.engineMsg dst kind ([0] ++ x ++ [c.id, 0]) pay)
  kvWait phase rest
/-- A kv-read of ranges of a borrowed frame (R297). -/
def kvReadMsg (c : Cmd) (d : Fdesc) (l : List (Nat × Nat)) (phase : Nat) (rest : List Nat) : Kv KvNext :=
  kvSend c d.peer 3 (d.remote :: l.flatMap fun x => [x.1, x.2]) [] phase rest
/-- A kv-write of ranges of a borrowed frame (R298); its bytes are counted as they are sent (25 R442). -/
def kvWriteMsg (c : Cmd) (d : Fdesc) (l : List (Nat × List Byte)) (phase : Nat) (rest : List Nat) : Kv KvNext := do
  let r ← kvSend c d.peer 4 (d.remote :: l.flatMap fun x => [x.1, x.2.length]) (l.flatMap (·.2)) phase rest
  modify fun s => s.countPool d.pool.id 7 (l.foldl (fun a x => a + x.2.length) 0)
  pure r
/-- The kv-return of a borrowed frame: sent, or held until a route returns, with an event record (R297, R299). -/
def kvReturn (d : Fdesc) : Kv Unit := do
  let s ← get
  if s.isPeer d.peer then
    set ((s.sendMsg (s.engineMsg d.peer 5 [d.remote] [])).countPool d.pool.id 4 1)
  else set ((s.setPart { s.part with returns := s.part.returns ++ [(d.peer, d.remote, d.pool.id)] }).logReceive 0x68)

/-! ## kv.app (R286, R287) -/

/-- The frame decision is made: the register receives its code, and the command notes that it has (R286). -/
def kvDecide (c : Cmd) (v : Dword) : Kv Unit := modify fun s =>
  let s := s.deliver c v
  s.setCore { s.core with cmds := s.core.cmds.map fun k => if k.id = c.id then { k with args := [v] } else k }
/-- A spare that kv.app may take: of the sequence's pool, of tier 4, or borrowed with refcount 0. -/
def kvSpare (id pool : Nat) : Kv Fdesc := do
  kvNeed (decide (id / 2 ^ 28 = pool)) 0x67
  let g ← kvFrame id
  kvNeed (g.tier = 4 || (g.tier = 2 && g.refcount = 0)) 0x67
  pure g
/-- The tier and location a spare takes: its HBM home, or its lender's (21 R424). -/
def Fdesc.placed (g : Fdesc) (key : Nat) : Fdesc :=
  if g.tier = 2 then { g with key := key } else { g with tier := 0, loc := g.home, key := key }

/-- The end of kv.app: fill, used and Lt (R286), then the frame a split freed. -/
def kvAppEnd (d : Seq) (id o t : Nat) (frees : List Nat) : Kv KvNext := do
  let f ← kvFrame id
  kvPutFrame { f with fill := max f.fill (o + 1), used := (← get).gtc.toNat }
  kvPutSeq { d with Lt := max d.Lt (t + 1) }
  if frees.isEmpty then pure .done else kvWait 4 (0 :: 0 :: frees)

/-- The information of a cause that a command keeps while frames are freed: one more than the number, or 0 for none. -/
def kvInfo (e : KvErr) : Nat := match e.2 with | some v => v.toNat + 1 | none => 0
/-- A stop while a frame that a split freed has still to be pushed: it is pushed first (phase 4 keeps the cause). -/
def kvLater (frees : List Nat) (k : Kv KvNext) : Kv KvNext :=
  tryCatch k fun e =>
    if frees.isEmpty then throw e
    else kvWait 4 (e.1 :: kvInfo e :: frees)

/-- The token written: K and V of layers lo to lo + n − 1 converted into the frame's slot (R286). The source bytes have been
read then (11 R246). -/
def kvToken (c : Cmd) (d : Seq) (id o t : Nat) (frees : List Nat) : Kv KvNext := kvLater frees do
  let f ← kvFrame id
  let s ← get
  let p := d.pool
  let lo := c.reqField 8 2
  let n := c.reqField 10 2
  let sf := c.reqField 20 1
  let code := if sf = 0 then 0 else sf
  let base := (c.rd.getD (0, 0)).1
  let w := p.heads * p.D
  let el (off i : Nat) : Nat := leNat (s.engBytes c (base + off + i * codeBytes code) (codeBytes code))
  let conv (off i : Nat) : Nat := (codeConv code (if p.hfmt = 0 then 1 else 2) 0 (el off i)).1
  -- st holds the offsets of K and V from the first byte of the region
  let src (kv : Nat) : Nat := c.st.getD (2 + kv) 0
  let parts := (List.range n).flatMap fun j => (List.range 2).map fun kv =>
    (p.vecOff p.hfmt (lo + j) kv (f.slot o) 0, codeVec p.hfmt ((List.range w).map fun i => conv (src kv) (j * w + i)))
  modify fun s => s.releaseRead c.id
  if f.tier = 2 then kvWriteMsg c f parts 3 ([src 0, src 1, id] ++ frees)
  else
    kvWriteRanges f.loc parts
    kvAppEnd d id o t frees

/-- What the first step of a split read of its source (R287), as the progress of the command keeps it. -/
def Fdesc.snap (f : Fdesc) : List Nat := [f.id, f.fill, f.surv, f.cls, f.fmt]
/-- The source of a split as its first step read it. -/
def kvSource (c : Cmd) : Kv Fdesc := do
  let n (k : Nat) : Nat := c.st.getD (4 + k) 0
  pure { ← kvFrame (n 0) with fill := n 1, surv := n 2, cls := n 3, fmt := n 4 }
/-- The split's last steps: the spare takes the place of the frame as the first step read it, and the frame loses a reader and a
reference (R287). -/
def kvSplitEnd (c : Cmd) (d : Seq) (f : Fdesc) (gid b o t : Nat) : Kv KvNext := do
  let g ← kvFrame gid
  kvPutFrame { g.placed (← get).keyId with
    refcount := 1, fill := f.fill, surv := f.surv, cls := f.cls, fmt := f.fmt, rung := 0, c := false }
  kvPutBlock d b gid
  let f ← kvFrame f.id
  kvPutFrame { f with readers := f.readers - 1, refcount := f.refcount - 1 }
  kvToken c d gid o t (if f.refcount = 1 then [f.id] else [])
/-- The split's slots written into the spare (R287). -/
def kvSplitCopy (c : Cmd) (d : Seq) (f : Fdesc) (gid b o t : Nat) (l : List (Nat × List Byte)) : Kv KvNext := do
  let g ← kvFrame gid
  if g.tier = 2 then
    if l.isEmpty then kvSplitEnd c d f gid b o t
    else kvWriteMsg c g l 2 ((c.st.drop 2).take 2 ++ f.snap)
  else
    kvWriteRanges g.home l
    kvSplitEnd c d f gid b o t

/-- The body of kv.app, from its phase; `pay` is what a message brought. -/
def kvAppBody (c : Cmd) (pay : List Byte) : Kv KvNext := do
  let t := c.reqField 4 4
  let spare := c.reqField 24 4
  let d ← kvSeq (c.reqField 0 4 % 2 ^ 24)
  let p := d.pool
  let b := t / p.P
  let o := t % p.P
  match c.phase with
  | 1 =>
    let f ← kvSource c
    modify fun s => s.countPool p.id 6 pay.length
    kvSplitCopy c d f spare b o t (cutRanges (p.slotRanges f.slots) pay)
  | 2 => do kvSplitEnd c d (← kvSource c) spare b o t
  | 3 => kvLater (c.st.drop 5) (kvAppEnd d (c.st.getD 4 0) o t (c.st.drop 5))
  | _ =>
    kvNeed (decide (d.Lc ≤ t) && decide (t ≤ d.Lt) && decide (b ≤ d.nblk)) 0x61
    kvNeed (decide (1 ≤ c.reqField 10 2) && decide (c.reqField 8 2 + c.reqField 10 2 ≤ p.layers)) 0x66
    if b = d.nblk then
      kvNeed (decide (b < d.cap)) 0x69
      if spare = noFrame then
        kvDecide c 3
        pure .done
      else
        let g ← kvSpare spare p.id
        kvPutFrame { g.placed (← get).keyId with
          refcount := 1, fill := 0, cls := d.dcls, rung := 0, fmt := p.hfmt, surv := 2 ^ 64 - 1, c := false }
        kvPutBlock d b spare
        let d := { d with nblk := b + 1 }
        kvPutSeq d
        kvDecide c 2
        kvToken c d spare o t []
    else
      let f ← kvFrame (← kvBlock d b)
      if f.tier = 5 then pure (.wait c.st)
      else
        kvNeed ((f.tier = 0 || f.tier = 2) && f.rung = 0) 0x62
        if 1 < f.refcount then
          if spare = noFrame then
            kvDecide c 3
            pure .done
          else
            let g ← kvSpare spare p.id
            kvPutFrame { f with readers := f.readers + 1, used := (← get).gtc.toNat }
            kvPutFrame { g with c := true }
            kvDecide c 1
            let l := p.slotRanges f.slots
            if f.tier = 2 && !l.isEmpty then kvReadMsg c f l 1 ((c.st.drop 2).take 2 ++ f.snap)
            else
              let src ← kvRanges f.loc l
              kvSplitCopy c d f spare b o t src
        else
          kvDecide c 0
          kvToken c d f.id o t []

/-! ## Lengths, sharing, classes, pins (R288, R290, R293, R296, R319) -/

/-- kv.seal (R288). -/
def kvSealBody (c : Cmd) : Kv KvNext := do
  let d ← kvSeq (c.arg 0 % 2 ^ 24)
  kvWrite (d.va + 32) (natBytes 8 (← get).gtc.toNat)
  kvPutSeq { d with Lc := d.Lt }
  pure .done
/-- kv.undo (R288). -/
def kvUndoBody (c : Cmd) : Kv KvNext := do
  let d ← kvSeq (c.arg 0 % 2 ^ 24)
  kvPutSeq { d with Lt := d.Lc }
  let P := d.pool.P
  (List.range d.nblk).forM fun b => do
    if d.Lc / P ≤ b then
      let f ← kvFrame (← kvBlock d b)
      kvPutFrame { f with fill := min P (d.Lc - b * P) }
  pure .done

/-- Undo the increments of a fork on the first frames of a list. -/
def kvUnfork (l : List Nat) : Kv Unit :=
  l.forM fun id => do
    let f ← kvFrame id
    kvPutFrame { f with refcount := f.refcount - 1 }
/-- Increment refcounts in order; what has been done so far is undone where one cannot be (R290). -/
def kvForkUp : List Nat → List Nat → Kv Unit
  | _, [] => pure ()
  | done, id :: l => do
    let f ← tryCatch (kvFrame id) fun e => do kvUnfork done; throw e
    if f.refcount = 65535 then
      kvUnfork done
      kvFault 0x64
    else
      kvPutFrame { f with refcount := f.refcount + 1 }
      kvForkUp (done ++ [id]) l
/-- A piece of work on one sequence: a cause without a name of its own is met on that sequence (11 R247). -/
def kvAt {α : Type} (handle : Nat) (k : Kv α) : Kv α :=
  tryCatch k fun e => throw (e.1, some (e.2.getD (BitVec.ofNat 64 handle)))
/-- kv.fork: the conditions on the target are causes met on the target (R290). -/
def kvForkBody (c : Cmd) : Kv KvNext := do
  let d ← kvSeq (c.arg 0)
  let k := (d.Lc + d.pool.P - 1) / d.pool.P
  let e ← kvAt (c.arg 1) do
    let e ← kvSeq (c.arg 1)
    kvNeed (decide (e.nblk = 0)) 0x60
    kvNeed (decide (e.pool.id = d.pool.id)) 0x66
    kvNeed (decide (k ≤ e.cap)) 0x69
    pure e
  let l ← (List.range k).mapM (kvBlock d)
  kvForkUp [] l
  (List.range k).forM fun b => kvPutBlock e b (l.getD b 0)
  kvPutSeq { e with Lc := d.Lc, Lt := d.Lc, nblk := k }
  pure .done

/-- Decrement the refcounts of blocks from b − 1 down to m: the blocks left, the frames that reached zero in this order, and the
cause that stopped it (R290, 21 R425). -/
def kvFreeDown (d : Seq) (m : Nat) : Nat → List Nat → Kv (Nat × List Nat × Option KvErr)
  | 0, fr => pure (0, fr, none)
  | b + 1, fr => do
    if b < m then pure (b + 1, fr, none)
    else
      let f ← tryCatch (do pure (Except.ok (← kvFrame (← kvBlock d b)))) fun e => pure (Except.error e)
      match f with
      | .error e => pure (b + 1, fr, some e)
      | .ok f =>
        if f.refcount = 0 then pure (b + 1, fr, some (0x64, none))
        else
          kvPutFrame { f with refcount := f.refcount - 1 }
          kvFreeDown d m b (if f.refcount = 1 then fr ++ [f.id] else fr)
/-- kv.free (R290): the frames that reached zero are freed one after another, and the command ends with the last. -/
def kvFreeBody (c : Cmd) : Kv KvNext := do
  let d ← kvSeq (c.arg 0)
  let m := c.arg 1 % 2 ^ 32
  kvNeed (decide (m ≤ d.nblk)) 0x61
  let r ← kvFreeDown d m d.nblk []
  let n := r.1
  kvPutSeq { d with nblk := n, Lt := min d.Lt (n * d.pool.P), Lc := min d.Lc (n * d.pool.P) }
  match r.2.1, r.2.2 with
  | [], none => pure .done
  | [], some e => throw e
  | l, some e => kvWait 4 (e.1 :: kvInfo e :: l)
  | l, none => kvWait 4 (0 :: 0 :: l)

/-- kv.class (R296). -/
def kvClassBody (c : Cmd) : Kv KvNext := do
  let d ← kvSeq (c.arg 0)
  kvNeed (decide (c.arg 1 < d.nblk)) 0x61
  let f ← kvFrame (← kvBlock d (c.arg 1))
  kvPutFrame { f with cls := c.arg 2 % 8 }
  pure .done
/-- kv.class.all (R296). -/
def kvClassAllBody (c : Cmd) : Kv KvNext := do
  let d ← kvSeq (c.arg 0)
  (List.range d.nblk).forM fun b => do
    let f ← kvFrame (← kvBlock d b)
    kvPutFrame { f with cls := c.arg 2 % 8 }
  kvWrite (d.va + 26) (natBytes 1 (c.arg 2 % 8))
  pure .done
/-- kv.pin and kv.unpin (R296). -/
def kvPinBody (c : Cmd) (up : Bool) : Kv KvNext := do
  let f ← kvFrame (c.arg 0)
  kvNeed (decide (f.pins ≠ if up then 255 else 0)) 0x64
  kvPutFrame { f with pins := if up then f.pins + 1 else f.pins - 1 }
  pure .done
/-- kv.grant: push frames one after another (R293); the frame a cause is met on is named. -/
def kvGrantBody (c : Cmd) : Kv KvNext := do
  (List.range (c.arg 2)).forM fun i => do
    let id := (c.arg 1 + i) % 2 ^ 32
    let f ← tryCatch (kvFrame id) fun e => throw (e.1, some (e.2.getD (BitVec.ofNat 64 id)))
    if f.refcount = 0 && f.tier = 4 then kvPush (c.arg 0) f else throw (0x67, some (BitVec.ofNat 64 id))
  pure .done
/-- kv.len and kv.len.t (14 R319). -/
def kvLenBody (c : Cmd) (tent : Bool) : Kv KvNext := do
  let d ← kvSeq (c.arg 0 % 2 ^ 24)
  modify fun s => s.deliver c (BitVec.ofNat 64 (if tent then d.Lt else d.Lc))
  pure .done
/-- kv.pos (14 R319). -/
def kvPosBody (c : Cmd) : Kv KvNext := do
  let d ← kvSeq (c.arg 0 % 2 ^ 24)
  let t := c.arg 1 % 2 ^ 32
  let b := t / d.pool.P
  let o := t % d.pool.P
  if d.nblk ≤ b then modify fun s => s.deliver c (BitVec.allOnes 64)
  else
    let f ← kvFrame (← kvBlock d b)
    modify fun s => s.deliver c (BitVec.ofNat 64 (f.id + f.slot o % 64 * 2 ^ 32 + f.tier * 2 ^ 40 +
      (if d.Lc ≤ t then 2 ^ 62 else 0) + (if f.present o then 2 ^ 63 else 0)))
  pure .done

/-! ## Moves between rungs, trims, lending (R289, R295, R296, R300) -/

/-- The tier whose home a frame's location is: HBM below the carve, else the pool's CXL range. -/
def Fdesc.locTier (f : Fdesc) : Nat := if f.loc < 0x00C000000000 then 0 else 1
/-- An append of this core has still to be acknowledged a kv-write of a frame: one of its token, or of a split's slots (R297,
R298). -/
def State.writesOut (s : State) (id : Nat) : Bool :=
  s.core.cmds.any fun c => match c.op with
    | .kvApp _ => (c.phase = 3 && c.st.getD 4 0 = id) || (c.phase = 2 && c.reqField 24 4 = id)
    | _ => false
/-- A transit begins: tier 5 (R289, R295). -/
def kvTransit (f : Fdesc) (rest : List Nat) : Kv KvNext := do
  kvPutFrame { f with tier := 5 }
  kvWait 5 (f.id :: rest)

/-- kv.trim up to its transit (R289). -/
def kvTrimBody (c : Cmd) : Kv KvNext := do
  let d ← kvSeq (c.arg 0)
  kvNeed (decide (c.arg 1 < d.nblk)) 0x61
  kvNeed (decide ((c.arg 1 + 1) * d.pool.P ≤ d.Lc)) 0x61
  let f ← kvFrame (← kvBlock d (c.arg 1))
  kvNeed (f.tier = 0 && f.rung = 0) 0x62
  kvNeed (f.refcount = 1) 0x63
  kvTransit f []
/-- The end of kv.trim: the surviving slots move down and survivor is set (R289). -/
def kvTrimEnd (c : Cmd) (f : Fdesc) : Kv Unit := do
  let p := f.pool
  let keep := (List.range f.fill).filter fun o => f.present o && (c.arg 2).testBit o
  let n := p.heads * p.vecLen p.hfmt
  (List.range (p.layers * 2)).forM fun i => do
    let at_ (slot : Nat) : Nat := f.loc + (i * p.P + slot) * n
    let l ← keep.mapM fun o => kvPhys (at_ (f.slot o)) n
    (List.range l.length).forM fun k => kvPhysWrite (at_ k) (l.getD k [])
  let mask := c.arg 2 ||| (2 ^ 64 - 2 ^ f.fill)
  kvPutFrame { f with surv := f.surv &&& mask, tier := 0 }

/-- kv.demote up to its transit (R296); a frame in transit is waited for. -/
def kvDemoteBody (c : Cmd) : Kv KvNext := do
  let f ← kvFrame (c.arg 0)
  if f.tier = 5 then pure (.wait c.st)
  else
    kvNeed (decide (f.cls ≠ 0) && f.pins = 0) 0x65
    kvNeed (decide (f.tier < 2)) 0x62
    kvNeed (decide (f.rung + 1 ≤ c.arg 1) && decide (c.arg 1 ≤ 3)) 0x61
    kvNeed (f.pool.rung f.cls (c.arg 1)).isSome 0x66
    kvTransit f [c.arg 1]
/-- kv.promote up to its transit (R296). -/
def kvPromoteBody (c : Cmd) : Kv KvNext := do
  let f ← kvFrame (c.arg 0)
  if f.tier = 5 then pure (.wait c.st)
  else
    kvNeed (decide (f.tier < 2)) 0x62
    if f.rung = 0 then pure .done
    else
      kvNeed (f.pool.rung f.cls 0).isSome 0x66
      kvTransit f [0]
/-- The end of a move: every present slot is read, converted and written at the target home, and the descriptor follows (R295).
-/
def kvMove (f : Fdesc) (rung : Nat) : Kv Unit := do
  let p := f.pool
  match p.rung f.cls rung with
  | none => kvFault 0x66
  | some (t, fmt) =>
    if t = 4 then
      modify fun s => s.countPool p.id 2 1
      kvPutFrame { f with surv := 0, tier := 0, fmt := p.hfmt, rung := rung, loc := f.home }
    else
      let v := (List.range p.layers).flatMap fun l => (List.range 2).flatMap fun kv =>
        (List.range f.slots).flatMap fun sl => (List.range p.heads).map fun h => (l, kv, sl, h)
      let data ← v.mapM fun (l, kv, sl, h) => do
        let el ← kvPhys (f.loc + p.vecOff f.fmt l kv sl h) (p.vecLen f.fmt)
        let sc ← kvPhys (f.loc + p.scaleOff f.fmt l kv sl h) (p.scaleLen f.fmt)
        if f.locTier = 1 then modify fun s => s.countPool p.id 5 (el.length + sc.length)
        pure (vecVals f.fmt el sc)
      let home := if t = 0 then f.home else f.cxlHome
      (List.range v.length).forM fun i => do
        let (l, kv, sl, h) := v.getD i (0, 0, 0, 0)
        let e := vecEnc fmt (data.getD i [])
        kvPhysWrite (home + p.vecOff fmt l kv sl h) e.1
        kvPhysWrite (home + p.scaleOff fmt l kv sl h) e.2
      modify fun s => s.countPool p.id (if rung = 0 then 1 else 0) 1
      kvPutFrame { f with tier := t, fmt := fmt, rung := rung, loc := home, key := (← get).keyId }

/-- kv.lend: a lend request to a peer, and the wait for its reply (R297, R300). -/
def kvLendBody (c : Cmd) : Kv KvNext := do
  let f ← kvFrame (c.arg 0)
  kvNeed (f.tier = 4) 0x62
  let r ← kvSend c (c.arg 1 % 2 ^ 15) 2 (f.pool.id :: f.pool.geometry ++ [f.id]) [] 6 []
  match r with
  | .wait (p :: _ :: l) => pure (.wait (p :: c.since :: l))
  | r => pure r
/-- A reply to kv.lend: code 0 grants the remote frame (R297, R300). -/
def kvLendReply (c : Cmd) (code dev remote : Nat) : Kv KvNext := do
  let f ← kvFrame (c.arg 0)
  if code = 0 then
    modify fun s => s.countPool f.pool.id 3 1
    kvPutFrame { f with tier := 2, refcount := 0, rung := 0, fmt := f.pool.hfmt, loc := dev * 2 ^ 32 + remote }
  modify fun s => s.deliver c (BitVec.ofNat 64 code)
  pure .done

/-- kv.ret: with refcount 0 the frame is returned once no engine streams it and every kv-write of it has been acknowledged;
otherwise it is in transit until its slots have been fetched, whatever its refcount becomes (R291, R297, R300). The slots are
those that were present when the kv-read was sent; the command keeps their number. -/
def kvRetBody (c : Cmd) (pay : List Byte) : Kv KvNext := do
  let f ← kvFrame (c.arg 0)
  match c.phase with
  | 8 =>
    modify fun s => s.countPool f.pool.id 6 pay.length
    kvWriteRanges f.home (cutRanges (f.pool.slotRanges (c.st.getD 2 0)) pay)
    kvPutFrame { f with tier := 0, loc := f.home, key := (← get).keyId }
    kvReturn f
    pure .done
  | ph =>
    kvNeed (f.tier = 2 || (ph = 7 && f.tier = 5)) 0x62
    kvNeed ((← get).isPeer f.peer) 0x68
    if f.tier = 2 && f.refcount = 0 then
      if f.readers ≠ 0 || (← get).writesOut f.id then kvWait 7 []
      else
        kvPutFrame { f with tier := 4 }
        kvReturn f
        pure .done
    else
      kvPutFrame { f with tier := 5 }
      if f.readers ≠ 0 then kvWait 7 []
      else
        let l := f.pool.slotRanges f.slots
        if l.isEmpty then
          kvPutFrame { f with tier := 0, loc := f.home }
          kvReturn f
          pure .done
        else kvReadMsg c f l 8 [f.slots]

/-! ## Acceptance -/

/-- A kv command that names no scratchpad is accepted; its register is outstanding when it returns one (R72). -/
def State.kvAccept (s : State) (op : Instr) (args : List Dword) : State :=
  let s := s.accept op args [] none none false [0, s.gtc.toNat]
  match scalarWrite op with
  | some d => s.owes d
  | none => s
/-- The three register operands. -/
def State.eArgs (s : State) (f : EF) : List Dword := [s.x.sreg f.a.toNat, s.x.sreg f.b.toNat, s.x.sreg f.c.toNat]

/-- The data of kv.app in bytes for each of K and V, when the block's handle and layers are sound at acceptance. -/
def State.appLen (s : State) (req : List Byte) : Option Nat :=
  match (kvSeq (fieldOf req 0 4 % 2 ^ 24)).run none s with
  | (.ok d, _) =>
    let n := fieldOf req 10 2
    if 1 ≤ n && decide (fieldOf req 8 2 + n ≤ d.pool.layers) then
      some (n * d.pool.heads * d.pool.D * (if fieldOf req 20 1 = 0 then 4 else 2))
    else none
  | _ => none

/-- kv.app (R286): the request block at issue, the read region over the block and the data. -/
def execKvApp (f : EF) (s : State) : Out :=
  .next (match s.request (s.x.sreg f.a.toNat).toNat with
    | .error t => t
    | .ok q =>
      if fieldOf q 3 1 ≠ 0 || decide (2 < fieldOf q 20 1) || fieldOf q 21 3 ≠ 0 || fieldOf q 28 36 ≠ 0 then s.cause 0x66
      else
        match s.pitch with
        | none => s
        | some p =>
          let n := (s.appLen q).getD 0
          let blk := p.base * 128 + (s.x.sreg f.a.toNat).toNat
          let k := fieldOf q 12 4
          let v := fieldOf q 16 4
          if n ≠ 0 && decide (p.lines * 128 < k + n) then s.causeI 8 0x40 (BitVec.ofNat 64 (k % 2 ^ 21))
          else if n ≠ 0 && decide (p.lines * 128 < v + n) then s.causeI 8 0x40 (BitVec.ofNat 64 (v % 2 ^ 21))
          else
            let ka := p.base * 128 + k
            let va := p.base * 128 + v
            let lo := if n = 0 then blk else min blk (min ka va)
            let hi := if n = 0 then blk + 64 else max (blk + 64) (max (ka + n) (va + n))
            let s := s.accept (.kvApp f) [] q (some (lo, hi - lo)) none false [0, s.gtc.toNat, ka - lo, va - lo]
            s.owes f.c)
/-- kv.fork (R290). -/
def execKvFork (f : EF) (s : State) : Out := .next (s.kvAccept (.kvFork f) (s.eArgs f))
/-- kv.free (R290). -/
def execKvFree (f : EF) (s : State) : Out := .next (s.kvAccept (.kvFree f) (s.eArgs f))
/-- kv.seal (R288). -/
def execKvSeal (f : EF) (s : State) : Out := .next (s.kvAccept (.kvSeal f) (s.eArgs f))
/-- kv.undo (R288). -/
def execKvUndo (f : EF) (s : State) : Out := .next (s.kvAccept (.kvUndo f) (s.eArgs f))
/-- kv.trim (R289). -/
def execKvTrim (f : EF) (s : State) : Out := .next (s.kvAccept (.kvTrim f) (s.eArgs f))
/-- kv.class (R296). -/
def execKvClass (f : EF) (s : State) : Out := .next (s.kvAccept (.kvClass f) (s.eArgs f))
/-- kv.class.all (R296). -/
def execKvClassAll (f : EF) (s : State) : Out := .next (s.kvAccept (.kvClassAll f) (s.eArgs f))
/-- kv.demote (R296). -/
def execKvDemote (f : EF) (s : State) : Out := .next (s.kvAccept (.kvDemote f) (s.eArgs f))
/-- kv.promote (R296). -/
def execKvPromote (f : EF) (s : State) : Out := .next (s.kvAccept (.kvPromote f) (s.eArgs f))
/-- kv.pin (R296). -/
def execKvPin (f : EF) (s : State) : Out := .next (s.kvAccept (.kvPin f) (s.eArgs f))
/-- kv.unpin (R296). -/
def execKvUnpin (f : EF) (s : State) : Out := .next (s.kvAccept (.kvUnpin f) (s.eArgs f))
/-- kv.lend (R300). -/
def execKvLend (f : EF) (s : State) : Out := .next (s.kvAccept (.kvLend f) (s.eArgs f))
/-- kv.ret (R300). -/
def execKvRet (f : EF) (s : State) : Out := .next (s.kvAccept (.kvRet f) (s.eArgs f))
/-- kv.len (14 R319). -/
def execKvLen (f : EF) (s : State) : Out := .next (s.kvAccept (.kvLen f) (s.eArgs f))
/-- kv.len.t (14 R319). -/
def execKvLenT (f : EF) (s : State) : Out := .next (s.kvAccept (.kvLenT f) (s.eArgs f))
/-- kv.pos (14 R319). -/
def execKvPos (f : EF) (s : State) : Out := .next (s.kvAccept (.kvPos f) (s.eArgs f))
/-- kv.grant: privileged; the count is 1 to 1,024 (R293). -/
def execKvGrant (f : EF) (s : State) : Out :=
  .next (s.needPriv fun s =>
    let n := (s.x.sreg f.c.toNat).toNat
    if n = 0 || decide (1024 < n) then s.cause 0x66 else s.kvAccept (.kvGrant f) (s.eArgs f))

end Sys2Proof.Machine
end

