-- ==== Sys2Proof/Machine/Special.lean ====
section
/-! DEFINITION. The special-function instructions of unit F (08 R184 to R189). -/

namespace Sys2Proof.Machine

/-! ## The special-function unit (08 R184 to R189) -/

/-- The magnitude codes within `b` ulp (1 or 2) of a value that lies just above m × 2^e, ascending (R185): its two neighbours,
and those beyond them, whose distance halves below a power of two and doubles above the next. -/
def sfuCodes (b m : Nat) (e : Int) : List Nat :=
  let lo := (Fmt.f32.enc 1 (.fin false (2 * m + 1) (e - 1))).1
  let upper := decide ((Fmt.f32.enc 0 (.fin false (2 * m + 1) (e - 1))).1 ≠ lo)
  let start := decide (lo % 2 ^ 23 = 0) && decide (2 ^ 23 < lo)
  let last := decide ((lo + 1) % 2 ^ 23 = 0) && decide (2 ^ 23 ≤ lo)
  let low := if b = 1 then (if start && !upper then 1 else 0)
    else if start then (if upper then 2 else 3) else min 1 lo
  let high := if b = 1 || last then 1 else 2
  (List.range (low + high + 1)).map (lo - low + ·)
/-- A result with its sign and flags: NX, and UF below the normal range (R184). -/
def sfuResult (neg : Bool) (r : Nat) : Nat × Nat := (Fmt.f32.sgn neg + r, fNX + (if r < 0x00800000 then fUF else 0))
/-- One of the codes, as Config has it for the operand (log 9). -/
def sfuPick (fn x : Nat) (neg : Bool) (l : List Nat) : Nat × Nat :=
  sfuResult neg (l.getD ((Config.sfu fn (BitVec.ofNat 32 x)).toNat % l.length) 0)

/-- The place of an FP32 code in the order of the values. -/
def fkey (x : Nat) : Nat := if x < 2 ^ 31 then 2 ^ 31 + x else 2 ^ 32 - 1 - x
/-- The code that a non-decreasing function gives an operand, among the codes its bound allows in ascending order: the highest
whose place Config has at or below that of the operand, else the lowest. Every non-decreasing choice arises so, and only such
(R185, log 9). -/
def sfuRise (fn x : Nat) (l : List Nat) : Nat :=
  (l.reverse.find? fun c => decide ((Config.sfu fn (BitVec.ofNat 32 c)).toNat ≤ fkey x)).getD (l.headD 0)
/-- The codes of a rising function: no lower one than where the code below the value has the same codes, so that their ends rise
too. -/
def sfuRising (b m : Nat) (e : Int) : List Nat :=
  let lo := (Fmt.f32.enc 1 (.fin false (2 * m + 1) (e - 1))).1
  (sfuCodes b m e).filter fun c => decide (lo ≤ c + b)

/-- A power of two as a value: its exponent. -/
def pow2Exp (m : Nat) (e : Int) : Option Int := if 2 ^ Nat.log2 m = m then some (e + Nat.log2 m) else none

/-- rcp (R185, R186): subnormal or zero for a magnitude above 2^126. -/
def sfRcp (x : Nat) : Nat × Nat :=
  match Fmt.f32.dec x with
  | .nan sig => (Fmt.f32.nanBits, if sig then fNV else 0)
  | .inf n => (Fmt.f32.sgn n, 0)
  | .fin n m e =>
    if m = 0 then (Fmt.f32.sgn n + 0x7F800000, fDZ)
    else match pow2Exp m e with
      | some k => Fmt.f32.enc 0 (.fin n 1 (-k))
      | none =>
        if e + Nat.log2 m < -128 then (Fmt.f32.sgn n + 0x7F800000, fOF + fNX)
        else
          let l := sfuCodes 1 (2 ^ 60 / m) (-60 - e)
          sfuPick 2 (x % 2 ^ 31) n (if 126 ≤ e + Nat.log2 m then l.filter (· < 0x00800000) else l)

/-- The root under-estimate of m × 2^e with 40 or more bits: mantissa, exponent, exact or not. -/
def rootOf (m : Nat) (e : Int) : Nat × Int × Bool :=
  let sh : Int := if e % 2 = 0 then 80 else 81
  let v := m * 2 ^ sh.toNat
  let r := isqrt v
  (r, (e - sh) / 2, decide (r * r = v))

/-- sqrt: correctly rounded in RNE (R185, R186). -/
def sfSqrt (x : Nat) : Nat × Nat :=
  match Fmt.f32.dec x with
  | .nan sig => (Fmt.f32.nanBits, if sig then fNV else 0)
  | .inf n => if n then (Fmt.f32.nanBits, fNV) else (0x7F800000, 0)
  | .fin n m e =>
    if m = 0 then (x, 0)
    else if n then (Fmt.f32.nanBits, fNV)
    else
      let r := rootOf m e
      if r.2.2 then Fmt.f32.enc 0 (.fin false r.1 r.2.1) else Fmt.f32.enc 0 (.fin false (2 * r.1 + 1) (r.2.1 - 1))

/-- rsq (R185, R186): exact for a power of four. -/
def sfRsq (x : Nat) : Nat × Nat :=
  match Fmt.f32.dec x with
  | .nan sig => (Fmt.f32.nanBits, if sig then fNV else 0)
  | .inf n => if n then (Fmt.f32.nanBits, fNV) else (0, 0)
  | .fin n m e =>
    if m = 0 then (Fmt.f32.sgn n + 0x7F800000, fDZ)
    else if n then (Fmt.f32.nanBits, fNV)
    else match pow2Exp m e with
      | some k => if k % 2 = 0 then Fmt.f32.enc 0 (.fin false 1 (-k / 2))
        else sfuPick 3 x false (sfuCodes 1 (isqrt (2 ^ 121)) (-60 - (k + 1) / 2))
      | none =>
        -- 1/√(m·2^e) from the root of 2^200/m with an even exponent
        let d : Int := if e % 2 = 0 then 200 else 201
        sfuPick 3 x false (sfuCodes 1 (isqrt (2 ^ d.toNat / m)) ((-d - e) / 2))

/-! Values to 128 fraction bits, every quotient rounded down: what is lost stays below `fxSlack` units (log 9). -/

/-- ln 2. -/
def fxLn2 : Nat := 0xb17217f7d1cf79abc9e3b39803f2f6af
/-- π/2 to 200 fraction bits. -/
def fxHalfPi : Nat := 0x1921fb54442d18469898cc51701b839a252049c1114cf98e804
/-- A bound on the error of the series below, in units of their last place. -/
def fxSlack : Nat := 1024
/-- m × 2^e to p fraction bits. -/
def fxOf (p : Nat) (m : Nat) (e : Int) : Nat := (roundTo 1 false m e (-p)).1
/-- The series of e^r from its k-th term on, where t is that term. -/
def fxExpGo (r : Nat) : Nat → Nat → Nat → Nat
  | 0, _, _ => 0
  | n + 1, k, t => t + fxExpGo r n (k + 1) (t * r / 2 ^ 128 / (k + 1))
/-- e^r for r below 1. -/
def fxExp (r : Nat) : Nat := fxExpGo r 40 0 (2 ^ 128)
/-- e^-x as w × 2^-(128 + n), by x = n ln 2 + r. -/
def fxExpNeg (x : Nat) : Nat × Nat := (fxExp (fxLn2 - x % fxLn2), x / fxLn2 + 1)
/-- The series of atanh from the term z^k / k on, where t is z^k. -/
def fxAtanhGo (z2 : Nat) : Nat → Nat → Nat → Nat
  | 0, _, _ => 0
  | n + 1, k, t => t / k + fxAtanhGo z2 n (k + 2) (t * z2 / 2 ^ 128)
/-- |log2 (m / 2^q)| by 2 atanh of |m − 2^q| / (m + 2^q), for a quotient between 1/2 and 2. -/
def fxLog2 (m q : Nat) : Nat :=
  let d := if 2 ^ q ≤ m then m - 2 ^ q else 2 ^ q - m
  let z := d * 2 ^ 128 / (m + 2 ^ q)
  2 * fxAtanhGo (z * z / 2 ^ 128) 40 1 z * 2 ^ 128 / fxLn2
/-- An alternating series by pairs of terms from t = r^k / k! on, to 200 fraction bits: sin from k = 1, cos from k = 0. -/
def fxTrigGo (r2 : Nat) : Nat → Nat → Nat → Nat
  | 0, _, _ => 0
  | n + 1, k, t =>
    let u := t * r2 / 2 ^ 200 / ((k + 1) * (k + 2))
    (t - u) + fxTrigGo r2 n (k + 4) (u * r2 / 2 ^ 200 / ((k + 3) * (k + 4)))

/-- exp2 (R185, R186): an integral x from −149 to 127 is exact. -/
def sfExp2 (x : Nat) : Nat × Nat :=
  match Fmt.f32.dec x with
  | .nan sig => (Fmt.f32.nanBits, if sig then fNV else 0)
  | .inf n => if n then (0, 0) else (0x7F800000, 0)
  | .fin n m e =>
    if m = 0 then (0x3F800000, 0)
    else
      let r := roundTo 1 n m e 0
      if !n && decide (128 ≤ r.1) then (0x7F800000, fOF + fNX)
      else if !r.2 && (!n || decide (r.1 ≤ 149)) then
        Fmt.f32.enc 0 (.fin false 1 (if n then -(r.1 : Int) else r.1))
      else
        let f := fxOf 128 m e % 2 ^ 128
        let g := if n then 2 ^ 128 - 1 - f else f
        let w := fxExp (g * fxLn2 / 2 ^ 128)
        let k : Int := if n then -(r.1 : Int) - 1 else r.1
        let l := if k < -200 then [0, 1] else
          (sfuCodes 1 (2 * w) (k - 129)).filter fun c => decide ((Fmt.f32.enc 1 (.fin false (2 * w + 1) (k - 129))).1 ≤ c)
        sfuResult false (sfuRise 0 x l)

/-- log2 (R185, R186): exact for a power of two, so that between two of them a result lies between theirs; no result is below
the normal range. -/
def sfLog2 (x : Nat) : Nat × Nat :=
  match Fmt.f32.dec x with
  | .nan sig => (Fmt.f32.nanBits, if sig then fNV else 0)
  | .inf n => if n then (Fmt.f32.nanBits, fNV) else (0x7F800000, 0)
  | .fin n m e =>
    if m = 0 then (0xFF800000, fDZ)
    else if n then (Fmt.f32.nanBits, fNV)
    else match pow2Exp m e with
      | some k => Fmt.f32.enc 0 (ofInt k)
      | none =>
        -- m × 2^e = 2^k × a with a between 2/3 and 4/3
        let q := if 3 * m < 4 * 2 ^ Nat.log2 m then Nat.log2 m else Nat.log2 m + 1
        let k : Int := e + q
        let l : Int := fxLog2 m q
        let v : Int := k * 2 ^ 128 + (if m < 2 ^ q then -l else l)
        let neg := decide (v < 0)
        let o : Int := e + Nat.log2 m
        let whole (i : Int) : Nat := (Fmt.f32.enc 0 (ofInt i)).1
        let lo := if neg then -o - 1 else o
        let l := (sfuCodes 1 v.natAbs (-128)).filter fun c => decide (whole lo ≤ c) && decide (c ≤ whole (lo + 1))
        sfuResult false (sfuRise 1 x (if neg then l.reverse.map (· + 2 ^ 31) else l))

/-- sin and cos of a finite x other than 0 with |x| < 2^20: x = q π/2 + r, the quadrant chooses the series and the sign (R187);
the arguments are the parity of the function (1 for cos) and |x|. -/
def sfQuadrant (c m : Nat) (e : Int) : Bool × Nat :=
  let v := fxOf 200 m e
  let q := (2 * v + fxHalfPi) / (2 * fxHalfPi)
  let low := decide (v < q * fxHalfPi)
  let r := if low then q * fxHalfPi - v else v - q * fxHalfPi
  let r2 := r * r / 2 ^ 200
  let k := (q + c) % 4
  let y := if k % 2 = 0 then fxTrigGo r2 16 1 r else fxTrigGo r2 16 0 (2 ^ 200)
  (decide (2 ≤ k) != (decide (k % 2 = 0) && low), y - fxSlack)
/-- sin and cos (R185 to R187): RR for a finite magnitude of 2^20 or more, with the NX of every finite operand but zero. -/
def sfTrig (cosine : Bool) (x : Nat) : Nat × Nat :=
  match Fmt.f32.dec x with
  | .nan sig => (Fmt.f32.nanBits, if sig then fNV else 0)
  | .inf _ => (Fmt.f32.nanBits, fNV)
  | .fin n m e =>
    if m = 0 then (if cosine then (0x3F800000, 0) else (x, 0))
    else if 20 ≤ e + Nat.log2 m then (Fmt.f32.nanBits, fRR + fNX)
    else
      let y := sfQuadrant (if cosine then 1 else 0) m e
      sfuPick (if cosine then 6 else 5) (x % 2 ^ 31) (if cosine then y.1 else y.1 != n) (sfuCodes 2 y.2 (-200))

/-- tanh (R185, R186): a short series below 2^-10, above it (1 − u) / (1 + u) with u = e^-2|x|. -/
def sfTanh (x : Nat) : Nat × Nat :=
  match Fmt.f32.dec x with
  | .nan sig => (Fmt.f32.nanBits, if sig then fNV else 0)
  | .inf n => (Fmt.f32.sgn n + 0x3F800000, 0)
  | .fin n m e =>
    if m = 0 then (x, 0)
    else if e + Nat.log2 m < -10 then
      let q := fxOf 128 (m * m) (2 * e)
      let r := 2 ^ 128 - q / 3 + 2 * (q * q / 2 ^ 128) / 15 - 17 * (q * q / 2 ^ 128 * q / 2 ^ 128) / 315
      sfuResult n (sfuRise 7 (x % 2 ^ 31) (sfuRising 2 (m * (r - fxSlack)) (e - 128)))
    else
      let w := fxExpNeg (fxOf 128 m (e + 1))
      let u := w.1 / 2 ^ min w.2 300
      sfuResult n (sfuRise 7 (x % 2 ^ 31) (sfuRising 2 ((2 ^ 128 - u) * 2 ^ 128 / (2 ^ 128 + u) - fxSlack) (-128)))

/-- sigm (R185, R186): with u = e^-|x|, 1 / (1 + u) for x > 0, not below 0.5, and u / (1 + u) for x < 0. -/
def sfSigm (x : Nat) : Nat × Nat :=
  match Fmt.f32.dec x with
  | .nan sig => (Fmt.f32.nanBits, if sig then fNV else 0)
  | .inf n => (if n then 0 else 0x3F800000, 0)
  | .fin n m e =>
    if m = 0 then (0x3F000000, 0)
    else
      let w := if 9 ≤ e + Nat.log2 m then (2 ^ 128, 600) else fxExpNeg (fxOf 128 m e)
      let u := w.1 / 2 ^ w.2
      if n then sfuResult false (sfuRise 8 x (sfuRising 2 ((w.1 - fxSlack) * 2 ^ 128 / (2 ^ 128 + u)) (-128 - w.2)))
      else sfuResult false (sfuRise 8 x ((sfuRising 2 (2 ^ 256 / (2 ^ 128 + min (2 ^ 128) (u + fxSlack))) (-128)).filter
        fun c => decide (0x3F000000 ≤ c)))

/-- An F op on the active lanes, with its latency (R189). -/
def fop (f : VR) (lat : Nat) (g : Nat → Nat × Nat) (s : State) : Out :=
  let r := s.srcA .F f
  .next (r.1.landFl .F f (s.active f) 32 lat fun i _ => g (r.2.at i).toNat)
/-- exp2 (R189). -/
def execExp2 (f : VR) (s : State) : Out := fop f 6 sfExp2 s
/-- log2 (R189). -/
def execLog2 (f : VR) (s : State) : Out := fop f 6 sfLog2 s
/-- rcp (R189). -/
def execRcp (f : VR) (s : State) : Out := fop f 8 sfRcp s
/-- rsq (R189). -/
def execRsq (f : VR) (s : State) : Out := fop f 8 sfRsq s
/-- sqrt (R189). -/
def execSqrt (f : VR) (s : State) : Out := fop f 10 sfSqrt s
/-- sin (R189). -/
def execSin (f : VR) (s : State) : Out := fop f 12 (sfTrig false) s
/-- cos (R189). -/
def execCos (f : VR) (s : State) : Out := fop f 12 (sfTrig true) s
/-- tanh (R189). -/
def execTanh (f : VR) (s : State) : Out := fop f 10 sfTanh s
/-- sigm (R189). -/
def execSigm (f : VR) (s : State) : Out := fop f 10 sfSigm s

end Sys2Proof.Machine
end

