-- ==== Sys2Proof/Machine/Attention.lean ====
section
/-! DEFINITION. Attention by handle (14 R305 to R320): the state block, the merge of partials, the fold of a page-head unit,
and the walk of a kv.attn. -/

namespace Sys2Proof.Machine

/-! ## Partials (R307, R308) -/

/-- A partial: m, l and O. -/
structure Partial where
  m : Word
  l : Word
  o : List Word
  deriving DecidableEq, Repr
/-- −∞ in FP32. -/
abbrev f32NegInf : Word := 0xFF800000#32
/-- The default NaN in FP32. -/
abbrev f32Nan : Word := 0x7FC00000#32
/-- The value of an FP32 word. -/
def f32v (w : Word) : Fp := Fmt.f32.dec w.toNat
/-- An exact value rounded to FP32 in RNE. -/
def f32r (x : Fp) : Word := BitVec.ofNat 32 (Fmt.f32.enc 0 x).1
/-- The identity of D dimensions (R312). -/
def Partial.identity (D : Nat) : Partial := ⟨f32NegInf, 0, List.replicate D 0⟩
/-- Every element the default NaN. -/
def Partial.nan (D : Nat) : Partial := ⟨f32Nan, f32Nan, List.replicate D f32Nan⟩
/-- exp2 of the difference of two FP32 values, rounded first. -/
def exp2Diff (x m : Word) : Word :=
  BitVec.ofNat 32 (sfExp2 (f32r (Fp.sum 0 [f32v x, (f32v m).neg]).1).toNat).1

/-- The merge of two partials (R308): a side with m = −∞ contributes nothing; a NaN row stays one (R307). -/
def Partial.merge (D : Nat) (x y : Partial) : Partial :=
  if (f32v x.m).isNan || (f32v y.m).isNan then Partial.nan D
  else if x.m = f32NegInf && y.m = f32NegInf then Partial.identity D
  else
    let m := f32r (Fp.pick true (f32v x.m) (f32v y.m)).1
    let sides := [x, y].filter fun p => p.m ≠ f32NegInf
    let w (p : Partial) : Fp := f32v (exp2Diff p.m m)
    let comb (g : Partial → Word) : Word := f32r (Fp.sum 0 (sides.map fun p => ((f32v (g p)).mul (w p)).1)).1
    ⟨m, comb (·.l), (List.range D).map fun d => comb fun p => p.o.getD d 0⟩

/-- A key or query element and its operand format: 1 BF16, 2 FP16, as codes of R260. -/
abbrev Codes := List Nat
/-- The score of a query and a key (R307): R266 from +0, and its flags. -/
def score (f : Nat) (q k : Codes) : Word × Nat := mxDot f 0 ((q.zip k).map fun x => ((127, x.1), (127, x.2)))

/-- The format in which p is rounded, and the group and window of O: the frame's FP8 format, or BF16 (R307). -/
def ppFmt (frameFmt : Nat) : Fmt := if frameFmt = 2 then .e4m3 else if frameFmt = 3 then .e5m2 else .bf16

/-- The page partial of one row from its qualifying keys and values, with the flags of R266 and whether a NaN or +∞ score was
met (R307). -/
def pagePartial (D frameFmt f : Nat) (q : Codes) (kv : List (Codes × List Fp)) : Partial × Nat × Bool :=
  let sc := kv.map fun x => score f q x.1
  let fl := sc.foldl (fun a x => a ||| x.2) 0
  if sc.isEmpty then (Partial.identity D, 0, false)
  else if sc.any fun x => (f32v x.1).isNan || x.1 = 0x7F800000#32 then (Partial.nan D, fl, true)
  else
    let m := sc.foldl (fun a x => f32r (Fp.pick true (f32v a) (f32v x.1)).1) f32NegInf
    let fmt := ppFmt frameFmt
    let pp := sc.map fun x => fmt.dec (fmt.enc 0 (f32v (exp2Diff x.1 m))).1
    let l := f32r (Fp.sum 0 pp).1
    let fp8 := frameFmt = 2 || frameFmt = 3
    let o := (List.range D).map fun d =>
      fpDot (if fp8 then 4 else 2) (if fp8 then 36 else 48) 0
        ((pp.zip kv).map fun x => let v := x.2.2.getD d (.fin false 0 0); (x.1, v, (x.1.mul v).1))
    (⟨m, l, o.map (·.1)⟩, o.foldl (fun a x => a ||| x.2) fl, false)

/-! ## The state block (R311) -/

/-- Bytes of a row record. -/
def rowLen (D : Nat) : Nat := 128 + 4 * D
/-- A row of a state block at a physical address. -/
def State.attnRow (s : State) (sb D r : Nat) : Partial :=
  let a := sb + 128 + r * rowLen D
  let w (o : Nat) : Word := BitVec.ofNat 32 (s.padNat (a + o) 4)
  ⟨w 0, w 4, (List.range D).map fun d => w (128 + 4 * d)⟩
/-- Write it. -/
def State.setAttnRow (s : State) (sb D r : Nat) (p : Partial) : State :=
  let a := sb + 128 + r * rowLen D
  (s.engWrite a (natBytes 4 p.m.toNat ++ natBytes 4 p.l.toNat)).engWrite (a + 128) (p.o.flatMap fun w => natBytes 4 w.toNat)

/-- The fields of a kv.attn from its request block (R317). -/
def Cmd.aLo (c : Cmd) : Nat := c.reqField 4 4
def Cmd.aHi (c : Cmd) : Nat := c.reqField 8 4
def Cmd.aLayer (c : Cmd) : Nat := c.reqField 12 2
def Cmd.aHd0 (c : Cmd) : Nat := c.reqField 14 1
def Cmd.aNh (c : Cmd) : Nat := c.reqField 15 1
def Cmd.aNq (c : Cmd) : Nat := c.reqField 16 1
def Cmd.aQk (c : Cmd) : Nat := c.reqField 17 1 % 16
def Cmd.aQv (c : Cmd) : Nat := c.reqField 17 1 / 16
/-- What acceptance fixed: the query's and the state block's physical addresses, D, P; then Lc. -/
def Cmd.aQuery (c : Cmd) : Nat := c.st.getD 2 0
def Cmd.aState (c : Cmd) : Nat := c.st.getD 3 0
def Cmd.aD (c : Cmd) : Nat := c.st.getD 4 0
def Cmd.aP (c : Cmd) : Nat := c.st.getD 5 0
/-- The bank that attn.step uses. -/
def Cmd.aBank (c : Cmd) : Nat :=
  match c.op with
  | .kvAttn f => (f.i.extractLsb' 0 1).toNat
  | _ => 0

/-- The list of blocks a header keeps, oldest first: the deferred ones, then those that a continuation has still to fetch again,
which it does in the order of the list (R311, R312). -/
def Attn.blocks (a : Attn) : List Nat := a.listed.map (·.block) ++ a.again
/-- The 128 bytes of the header (R311). -/
def attnHeader (c : Cmd) (a : Attn) (ldim status done : Nat) : List Byte :=
  let l := a.blocks
  natBytes 4 (c.reqField 0 4 % 2 ^ 24) ++ natBytes 4 c.aLo ++ natBytes 4 c.aHi ++ natBytes 4 a.lim ++ natBytes 4 a.next ++
  natBytes 2 c.aLayer ++ natBytes 1 c.aHd0 ++ natBytes 1 c.aNh ++ natBytes 1 c.aNq ++ natBytes 1 ldim ++
  natBytes 1 status ++ natBytes 1 ((if a.nan then 1 else 0) + (if a.absent then 2 else 0)) ++ natBytes 4 l.length ++
  (List.range 8).flatMap (fun i => natBytes 4 (l.getD i 0)) ++ natBytes 8 done ++ natBytes 56 0
/-- ldim of a head dimension. -/
def ldimOf (D : Nat) : Nat := Nat.log2 (D / 64)
/-- The header written with a status and the time. -/
def State.putHeader (s : State) (c : Cmd) (a : Attn) (status : Nat) : State :=
  s.engWrite c.aState (attnHeader c a (ldimOf c.aD) status (if status = 0 then 0 else s.gtc.toNat))

/-! ## The rings (R306) -/

/-- A ring counted in elements of two bytes. -/
def Stream.pairs (r : Stream) : Stream := { r with mfmt := 1 }
/-- The scratchpad address of element e. -/
def Stream.pairAt (r : Stream) (e : Nat) : Nat := r.pairs.nibble e / 2
/-- Push elements of two bytes. -/
def State.ringPush (s : State) (q : Nat) (l : List Nat) : State :=
  let r := s.core.stream q
  let s := (List.range l.length).foldl (fun t i => t.engWrite (r.pairAt (r.tail.toNat + i)) (natBytes 2 (l.getD i 0))) s
  s.putStream q { r with tail := r.tail + BitVec.ofNat 32 l.length }
/-- The scale byte of value vector u in the scale area of qv. -/
def Stream.vecScale (r : Stream) (D u : Nat) : Nat := r.sbase * 128 + u % (r.pairs.capacity / D) * 2 ^ r.sstr

/-- The positions of a page that attention reads: position and slot (R306). -/
def pagePositions (c : Cmd) (lim : Nat) (b : Nat) (f : Fdesc) : List (Nat × Nat) :=
  ((List.range f.pool.P).filter fun o =>
    f.present o && decide (c.aLo ≤ b * f.pool.P + o) && decide (b * f.pool.P + o < lim)).map
      fun o => (b * f.pool.P + o, f.slot o)

/-- Operand format of a frame: 2 FP16, else 1 BF16 (R305). -/
def operandFmt (frameFmt : Nat) : Nat := if frameFmt = 1 then 2 else 1
/-- Elements of a vector as they enter a ring: keys and most values in the operand format, FP8 values as they are (R305). -/
def ringCodes (f : Fdesc) (isV : Bool) (el sc : List Byte) : List Nat :=
  if f.fmt ≤ 1 then vecCodes f.fmt el
  else if isV && (f.fmt = 2 || f.fmt = 3) then vecCodes f.fmt el
  else (vecVals f.fmt el sc).map fun x => (Fmt.bf16.enc 0 x).1

/-- The bytes of the layer of a frame that a page needs, read from its location (R304): keys, values, and their scales. -/
def stagePage (c : Cmd) (f : Fdesc) : Kv (List Byte) := do
  let p := f.pool
  let n := f.slots * p.heads
  let k ← kvPhys (f.loc + p.vecOff f.fmt c.aLayer 0 0 0) (n * p.vecLen f.fmt)
  let v ← kvPhys (f.loc + p.vecOff f.fmt c.aLayer 1 0 0) (n * p.vecLen f.fmt)
  let ks ← kvPhys (f.loc + p.scaleOff f.fmt c.aLayer 0 0 0) (n * p.scaleLen f.fmt)
  let vs ← kvPhys (f.loc + p.scaleOff f.fmt c.aLayer 1 0 0) (n * p.scaleLen f.fmt)
  let l := k ++ v ++ ks ++ vs
  if f.tier = 1 then modify fun s => s.countPool p.id 5 l.length
  pure l
/-- The elements and scales of a vector in the staged bytes of a page (R279). -/
def pageVec (pg : Page) (f : Fdesc) (kv slot head : Nat) : List Byte × List Byte :=
  let b := pg.bytes.getD []
  let v := f.pool.vecLen f.fmt
  let sc := f.pool.scaleLen f.fmt
  let n := f.slots * f.pool.heads
  let i := kv * n + slot * f.pool.heads + head
  ((b.drop (i * v)).take v, (b.drop (2 * n * v + i * sc)).take sc)

/-- The frame of a page as the walk read it, with its pool. -/
def pageFrame (pg : Page) : Fdesc := fdescOf pg.frame ⟨pg.frame / 2 ^ 28, pg.desc.drop 32⟩ pg.desc

/-- Push the unit of one head of a page (R306): none when the rings have no room yet. -/
def State.pushUnit (s : State) (c : Cmd) (pg : Page) (f : Fdesc) (pos : List (Nat × Nat)) (j : Nat) : Option State :=
  let n := pos.length * c.aD
  let room (q : Nat) : Bool := let r := (s.core.stream q).pairs; decide (r.fill + n ≤ r.capacity)
  if !(room c.aQk && room c.aQv) then none
  else
    let vec (kv : Nat) : List (List Byte × List Byte) := pos.map fun x => pageVec pg f kv x.2 (c.aHd0 + j)
    let s := s.ringPush c.aQk ((vec 0).flatMap fun x => ringCodes f false x.1 x.2)
    let r := s.core.stream c.aQv
    let s := if f.fmt = 2 || f.fmt = 3 then
        (List.range (vec 1).length).foldl (fun s i =>
          s.engWrite (r.vecScale c.aD (r.tail.toNat / c.aD + i)) (((vec 1).getD i ([], [])).2.take 1)) s
      else s
    some (s.ringPush c.aQv ((vec 1).flatMap fun x => ringCodes f true x.1 x.2))

/-! ## The fold (R307) -/

/-- Vector u of a ring from its head, as codes of two bytes. -/
def State.ringVec (s : State) (r : Stream) (D u : Nat) : Codes :=
  (List.range D).map fun i => s.padNat (r.pairAt (r.head.toNat + u * D + i)) 2
/-- A value vector of a ring as values. -/
def State.ringVals (s : State) (r : Stream) (D u fmt : Nat) : List Fp :=
  let l := s.ringVec r D u
  match fmt with
  | 1 => l.map Fmt.f16.dec
  | 2 => l.map fun x => fp8Dec .e4m3 (s.padNat (r.vecScale D (r.head.toNat / D + u)) 1) (x % 256)
  | 3 => l.map fun x => fp8Dec .e5m2 (s.padNat (r.vecScale D (r.head.toNat / D + u)) 1) (x % 256)
  | _ => l.map Fmt.bf16.dec
/-- The query of a row in an operand format (R305). -/
def State.query (s : State) (c : Cmd) (f r : Nat) : Codes :=
  let qf := c.reqField 18 1
  let n := if qf = 0 then 4 else 2
  (List.range c.aD).map fun i =>
    (codeConv qf f 0 (leNat (s.engBytes c (c.aQuery + (r * c.aD + i) * n) n))).1

/-- The unit of head j at the heads of the rings is folded into the rows of that head, and consumed (R306, R307). -/
def State.foldUnit (s : State) (c : Cmd) (f : Fdesc) (pos : List (Nat × Nat)) (j : Nat) : State × Bool :=
  let D := c.aD
  let rk := s.core.stream c.aQk
  let rv := s.core.stream c.aQv
  let of_ := operandFmt f.fmt
  let kv := (List.range pos.length).map fun u => (s.ringVec rk D u, s.ringVals rv D u f.fmt)
  let causal := c.reqField 32 1 % 2 = 1
  let r := (List.range c.aNq).foldl (fun (a : State × Bool) q =>
    let r := j * c.aNq + q
    let sel := (pos.zip kv).filter fun x => !causal || decide (x.1.1 ≤ c.reqField 28 4 + q)
    let pp := pagePartial D f.fmt of_ (s.query c of_ r) (sel.map (·.2))
    let t := a.1.setAttnRow c.aState D r ((a.1.attnRow c.aState D r).merge D pp.1)
    let b := t.core.bank c.aBank
    (t.putBank c.aBank { b with flags := b.flags ||| mxFlags pp.2.1 }, a.2 || pp.2.2)) (s, false)
  let n := pos.length * D
  ((r.1.consume c.aQk n).consume c.aQv n, r.2)

/-! ## The walk (R304, R310 to R315) -/

/-- The readers of a frame fall by one (R304). -/
def kvLeave (id : Nat) : Kv Unit := do
  let f ← kvFrame id
  kvPutFrame { f with readers := f.readers - 1 }
/-- The pages of a walk that count as readers are given up, each one that can be. -/
def kvAbandon (a : Attn) : Kv Unit :=
  ((a.listed.filter fun p => !p.transit) ++ (match a.cur with | some (p, _, _) => [p] | none => [])).forM
    fun p => tryCatch (kvLeave p.frame) fun _ => pure ()
/-- The walk as the command keeps it. -/
def kvSave (c : Cmd) (a : Attn) : Kv Unit := modify fun s => s.putCmd { c with att := some a }

/-- Read the entry of a block and act by the frame's tier (R304). The bytes of an HBM page are read before its readers grow, so
that a fault is met before any of it is folded (R314). -/
def kvVisit (c : Cmd) (a : Attn) (b : Nat) : Kv Attn := do
  let d ← kvSeq (c.reqField 0 4 % 2 ^ 24)
  let f ← kvFrame (← kvBlock d b)
  let now := (← get).gtc.toNat
  let pg : Page := ⟨b, f.id, f.bytes ++ f.pool.raw, none, false, now⟩
  if f.tier = 5 then pure { a with listed := a.listed ++ [{ pg with transit := true }] }
  else if f.tier = 3 || f.tier = 4 || f.refcount = 0 then pure { a with absent := true }
  else if f.tier = 2 && !((← get).isPeer f.peer) then kvFault 0x72
  else if f.tier = 0 then
    let l ← stagePage c f
    kvPutFrame { f with readers := f.readers + 1, used := now }
    pure { a with cur := some ({ pg with bytes := some l }, 0, false) }
  else
    kvPutFrame { f with readers := f.readers + 1, used := now }
    if f.tier = 2 then
      let p := f.pool
      let n := f.slots * p.heads * p.vecLen p.hfmt
      let x := [0, f.remote] ++ (if n = 0 then []
        else [p.vecOff p.hfmt c.aLayer 0 0 0, n, p.vecOff p.hfmt c.aLayer 1 0 0, n]) ++ [c.id, b]
      modify fun s => s.sendMsg (s.engineMsg f.peer 3 x [])
    pure { a with listed := a.listed ++ [pg] }

/-- The walk ends: header with its status, every element of the bank +0, the lines full with the command's end (R313, R317, 22
R426). Commands of the queue accepted before a walk that stops run before its bank becomes +0 (12 R270). -/
def kvAttnEnd (c : Cmd) (a : Attn) (status : Nat) : Kv Unit :=
  modify fun s =>
    let s := s.putHeader c a status
    (s.setCore { s.core with zeroAfter := s.core.zeroAfter ++ [(c.aBank, c.id)] }.zeroBanks).regionFull c.wr true

/-- Blocks of a walk have still to be visited. -/
def Cmd.blocksLeft (c : Cmd) (a : Attn) : Bool := decide (c.aLo < a.lim) && decide (a.next * c.aP < a.lim)
/-- The tier of a frame as a command reads it; 0 where its descriptor cannot be read. -/
def State.tierNow (s : State) (c : Cmd) (frame : Nat) : Nat :=
  match (kvFrame frame).run (some c.id) s with
  | (.ok f, _) => f.tier
  | _ => 0
/-- The deferred pages that can be folded: a CXL page, a borrowed one that has arrived, one whose transit has ended; while a
full list holds back the walk, the oldest only (R310). -/
def State.stagedPages (s : State) (c : Cmd) (a : Attn) : List Page :=
  let tier (p : Page) : Nat := fieldOf p.desc 3 1 / 8 % 8
  let ready (p : Page) : Bool := if p.transit then s.tierNow c p.frame ≠ 5 else tier p = 1 || p.bytes.isSome
  if a.cur.isSome then []
  else (if decide (8 ≤ a.listed.length) && c.blocksLeft a then a.listed.take 1 else a.listed).filter ready
/-- A page that is deferred again after its transit keeps its place in the list, which is in the order of the walk (R311). -/
def Attn.putBack (a : Attn) (old : List Page) (pg : Page) : Attn :=
  if a.listed.length = old.length then { a with listed := old.map fun p => if p = pg then a.listed.getLastD pg else p } else a
/-- A page leaves the list and is folded next: a CXL page is read, and after a transit the entry is read again (R304, R310). -/
def kvTake (c : Cmd) (a : Attn) (pg : Page) : Kv Attn := do
  let old := a.listed
  let a := { a with listed := a.listed.erase pg }
  if pg.transit then pure ((← kvVisit c a pg.block).putBack old pg)
  else if pg.bytes.isSome then pure { a with cur := some (pg, 0, false) }
  else pure { a with cur := some ({ pg with bytes := some (← stagePage c (pageFrame pg)) }, 0, false) }

/-- Go on with a walk until it has ended (none), or stands at a fold, at the end of a page, or without room or a page. A page
that has arrived is folded before the walk goes on to the next block; when the bytes of a CXL page are here the agenda says
(R310, log 5). -/
def kvAttnGo (c : Cmd) : Nat → Attn → Kv (Option Attn)
  | 0, a => pure (some a)
  | n + 1, a => do
    kvSave c a
    match a.cur with
    | some (_, _, true) => pure (some a)
    | some (pg, j, false) =>
      let f := pageFrame pg
      let pos := pagePositions c a.lim pg.block f
      if pos.isEmpty || decide (c.aNh ≤ j) then
        kvSave c { a with cur := none }
        kvLeave pg.frame
        pure (some { a with cur := none })
      else
        match (← get).pushUnit c pg f pos j with
        | some t =>
          set t
          pure (some { a with cur := some (pg, j, true) })
        | none => pure (some a)
    | none =>
      if c.stop then
        kvAbandon a
        kvAttnEnd c a 1
        pure none
      else
        match ((← get).stagedPages c a).filter (fun p => p.transit || p.bytes.isSome), a.again with
        | pg :: _, _ => do kvAttnGo c n (← kvTake c a pg)
        | [], b :: l => do kvAttnGo c n (← kvVisit c { a with again := l } b)
        | [], [] =>
          if c.blocksLeft a then
            if 8 ≤ a.listed.length then pure (some a)
            else kvAttnGo c n (← kvVisit c { a with next := a.next + 1 } a.next)
          else if a.listed.isEmpty then
            kvAttnEnd c a 2
            pure none
          else pure (some a)

/-- Enough steps for a walk: one for each block and some more. -/
def Cmd.walkFuel (c : Cmd) : Nat := 2 * c.aHi + 64
/-- The walk as a kv.attn begins it, fresh with the Lc that acceptance read, or from a header of status 1 or 3 (R312, R315). -/
def kvAttnStart (c : Cmd) : Kv Attn := do
  let s ← get
  let n (o k : Nat) : Nat := s.padNat (c.aState + o) k
  if n 26 1 = 0 then
    let a : Attn := ⟨min c.aHi (c.st.getD 6 0), c.aLo / c.aP, false, false, [], [], none⟩
    modify fun s => (List.range (c.aNh * c.aNq)).foldl
      (fun t r => (t.engWrite (c.aState + 128 + r * rowLen c.aD) (natBytes 128 0)).setAttnRow c.aState c.aD r
        (Partial.identity c.aD)) (s.putHeader c a 0)
    pure a
  else
    pure ⟨n 12 4, n 16 4, decide (n 27 1 % 2 = 1), decide (n 27 1 / 2 % 2 = 1),
      (List.range (min (n 28 1) 8)).map fun i => n (32 + 4 * i) 4, [], none⟩
/-- The walk of a command, which begins with its first step. -/
def kvWalk (c : Cmd) : Kv Attn :=
  match c.att with
  | some a => pure a
  | none => kvAttnStart c

/-- What a walk's step leaves: the command with its walk, or its end. -/
def kvAttnKeep (c : Cmd) (r : Option Attn) : Kv KvNext := do
  match r with
  | none => pure .done
  | some a =>
    kvSave c a
    pure (.wait c.st)
/-- kv.attn goes on (R304 to R315). -/
def kvAttnBody (c : Cmd) : Kv KvNext := do kvAttnKeep c (← kvAttnGo c c.walkFuel (← kvWalk c))

/-- ATTN_UNIT_FOLD's effect: the unit in the rings is folded and the walk goes on (R307). -/
def kvAttnFold (c : Cmd) : Kv KvNext := do
  match c.att with
  | some a =>
    match a.cur with
    | some (pg, j, true) =>
      let f := pageFrame pg
      let r := (← get).foldUnit c f (pagePositions c a.lim pg.block f) j
      set r.1
      kvAttnKeep c (← kvAttnGo c c.walkFuel { a with nan := a.nan || r.2, cur := some (pg, j + 1, false) })
    | _ => pure (.wait c.st)
  | none => pure (.wait c.st)

/-- ATTN_PAGE_STAGED's effect: the page leaves the list and its first unit is pushed (R304, R310). -/
def kvAttnStaged (c : Cmd) (blk : Nat) : Kv KvNext := do
  match c.att with
  | none => pure (.wait c.st)
  | some a =>
    match ((← get).stagedPages c a).find? fun p => p.block = blk with
    | none => pure (.wait c.st)
    | some pg => kvAttnKeep c (← kvAttnGo c c.walkFuel (← kvTake c a pg))

/-- A fault after acceptance: the pages are given up and the header takes status 3; a walk that has not begun is written as it
begins (R314). -/
def kvAttnFail (c : Cmd) : Kv Unit := do
  let a ← kvWalk c
  kvAbandon a
  kvAttnEnd c a 3

/-! ## kv.merge (R318) -/

/-- The two state blocks merged row by row, with the header's N, F and done. -/
def kvMergeBody (c : Cmd) : Kv KvNext := do
  modify fun s =>
    let a := c.st.getD 2 0
    let b := c.st.getD 3 0
    let D := 64 * 2 ^ (s.padNat (a + 25) 1 % 4)
    let rows := s.padNat (a + 23) 1 * s.padNat (a + 24) 1
    let fl := s.padNat (a + 27) 1 ||| s.padNat (b + 27) 1
    let s := (List.range rows).foldl (fun (t : State) r =>
      t.setAttnRow a D r ((t.attnRow a D r).merge D (t.attnRow b D r))) s
    ((s.engWrite (a + 27) (natBytes 1 (fl % 4))).engWrite (a + 64) (natBytes 8 s.gtc.toNat)).regionFull c.wr true
  pure .done

/-! ## Acceptance (R317, R318) -/

/-- A cause of the store raised at issue. -/
def State.kvCause (s : State) (e : KvErr) : State :=
  match e.2 with
  | some v => s.causeI 8 e.1 v
  | none => s.cause e.1
/-- An earlier engine command has still to write part of a physical range. -/
def CoreSt.writePending (c : CoreSt) (a n : Nat) : Bool :=
  c.cmds.any fun k => !k.wrDone && regionsMeet k.wr (some (a, n))

/-- The limits that the request block alone breaks (R317). -/
def attnBad (q : List Byte) : Bool :=
  let n := fieldOf q
  n 3 1 ≠ 0 || decide (n 8 4 < n 4 4) || n 15 1 = 0 || decide (64 < n 15 1) || n 16 1 = 0 || decide (128 < n 16 1) ||
  decide (128 < n 15 1 * n 16 1) || n 17 1 % 16 = n 17 1 / 16 || decide (2 < n 18 1) || n 19 1 ≠ 0 ||
  decide (1 < n 32 1) || n 33 31 ≠ 0
/-- A header's fields that a continuation must match (R312). -/
def State.attnMatches (s : State) (sb : Nat) (q : List Byte) : Bool :=
  let n (o k : Nat) : Nat := s.padNat (sb + o) k
  n 0 4 % 2 ^ 24 = fieldOf q 0 4 % 2 ^ 24 && n 4 4 = fieldOf q 4 4 && n 8 4 = fieldOf q 8 4 && n 20 2 = fieldOf q 12 2 &&
  n 22 1 = fieldOf q 14 1 && n 23 1 = fieldOf q 15 1 && n 24 1 = fieldOf q 16 1

/-- The checks of kv.attn from the bank on, and its acceptance (R317 points 7 to 10, R312). -/
def State.attnAccept (s : State) (f : EF) (q : List Byte) (d : Seq) (rd : Nat × Nat) (qa sb : Nat) : State :=
  let p := d.pool
  let rows := fieldOf q 15 1 * fieldOf q 16 1
  let sz := 128 + rows * rowLen p.D
  let cl := s.core.claims.of (f.i.extractLsb' 0 1).toNat
  let ringOk (n : Nat) : Bool := s.streamOwned n && (s.core.stream n).bound
  let qk := fieldOf q 17 1 % 16
  let qv := fieldOf q 17 1 / 16
  if cl.1 = 0 || !decide (cl.1 = s.x.pitch % 128) || cl.2 ≠ 0 then s.cause 0x8A
  else if !(ringOk qk && ringOk qv) then s.cause 0x98
  else if [qk, qv].any fun n => decide ((s.core.stream n).pairs.capacity < p.P * p.D) then s.cause 0x70
  else if s.core.writePending sb 128 then s.wait 6
  else
    let st := s.padNat (sb + 26) 1
    if 3 < st || ((st = 1 || st = 3) && !s.attnMatches sb q) then s.cause 0x71
    else if st = 2 then s
    else s.matrixAccept fun s =>
      s.accept (.kvAttn f) [] q (some rd) (some (sb, sz)) true [0, s.gtc.toNat, qa, sb, p.D, p.P, d.Lc]

/-- kv.attn: the checks in the order of R317. -/
def execKvAttn (f : EF) (s : State) : Out :=
  let a := (s.x.sreg f.a.toNat).toNat
  .next (match s.request a with
    | .error t => t
    | .ok q =>
      if attnBad q then s.cause 0x70
      else
        let r := (kvSeq (fieldOf q 0 4 % 2 ^ 24)).run none s
        match r.1 with
        | .error e => r.2.kvCause e
        | .ok d =>
          let p := d.pool
          let qof := fieldOf q 20 4
          let sof := fieldOf q 24 4
          let rows := fieldOf q 15 1 * fieldOf q 16 1
          let qn := rows * p.D * (if fieldOf q 18 1 = 0 then 4 else 2)
          if p.layers ≤ fieldOf q 12 2 || p.heads < fieldOf q 14 1 + fieldOf q 15 1 then s.cause 0x70
          else if qof % 64 ≠ 0 then s.causeI 8 0x41 (BitVec.ofNat 64 (qof % 2 ^ 21))
          else if sof % 128 ≠ 0 then s.causeI 8 0x41 (BitVec.ofNat 64 (sof % 2 ^ 21))
          else
            match s.padOne 64 qn qof, s.padOne 128 (128 + rows * rowLen p.D) sof, s.padOne 64 64 a with
            | .error t, _, _ => t
            | _, .error t, _ => t
            | _, _, .error t => t
            | .ok qa, .ok sb, .ok blk =>
              let lo := min blk qa
              let hi := max (blk + 64) (qa + qn)
              if regionsMeet (some (lo, hi - lo)) (some (sb, 128 + rows * rowLen p.D)) then s.cause 0x70
              else s.attnAccept f q d (lo, hi - lo) qa sb)

/-- A state block at a pitch offset: its address and its length from its header; the bundle waits for earlier engine writes to
the header. -/
def State.stateBlock (s : State) (a : Nat) : Except State (Nat × Nat) :=
  match s.padOne 128 128 a with
  | .error t => .error t
  | .ok p =>
    if s.core.writePending p 128 then .error (s.wait 6)
    else
      let n := 128 + s.padNat (p + 23) 1 * s.padNat (p + 24) 1 * rowLen (64 * 2 ^ (s.padNat (p + 25) 1 % 4))
      match s.padOne 128 n a with
      | .error t => .error t
      | .ok _ => .ok (p, n)
/-- kv.merge (R318). -/
def execKvMerge (f : EF) (s : State) : Out :=
  .next (match s.stateBlock (s.x.sreg f.a.toNat).toNat, s.stateBlock (s.x.sreg f.b.toNat).toNat with
    | .error t, _ => t
    | _, .error t => t
    | .ok (a, n), .ok (b, m) =>
      let same (o : Nat) : Bool := s.padNat (a + o) 1 = s.padNat (b + o) 1
      let ldim (p : Nat) : Nat := s.padNat (p + 25) 1 % 4
      if !(s.padNat (a + 26) 1 = 2 && s.padNat (b + 26) 1 = 2 && same 23 && same 24 && ldim a = ldim b) ||
          overlaps a n b m then s.cause 0x71
      else
        s.accept (.kvMerge f) [] [] (some (min a b, max (a + n) (b + m) - min a b)) (some (a, n)) true
          [0, s.gtc.toNat, a, b])

end Sys2Proof.Machine
end

