-- ==== Sys2Proof/Machine/PageWalk.lean ====
section
/-! DEFINITION. The page-walk engines and the lending traffic: who gets an engine, how a command goes on, and the steps of
the store (13 R291, R295, R297 to R300, 14 R303, R307, R310). -/

namespace Sys2Proof.Machine

/-- What a kv command does from its phase on; `pay` is what a message brought. -/
def kvBody (c : Cmd) (pay : List Byte) : Kv KvNext :=
  match c.op with
  | .kvApp _ => kvAppBody c pay
  | .kvFork _ => kvForkBody c
  | .kvFree _ => kvFreeBody c
  | .kvSeal _ => kvSealBody c
  | .kvUndo _ => kvUndoBody c
  | .kvTrim _ => kvTrimBody c
  | .kvClass _ => kvClassBody c
  | .kvClassAll _ => kvClassAllBody c
  | .kvDemote _ => kvDemoteBody c
  | .kvPromote _ => kvPromoteBody c
  | .kvPin _ => kvPinBody c true
  | .kvUnpin _ => kvPinBody c false
  | .kvLend _ => kvLendBody c
  | .kvRet _ => kvRetBody c pay
  | .kvLen _ => kvLenBody c false
  | .kvLenT _ => kvLenBody c true
  | .kvPos _ => kvPosBody c
  | .kvGrant _ => kvGrantBody c
  | .kvAttn _ => kvAttnBody c
  | .kvMerge _ => kvMergeBody c
  | _ => pure .done

/-! ## Engines (14 R303) -/

/-- A command has an engine. -/
def State.hasEngine (s : State) (c : Cmd) : Bool := s.die.pwe.any fun x => x.2 = c.id
/-- The lowest free engine of the die. -/
def State.freeEngine (s : State) : Option Nat := (List.range 16).find? fun k => s.die.pwe.all fun x => x.1 ≠ k
/-- The oldest command of the core that waits for an engine. -/
def State.kvWaiting (s : State) : Option Cmd := s.core.cmds.find? fun c => c.isKv && !s.hasEngine c
/-- The engine of a command is free again. -/
def State.freePwe (s : State) (c : Cmd) : State := s.setDie { s.die with pwe := s.die.pwe.filter fun x => x.2 ≠ c.id }

/-- What a command stopped by a cause leaves in the store: a split gives up its reader and C, a kv.ret whose kv-read is not
answered gives its frame back to tier 2 (13 R299), and a walk closes its header (14 R314). Any other frame in transit keeps its
tier, no event of 13 R301 changing it. -/
def kvCleanup (c : Cmd) (cause : Nat) : Kv Unit :=
  match c.op with
  | .kvApp _ => do
    if c.reqField 24 4 ≠ noFrame then
      let d ← kvSeq (c.reqField 0 4 % 2 ^ 24)
      let g ← kvFrame (c.reqField 24 4)
      if g.c then
        kvPutFrame { g with c := false }
        let f ← kvBlock d (c.reqField 4 4 / d.pool.P)
        kvLeave (if c.phase = 0 then f else c.st.getD 4 0)
  | .kvRet _ => do
    let f ← kvFrame (c.arg 0)
    if cause = 0x68 && (c.phase = 7 || c.phase = 8) && f.tier = 5 then kvPutFrame { f with tier := 2 }
  | .kvAttn _ => kvAttnFail c
  | _ => pure ()
/-- The register of a kv.app that fails receives all ones, also when the frame decision has given it a code already (13 R286);
that of another command an unstated value, when it is owed one. -/
def State.kvFailReg (s : State) (c : Cmd) : State :=
  match c.op with
  | .kvApp f =>
    if c.args.isEmpty then s.deliver c (BitVec.allOnes 64)
    else
      match s.ctxOf c.strand with
      | some n => s.setCtx n ((s.ctx n).setS f.c.toNat (BitVec.allOnes 64))
      | none => s
  | _ => s.deliverFree c
/-- A command stops with a cause (11 R247). -/
def State.kvStop (s : State) (c : Cmd) (e : KvErr) : State :=
  let s := ((kvCleanup c e.1).run (some c.id) s).2
  ((s.kvFailReg c).freePwe c).failCmd c (e.2.getD c.kvIdent) e.1
/-- A piece of work of a command: it ends, waits in a phase, or stops with a cause. -/
def State.kvRun (s : State) (c : Cmd) (k : Kv KvNext) : State :=
  match k.run (some c.id) s with
  | (.ok .done, t) => (t.freePwe c).endCmd c
  | (.ok (.wait st), t) =>
    match t.core.cmd c.id with
    | some d => t.putCmd { d with st := st }
    | none => t
  | (.error e, t) => t.kvStop ((t.core.cmd c.id).getD c) e

/-- A kv.attn that is to stop and does so without more: it leaves the queue when it stops (12 R270, 14 R313). -/
def Cmd.stopsNow (c : Cmd) : Bool := c.stop && c.onMatrix && (match c.op with | .kvAttn _ => true | _ => false)
/-- A command can begin or go on by itself: its names and regions allow it (R284, 11 R246), it has an engine, and kv.attn stands
at the head of the matrix queue (12 R270); one that is to stop needs only its state block. -/
def State.kvCanGo (s : State) (c : Cmd) : Bool :=
  c.isKv && (c.phase = 0 || c.phase = 7) && s.core.canWrite c &&
    (c.stopsNow || (s.hasEngine c && s.core.kvFirst c && s.core.canRead c &&
      (!c.onMatrix || (match s.core.matrixQueue with | h :: _ => h.id = c.id | [] => false))))
/-- Every command that can go on and that a test selects does, oldest first. -/
def State.kvGoWith (s : State) (t : Cmd → Bool) : State :=
  (s.core.cmds.map (·.id)).foldl (fun u id =>
    match u.core.cmd id with
    | some c => if u.kvCanGo c && t c then u.kvRun c (kvBody c []) else u
    | none => u) s
/-- What follows a step of the store: every command that can go on does, but a walk that has begun, which goes on in a step of
its own, so that a page staged in between can be folded first (14 R310). -/
def State.kvGo (s : State) : State := s.kvGoWith fun c => c.att.isNone
/-- A step of the store with a command that a test selects; then the others go on. -/
def State.kvWith (s : State) (t : Cmd → Bool) (k : State → Cmd → State) : State :=
  match s.core.cmds.find? fun c => c.isKv && t c with
  | some c => (k s c).kvGo
  | none => s

/-- Every command that can go on does. -/
def State.kvGoAll (s : State) : State := s.kvGoWith fun _ => true
/-- PWE_ASSIGN: a free engine takes the oldest waiting command of the core, and the commands of the engines go on (R303). -/
def execPweAssign (s : State) : Out :=
  .next (match s.kvWaiting, s.freeEngine with
    | some c, some k =>
      (s.setDie { s.die with pwe := s.die.pwe ++ [(k, c.id)], pweLast := s.core.num }).kvGoAll
    | _, _ => s.kvGoAll)

/-! ## Frees and transits (13 R291, R295) -/

/-- The descriptor of a frame as it stands, where it can be read, by a command or by the receive engine (none). -/
def State.frameNow (s : State) (cmd : Option Nat) (id : Nat) : Option Fdesc :=
  match (kvFrame id).run cmd s with
  | (.ok f, _) => some f
  | _ => none
/-- The first frame of a command that waits to be freed may be: no engine streams it, it is not in transit, and no kv-write of a
borrowed one is unacknowledged (R291, R297); a frame whose descriptor cannot be read stops the command. -/
def State.freeable (s : State) (c : Cmd) : Bool :=
  c.phase = 4 && (match s.frameNow (some c.id) (c.st.getD 4 0) with | some f => f.readers = 0 && f.tier ≠ 5 && !(f.tier = 2 && s.writesOut f.id) | none => true)
/-- That frame is pushed on its pool's free list, a borrowed one after its kv-return (R291, R297). -/
def kvFreeOne (c : Cmd) : Kv KvNext := do
  let f ← kvFrame (c.st.getD 4 0)
  if f.tier = 2 then kvReturn f
  if f.tier ≤ 2 then kvPush f.pool.flist f
  match c.st.drop 5 with
  | [] =>
    let code := c.st.getD 2 0
    let info := c.st.getD 3 0
    if code = 0 then pure .done else throw (code, if info = 0 then none else some (BitVec.ofNat 64 (info - 1)))
  | l => kvWait 4 (c.st.getD 2 0 :: c.st.getD 3 0 :: l)
/-- KV_FRAME_FREE of a frame (R291). -/
def execKvFrameFree (fid : Nat) (s : State) : Out :=
  .next (s.kvWith (fun c => c.st.getD 4 0 = fid && s.freeable c) fun s c => s.kvRun c (kvFreeOne c))

/-- A transit may end: no engine streams the frame. -/
def State.transitOver (s : State) (c : Cmd) : Bool :=
  c.phase = 5 && (match s.frameNow (some c.id) (c.st.getD 2 0) with | some f => f.readers = 0 | none => true)
/-- The end of a transit: the trim or the move (R289, R295). -/
def kvTransitEnd (c : Cmd) : Kv KvNext := do
  let f ← kvFrame (c.st.getD 2 0)
  match c.op with
  | .kvTrim _ => kvTrimEnd c f
  | _ => kvMove f (c.st.getD 3 0)
  pure .done
/-- KV_TRANSIT_END of a command (R289, R295). -/
def execKvTransitEnd (id : Nat) (s : State) : Out :=
  .next (s.kvWith (fun c => c.id = id && s.transitOver c) fun s c => s.kvRun c (kvTransitEnd c))

/-! ## Attention (14 R307, R310) -/

/-- A unit of a kv.attn stands in the rings. -/
def Cmd.unitReady (c : Cmd) : Bool :=
  match c.att with
  | some a => (match a.cur with | some (_, _, b) => b | none => false)
  | none => false
/-- ATTN_UNIT_FOLD of a kv.attn (R307). -/
def execAttnUnitFold (id : Nat) (s : State) : Out :=
  .next (s.kvWith (fun c => c.id = id && c.unitReady) fun s c => s.kvRun c (kvAttnFold c))
/-- A deferred page of a kv.attn can be folded; a walk that is to stop folds none (R313). -/
def State.pageReady (s : State) (c : Cmd) : Bool :=
  match c.att with
  | some a => !c.stop && !(s.stagedPages c a).isEmpty
  | none => false
/-- ATTN_PAGE_STAGED of a block of a kv.attn (R310). -/
def execAttnPageStaged (id blk : Nat) (s : State) : Out :=
  .next (s.kvWith (fun c => c.id = id && s.pageReady c) fun s c => s.kvRun c (kvAttnStaged c blk))

/-! ## Lending (13 R297 to R300) -/

/-- 100 µs have passed since a time. -/
def State.late (s : State) (since : Nat) : Bool := decide (since + 100000 ≤ s.gtc.toNat)
/-- A kv.lend has had no reply within 100 µs of acceptance (R300). -/
def State.lendLate (s : State) (c : Cmd) : Bool :=
  (match c.op with | .kvLend _ => true | _ => false) && (c.phase = 0 || c.phase = 6) && s.late c.since
/-- KV_LEND_TIMEOUT of a command (R300). -/
def execKvLendTimeout (id : Nat) (s : State) : Out :=
  .next (s.kvWith (fun c => c.id = id && s.lendLate c) fun s c => ((s.deliver c 3).freePwe c).endCmd c)

/-- A lender has not answered: no port is up, or 100 µs have passed (R299). -/
def State.unanswered (s : State) (since : Nat) : Bool := (s.portTo 0).isNone || s.late since
/-- A borrowed page waits for bytes that will not come. -/
def State.pageLost (s : State) (c : Cmd) : Bool :=
  match c.att with
  | some a => a.cur.isNone && a.listed.any fun p =>
      !p.transit && p.bytes.isNone && decide (fieldOf p.desc 3 1 / 8 % 8 = 2) && s.unanswered p.since
  | none => false
/-- A command waits for an answer that will not come. -/
def State.lenderLost (s : State) (c : Cmd) : Bool :=
  ((c.phase = 1 || c.phase = 2 || c.phase = 3 || c.phase = 8) && s.unanswered c.since) || s.pageLost c
/-- LENDER_UNREACHABLE: kv-lend, or attn-lend for a kv.attn (R299, 14 R320). -/
def execLenderUnreachable (id : Nat) (s : State) : Out :=
  .next (s.kvWith (fun c => c.id = id && s.lenderLost c) fun s c =>
    s.kvRun c (kvLater (if c.phase = 3 then c.st.drop 5 else []) (kvFault (if c.att.isSome then 0x72 else 0x68))))

/-- The last two fields of a request: command and tag. -/
def msgTail (m : Msg) : List Nat := m.x.drop (m.x.length - 2)
/-- The ranges of a kv-read or kv-write. -/
def msgRanges : List Nat → List (Nat × Nat)
  | a :: b :: c :: d :: l => (a, b) :: msgRanges (c :: d :: l)
  | _ => []
/-- A reply to a message. -/
def State.replyMsg (s : State) (m : Msg) (kind : Nat) (x : List Nat) (pay : List Byte) : State :=
  s.sendMsg (s.engineMsg m.sdev kind x pay)

/-- A lend request served: 0 and a frame, 1 with none to lend, 2 when the geometry differs (R297, R300). -/
def lendServe (m : Msg) : Kv (Nat × Nat) := do
  let p ← kvPoolRaw (m.x.getD 1 0 % 16)
  if !(p.valid && p.ok && p.geometry = (m.x.drop 2).take 5) then pure (2, 0)
  else
    match ← kvPop p.llist p.fdt with
    | none => pure (1, 0)
    | some i =>
      let f ← kvFrame i
      kvPutFrame { f with tier := 3, loc := m.sdev * 2 ^ 32 + m.x.getD 7 0 }
      pure (0, i)
/-- LEND_REQUEST_RECEIVE (R297 step 2). -/
def execLendRequestReceive (s : State) : Out :=
  .next (match s.takeMsg fun m => m.kind = 2 with
    | none => s
    | some (m, t) =>
      if !t.part.present then t.replyMsg m 7 [2, 0, m.x.getD 8 0] []
      else
        let t := if t.lendKey m.sdev = 0 then t.renewKey m.sdev else t
        match (lendServe m).run none t with
        | (.ok (code, i), u) => u.replyMsg m 7 [code, i, m.x.getD 8 0] []
        | (.error e, u) => (u.logReceive e.1).replyMsg m 7 [1, 0, m.x.getD 8 0] [])
/-- LEND_REPLY_RECEIVE: the borrower's frame becomes tier 2; a grant that comes 100 µs after acceptance or later is returned at
once (R297, R300). -/
def execLendReplyReceive (s : State) : Out :=
  .next (match s.takeMsg fun m => m.kind = 7 with
    | none => s
    | some (m, t) =>
      let code := m.x.getD 0 0
      let live := t.core.cmds.find? fun c =>
        (match c.op with | .kvLend _ => true | _ => false) && c.phase = 6 && c.id = m.x.getD 2 0 && !t.late c.since
      match live with
      | some c => (t.kvRun c (kvLendReply c code m.sdev (m.x.getD 1 0))).kvGo
      | none =>
        if code = 0 then (t.replyMsg m 5 [m.x.getD 1 0] []).countPool (m.x.getD 1 0 / 2 ^ 28 % 16) 4 1 else t)

/-- A frame that is lent to a device. -/
def State.lentTo (s : State) (id dev : Nat) : Option Fdesc :=
  match s.frameNow none id with
  | some f => if f.tier = 3 && f.peer = dev then some f else none
  | none => none
/-- A line of lent ranges fails its code under the lending key (10 R226). -/
def State.lentFail (s : State) (dev base : Nat) (l : List (Nat × Nat)) : Bool :=
  l.any fun x => (List.range (linesOf (base + x.1) x.2).2).any fun i =>
    s.integrityUnder (s.lendKey dev) (((linesOf (base + x.1) x.2).1 + i) * 128)
/-- KV_READ_RECEIVE: the bytes of a lent frame are sent back (R297 step 4). A line that fails gives no bytes: the receive engine
logs integrity and answers nothing (10 R226, log 57). -/
def execKvReadReceive (s : State) : Out :=
  .next (match s.takeMsg fun m => m.kind = 3 && m.x.getD 0 0 = 0 with
    | none => s
    | some (m, t) =>
      match t.lentTo (m.x.getD 1 0) m.sdev with
      | none => t
      | some f =>
        let r := msgRanges (m.x.drop 2)
        if t.lentFail m.sdev f.home r then t.logReceive 0x46
        else t.replyMsg m 3 (1 :: msgTail m) (r.flatMap fun x => t.pkg.reads (t.lendKey m.sdev) (f.home + x.1) x.2))
/-- KV_READ_REPLY_RECEIVE: a split, a kv.ret or a walk goes on with the bytes (R297, R300, 14 R310); bytes that come 100 µs
after they were asked for or later are no answer (R299). -/
def execKvReadReplyReceive (s : State) : Out :=
  .next (match s.takeMsg fun m => m.kind = 3 && m.x.getD 0 0 = 1 with
    | none => s
    | some (m, t) =>
      match t.core.cmd (m.x.getD 1 0) with
      | none => t
      | some c =>
        match c.att with
        | some a =>
          let fill (p : Page) : Page :=
            if p.block = m.x.getD 2 0 && !p.transit && p.bytes.isNone && !t.late p.since then { p with bytes := some m.payload } else p
          let pool := match a.listed.find? fun p => p.block = m.x.getD 2 0 with | some p => p.frame / 2 ^ 28 | none => 0
          (t.countPool pool 6 m.payload.length).putCmd { c with att := some { a with listed := a.listed.map fill } }
        | none => if (c.phase = 1 || c.phase = 8) && !t.late c.since then (t.kvRun c (kvBody c m.payload)).kvGo else t)
/-- Bytes written into a lent frame; lines that are written whole hold a new code (10 R226). -/
def State.lendWrite (s : State) (dev base : Nat) (l : List (Nat × List Byte)) : State :=
  l.foldl (fun t x =>
    (t.setPkg ((t.pkg.writes (t.lendKey dev) (base + x.1) x.2).heal (base + x.1) x.2.length)).fireLines (base + x.1) x.2.length) s
/-- A write of ranges takes part of a sector of a line that fails its code under the lending key (10 R222, R226). -/
def State.lendStuck (s : State) (dev base : Nat) (l : List (Nat × List Byte)) : Bool :=
  l.any fun x => s.writeFailUnder (s.lendKey dev) (base + x.1) x.2.length
/-- KV_WRITE_RECEIVE: the bytes are written and acknowledged (R297, R298). Where a line that fails would have to be read, the
receive engine logs integrity, writes nothing and answers nothing (10 R226, log 57). -/
def execKvWriteReceive (s : State) : Out :=
  .next (match s.takeMsg fun m => m.kind = 4 && m.x.getD 0 0 = 0 with
    | none => s
    | some (m, t) =>
      match t.lentTo (m.x.getD 1 0) m.sdev with
      | none => t
      | some f =>
        let l := cutRanges (msgRanges (m.x.drop 2)) m.payload
        if t.lendStuck m.sdev f.home l then t.logReceive 0x46
        else (t.lendWrite m.sdev f.home l).replyMsg m 4 (1 :: msgTail m) [])
/-- KV_WRITE_ACK_RECEIVE: the append goes on (R298), unless 100 µs have passed (R299). -/
def execKvWriteAckReceive (s : State) : Out :=
  .next (match s.takeMsg fun m => m.kind = 4 && m.x.getD 0 0 = 1 with
    | none => s
    | some (m, t) =>
      match t.core.cmd (m.x.getD 1 0) with
      | some c => if (c.phase = 2 || c.phase = 3) && !t.late c.since then (t.kvRun c (kvBody c [])).kvGo else t
      | none => t)
/-- KV_RETURN_RECEIVE: the lender's frame becomes free and goes back on llist (R297 step 6). -/
def execKvReturnReceive (s : State) : Out :=
  .next (match s.takeMsg fun m => m.kind = 5 with
    | none => s
    | some (m, t) =>
      match t.lentTo (m.x.getD 0 0) m.sdev with
      | none => t
      | some f => ((kvPush f.pool.llist f).run none t).2)
/-- KV_RETURN_RELEASE: a kv-return held for a lender that can be reached again is sent and counted (R299, 25 R442). -/
def execKvReturnRelease (dev : Nat) (s : State) : Out :=
  .next (match s.part.returns.find? fun x => x.1 = dev && s.isPeer dev with
    | none => s
    | some x =>
      ((s.setPart { s.part with returns := s.part.returns.erase x }).sendMsg (s.engineMsg dev 5 [x.2.1] [])).countPool x.2.2 4 1)

/-- The next step of the store. -/
def State.kvDue (s : State) : Option Instr :=
  let find (t : Cmd → Bool) : Option Cmd := s.core.cmds.find? fun c => c.isKv && t c
  let step (t : Cmd → Bool) (g : Cmd → Instr) : Option Instr := (find t).map g
  let staged (c : Cmd) : Instr :=
    match c.att with
    | some a => .attnPageStaged c.id (match s.stagedPages c a with | p :: _ => p.block | [] => 0)
    | none => .pweAssign
  let l : List (Option Instr) :=
    [ step s.lendLate fun c => .kvLendTimeout c.id,
      step s.lenderLost fun c => .lenderUnreachable c.id,
      (s.part.returns.find? fun x => s.isPeer x.1).map fun x => .kvReturnRelease x.1,
      step s.transitOver fun c => .kvTransitEnd c.id,
      step s.freeable fun c => .kvFrameFree (c.st.getD 4 0),
      step Cmd.unitReady fun c => .attnUnitFold c.id,
      step s.pageReady staged,
      if s.kvWaiting.isSome && s.freeEngine.isSome then some .pweAssign else none,
      if (find s.kvCanGo).isSome && decide (s.kvGoAll ≠ s) then some .pweAssign else none ]
  l.findSome? id

end Sys2Proof.Machine
end

