-- ==== Sys2Proof/Machine/Tiles.lean ====
section
/-! DEFINITION. Named tiles and recipes: what the tile directory does with each command, the builds it spawns, and the
steps that carry bytes (15 R324 to R337, 24 R432). -/

namespace Sys2Proof.Machine

/-! ## The requester (R327, R331) -/

/-- The recipe register of the context that issued a command, as it was at acceptance. -/
def Cmd.rtile (c : Cmd) : Dword := c.args.getD 3 0
/-- Its build depth (R327). -/
def Cmd.depth (c : Cmd) : Nat := if c.rtile.getLsbD 63 then bits c.rtile 32 3 else 0
/-- The tile it builds, or none. -/
def Cmd.ownTile (c : Cmd) : Nat := if c.rtile.getLsbD 63 then bits c.rtile 0 32 else noTile
/-- A tile is another one or one of its ancestors: parent is followed at most n steps (R331). -/
def State.descends (s : State) (t : Nat) : Nat → Nat → Bool
  | 0, id => decide (id = t) && decide (id ≠ noTile)
  | n + 1, id => decide (id ≠ noTile) && (decide (id = t) || s.descends t n (s.tileAt id).parent)

/-! ## Spawning a build (R325, R326) -/

/-- The source ids of a recipe record. -/
def recipeSources (b : List Byte) : List Nat :=
  ((List.range 4).map fun i => leNat ((b.drop (24 + 4 * i)).take 4)).filter fun x => x ≠ noTile
/-- A record that may be spawned as a recipe (R325, R108, R321). -/
def State.recipeOk (s : State) (b : List Byte) : Bool :=
  let r := recordOf b
  s.recordOk r && r.rc && r.psize = 0 && r.pitch = 0 && (recipeSources b).all fun x => (s.tile x).isSome
/-- The source number of the directory logic: of the floor die under the partition's lowest die (01 R19, R321). -/
def State.tileSource (s : State) : Nat :=
  (((List.range 4).find? fun i => s.part.setup.dies.getLsbD i).getD 0) * 2 ^ 14 + 115 * 2 ^ 7
/-- The recipe record's bytes, or a log record with the cause (R326). -/
def State.recipeBytes (s : State) (aux : Nat) : State × Option (List Byte) :=
  let va := BitVec.ofNat 64 aux
  if aux % 64 ≠ 0 then (s.logEvent s.tileSource 0x45 va 0, none)
  else
    let t := s.translate va false true
    match t.2 with
    | .error e => (t.1.logEvent t.1.tileSource e va 0, none)
    | .ok (pa, _) =>
      if t.1.integrityFail pa then (t.1.logEvent t.1.tileSource 0x46 va 0, none) else (t.1, some (t.1.pkg.reads t.1.keyId pa 64))
/-- The recipe register of a build's strand (R327). -/
def buildReg (tile depth : Nat) : Dword := BitVec.ofNat 64 (2 ^ 63 + depth % 8 * 2 ^ 32 + tile % 2 ^ 32)
/-- A recipe strand is placed on a context, listed in the die's ready list, or held at the directory (R326, R328). -/
def State.placeBuild (s : State) (e : ReadyEnt) : State × Bool :=
  match e.tile with
  | none => (s, true)
  | some (tile, depth) =>
    match s.placeOne e.addr (recordOf (s.recBytes (va56 e.addr))) false (buildReg tile depth) true with
    | some t => (t, true)
    | none => s.enterReady e
/-- Step 3 of R326: the record is copied to the strand area with state 0 and job 0, and the strand is placed. -/
def State.spawnBuild (s : State) (b : List Byte) (tile depth : Nat) : State × Dword :=
  let va := s.part.setup.strandArea + 64 * s.part.nextStrand
  let rec_ : Dword := BitVec.ofNat 64 va
  let f := fieldOf b 8 4
  let f := f % 2 ^ 24 + f / 2 ^ 26 * 2 ^ 26
  let s := s.recWrite rec_ 0 (b.take 8 ++ natBytes 4 f ++ natBytes 4 0 ++ b.drop 16)
  let s := s.setPart { s.part with nextStrand := s.part.nextStrand + 1 }
  let e : ReadyEnt := ⟨rec_, false, false, false, some (tile, depth)⟩
  let r := s.placeBuild e
  (if r.2 then r.1 else r.1.setDie { r.1.die with held := r.1.die.held ++ [e] }, rec_)

/-! ## What each command does at the directory -/

/-- A command waits in a phase. -/
def State.tileWait (s : State) (c : Cmd) (st : List Nat) : State := s.putCmd { c with st := st }
/-- A copy between a tile and the command's region begins (R333, R334). -/
def State.startCopy (s : State) (c : Cmd) (t : Tile) : State :=
  ((if t.st = 1 then s.moveIn t else s).touchTile t.id).tileWait c [1]

/-- tl.def and tl.def.r at the directory (R332). -/
def State.carryDef (s : State) (c : Cmd) (r : Bool) : State :=
  let t := s.tileAt c.tile
  let size := (c.args.getD 1 0).toNat
  let aux := c.args.getD 2 0
  let new (aux loc : Nat) : Tile :=
    { t with st := if r then 2 else 1, r := r, v := true, depth := 0, pins := 0, size := size, loc := loc, aux := aux, waiters := 0 }
  if !s.tileId c.tile then s.failOn c 0x90
  else if t.v then s.failOn c 0x91
  else if size % 128 ≠ 0 || decide (size < 128) || decide (2 ^ 20 < size) then s.failOn c 0x92
  else if aux.toNat % (if r then 64 else 128) ≠ 0 then s.failTile c aux 0x45
  else if r then (s.putTile (new aux.toNat 0)).endCmd c
  else
    let a := s.translate aux true c.priv
    match a.2 with
    | .error e => a.1.failTile c aux e
    | .ok (pa, _) => (a.1.putTile (new pa pa)).endCmd c

/-- A tl.get of a dropped tile spawns its build, or waits for room (R326, R331). -/
def State.carrySpawn (s : State) (c : Cmd) (t : Tile) : State :=
  if 4 < c.depth + 1 then s.failOn c 0x95
  else
    let a := s.allocTile t.size
    match a.2 with
    | none => a.1.tileWait c [3]
    | some loc =>
      let r := a.1.recipeBytes t.aux
      match r.2 with
      | none => r.1.failOn c 0x96
      | some b =>
        if !r.1.recipeOk b then r.1.failOn c 0x96
        else
          let s := r.1.putTile { t with st := 3, depth := c.depth + 1, parent := c.ownTile, waiters := 1, loc := loc }
          let s := s.holdRoom t.id
          let srcs := recipeSources b
          let s := srcs.foldl (fun s x => let u := s.tileAt x; s.putTile { u with pins := u.pins + 1 }) s
          let p := (s.tileWait c [2]).spawnBuild b t.id (c.depth + 1)
          p.1.setPart { p.1.part with builds := p.1.part.builds ++ [⟨t.id, p.2, srcs, false⟩] }

/-- tl.get at the directory (R333). -/
def State.carryGet (s : State) (c : Cmd) : State :=
  match s.tile c.tile with
  | none => s.failOn c 0x90
  | some t =>
    if (c.args.getD 2 0).toNat ≠ t.size then s.failOn c 0x92
    else if t.st = 2 then s.carrySpawn c t
    else if t.st = 3 then
      if s.descends t.id 4 c.ownTile then s.failOn c 0x95
      else (s.putTile { t with waiters := t.waiters + 1 }).tileWait c [2]
    else s.startCopy c t

/-- tl.put at the directory (R334). -/
def State.carryPut (s : State) (c : Cmd) : State :=
  match s.tile c.tile with
  | none => s.failOn c 0x90
  | some t =>
    if (c.args.getD 2 0).toNat ≠ t.size then s.failOn c 0x92
    else if (!t.r && decide (t.st ≤ 1)) || (t.st = 3 && decide (c.ownTile = t.id)) then s.startCopy c t
    else s.failOn c 0x91

/-- tl.drop and tl.drop.f at the directory, with the checks in the order of R336. -/
def State.carryDrop (s : State) (c : Cmd) (f : Bool) : State :=
  match s.tile c.tile with
  | none => s.failOn c 0x90
  | some t =>
    if t.st = 3 then s.failOn c 0x91
    else if t.pins ≠ 0 then s.failOn c 0x93
    else if f then ((s.freeRoom t.id).putTile { t with v := false }).endCmd c
    else if !t.r then s.failOn c 0x91
    else if t.st = 2 then s.endCmd c
    else ((s.freeRoom t.id).putTile { t with st := 2, loc := 0 }).endCmd c

/-- tl.pin and tl.unpin at the directory (R337). -/
def State.carryPin (s : State) (c : Cmd) (up : Bool) : State :=
  match s.tile c.tile with
  | none => s.failOn c 0x90
  | some t =>
    if (if up then decide (65535 ≤ t.pins) else decide (t.pins = 0)) then s.failOn c 0x94
    else (s.putTile { t with pins := if up then t.pins + 1 else t.pins - 1 }).endCmd c

/-- tl.done at the directory: the tile is published in one step (R335). -/
def State.carryDone (s : State) (c : Cmd) : State :=
  match s.part.builds.find? fun b => va56 b.rec_ = va56 c.strand with
  | none => s.endCmd c
  | some b =>
    let t := s.tileAt b.tile
    let s := s.putTile { t with st := if s.inArea t.loc then 0 else 1, waiters := 0 }
    let s := s.releasePins b.srcs
    let s := s.setPart { s.part with builds := s.part.builds.filter fun x => x ≠ b }
    let s := s.touchTile b.tile
    ((s.core.waitingOn b.tile).foldl (fun s w => s.tileWait w [1]) s).endCmd c

/-- A command is carried out at the directory, unless the descriptor it names cannot be read (10 R226). -/
def State.carry (s : State) (c : Cmd) : State :=
  match (if s.tileId c.tile then s.tileFault c.tile else none) with
  | some e => s.failTile c 0 e
  | none => match c.op with
  | .tlDef _ => s.carryDef c false
  | .tlDefR _ => s.carryDef c true
  | .tlGet _ => s.carryGet c
  | .tlPut _ => s.carryPut c
  | .tlDrop _ => s.carryDrop c false
  | .tlDropF _ => s.carryDrop c true
  | .tlPin _ => s.carryPin c true
  | .tlUnpin _ => s.carryPin c false
  | .tlDone _ => s.carryDone c
  | _ => s

/-- A command's turn at the directory: commands of one strand on one tile go in the order of acceptance, a drop waits for the
copies of its tile, and tl.done for the strand's earlier tl.puts (15, R335). -/
def State.tileFirst (s : State) (c : Cmd) : Bool :=
  let before (k : Cmd) : Bool := k.isTile && decide (k.id < c.id) && decide (va56 k.strand = va56 c.strand)
  let put (k : Cmd) : Bool := match k.op with | .tlPut _ => true | _ => false
  let drop : Bool := match c.op with | .tlDrop _ | .tlDropF _ => true | _ => false
  let done : Bool := match c.op with | .tlDone _ => true | _ => false
  (s.core.cmds.all fun k => !(before k && k.tilePhase ≠ 2 && (k.tile = c.tile || (done && put k)))) &&
    !(drop && s.core.copying c.tile)
/-- Every command whose turn has come is carried out, oldest first. -/
def State.tileGo (s : State) : State :=
  (s.core.cmds.map (·.id)).foldl (fun t id =>
    match t.core.cmd id with
    | some c => if c.isTile && c.tilePhase = 0 && t.tileFirst c then t.carry c else t
    | none => t) s

/-! ## The instructions -/

/-- A tile command is accepted, and carried out when its turn has come. -/
def State.tileAccept (s : State) (op : Instr) (args : List Dword) (rd wr : Option (Nat × Nat)) (mark : Bool) : State :=
  let id := s.core.nextId
  let t := s.accept op args [] rd wr mark [0]
  match t.core.cmd id with
  | some c => if t.tileFirst c then t.carry c else t
  | none => t
/-- The operands of a tile command with the recipe register. -/
def State.tileArgs (s : State) (f : EF) : List Dword :=
  [s.x.sreg f.a.toNat, s.x.sreg f.b.toNat, s.x.sreg f.c.toNat, s.x.rtile]

/-- tl.def (R332). -/
def execTlDef (f : EF) (s : State) : Out := .next (s.tileAccept (.tlDef f) (s.tileArgs f) none none false)
/-- tl.def.r (R332). -/
def execTlDefR (f : EF) (s : State) : Out := .next (s.tileAccept (.tlDefR f) (s.tileArgs f) none none false)
/-- tl.get (R333). -/
def execTlGet (f : EF) (s : State) : Out :=
  let n := (s.x.sreg f.c.toNat).toNat
  .next (match s.padOne 128 n (s.x.sreg f.b.toNat).toNat with
    | .error t => t
    | .ok p => s.tileAccept (.tlGet f) (s.tileArgs f) none (regionOf p n) true)
/-- tl.put (R334). -/
def execTlPut (f : EF) (s : State) : Out :=
  let n := (s.x.sreg f.c.toNat).toNat
  .next (match s.padOne 128 n (s.x.sreg f.b.toNat).toNat with
    | .error t => t
    | .ok p => s.tileAccept (.tlPut f) (s.tileArgs f) (regionOf p n) none false)
/-- tl.drop (R336). -/
def execTlDrop (f : EF) (s : State) : Out := .next (s.tileAccept (.tlDrop f) (s.tileArgs f) none none false)
/-- tl.drop.f (R336). -/
def execTlDropF (f : EF) (s : State) : Out := .next (s.tileAccept (.tlDropF f) (s.tileArgs f) none none false)
/-- tl.pin (R337). -/
def execTlPin (f : EF) (s : State) : Out := .next (s.tileAccept (.tlPin f) (s.tileArgs f) none none false)
/-- tl.unpin (R337). -/
def execTlUnpin (f : EF) (s : State) : Out := .next (s.tileAccept (.tlUnpin f) (s.tileArgs f) none none false)
/-- tl.done: tile-state for a context that builds no tile or has published its build (R335). -/
def execTlDone (f : EF) (s : State) : Out :=
  let mine (b : Build) : Bool := decide (va56 b.rec_ = va56 s.x.brec) && !b.done
  .next (match s.x.rtile.getLsbD 63, s.part.builds.find? mine with
    | true, some b =>
      let t := s.setPart { s.part with builds := s.part.builds.map fun x => if x = b then { x with done := true } else x }
      t.tileAccept (.tlDone f) [BitVec.ofNat 64 b.tile, 0, 0, s.x.rtile] none none false
    | _, _ => s.cause 0x91)

/-! ## Steps -/

/-- The lines of a copying command that have still to move. -/
def Cmd.tileLines (c : Cmd) : List Nat :=
  (List.range ((c.args.getD 2 0).toNat / 128)).filter fun i => !(c.st.drop 1).contains i
/-- A tile copy may move a line. -/
def State.canMove (s : State) (c : Cmd) : Bool := c.isTile && c.tilePhase = 1 && s.core.canRead c && s.core.canWrite c
/-- One line moves between the tile and scratchpad (R333, R334), or meets a cause. -/
def State.moveLine (s : State) (c : Cmd) (loc line : Nat) : State × Option Nat :=
  let a := loc + 128 * line
  match c.wr with
  | some (p, _) =>
    match s.physFault a 128 with
    | some e => (s, some e)
    | none => ((s.engWrite (p + 128 * line) (s.pkg.reads s.keyId a 128)).setFull ((p + 128 * line) / 128) true, none)
  | none =>
    match s.physWriteFault a 128 with
    | some e => (s, some e)
    | none => (s.storeMem a (s.engBytes c ((c.rd.getD (0, 0)).1 + 128 * line) 128), none)
/-- TILE_COPY_LAND: a line of a tile's copy moves; with the last one the command completes (R333, R334, log 44). -/
def execTileCopyLand (id line : Nat) (s : State) : Out :=
  .next (match s.core.cmd id with
    | none => s
    | some c =>
      if !(s.canMove c && c.tileLines.contains line) then s
      else
        let r := s.moveLine c (s.tileAt c.tile).loc line
        match r.2 with
        | some e => (r.1.failTile c 0 e).tileGo
        | none =>
          let c := { c with st := c.st ++ [line] }
          if c.tileLines.isEmpty then ((r.1.touchTile c.tile).endCmd c).tileGo else r.1.putCmd c)

/-- The command that waits longest for room, carried out again, when there is room now (R324). -/
def State.roomed (s : State) : Option State :=
  s.core.cmds.findSome? fun c =>
    if c.isTile && c.tilePhase = 3 then
      let t := s.carry c
      match t.core.cmd c.id with
      | some d => if d.tilePhase = 3 then none else some t
      | none => some t
    else none
/-- TILE_ROOM_FREED (R324). -/
def execTileRoomFreed (s : State) : Out := .next (match s.roomed with | some t => t.tileGo | none => s)

/-- The oldest spawn held at the directory, placed or listed when there is room (R326). -/
def State.unheld (s : State) : Option State :=
  match s.die.held with
  | [] => none
  | e :: l =>
    let r := (s.setDie { s.die with held := l }).placeBuild e
    if r.2 then some r.1 else none
/-- RECIPE_SPAWN_RETRY (R326). -/
def execRecipeSpawnRetry (s : State) : Out := .next (s.unheld.getD s)

/-- The next step of the tile directory. -/
def State.tileDue (s : State) : Option Instr :=
  let l : List (Option Instr) :=
    [ if s.unheld.isSome then some .recipeSpawnRetry else none,
      if s.roomed.isSome then some .tileRoomFreed else none,
      s.core.cmds.findSome? fun c => if s.canMove c then c.tileLines.head?.map fun i => Instr.tileCopyLand c.id i else none ]
  l.findSome? id

end Sys2Proof.Machine
end

