-- ==== Sys2Proof/Machine/Rule.lean ====
section
/-! DEFINITION. The instructions of the rule unit and its steps (16 R344 to R353). -/

namespace Sys2Proof.Machine

/-- A command enters the rule-unit queue of 4 entries, or the bundle waits (R347). -/
def State.ruAccept (s : State) (op : Instr) (args : List Dword) (rd wr : Option (Nat × Nat)) (mark : Bool) : State :=
  if 4 ≤ (s.core.cmds.filter Cmd.isRule).length then s.wait 5 else s.accept op args [] rd wr mark [0, 1, 0]

/-- ru.tab (R350): the limits are checked before the source region that they bound (DEDUCED, log 46). -/
def execRuTab (f : EF) (s : State) : Out :=
  let b := (s.x.sreg f.b.toNat).toNat
  let n := (s.x.sreg f.c.toNat).toNat
  let ok := b % 128 = 0 && n % 128 = 0 && decide (128 ≤ n) && decide (n ≤ 32768) && decide (b + n ≤ 32768)
  .next (if !ok then s.cause 0x8D
    else match s.padOne 128 n (s.x.sreg f.a.toNat).toNat with
    | .error u => u
    | .ok p => s.ruAccept (.ruTab f) [BitVec.ofNat 64 b, BitVec.ofNat 64 n] (regionOf p n) none false)

/-- ru.cfg (R351). -/
def execRuCfg (f : EF) (s : State) : Out := .next (s.setX { s.x with ruCfg := s.x.sreg f.a.toNat })

/-- The bytes of the alternate area that a step uses: the tile's in synchronous mode, the plane's with X (R345). -/
def ruAltLen (c : Dword) (x : Bool) : Nat :=
  max (if ruU c then 0 else ruSize c) (if x then ruRows c * (ruWidth c / 8) else 0)
/-- rule-config (R344, R345, R352). -/
def ruBad (c : Dword) (g : Nat) (x : Bool) (tile : Nat) : Bool :=
  let nb := bits c 2 2
  let r := bits c 4 2
  let h := bits c 14 6
  let alt := bits c 41 21
  let n := ruAltLen c x
  bits c 62 2 ≠ 0 || bits c 0 2 = 3 || nb = 3 || r = 0 || (nb = 0 && ruRows c ≠ 1) || (nb ≠ 0 && r ≠ 1) ||
    decide (2 ^ ruW c ≤ bits c 10 4) || decide (65536 < ruSize c) || (bits c 8 2 = 3 && h = 0) ||
    (n ≠ 0 && (alt % 128 ≠ 0 || overlaps alt n tile (ruSize c))) ||
    (bits c 8 2 = 3 && decide (h < (if ruU c then 2 else 1) * g * r))
/-- The alternate area of a step, where it uses one. -/
def State.ruAltAt (s : State) (c : Dword) (x : Bool) : Except State (Option Nat) :=
  if ruAltLen c x = 0 then .ok none
  else
    match s.padOne 128 (ruAltLen c x) (bits c 41 21) with
    | .error t => .error t
    | .ok p => .ok (some p)
/-- ru.step (R352): alignment of s[a], rule-config, bounds of the tile and of alt in this order. D clears at acceptance (R346). -/
def execRuStep (f : EF) (s : State) : Out :=
  let c := s.x.ruCfg
  let g := (f.i.extractLsb' 0 8).toNat + 1
  let n := f.i.getLsbD 8
  let x := f.i.getLsbD 9
  let a := (s.x.sreg f.a.toNat).toNat
  let size := ruSize c
  .next (if a % 128 ≠ 0 then s.causeI 8 0x41 (BitVec.ofNat 64 (a % 2 ^ 21))
    else if ruBad c g x a then s.cause 0x8C
    else
      match s.padOne 128 size a, s.ruAltAt c x with
      | .error t, _ => t
      | _, .error t => t
      | .ok tp, .ok alt =>
        let ap := alt.getD tp
        let lo := min tp ap
        let hi := max (tp + size) (ap + ruAltLen c x)
        let flags := (if n then 1 else 0) + (if x then 2 else 0)
        let t := s.ruAccept (.ruStep f)
          [c, BitVec.ofNat 64 (if ruU c then 2 * g else g), BitVec.ofNat 64 flags, BitVec.ofNat 64 tp, BitVec.ofNat 64 ap]
          (regionOf tp size) (regionOf lo (hi - lo)) true
        t.setX { t.x with ruD := false })

/-- ru.gen (R353): it returns when the steps before it have completed. -/
def execRuGen (f : EF) (s : State) : Out :=
  .next (((s.accept (.ruGen f) [] [] none none false []).owes f.c).ruReturns s.x.brec)
/-- ru.gen.w (R353). -/
def execRuGenW (f : EF) (s : State) : Out :=
  .next (s.setX { s.x with ruGen := (s.x.sreg f.a.toNat).extractLsb' 0 10, ruD := false })

/-! ## Steps -/

/-- The command at the head of the rule-unit queue (R347). -/
def CoreSt.ruHead (c : CoreSt) : Option Cmd := c.cmds.find? Cmd.isRule
/-- A step starts to run: it reads the counter, or sets it to 0 with N (R346), and takes the tile as it reads it. -/
def State.ruStart (s : State) (c : Cmd) : State :=
  let n := if c.ruN then 0 else s.ruCount c
  let size := ruSize c.ruC
  let s := if n < c.ruTarget then s.engWrite c.ruTile (s.engBytes c c.ruTile size) else s
  let c := { c with st := [1, if c.ruLinked then 1 else 0, n, c.ruGroup] }
  (s.putCmd c).setRuCount c n
/-- One generation, or one half-step (R343, R352). -/
def State.ruAdvance (s : State) (c : Cmd) : State :=
  let n := s.ruCount c
  let p := if ruU c.ruC then some (n % 2) else none
  let s := s.engWrite c.ruTile (ruNext c.ruC s.core.rule (s.padRead c.ruTile (ruSize c.ruC)) p)
  s.setRuCount c (n + 1)
/-- The head of the queue can go on: a table load that may read its source, a step that may start, or one below its target. -/
def State.ruCanRun (s : State) (c : Cmd) : Bool :=
  s.core.canRead c && s.core.canWrite c && (c.ruPhase ≠ 1 || decide (s.ruCount c < c.ruTarget))
/-- RU_STEP_RUN: the rule unit carries on with the head of its queue (R347, R350, R352, log 46). -/
def execRuStepRun (s : State) : Out :=
  .next (match s.core.ruHead with
    | none => s
    | some c =>
      if !s.ruCanRun c then s
      else if !c.isStep then
        let b := s.engBytes c (c.rd.getD (0, 0)).1 (c.args.getD 1 0).toNat
        (s.setCore { s.core with rule := Map.setBytes s.core.rule (c.args.getD 0 0).toNat b }).endCmd c
      else
        if c.ruPhase = 0 then s.ruStart c else s.ruAdvance c)
/-- The step at the head of the queue has reached its target. -/
def State.ruReached (s : State) : Option Cmd :=
  match s.core.ruHead with
  | some c => if c.isStep && c.ruPhase = 1 && decide (c.ruTarget ≤ s.ruCount c) then some c else none
  | none => none
/-- RU_STEP_COMPLETE (R347). -/
def execRuStepComplete (s : State) : Out := .next (match s.ruReached with | some c => s.ruEnd c true | none => s)

/-- The next step of the rule unit. -/
def State.ruleDue (s : State) : Option Instr :=
  if s.ruReached.isSome then some .ruStepComplete
  else
    match s.core.ruHead with
    | some c => if s.ruCanRun c then some .ruStepRun else none
    | none => none

end Sys2Proof.Machine
end

