-- ==== Sys2Proof/Machine/Messages.lean ====
section
/-! DEFINITION. Messages between devices: msg.send, posted receives, the receive engine with its unexpected queue, landings,
their actions and the starts of handlers (17 R355 to R369). -/

namespace Sys2Proof.Machine

/-! ## Fields -/

/-- The source of a message (R356). -/
def msgSource (m : Msg) : Nat := m.sdev * 256 + m.sep
/-- Formats of payloads (R362). -/
def msgFmt (c : Nat) : Bool := copyFmt c || c = 15
/-- A message's format and a receive's form a pair (R362). -/
def msgPair (a b : Nat) : Bool := (copyFmt a && copyFmt b) || (a = 15 && b = 15)
/-- An endpoint names the partition (R355). -/
def State.endpoint (s : State) (e : Nat) : Bool :=
  s.part.present && decide (e ≠ engineEp) && s.part.setup.endpoints.any fun x => x.1 = e
/-- The partition of other dies that an endpoint names (R355, 01 R25). -/
def Pkg.otherAt (p : Pkg) (e : Nat) : Option Other :=
  p.others.find? fun o => decide (e ≠ engineEp) && o.setup.endpoints.any fun x => x.1 = e
/-- The largest eager payload (R357). -/
abbrev eager : Nat := 65536
/-- A receive matches a message on an endpoint (R359). -/
def recvMatch (ep src smask : Nat) (tag tmask : Word) (m : Msg) : Bool :=
  m.dep = ep && (msgSource m ^^^ src) &&& smask = 0 && (m.tag ^^^ tag) &&& tmask = 0#32
/-- The same for a posted receive. -/
def Recv.fits (r : Recv) (m : Msg) : Bool := recvMatch r.ep r.src r.smask r.tag r.tmask m

/-! ## msg.send (R366): args payload address, local barrier; st phase (0 not left, 1 waits for a clear-to-send, 2 has it) and the
landing the clear-to-send named -/

/-- A field of the request block. -/
def Cmd.msgField (c : Cmd) (o n : Nat) : Nat := fieldOf c.req o n
/-- Payload bytes. -/
def Cmd.msgLen (c : Cmd) : Nat := c.msgField 12 4
/-- A msg.send. -/
def Cmd.isSend (c : Cmd) : Bool := match c.op with | .msgSend _ => true | _ => false
/-- The message of a send, with engine fields and a payload (R356). -/
def State.sendOf (s : State) (c : Cmd) (x : List Nat) (pay : List Byte) : Msg :=
  let n := c.msgField
  { dst := n 0 2, dep := n 2 1, kind := n 3 1, z := decide (eager < c.msgLen), sdev := s.me, sep := n 6 1,
    hidx := if n 3 1 = 1 then n 4 1 else 0, tag := BitVec.ofNat 32 (n 8 4), len := c.msgLen, fmt := n 5 1 % 16, x := x,
    payload := pay }
/-- A device of the torus: each coordinate below 16 (00 R2, R356). -/
def torusDev (d : Nat) : Bool := decide (d % 32 < 16) && decide (d / 32 % 32 < 16) && decide (d / 1024 < 16)
/-- msg-config of a send. -/
def sendBad (q : List Byte) : Bool :=
  let n := fieldOf q
  !torusDev (n 0 2) || decide (254 < n 2 1) || decide (1 < n 3 1) || !msgFmt (n 5 1 % 16) || decide (128 ≤ n 5 1) ||
  decide (254 < n 6 1) || n 7 1 ≠ 0 || decide (2 ^ 24 < n 12 4) || n 16 8 % copySize (n 5 1 % 16) ≠ 0 || n 32 32 ≠ 0
/-- msg.send (R366): msg-config, msg-endpoint, then the causes of R191. -/
def execMsgSend (f : EF) (s : State) : Out :=
  let a := (s.x.sreg f.a.toNat).toNat
  .next (match s.request a with
    | .error t => t
    | .ok q =>
      let n := fieldOf q
      let pad := !((BitVec.ofNat 8 (n 5 1)).getLsbD 4) && decide (0 < n 12 4)
      if sendBad q then s.cause 0xB0
      else if !s.endpoint (n 6 1) then s.cause 0xB1
      else
        match s.padOne 64 64 a, (if pad then s.padOne 1 (n 12 4) (n 16 8) else .ok 0) with
        | .error t, _ => t
        | _, .error t => t
        | .ok b, .ok p =>
          let lo := if pad then min b p else b
          let hi := if pad then max (b + 64) (p + n 12 4) else b + 64
          let va := if pad then p else n 16 8
          s.accept (.msgSend f) [BitVec.ofNat 64 va, BitVec.ofNat 64 (n 24 8)] q (some (lo, hi - lo)) none false [0, 0])

/-- A command still has writes to perform that a send with OE waits for; a value that it returns is none (R366). -/
def Cmd.writing (c : Cmd) : Bool :=
  match c.op with
  | .msgSend _ => decide (c.args.getD 1 0 ≠ 0#64)
  | .mxCall _ | .mxLd _ | .mxZero _ | .ruGen _ | .ruTab _ | .kvLen _ | .kvLenT _ | .kvPos _ => false
  | _ => !(c.wr.isSome && c.wrDone)
/-- A send may go on: its header keeps the order of its source and destination, and waits for earlier writes with OE; its
payload waits for the scoreboard and, in a rendezvous, for the clear-to-send (R357, R358, R366, 11 R246). -/
def State.sendReady (s : State) (c : Cmd) : Bool :=
  let before (k : Cmd) : Bool := decide (k.id < c.id)
  let same (k : Cmd) : Bool := k.msgField 0 2 = c.msgField 0 2 && k.msgField 6 1 = c.msgField 6 1
  let oe := (BitVec.ofNat 8 (c.msgField 5 1)).getLsbD 6
  let leave := s.core.cmds.all fun k => !before k ||
    (!(k.isSend && k.st.getD 0 0 = 0 && same k) && !(oe && decide (va56 k.strand = va56 c.strand) && k.writing))
  c.isSend && (match c.st.getD 0 0 with
    | 0 => leave && (decide (eager < c.msgLen) || s.core.canRead c)
    | 1 => false
    | _ => s.core.canRead c)
/-- A range cut at its lines. -/
def cutLines (a n : Nat) : List (Nat × Nat) :=
  (List.range (linesOf a n).2).map fun i =>
    let lo := max a (((linesOf a n).1 + i) * 128)
    (lo, min (a + n) (((linesOf a n).1 + i + 1) * 128) - lo)
/-- Global bytes read by a command, or the cause with its address. -/
def State.readGlobal (s : State) (c : Cmd) : List (Nat × Nat) → State × Except (Nat × Dword) (List Byte)
  | [] => (s, .ok [])
  | (a, n) :: l =>
    let t := s.engAddr c (BitVec.ofNat 64 a) false
    match t.2 with
    | .error e => (t.1, .error (e, BitVec.ofNat 64 a))
    | .ok pa =>
      let b := t.1.pkg.reads t.1.keyId pa n
      let r := t.1.readGlobal c l
      match r.2 with
      | .ok m => (r.1, .ok (b ++ m))
      | .error e => (r.1, .error e)
/-- The payload of a send (R366). -/
def State.sendPayload (s : State) (c : Cmd) : State × Except (Nat × Dword) (List Byte) :=
  let a := (c.args.getD 0 0).toNat
  if (BitVec.ofNat 8 (c.msgField 5 1)).getLsbD 4 then s.readGlobal c (cutLines a c.msgLen)
  else (s, .ok (s.engBytes c a c.msgLen))
/-- A barrier object loses bytes that a landing or a send has moved, none among them, or a cause (R363, R366). -/
def State.msgBarrier (s : State) (a : Dword) (priv : Bool) (n : Nat) : State × Option Nat :=
  if a.toNat % 16 ≠ 0 then (s, some 0x45)
  else
    let t := s.translate a true priv
    match t.2 with
    | .error e => (t.1, some e)
    | .ok (pa, ty) =>
      if ty = 2 then (t.1, some 0x47) else if t.1.integrityFail pa then (t.1, some 0x46) else (t.1.barSub ⟨false, pa⟩ n, none)
/-- The payload has left: length is subtracted from the local barrier, and the command completes (R366). -/
def State.sendDone (s : State) (c : Cmd) : State :=
  let lbar := c.args.getD 1 0
  if lbar = 0#64 then s.endCmd c
  else
    let r := s.msgBarrier lbar c.priv c.msgLen
    match r.2 with
    | some e => r.1.failCmd c lbar e
    | none => r.1.endCmd c
/-- MSG_SEND_COMPLETE: a message leaves, or a rendezvous its header first (R357, R366, log 45). -/
def execMsgSendComplete (id : Nat) (s : State) : Out :=
  .next (match s.core.cmd id with
    | none => s
    | some c =>
      if !s.sendReady c then s
      else if !s.reaches (c.msgField 0 2) then s.failCmd c 0 0xB2
      else if c.st.getD 0 0 = 0 && decide (eager < c.msgLen) then
        (s.sendMsg (s.sendOf c [] [])).putCmd { c with st := [1, 0] }
      else
        let r := s.sendPayload c
        match r.2 with
        | .error e => r.1.failCmd c e.2 e.1
        | .ok b => (r.1.sendMsg (r.1.sendOf c (if eager < c.msgLen then [c.st.getD 1 0] else []) b)).sendDone c)
/-- A clear-to-send answers the header that a command sent: its fields after the landing are those that the header held (R356,
R357, log 38). -/
def Cmd.answered (c : Cmd) (m : Msg) : Bool :=
  let n := c.msgField
  c.isSend && c.st.getD 0 0 = 1 && n 0 2 = m.sdev &&
    m.x.drop 1 = [n 2 1, n 6 1, n 3 1, if n 3 1 = 1 then n 4 1 else 0, n 8 4, n 12 4, n 5 1 % 16]
/-- CTS_RECEIVE: the oldest send whose header it answers may transfer the payload (R357). -/
def execCtsReceive (s : State) : Out :=
  .next (match s.takeMsg fun m => m.kind = 6 with
    | none => s
    | some (m, t) =>
      match t.core.cmds.find? fun c => c.answered m with
      | some c => t.putCmd { c with st := [2, m.x.getD 0 0] }
      | none => t)

/-! ## Matching (R359 to R361) -/

/-- A receive has matched a message: it is to land, and a rendezvous asks for its payload (R357, R361). Nothing of a pair of
formats that does not convert lands, so it waits for no payload (R362). -/
def State.beginLanding (s : State) (r : Recv) (m : Msg) : State :=
  let id := s.part.nextRecv
  let s := s.setPart { s.part with
    posted := s.part.posted.filter fun x => x.id ≠ r.id, nextRecv := id + 1,
    landings := s.part.landings ++ [⟨id, r, m, !m.z || !msgPair m.fmt r.fmt⟩],
    matched := if r.id = 0 then s.part.matched else s.part.matched ++ [(r.id, r.strand)] }
  if m.z then s.sendMsg (s.engineMsg m.sdev 6 [id, m.dep, m.sep, m.kind, m.hidx, m.tag.toNat, m.len, m.fmt] []) else s
/-- The unexpected queue has room for a message (R360). -/
def State.unexpRoom (s : State) (m : Msg) : Bool :=
  decide (s.part.unexp.length < 65536) &&
    decide (s.part.unexp.foldl (fun n x => n + x.payload.length) m.payload.length ≤ s.part.setup.unexpPool)
/-- A fatal cause has stopped every partition, and the receive engine with them (18 R385). -/
def State.allStopped (s : State) : Bool :=
  s.part.stopped && (s.pkg.others.all fun o => o.stopped) &&
    (match s.pkg.fatal with | some r => stopsAll r.src.toNat r.cause.toNat | none => false)
/-- A message is for a partition that is stopped or swapped out, whose arrivals the receive engine holds (18 R383, R385). -/
def State.holdsArrival (s : State) (m : Msg) : Bool :=
  s.allStopped ||
    (if isPayload m || s.endpoint m.dep then s.part.stopped || s.part.swapped
     else match s.pkg.otherAt m.dep with | some o => o.stopped | none => false)
/-- The receive engine can take a message of the ports that are not stalled (R355, R360). -/
def State.canTake (s : State) (m : Msg) : Bool :=
  !s.holdsArrival m && (isPayload m || !s.endpoint m.dep || (s.part.posted.any fun r => r.fits m) || s.unexpRoom m)
/-- A message for no endpoint of this partition: another partition's lists take it, or it is discarded with a record (R355, 01
R25). -/
def State.passOn (s : State) (m : Msg) : State :=
  match s.pkg.otherAt m.dep with
  | some o => s.setPkg { s.pkg with others := s.pkg.others.map fun x => if x = o then { x with arrived := x.arrived ++ [m] } else x }
  | none => s.logReceive 0xB1
/-- MSG_ARRIVAL: one message is matched, queued as unexpected, or discarded (R355, R359 to R361). -/
def execMsgArrival (s : State) : Out :=
  .next (match s.takeMsg fun m => decide (m.kind ≤ 1) && s.canTake m with
    | none => s
    | some (m, t) =>
      if isPayload m then
        let got (l : Landing) : Landing :=
          if l.id = m.x.getD 0 0 && l.msg.z && !l.here then { l with msg := { l.msg with payload := m.payload }, here := true }
          else l
        t.setPart { t.part with landings := t.part.landings.map got }
      else if !t.endpoint m.dep then t.passOn m
      else
        match t.part.posted.find? fun r => r.fits m with
        | some r => t.beginLanding r m
        | none => t.setPart { t.part with unexp := t.part.unexp ++ [m] })

/-! ## Landing (R362) -/

/-- Where an element goes (R362). -/
def Recv.elemAt (r : Recv) (e : Nat) : Dword :=
  r.dest + BitVec.ofNat 64 (e % r.cnt0 * copySize r.fmt) + BitVec.ofNat 64 (e / r.cnt0) * r.str1
/-- Pieces of one store of a landing, each in a line of its own: all are translated before any is written, or a cause stops it. -/
def State.landPieces (s : State) (priv : Bool) (k : State → State) : List (Nat × List Byte) → State × Option Nat
  | [] => (k s, none)
  | (va, b) :: l =>
    let t := s.translate (BitVec.ofNat 64 va) true priv
    match t.2 with
    | .error e => (t.1, some e)
    | .ok (pa, _) =>
      if t.1.writeFail pa b.length then (t.1, some 0x46) else t.1.landPieces priv (fun u => (k u).storeAt pa b) l
/-- A store of a landing at a global address, which may lie in two pages, or its cause (R362, log 45). -/
def State.landStore (s : State) (va : Dword) (priv : Bool) (b : List Byte) : State × Option Nat :=
  s.landPieces priv (fun u => u) ((cutLines va.toNat b.length).map fun x => (x.1, (b.drop (x.1 - va.toNat)).take x.2))
/-- Elements land from number e on: the bytes landed, and the cause that stopped it. -/
def State.landElems (s : State) (r : Recv) (m : Msg) : Nat → Nat → State × Nat × Option Nat
  | _, 0 => (s, 0, none)
  | e, n + 1 =>
    let sz := copySize m.fmt
    let x := leNat ((m.payload.drop (e * sz)).take sz)
    let v := natBytes (copySize r.fmt) (if m.fmt = 15 then x else (codeConv m.fmt r.fmt 0 x).1)
    let w := if r.glob then s.landStore (r.elemAt e) r.priv v else (s.engWrite (r.base + (r.elemAt e).toNat) v, none)
    match w.2 with
    | some c => (w.1, 0, some c)
    | none =>
      let q := w.1.landElems r m (e + 1) n
      (q.1, sz + q.2.1, q.2.2)
/-- A payload lands (R362): the state, the bytes landed, the fault and truncation flags. -/
def State.landPayload (s : State) (r : Recv) (m : Msg) : State × Nat × Bool × Bool :=
  if !msgPair m.fmt r.fmt then (s.logReceive 0xB0, 0, true, false)
  else
    let sz := copySize m.fmt
    let n := min m.payload.length r.maxlen / sz
    let cut := decide (r.maxlen < m.payload.length) || decide (r.cnt0 * r.cnt1 < n)
    let q := s.landElems r m 0 (min n (r.cnt0 * r.cnt1))
    match q.2.2 with
    | some c => (q.1.logReceive c, q.2.1, true, cut)
    | none => (q.1, q.2.1, false, cut)

/-! ## Records, actions and handlers (R363, R364) -/

/-- The completion record's word (R363). -/
def recordWord (m : Msg) (n : Nat) (bad cut : Bool) : Dword :=
  BitVec.ofNat 64 (n % 2 ^ 32 + msgSource m % 2 ^ 23 * 2 ^ 32 + (if bad then 2 ^ 62 else 0) + (if cut then 2 ^ 63 else 0))
/-- The barrier of action 2 loses the bytes landed, or a cause. -/
def State.recvBarrier (s : State) (r : Recv) (n : Nat) : State × Option Nat :=
  if r.glob then s.msgBarrier r.bar r.priv n
  else if r.bar.toNat % 16 ≠ 0 then (s, some 0x41)
  else if r.plen < r.bar.toNat + 16 then (s, some 0x40)
  else (s.barSub ⟨true, r.base + r.bar.toNat⟩ n, none)
/-- A pitchless record of a core endpoint whose core is another one with a free context: it runs there (R364); none where it is
to run elsewhere. Of another die the count of idle contexts is known (log 2). -/
def State.handlerAway (s : State) (rec_ : Dword) (r : Record) (ep : Nat) : Option State :=
  let there (t : State) : State := (t.recState rec_ 1).unpark rec_
  match (s.part.setup.endpoints.find? fun x => x.1 = ep).map fun x => x.2 with
  | some (EpTarget.core n) =>
    if r.pitch ≠ 0 || r.lines ≠ 0 || n = s.core.die * 96 + s.core.num || !s.part.loaded then none
    else if n / 96 ≠ s.core.die then (if s.idleOn (n / 96) then some (there (s.takeAway (n / 96))) else none)
    else if s.core.rres < s.die.otherFree then some (there (s.setDie { s.die with otherFree := s.die.otherFree - 1 }))
    else none
  | _ => none
/-- A record is placed for a handler as `spawn` places one: on the core of its endpoint where it can be, else on any idle
context of the partition, else in the ready list; a strand listed there already has W set (R364, 05 R115, log 51). -/
def State.placeHandler (s : State) (rec_ : Dword) (r : Record) (ep : Nat) : State :=
  if (s.ctxOf rec_).isSome || s.listed rec_ then (s.resumeParked rec_ receiveSource 0).1
  else
    match s.handlerAway rec_ r ep with
    | some t => t
    | none =>
      if r.state = 2 then (s.resumeParked rec_ receiveSource 0).1
      else
        match s.placeAnywhere rec_ r false with
        | some t => t
        | none => (s.enterReady ⟨rec_, false, false, true, none⟩).1
/-- A strand that a handler starts is not privileged, in a context, parked or in the ready list (18 R371). -/
def State.lowerPriv (s : State) (rec_ : Dword) : State :=
  let s := match s.ctxOf rec_ with
    | some n => s.setCtx n { s.ctx n with sp := false }
    | none => s
  let s := s.setDie { s.die with ready := s.die.ready.map fun e => if va56 e.addr = va56 rec_ then { e with sp := false } else e }
  s.setPart { s.part with
    parked := s.part.parked.map fun p => if va56 p.addr = va56 rec_ then { p with sp := false } else p }
/-- A handler starts by the state of its record, or is held while the strand runs (R364); a cleared entry is logged (R369). -/
def State.startHandler (s : State) (k : Nat) (word tag dest : Dword) (ep : Nat) : State :=
  match s.handlerEntry k with
  | none => s.logReceive 0xB3
  | some (rec_, pc) =>
    match (s.translate rec_ true true).2 with
    | .error e => s.logReceive e
    | .ok _ =>
      let st := (recordOf (s.recBytes (va56 rec_))).state
      if st = 1 then s.setPart { s.part with starts := s.part.starts ++ [⟨k, rec_, pc, word, tag, dest⟩] }
      else
        let s := s.recWrite rec_ 0 (natBytes 8 pc.toNat)
        let s := s.recWrite rec_ 24 ([word, tag, dest].flatMap fun x => natBytes 8 x.toNat)
        let s := if st = 3 then s.recState rec_ 0 else s
        let r := recordOf (s.recBytes (va56 rec_))
        if (st ≠ 2 && r.psize ≠ 0) || !s.recordOk r then s.discard receiveSource rec_ 0
        else (s.lowerPriv rec_).placeHandler rec_ r ep
/-- The record and the action of a landing; a fault is logged and the rest is skipped (R363). -/
def State.finishLanding (s : State) (l : Landing) (n : Nat) (word : Dword) : State :=
  let r := l.recv
  let w := if r.rec_ = 0#64 then (s, none) else s.landStore r.rec_ r.priv (natBytes 8 word.toNat)
  match w.2 with
  | some e => w.1.logReceive e
  | none =>
    let b := if r.act = 2 then w.1.recvBarrier r n else (w.1, none)
    match b.2 with
    | some e => b.1.logReceive e
    | none =>
      match l.handler with
      | some k => b.1.startHandler k word (l.msg.tag.setWidth 64) r.dest r.ep
      | none => b.1
/-- A landing may complete: its payload is here, the eager ones before it from its source have landed (R358), and its handler
can be held (R364). -/
def State.landable (s : State) (l : Landing) : Bool :=
  l.here && !s.startsFull l &&
    !(s.part.landings.any fun k => decide (k.id < l.id) && !k.msg.z && msgSource k.msg = msgSource l.msg)
/-- MSG_LANDING_COMPLETE of a landing (R362 to R364). -/
def execMsgLandingComplete (k : Nat) (s : State) : Out :=
  .next (match s.part.landings.find? fun l => l.id = k with
    | none => s
    | some l =>
      if !s.landable l then s
      else
        let s := s.setPart { s.part with landings := s.part.landings.filter fun x => x.id ≠ k }
        let q := s.landPayload l.recv l.msg
        let t := q.1.setFulls l.recv.lines.1 true l.recv.lines.2
        t.finishLanding l q.2.1 (recordWord l.msg q.2.1 q.2.2.1 q.2.2.2))

/-! ## msg.post, msg.cancel, msg.probe, msg.hnd (R367 to R369) -/

/-- msg-config of the source and tag fields (R367). -/
def matchBad (q : List Byte) : Bool := decide (2 ^ 23 ≤ fieldOf q 0 4) || decide (2 ^ 23 ≤ fieldOf q 4 4)
/-- msg-config of a receive (R367). -/
def postBad (q : List Byte) : Bool :=
  let n := fieldOf q
  let fmt := n 17 1 / 16
  let act := n 18 1
  matchBad q || n 17 1 % 16 / 2 ≠ 0 || decide (3 < act) || !msgFmt fmt || decide (2 ^ 24 < n 20 4) ||
  n 24 8 % copySize fmt ≠ 0 || n 32 4 = 0 || decide (2 ^ 24 < n 32 4) || n 36 4 = 0 || decide (2 ^ 24 < n 36 4) ||
  n 48 8 % 8 ≠ 0 || (act = 1 && n 48 8 = 0) || decide (n 32 4 * n 36 4 * copySize fmt < n 20 4)
/-- The receive of a request block; its destination range is given (R367). -/
def State.recvOf (s : State) (q : List Byte) (dest : Option (Nat × Nat)) : Recv :=
  let n := fieldOf q
  let p := match s.pitch with | some p => (p.base * 128, p.lines * 128) | none => (0, 0)
  { id := 0, strand := s.x.brec, priv := s.x.priv, ep := n 16 1, src := n 0 4, smask := n 4 4, tag := BitVec.ofNat 32 (n 8 4),
    tmask := BitVec.ofNat 32 (n 12 4), glob := decide (n 17 1 % 2 = 1), fmt := n 17 1 / 16, act := n 18 1, hidx := n 19 1,
    maxlen := n 20 4, dest := BitVec.ofNat 64 (n 24 8), cnt0 := n 32 4, cnt1 := n 36 4, str1 := BitVec.ofNat 64 (n 40 8),
    rec_ := BitVec.ofNat 64 (n 48 8), bar := BitVec.ofNat 64 (n 56 8), base := p.1, plen := p.2,
    lines := match dest with | some (a, k) => linesOf a k | none => (0, 0) }
/-- The search of R361 for a post: matched at once, posted with a receive id, or full. -/
def State.postRecv (s : State) (r : Recv) : State × Nat :=
  let empty (s : State) : State := s.setFulls r.lines.1 false r.lines.2
  match s.part.unexp.find? fun m => r.fits m with
  | some m => (((empty s).setPart { s.part with unexp := s.part.unexp.erase m }).beginLanding r m, 1)
  | none =>
    if 4096 + s.part.setup.postOverflow ≤ s.part.posted.length then (s, 2)
    else
      let id := s.part.nextRecv
      let p := { s.part with posted := s.part.posted ++ [{ r with id := id }], nextRecv := id + 1 }
      ((empty s).setPart p, id % 2 ^ 32 * 2 ^ 32)
/-- The scoreboard has no entry for the request block of a command that completes at acceptance (R245). -/
def State.boardFull (s : State) : Bool := decide (32 ≤ s.core.entries.length)
/-- msg.post (R367): msg-config, msg-endpoint, then the causes of R191. -/
def execMsgPost (f : EF) (s : State) : Out :=
  .next (match s.request (s.x.sreg f.a.toNat).toNat with
    | .error t => t
    | .ok q =>
      let n := fieldOf q
      let row : Int := (n 32 4 * copySize (n 17 1 / 16) : Nat)
      let span := ((n 36 4 : Int) - 1) * (BitVec.ofNat 64 (n 40 8)).toInt
      let lo : Int := (n 24 8 : Int) + min 0 span
      let hi : Int := (n 24 8 : Int) + max 0 span + row
      if postBad q then s.cause 0xB0
      else if !s.endpoint (n 16 1) then s.cause 0xB1
      else
        match s.sideRegion (decide (n 17 1 % 2 = 0)) (lo, hi) with
        | .error t => t
        | .ok d =>
          if s.boardFull then s.wait 2
          else
            let r := s.postRecv (s.recvOf q d)
            r.1.returns f.c (BitVec.ofNat 64 r.2))
/-- msg.cancel (R368). -/
def execMsgCancel (f : EF) (s : State) : Out :=
  let id := (s.x.sreg f.a.toNat).toNat % 2 ^ 32
  let mine (r : Recv) : Bool := r.id % 2 ^ 32 = id && decide (va56 r.strand = va56 s.x.brec)
  .next (match s.part.posted.find? mine with
    | some r => (s.withdraw r).returns f.c 0
    | none =>
      let hit := s.part.matched.any fun x => x.1 % 2 ^ 32 = id && decide (va56 x.2 = va56 s.x.brec)
      s.returns f.c (if hit then 1 else 2))
/-- msg.probe (R368). -/
def execMsgProbe (f : EF) (s : State) : Out :=
  .next (match s.request (s.x.sreg f.a.toNat).toNat with
    | .error t => t
    | .ok q =>
      let n := fieldOf q
      if matchBad q then s.cause 0xB0
      else if !s.endpoint (n 16 1) then s.cause 0xB1
      else if s.boardFull then s.wait 2
      else
        let fits := recvMatch (n 16 1) (n 0 4) (n 4 4) (BitVec.ofNat 32 (n 8 4)) (BitVec.ofNat 32 (n 12 4))
        s.returns f.c (match s.part.unexp.find? fits with
          | some m => BitVec.ofNat 64 (m.len + msgSource m * 2 ^ 32 + 2 ^ 63)
          | none => 0))
/-- msg.hnd (R369). -/
def execMsgHnd (f : EF) (s : State) : Out :=
  .next (s.needPriv fun s =>
    let va := s.x.sreg f.a.toNat
    let k := (f.i.extractLsb' 0 8).toNat
    if va.toNat % 64 ≠ 0 then s.causeI 8 0x45 (BitVec.ofNat 64 (va56 va))
    else
      let l := s.part.handlers.filter fun h => h.1 ≠ k
      s.setPart { s.part with handlers := if va = 0#64 then l else l ++ [(k, va, s.x.sreg f.b.toNat)] })

/-! ## What comes next -/

/-- The step that takes a message, when the receive engine can. -/
def State.receiveStep (s : State) (m : Msg) : Option Instr :=
  if s.stalled m || !s.reaches m.sdev then none
  else match m.kind with
  | 0 | 1 => if s.canTake m then some .msgArrival else none
  | 2 => some .lendRequestReceive
  | 3 => some (if m.x.getD 0 0 = 0 then .kvReadReceive else .kvReadReplyReceive)
  | 4 => some (if m.x.getD 0 0 = 0 then .kvWriteReceive else .kvWriteAckReceive)
  | 5 => some .kvReturnReceive
  | 6 => some .ctsReceive
  | 7 => some .lendReplyReceive
  | _ => none
/-- An arrival can be taken. -/
def State.arrivalDue (s : State) : Option Instr :=
  ((pickMsg s.cameBy (fun m => s.receiveStep m = some .msgArrival) [] s.pkg.inbox)).map fun _ => .msgArrival
/-- The next step of the message engines. -/
def State.msgDue (s : State) : Option Instr :=
  let l : List (Option Instr) :=
    [ (pickMsg s.cameBy (fun m => (s.receiveStep m).isSome) [] s.pkg.inbox).bind fun x => s.receiveStep x.1,
      (s.part.landings.find? s.landable).map fun x => .msgLandingComplete x.id,
      (s.core.cmds.find? s.sendReady).map fun c => .msgSendComplete c.id ]
  l.findSome? id

end Sys2Proof.Machine
end

