-- ==== Sys2Proof/Machine/Swap.lean ====
section
/-! DEFINITION. Partition swap: what comes to rest before the partition leaves, and what a restore does (18 R382, R383). The
shadow storage of the carve has no layout a program could read, so what is moved there stays where the state holds it (log
47). -/

namespace Sys2Proof.Machine

/-- Every kv.attn, and every ru.step of a context, is told to stop (14 R313, 16 R348). -/
def State.stopAll (s : State) : State :=
  let s := s.setCore { s.core with cmds := s.core.cmds.map fun c => { c with stop := true } }
  (List.range 8).foldl (fun s n => if (s.ctx n).status = .empty then s else s.ruStop (s.ctx n).brec) s
/-- A swap begins (R382, step 1): the request flag of the context that issues is raised; the others have given up the issue
path. What it does next, it yields or is frozen by R378. -/
def State.swapBegin (s : State) : State :=
  let s := (s.setPart { s.part with swapping := true }).stopAll
  if s.run && s.x.req.isNone then s.setX { s.x with req := some 0 } else s

/-- A command that waits on the partition's own work, and is saved with it (R382): the matrix queue behind a call that waits on
a ring, a tl.get that waits on a build or on room, and the tile commands behind one. -/
def Cmd.waitsOnSelf (c : Cmd) : Bool :=
  match c.op with
  | .mxCall _ | .mxDrain _ | .mxZero _ | .mxLd _ => true
  | _ => c.isTile && c.tilePhase ≠ 1
/-- A region of a command waits for one accepted before it (11 R246). -/
def Cmd.behind (c e : Cmd) : Bool :=
  decide (e.id < c.id) && ((!e.wrDone && regionsMeet e.wr c.rd) || (!e.rdDone && regionsMeet e.rd c.wr) ||
    (!e.wrDone && regionsMeet e.wr c.wr))
/-- The commands that wait on the partition's own work, those behind them by their regions among them. -/
def State.selfWaiting (s : State) : List Cmd :=
  s.core.cmds.foldl (fun l c => if c.waitsOnSelf || l.any c.behind then l ++ [c] else l) []
/-- Nothing but what is saved is still to come: no context issues, no command could go on, and an outstanding register without
its value is that of a command that is saved. -/
def State.swapReady (s : State) : Bool :=
  let saved := s.selfWaiting
  let owed (n r : Nat) : Bool := saved.any fun c => s.ctxOf c.strand = some n && (scalarWrite c.op).any fun d => d.toNat = r
  !s.run && (s.core.cmds.all fun c => c.stop && saved.contains c) && s.matrixDue.isNone && s.tileDue.isNone &&
    (List.range 8).all fun n => (s.ctx n).status = .empty || (s.ctx n).out.all fun x => x.2.isSome || owed n x.1
/-- Commands accepted since the swap began have still to be told to stop. -/
def State.swapStops (s : State) : Bool := !s.run && s.core.cmds.any fun c => !c.stop
/-- PARTITION_SWAP_OUT: the swap begins, and once the contexts and engines have come to rest the partition is out (R382). -/
def execPartitionSwapOut (s : State) : Out :=
  .next (if !s.part.present || s.part.swapped then s
    else if !s.part.swapping then s.swapBegin
    else if s.swapStops then s.stopAll
    else if !s.swapReady then s
    else
      let s := (List.range 8).foldl (fun s n => s.setCtx n (s.ctx n).landOut) s
      (s.setCore { s.core with utlb := [] }).setPart { s.part with swapping := false, swapped := true })

/-- PARTITION_SWAP_RESTORE: a strand asleep in mwait resumes with code 3, and every watch entry fires once (R382, 10 R240). -/
def execPartitionSwapRestore (s : State) : Out :=
  .next (if !s.part.swapped then s
    else
      let s := s.setPart { s.part with swapped := false }
      let s := (List.range 8).foldl (fun s n => s.mwaitReturn n 3) s
      s.fire fun _ => true)

end Sys2Proof.Machine
end

