-- ==== Sys2Proof/Machine/Agenda.lean ====
section
/-! DEFINITION. Which device step comes next when the agenda names none: the timers that are due, the host's writes, and the
pending step of an engine (log 5). -/

namespace Sys2Proof.Machine

/-- The first of several. -/
def firstSome : List (Option Instr) → Option Instr
  | [] => none
  | some e :: _ => some e
  | none :: l => firstSome l

/-- A slot of the dispatcher whose queue's head can be placed (05 R124). -/
def State.dispatchSlot (s : State) : Option Nat :=
  (s.die.qslots.find? fun x => (s.dispatch x.1).isSome).map fun x => x.1

/-- A step of the stream-context timer logic that is due (05 R126, R127). -/
def State.timerEvent (s : State) : Option Instr :=
  firstSome [
    if s.sctFirst.isSome then some .streamLaunch else none,
    if s.part.sctWait.any fun x => decide (x.2 ≤ s.gtc.toNat) then some .streamSlotRetry else none,
    if s.sctQuietFirst.isSome then some .streamQuietEvict else none,
    s.part.sctBusy.head?.map fun x => if (s.sctGet x.1).flag 2 then .streamRestoreDone x.1 else .streamEvictDone x.1 ]

/-- The step that serves a ring of a mailbox that is pending (01 R15), or carries out the host's next register write once the
BARs answer (25 R435, R447). -/
def State.hostEvent (s : State) : Option Instr :=
  if 0 < s.pkg.rings then some .mailboxRing
  else if !s.pkg.answers then none
  else
    match s.pkg.hostw with
    | [] => none
    | (o, _) :: _ =>
      some (match regAt o with
        | .wake _ _ => .wakeRegisterWrite
        | .gtcCtl => .gtcCtlWrite
        | .gtcRate => .gtcRateWrite
        | .gtcStep => .gtcStepWrite
        | _ => if isRing o then .mailboxRing else .registerWrite)

/-- A freeze that can take place (18 R378). -/
def State.freezeEvent (s : State) : Option Instr :=
  if s.freezeDue && (s.freezeBegins || s.x.out.all fun x => x.2.isSome) then some .freeze else none
/-- A step due by the time, by the arbiter or by the dispatcher. -/
def State.dueEvent (s : State) : Option Instr :=
  firstSome [
    s.hostEvent,
    if (s.firstCtx fun c => c.waitOver s.gtc).isSome then some .waitExpiry else none,
    if (s.firstCtx fun c => c.sleepOver s.gtc).isSome then some .mwaitTimeout else none,
    if s.readyPlace.isSome then some .readyListPlace else none,
    if s.sliceOver then some .sliceExpiry else none,
    s.freezeEvent,
    if s.part.present && decide (s.die.dnext.toNat ≤ s.gtc.toNat) then some .dieSliceRemap else none,
    s.dispatchSlot.map fun k => .dispatchPlace k,
    if s.part.present then s.timerEvent else none ]

/-- An outstanding register that has its value. -/
def State.returnDue (s : State) : Option Instr :=
  ((List.range 8).findSome? fun n => ((s.ctx n).out.find? fun x => x.2.isSome).map fun x => (n, x.1)).map
    fun p => .gloadReturn p.1 p.2

/-- A matrix step that can run. -/
def State.engineEvent (s : State) : Option Instr :=
  firstSome [s.returnDue, s.ruleDue, s.tileDue, s.copyDue, s.matrixDue, s.kvDue, s.msgDue]
/-- A pending step of an engine; a swap that has begun ends once its commands have. -/
def State.pendingEvent (s : State) : Option Instr :=
  if s.part.swapping && s.swapStops then some .partitionSwapOut
  else
    match s.engineEvent with
    | some e => some e
    | none => if s.part.swapping && s.swapReady then some .partitionSwapOut else none

/-- The zero-fill that ends next (10 R227). -/
def State.fillEvent (s : State) : Option Instr := s.pkg.filling.head?.map fun r => .livenessFillDone r
/-- The device step that comes next: while a partition is swapped out only the host's, its timer's, and arrivals for other
partitions (18 R383), which a stopped one sees as well (18 R385); accesses wait for a region being filled, so its fill comes
first (10 R227). -/
def State.nextEvent (s : State) : Option Instr :=
  if s.part.stopped then firstSome [s.fillEvent, s.hostEvent, s.arrivalDue]
  else if s.part.swapped then firstSome [s.fillEvent, s.hostEvent, s.timerEvent, s.arrivalDue]
  else if s.part.swapping then firstSome [s.fillEvent, s.hostEvent, s.freezeEvent, s.pendingEvent]
  else firstSome [s.fillEvent, s.dueEvent, s.pendingEvent]

/-- Steps that a stopped partition still sees: those of firmware and of the package, and arrivals for other partitions (18
R385). -/
def platformStep : Instr → Bool
  | .deviceReset _ _ | .dumpComplete | .partitionDestroy | .partitionCreate _ | .fatalError _ | .softErrorCorrect _
  | .thermalThrottle | .thermalShutdown | .mailboxRing | .gtcCtlWrite | .gtcRateWrite | .gtcStepWrite | .ppsEdge
  | .registerWrite | .ltlTimeMeasure _ _ | .ltlAttest _ _ | .ltlLinkDown _ | .cxlPortDown _ | .linkBringUp
  | .stepAbsorbedBySlewing | .livenessFillDone _ | .msgArrival => true
  | _ => false

/-- Steps that a partition swapped out still sees as well: its timer's launches and queues, the restore, and what its engines do
for other devices (18 R383, 13 R297). -/
def swappedStep : Instr → Bool
  | .streamLaunch | .streamSlotRetry | .streamQuietEvict | .streamRestoreDone _ | .streamEvictDone _ | .wakeRegisterWrite
  | .partitionSwapRestore | .lendRequestReceive | .kvReadReceive | .kvWriteReceive | .kvReturnReceive => true
  | _ => false
/-- Steps that reach no memory, which take place while a region is filled (10 R227); firmware's writes are not among them. -/
def fillStep : Instr → Bool
  | .sliceExpiry | .freeze | .watchdog | .waitExpiry | .mwaitTimeout | .gloadReturn _ _ | .wakeRegisterWrite => true
  | .mailboxRing | .partitionCreate _ | .msgArrival => false
  | e => platformStep e
/-- A device step takes place in a state. -/
def State.admits (s : State) (e : Instr) : Bool :=
  (s.pkg.filling.isEmpty || fillStep e) &&
    (if s.part.stopped then platformStep e || (match e with | .wakeRegisterWrite => true | _ => false)
    else !s.part.swapped || platformStep e || swappedStep e)

/-- One cycle: the issuing context issues or waits, an idle core arbitrates; a context whose freeze is due issues nothing more
(18 R378), and a partition that is stopped or swapped out only sees time pass. -/
def State.cycle (ex : Instr → State → Out) (s : State) : Out :=
  if s.part.stopped || s.part.swapped then .next s.tick
  else if s.run then (if s.freezeDue then .next s.tick else s.issue ex)
  else
    let t := s.arbitrate
    if t.run then t.issue ex else .next t.tick

/-- Store an instruction word as the next bundle (03 R51, 04 R96): window 0 holds the pc, the context issues, nothing else is
due. -/
def State.placeWord (s : State) (w : Word) : State :=
  let k := (tableKind w).getD .S
  let pc : Addr := s.x.pc
  let i := pc.toNat % 32768 / 4
  { s with
    x := { s.x with status := .running, pend := none, link := none, sk := false, req := none, efNow := false },
    run := true, agenda := [],
    core := { s.core with codeOld := [], iwA := some (pc.extractLsb' 15 41), iwB := none,
                          istore := Map.set 0 (Map.set 0 s.core.istore i (headerFor k)) (i + 1) w },
    part := { s.part with present := true, stopped := false, swapping := false, swapped := false } }

end Sys2Proof.Machine
end

