-- ==== Sys2Proof/Machine/Scalar.lean ====
section
/-! DEFINITION. The scalar ALU, immediate, compare, select and predicate instructions (04 R77 to R82, R107). -/

namespace Sys2Proof.Machine

/-- A scalar register operation under its predicate (R78): f of s[a] and s[b] lands in s[d]. -/
def srOp (f : SR) (lat : Nat) (g : Dword → Dword → Dword) (s : State) : Out :=
  .next (s.whenP f.p fun s => s.landS f.d (g (s.x.sreg f.a.toNat) (s.x.sreg f.b.toNat)) lat)

/-- An immediate operation (R79): f of s[a] and the extended immediate lands in s[d]. -/
def siOp (f : SI) (k : Dword) (g : Dword → Dword → Dword) (s : State) : Out :=
  .next (s.landS f.d (g (s.x.sreg f.a.toNat) k) 1)

/-- Leading zeros of an n-bit number; n for zero (R78, 06 R138). -/
def clzN (n x : Nat) : Nat := if x = 0 then n else n - 1 - Nat.log2 x
/-- The number of one bits among the low n (R78, 06 R138). -/
def popN (n x : Nat) : Nat := (List.range n).foldl (fun a i => a + x / 2 ^ i % 2) 0
/-- Sign extension of the low n bits of a dword, n from 1 to 64 (R78). -/
def sextN (n : Nat) (x : Dword) : Dword := (x <<< (64 - n)).sshiftRight (64 - n)
/-- Bits [lo + w − 1 : lo], zero-extended (R78). -/
def bfxN (lo w : Nat) (x : Dword) : Dword := (x >>> lo) &&& (BitVec.ofNat 64 (2 ^ w - 1))
/-- The low w bits of x put at lo into old (R78). -/
def bfiN (lo w : Nat) (old x : Dword) : Dword :=
  let m : Dword := BitVec.ofNat 64 (2 ^ w - 1)
  (old &&& ~~~(m <<< lo)) ||| ((x &&& m) <<< lo)

/-- The signed high half of a product (R78). -/
def mulhS (x y : Dword) : Dword := BitVec.ofInt 64 ((x.toInt * y.toInt) / 2 ^ 64)
/-- The unsigned high half of a product (R78). -/
def mulhU (x y : Dword) : Dword := BitVec.ofNat 64 (x.toNat * y.toNat / 2 ^ 64)

/-- nop: no effect, whatever its fields (R107). -/
def execNop (_ : SR) (s : State) : Out := .next s

/-- add: wrapping sum (R78). -/
def execAdd (f : SR) (s : State) : Out := srOp f 1 ((· + ·)) s

/-- sub: wrapping difference (R78). -/
def execSub (f : SR) (s : State) : Out := srOp f 1 ((· - ·)) s

/-- mul: the low 64 bits of the product, latency 3 (R78). -/
def execMul (f : SR) (s : State) : Out := srOp f 3 ((· * ·)) s

/-- mulh: the signed high half, latency 3 (R78). -/
def execMulh (f : SR) (s : State) : Out := srOp f 3 (mulhS) s

/-- mulhu: the unsigned high half, latency 3 (R78). -/
def execMulhu (f : SR) (s : State) : Out := srOp f 3 (mulhU) s

/-- and (R78). -/
def execAnd (f : SR) (s : State) : Out := srOp f 1 ((· &&& ·)) s

/-- or (R78). -/
def execOr (f : SR) (s : State) : Out := srOp f 1 ((· ||| ·)) s

/-- xor (R78). -/
def execXor (f : SR) (s : State) : Out := srOp f 1 ((· ^^^ ·)) s

/-- andn: x and not y (R78). -/
def execAndn (f : SR) (s : State) : Out := srOp f 1 (fun x y => x &&& ~~~y) s

/-- shl by y[5:0] (R78). -/
def execShl (f : SR) (s : State) : Out := srOp f 1 (fun x y => x <<< bits y 0 6) s

/-- shr: logical, by y[5:0] (R78). -/
def execShr (f : SR) (s : State) : Out := srOp f 1 (fun x y => x >>> bits y 0 6) s

/-- sar: arithmetic, by y[5:0] (R78). -/
def execSar (f : SR) (s : State) : Out := srOp f 1 (fun x y => x.sshiftRight (bits y 0 6)) s

/-- min: signed (R78). -/
def execMin (f : SR) (s : State) : Out := srOp f 1 (fun x y => if x.toInt ≤ y.toInt then x else y) s

/-- max: signed (R78). -/
def execMax (f : SR) (s : State) : Out := srOp f 1 (fun x y => if x.toInt ≤ y.toInt then y else x) s

/-- minu: unsigned (R78). -/
def execMinu (f : SR) (s : State) : Out := srOp f 1 (fun x y => if x.toNat ≤ y.toNat then x else y) s

/-- maxu: unsigned (R78). -/
def execMaxu (f : SR) (s : State) : Out := srOp f 1 (fun x y => if x.toNat ≤ y.toNat then y else x) s

/-- clz: leading zeros, 64 for zero (R78). -/
def execClz (f : SR) (s : State) : Out := srOp f 1 (fun x _ => BitVec.ofNat 64 (clzN 64 x.toNat)) s

/-- popc (R78). -/
def execPopc (f : SR) (s : State) : Out := srOp f 1 (fun x _ => BitVec.ofNat 64 (popN 64 x.toNat)) s

/-- sext from n = imm7 bits (R78). -/
def execSext (f : SR) (s : State) : Out := srOp f 1 (fun x _ => sextN f.f.toNat x) s

/-- bfx: field of w = b + 1 bits at lo = imm7 (R78). -/
def execBfx (f : SR) (s : State) : Out := srOp f 1 (fun x _ => bfxN f.f.toNat (f.b.toNat + 1) x) s

/-- bfi: s[d] with w = b + 1 bits at lo = imm7 replaced (R78). -/
def execBfi (f : SR) (s : State) : Out :=
  srOp f 1 (fun x _ => bfiN f.f.toNat (f.b.toNat + 1) (s.x.sreg f.d.toNat) x) s

/-- addi: wrapping sum with the signed immediate (R79). -/
def execAddi (f : SI) (s : State) : Out := siOp f (s.immS f.i) ((· + ·)) s

/-- andi: with the signed immediate (R79). -/
def execAndi (f : SI) (s : State) : Out := siOp f (s.immS f.i) ((· &&& ·)) s

/-- ori: with the zero-extended immediate (R79). -/
def execOri (f : SI) (s : State) : Out := siOp f (s.immZ f.i) ((· ||| ·)) s

/-- xori: with the zero-extended immediate (R79). -/
def execXori (f : SI) (s : State) : Out := siOp f (s.immZ f.i) ((· ^^^ ·)) s

/-- shli by k[5:0] (R79). -/
def execShli (f : SI) (s : State) : Out := siOp f (s.immZ f.i) (fun x k => x <<< bits k 0 6) s

/-- shri by k[5:0] (R79). -/
def execShri (f : SI) (s : State) : Out := siOp f (s.immZ f.i) (fun x k => x >>> bits k 0 6) s

/-- sari by k[5:0] (R79). -/
def execSari (f : SI) (s : State) : Out := siOp f (s.immZ f.i) (fun x k => x.sshiftRight (bits k 0 6)) s

/-- li: the signed immediate (R79). -/
def execLi (f : SI) (s : State) : Out := siOp f (s.immS f.i) (fun _ k => k) s

/-- The conditions of cmp (R80): 0 eq, 1 ne, 2 lt, 3 ge, 4 ltu, 5 geu. -/
def condOf (c : Nat) (x y : Dword) : Bool :=
  match c with
  | 0 => decide (x = y)
  | 1 => decide (x ≠ y)
  | 2 => decide (x.toInt < y.toInt)
  | 3 => decide (y.toInt ≤ x.toInt)
  | 4 => decide (x.toNat < y.toNat)
  | _ => decide (y.toNat ≤ x.toNat)
/-- The conditions of cmpi (R80): 0 eq, 1 ne, 2 lt, 3 ltu. -/
def condiOf (c : Nat) (x y : Dword) : Bool := condOf (if c = 3 then 4 else c) x y

/-- cmp (R80). -/
def execCmp (f : SR) (s : State) : Out :=
  .next (s.whenP f.p fun s => s.landP (f.d.extractLsb' 0 3).toNat
    (condOf (f.f.extractLsb' 0 3).toNat (s.x.sreg f.a.toNat) (s.x.sreg f.b.toNat)) 1)

/-- cmpi: with the sign-extended immediate (R80). -/
def execCmpi (f : SI) (s : State) : Out :=
  .next (s.landP (f.d.extractLsb' 0 3).toNat
    (condiOf (f.d.extractLsb' 3 2).toNat (s.x.sreg f.a.toNat) (s.immS f.i)) 1)

/-- sel (R81). -/
def execSel (f : SR) (s : State) : Out :=
  srOp f 1 (fun x y => if s.x.preg (f.f.extractLsb' 0 3).toNat then x else y) s

/-- plog: the truth table fn[3:0] of p[a] and p[b] (R82). -/
def execPlog (f : SR) (s : State) : Out :=
  .next (s.whenP f.p fun s => s.landP (f.d.extractLsb' 0 3).toNat
    (f.f.getLsbD (2 * (s.x.preg (f.a.extractLsb' 0 3).toNat).toNat + (s.x.preg (f.b.extractLsb' 0 3).toNat).toNat)) 1)

end Sys2Proof.Machine
end

