-- ==== Sys2Proof/Machine/Dispatch.lean ====
section
/-! DEFINITION. The dispatcher: one arm per instruction. -/

namespace Sys2Proof.Machine

def exec (i : Instr) (s : State) : Host.Outcome State Fault Refusal :=
  match i with
  | .nop f => Sys2Proof.Machine.execNop f s
  | .add f => Sys2Proof.Machine.execAdd f s
  | .sub f => Sys2Proof.Machine.execSub f s
  | .mul f => Sys2Proof.Machine.execMul f s
  | .mulh f => Sys2Proof.Machine.execMulh f s
  | .mulhu f => Sys2Proof.Machine.execMulhu f s
  | .and f => Sys2Proof.Machine.execAnd f s
  | .or f => Sys2Proof.Machine.execOr f s
  | .xor f => Sys2Proof.Machine.execXor f s
  | .andn f => Sys2Proof.Machine.execAndn f s
  | .shl f => Sys2Proof.Machine.execShl f s
  | .shr f => Sys2Proof.Machine.execShr f s
  | .sar f => Sys2Proof.Machine.execSar f s
  | .min f => Sys2Proof.Machine.execMin f s
  | .max f => Sys2Proof.Machine.execMax f s
  | .minu f => Sys2Proof.Machine.execMinu f s
  | .maxu f => Sys2Proof.Machine.execMaxu f s
  | .clz f => Sys2Proof.Machine.execClz f s
  | .popc f => Sys2Proof.Machine.execPopc f s
  | .sext f => Sys2Proof.Machine.execSext f s
  | .bfx f => Sys2Proof.Machine.execBfx f s
  | .bfi f => Sys2Proof.Machine.execBfi f s
  | .addi f => Sys2Proof.Machine.execAddi f s
  | .andi f => Sys2Proof.Machine.execAndi f s
  | .ori f => Sys2Proof.Machine.execOri f s
  | .xori f => Sys2Proof.Machine.execXori f s
  | .shli f => Sys2Proof.Machine.execShli f s
  | .shri f => Sys2Proof.Machine.execShri f s
  | .sari f => Sys2Proof.Machine.execSari f s
  | .li f => Sys2Proof.Machine.execLi f s
  | .cmp f => Sys2Proof.Machine.execCmp f s
  | .cmpi f => Sys2Proof.Machine.execCmpi f s
  | .sel f => Sys2Proof.Machine.execSel f s
  | .plog f => Sys2Proof.Machine.execPlog f s
  | .br f => Sys2Proof.Machine.execBr f s
  | .jmp f => Sys2Proof.Machine.execJmp f s
  | .call f => Sys2Proof.Machine.execCall f s
  | .jr f => Sys2Proof.Machine.execJr f s
  | .ret f => Sys2Proof.Machine.execRet f s
  | .loop f => Sys2Proof.Machine.execLoop f s
  | .loopi f => Sys2Proof.Machine.execLoopi f s
  | .lbrk f => Sys2Proof.Machine.execLbrk f s
  | .yield f => Sys2Proof.Machine.execYield f s
  | .park f => Sys2Proof.Machine.execPark f s
  | .halt f => Sys2Proof.Machine.execHalt f s
  | .wait f => Sys2Proof.Machine.execWait f s
  | .iwin f => Sys2Proof.Machine.execIwin f s
  | .ifence f => Sys2Proof.Machine.execIfence f s
  | .swapb f => Sys2Proof.Machine.execSwapb f s
  | .spawn f => Sys2Proof.Machine.execSpawn f s
  | .csrr f => Sys2Proof.Machine.execCsrr f s
  | .csrw f => Sys2Proof.Machine.execCsrw f s
  | .gtc f => Sys2Proof.Machine.execGtc f s
  | .trap f => Sys2Proof.Machine.execTrap f s
  | .tret f => Sys2Proof.Machine.execTret f s
  | .ctxsv f => Sys2Proof.Machine.execCtxsv f s
  | .ctxld f => Sys2Proof.Machine.execCtxld f s
  | .tlbinv f => Sys2Proof.Machine.execTlbinv f s
  | .tlbinvAll f => Sys2Proof.Machine.execTlbinvAll f s
  | .tlbsync f => Sys2Proof.Machine.execTlbsync f s
  | .ldg f => Sys2Proof.Machine.execLdg f s
  | .stg f => Sys2Proof.Machine.execStg f s
  | .amo f => Sys2Proof.Machine.execAmo f s
  | .cas f => Sys2Proof.Machine.execCas f s
  | .fence f => Sys2Proof.Machine.execFence f s
  | .drain f => Sys2Proof.Machine.execDrain f s
  | .drainE f => Sys2Proof.Machine.execDrainE f s
  | .mon f => Sys2Proof.Machine.execMon f s
  | .mwait f => Sys2Proof.Machine.execMwait f s
  | .barInit f => Sys2Proof.Machine.execBarInit f s
  | .barArrive f => Sys2Proof.Machine.execBarArrive f s
  | .barExpect f => Sys2Proof.Machine.execBarExpect f s
  | .barWait f => Sys2Proof.Machine.execBarWait f s
  | .cmpl f => Sys2Proof.Machine.execCmpl f s
  | .pfg f => Sys2Proof.Machine.execPfg f s
  | .amof f => Sys2Proof.Machine.execAmof f s
  | .cqLvl f => Sys2Proof.Machine.execCqLvl f s
  | .cqGo f => Sys2Proof.Machine.execCqGo f s
  | .cqCfg f => Sys2Proof.Machine.execCqCfg f s
  | .cqBar f => Sys2Proof.Machine.execCqBar f s
  | .mxCall f => Sys2Proof.Machine.execMxCall f s
  | .mxSetp f => Sys2Proof.Machine.execMxSetp f s
  | .mxGetp f => Sys2Proof.Machine.execMxGetp f s
  | .mxLd f => Sys2Proof.Machine.execMxLd f s
  | .mxDrain f => Sys2Proof.Machine.execMxDrain f s
  | .mxZero f => Sys2Proof.Machine.execMxZero f s
  | .kvAttn f => Sys2Proof.Machine.execKvAttn f s
  | .kvApp f => Sys2Proof.Machine.execKvApp f s
  | .kvFork f => Sys2Proof.Machine.execKvFork f s
  | .kvFree f => Sys2Proof.Machine.execKvFree f s
  | .kvSeal f => Sys2Proof.Machine.execKvSeal f s
  | .kvUndo f => Sys2Proof.Machine.execKvUndo f s
  | .kvTrim f => Sys2Proof.Machine.execKvTrim f s
  | .kvClass f => Sys2Proof.Machine.execKvClass f s
  | .kvClassAll f => Sys2Proof.Machine.execKvClassAll f s
  | .kvDemote f => Sys2Proof.Machine.execKvDemote f s
  | .kvPromote f => Sys2Proof.Machine.execKvPromote f s
  | .kvPin f => Sys2Proof.Machine.execKvPin f s
  | .kvUnpin f => Sys2Proof.Machine.execKvUnpin f s
  | .kvLend f => Sys2Proof.Machine.execKvLend f s
  | .kvRet f => Sys2Proof.Machine.execKvRet f s
  | .kvLen f => Sys2Proof.Machine.execKvLen f s
  | .kvLenT f => Sys2Proof.Machine.execKvLenT f s
  | .kvPos f => Sys2Proof.Machine.execKvPos f s
  | .kvMerge f => Sys2Proof.Machine.execKvMerge f s
  | .kvGrant f => Sys2Proof.Machine.execKvGrant f s
  | .tlDef f => Sys2Proof.Machine.execTlDef f s
  | .tlDefR f => Sys2Proof.Machine.execTlDefR f s
  | .tlGet f => Sys2Proof.Machine.execTlGet f s
  | .tlPut f => Sys2Proof.Machine.execTlPut f s
  | .tlDrop f => Sys2Proof.Machine.execTlDrop f s
  | .tlDropF f => Sys2Proof.Machine.execTlDropF f s
  | .tlPin f => Sys2Proof.Machine.execTlPin f s
  | .tlUnpin f => Sys2Proof.Machine.execTlUnpin f s
  | .tlDone f => Sys2Proof.Machine.execTlDone f s
  | .ruTab f => Sys2Proof.Machine.execRuTab f s
  | .ruCfg f => Sys2Proof.Machine.execRuCfg f s
  | .ruStep f => Sys2Proof.Machine.execRuStep f s
  | .ruGen f => Sys2Proof.Machine.execRuGen f s
  | .ruGenW f => Sys2Proof.Machine.execRuGenW f s
  | .msgSend f => Sys2Proof.Machine.execMsgSend f s
  | .msgPost f => Sys2Proof.Machine.execMsgPost f s
  | .msgCancel f => Sys2Proof.Machine.execMsgCancel f s
  | .msgProbe f => Sys2Proof.Machine.execMsgProbe f s
  | .msgHnd f => Sys2Proof.Machine.execMsgHnd f s
  | .sctArm f => Sys2Proof.Machine.execSctArm f s
  | .sctDisarm f => Sys2Proof.Machine.execSctDisarm f s
  | .sctTouch f => Sys2Proof.Machine.execSctTouch f s
  | .sctDone f => Sys2Proof.Machine.execSctDone f s
  | .sctEvict f => Sys2Proof.Machine.execSctEvict f s
  | .sctRead f => Sys2Proof.Machine.execSctRead f s
  | .vmov f => Sys2Proof.Machine.execVmov f s
  | .vadd f => Sys2Proof.Machine.execVadd f s
  | .vsub f => Sys2Proof.Machine.execVsub f s
  | .vaddsat f => Sys2Proof.Machine.execVaddsat f s
  | .vsubsat f => Sys2Proof.Machine.execVsubsat f s
  | .vmul f => Sys2Proof.Machine.execVmul f s
  | .vmulh f => Sys2Proof.Machine.execVmulh f s
  | .vmac f => Sys2Proof.Machine.execVmac f s
  | .vdot4 f => Sys2Proof.Machine.execVdot4 f s
  | .vdot2 f => Sys2Proof.Machine.execVdot2 f s
  | .vabs f => Sys2Proof.Machine.execVabs f s
  | .vneg f => Sys2Proof.Machine.execVneg f s
  | .vmin f => Sys2Proof.Machine.execVmin f s
  | .vmax f => Sys2Proof.Machine.execVmax f s
  | .vminu f => Sys2Proof.Machine.execVminu f s
  | .vmaxu f => Sys2Proof.Machine.execVmaxu f s
  | .vand f => Sys2Proof.Machine.execVand f s
  | .vor f => Sys2Proof.Machine.execVor f s
  | .vxor f => Sys2Proof.Machine.execVxor f s
  | .vandn f => Sys2Proof.Machine.execVandn f s
  | .vshl f => Sys2Proof.Machine.execVshl f s
  | .vshr f => Sys2Proof.Machine.execVshr f s
  | .vsar f => Sys2Proof.Machine.execVsar f s
  | .vrshr f => Sys2Proof.Machine.execVrshr f s
  | .vclz f => Sys2Proof.Machine.execVclz f s
  | .vpopc f => Sys2Proof.Machine.execVpopc f s
  | .vcmp f => Sys2Proof.Machine.execVcmp f s
  | .vsel f => Sys2Proof.Machine.execVsel f s
  | .vbcast f => Sys2Proof.Machine.execVbcast f s
  | .vlane f => Sys2Proof.Machine.execVlane f s
  | .vpack f => Sys2Proof.Machine.execVpack f s
  | .vunpk f => Sys2Proof.Machine.execVunpk f s
  | .vmskl f => Sys2Proof.Machine.execVmskl f s
  | .vext f => Sys2Proof.Machine.execVext f s
  | .vins f => Sys2Proof.Machine.execVins f s
  | .vfadd f => Sys2Proof.Machine.execVfadd f s
  | .vfsub f => Sys2Proof.Machine.execVfsub f s
  | .vfmul f => Sys2Proof.Machine.execVfmul f s
  | .vfma f => Sys2Proof.Machine.execVfma f s
  | .vfms f => Sys2Proof.Machine.execVfms f s
  | .vfmin f => Sys2Proof.Machine.execVfmin f s
  | .vfmax f => Sys2Proof.Machine.execVfmax f s
  | .vfabs f => Sys2Proof.Machine.execVfabs f s
  | .vfneg f => Sys2Proof.Machine.execVfneg f s
  | .vfcmp f => Sys2Proof.Machine.execVfcmp f s
  | .vfcls f => Sys2Proof.Machine.execVfcls f s
  | .vfscl f => Sys2Proof.Machine.execVfscl f s
  | .vfrnd f => Sys2Proof.Machine.execVfrnd f s
  | .vcvt f => Sys2Proof.Machine.execVcvt f s
  | .vfcvti f => Sys2Proof.Machine.execVfcvti f s
  | .vicvtf f => Sys2Proof.Machine.execVicvtf f s
  | .vqmx f => Sys2Proof.Machine.execVqmx f s
  | .vdqmx f => Sys2Proof.Machine.execVdqmx f s
  | .vrsum f => Sys2Proof.Machine.execVrsum f s
  | .vrmax f => Sys2Proof.Machine.execVrmax f s
  | .vrmin f => Sys2Proof.Machine.execVrmin f s
  | .exp2 f => Sys2Proof.Machine.execExp2 f s
  | .log2 f => Sys2Proof.Machine.execLog2 f s
  | .rcp f => Sys2Proof.Machine.execRcp f s
  | .rsq f => Sys2Proof.Machine.execRsq f s
  | .sqrt f => Sys2Proof.Machine.execSqrt f s
  | .sin f => Sys2Proof.Machine.execSin f s
  | .cos f => Sys2Proof.Machine.execCos f s
  | .tanh f => Sys2Proof.Machine.execTanh f s
  | .sigm f => Sys2Proof.Machine.execSigm f s
  | .vld f => Sys2Proof.Machine.execVld f s
  | .vst f => Sys2Proof.Machine.execVst f s
  | .vlds f => Sys2Proof.Machine.execVlds f s
  | .vsts f => Sys2Proof.Machine.execVsts f s
  | .vldx f => Sys2Proof.Machine.execVldx f s
  | .vstx f => Sys2Proof.Machine.execVstx f s
  | .vldb f => Sys2Proof.Machine.execVldb f s
  | .vldt f => Sys2Proof.Machine.execVldt f s
  | .fefill f => Sys2Proof.Machine.execFefill f s
  | .feempty f => Sys2Proof.Machine.execFeempty f s
  | .fetest f => Sys2Proof.Machine.execFetest f s
  | .sbind f => Sys2Proof.Machine.execSbind f s
  | .sfmt f => Sys2Proof.Machine.execSfmt f s
  | .sadv f => Sys2Proof.Machine.execSadv f s
  | .efence f => Sys2Proof.Machine.execEfence f s
  | .efenceRd f => Sys2Proof.Machine.execEfenceRd f s
  | .xcp f => Sys2Proof.Machine.execXcp f s
  | .xbc f => Sys2Proof.Machine.execXbc f s
  | .xrot f => Sys2Proof.Machine.execXrot f s
  | .xshf f => Sys2Proof.Machine.execXshf f s
  | .trpi f => Sys2Proof.Machine.execTrpi f s
  | .trpo f => Sys2Proof.Machine.execTrpo f s
  | .xred f => Sys2Proof.Machine.execXred f s
  | .gloadReturn c r => Sys2Proof.Machine.execGloadReturn c r s
  | .dispatchPlace slot => Sys2Proof.Machine.execDispatchPlace slot s
  | .streamRestoreDone n => Sys2Proof.Machine.execStreamRestoreDone n s
  | .streamEvictDone n => Sys2Proof.Machine.execStreamEvictDone n s
  | .copyLineLand id line => Sys2Proof.Machine.execCopyLineLand id line s
  | .attnPageStaged id blk => Sys2Proof.Machine.execAttnPageStaged id blk s
  | .attnUnitFold id => Sys2Proof.Machine.execAttnUnitFold id s
  | .kvTransitEnd id => Sys2Proof.Machine.execKvTransitEnd id s
  | .kvFrameFree fid => Sys2Proof.Machine.execKvFrameFree fid s
  | .lenderUnreachable id => Sys2Proof.Machine.execLenderUnreachable id s
  | .kvLendTimeout id => Sys2Proof.Machine.execKvLendTimeout id s
  | .kvReturnRelease dev => Sys2Proof.Machine.execKvReturnRelease dev s
  | .msgLandingComplete k => Sys2Proof.Machine.execMsgLandingComplete k s
  | .msgSendComplete id => Sys2Proof.Machine.execMsgSendComplete id s
  | .tileCopyLand id line => Sys2Proof.Machine.execTileCopyLand id line s
  | .fatalError e => Sys2Proof.Machine.execFatalError e s
  | .softErrorCorrect unit => Sys2Proof.Machine.execSoftErrorCorrect unit s
  | .deviceReset rotOk ccOk => Sys2Proof.Machine.execDeviceReset rotOk ccOk s
  | .imageLoad img => Sys2Proof.Machine.execImageLoad img s
  | .partitionCreate p => Sys2Proof.Machine.execPartitionCreate p s
  | .livenessFillDone region => Sys2Proof.Machine.execLivenessFillDone region s
  | .ltlTimeMeasure k off => Sys2Proof.Machine.execLtlTimeMeasure k off s
  | .ltlAttest k ok => Sys2Proof.Machine.execLtlAttest k ok s
  | .ltlLinkDown k => Sys2Proof.Machine.execLtlLinkDown k s
  | .cxlPortDown k => Sys2Proof.Machine.execCxlPortDown k s
  | .emptyBundle => Sys2Proof.Machine.execEmptyBundle s
  | .sliceExpiry => Sys2Proof.Machine.execSliceExpiry s
  | .freeze => Sys2Proof.Machine.execFreeze s
  | .watchdog => Sys2Proof.Machine.execWatchdog s
  | .waitExpiry => Sys2Proof.Machine.execWaitExpiry s
  | .mwaitTimeout => Sys2Proof.Machine.execMwaitTimeout s
  | .readyListPlace => Sys2Proof.Machine.execReadyListPlace s
  | .dieSliceRemap => Sys2Proof.Machine.execDieSliceRemap s
  | .wakeRegisterWrite => Sys2Proof.Machine.execWakeRegisterWrite s
  | .streamLaunch => Sys2Proof.Machine.execStreamLaunch s
  | .streamSlotRetry => Sys2Proof.Machine.execStreamSlotRetry s
  | .streamQuietEvict => Sys2Proof.Machine.execStreamQuietEvict s
  | .mxKblock => Sys2Proof.Machine.execMxKblock s
  | .mxDrainRun => Sys2Proof.Machine.execMxDrainRun s
  | .mxZeroRun => Sys2Proof.Machine.execMxZeroRun s
  | .pweAssign => Sys2Proof.Machine.execPweAssign s
  | .lendRequestReceive => Sys2Proof.Machine.execLendRequestReceive s
  | .lendReplyReceive => Sys2Proof.Machine.execLendReplyReceive s
  | .kvReadReceive => Sys2Proof.Machine.execKvReadReceive s
  | .kvReadReplyReceive => Sys2Proof.Machine.execKvReadReplyReceive s
  | .kvWriteReceive => Sys2Proof.Machine.execKvWriteReceive s
  | .kvWriteAckReceive => Sys2Proof.Machine.execKvWriteAckReceive s
  | .kvReturnReceive => Sys2Proof.Machine.execKvReturnReceive s
  | .msgArrival => Sys2Proof.Machine.execMsgArrival s
  | .ctsReceive => Sys2Proof.Machine.execCtsReceive s
  | .recipeSpawnRetry => Sys2Proof.Machine.execRecipeSpawnRetry s
  | .tileRoomFreed => Sys2Proof.Machine.execTileRoomFreed s
  | .ruStepRun => Sys2Proof.Machine.execRuStepRun s
  | .ruStepComplete => Sys2Proof.Machine.execRuStepComplete s
  | .partitionSwapOut => Sys2Proof.Machine.execPartitionSwapOut s
  | .partitionSwapRestore => Sys2Proof.Machine.execPartitionSwapRestore s
  | .dumpComplete => Sys2Proof.Machine.execDumpComplete s
  | .thermalThrottle => Sys2Proof.Machine.execThermalThrottle s
  | .thermalShutdown => Sys2Proof.Machine.execThermalShutdown s
  | .partitionDestroy => Sys2Proof.Machine.execPartitionDestroy s
  | .mailboxRing => Sys2Proof.Machine.execMailboxRing s
  | .gtcCtlWrite => Sys2Proof.Machine.execGtcCtlWrite s
  | .gtcRateWrite => Sys2Proof.Machine.execGtcRateWrite s
  | .gtcStepWrite => Sys2Proof.Machine.execGtcStepWrite s
  | .ppsEdge => Sys2Proof.Machine.execPpsEdge s
  | .registerWrite => Sys2Proof.Machine.execRegisterWrite s
  | .partitionWideWakeBroadcast => Sys2Proof.Machine.execPartitionWideWakeBroadcast s
  | .linkBringUp => Sys2Proof.Machine.execLinkBringUp s
  | .stepAbsorbedBySlewing => Sys2Proof.Machine.execStepAbsorbedBySlewing s

end Sys2Proof.Machine
end

