-- ==== Sys2Proof/Machine/Step.lean ====
section
/-! DEFINITION. One step of the machine: the device step the agenda names, or one that is due, or a cycle of the issue
path (log 5). -/

namespace Sys2Proof.Machine

/-- One step. -/
def step (s : State) : Host.Outcome State Fault Refusal :=
  match s.agenda with
  | some e :: l => if s.admits e then exec e { s with agenda := l } else .next { s with agenda := l }
  | none :: l => State.cycle exec { s with agenda := l }
  | [] =>
    match s.nextEvent with
    | some e => exec e s
    | none => State.cycle exec s

/-- The state with an instruction as the next bundle to fetch: the words of the table are op words, laid behind the header of
their kind (log 34). -/
def State.withFetchWord (s : State) (_nbits w : Nat) : State := s.placeWord (BitVec.ofNat 32 w)

end Sys2Proof.Machine
end

