-- ==== Sys2Proof/Safety.lean ====
section
/-! DEFINITION. What the statements call a well-formed state, a safe step, and the effects they name: results put in
flight, transfers asked for, causes met, commands accepted. -/

namespace Sys2Proof.Machine

/-- The memory, the scratchpad, the table RAM and the instruction store are in canonical form, so that equal contents are equal
data. -/
def State.Canonical (s : State) : Prop :=
  Memory.wf s.pkg.mem = true ∧ Memory.wf s.core.pad = true ∧ Memory.wf s.core.rule = true ∧
    Map.wf 0 s.core.istore = true

/-- A step that ends in a next state: the specification stops the machine nowhere. -/
def State.Goes (s : State) : Prop := ∃ t, step s = .next t

/-- The state with results added to those in flight (03 R71), and nothing else changed. -/
def State.withFlight (s : State) (l : List Flight) : State :=
  { s with x := { s.x with flight := s.x.flight ++ l } }

/-- The instruction answers a next state in which one scalar result is in flight to s[d] with a latency and a value, and nothing
else has changed; with `go` false, or d = 0, nothing has changed (03 R71, 04 R77, 01 R20). -/
def ScalarResult (i : Instr) (s : State) (go : Bool) (d : BitVec 5) (lat : Nat) (v : Dword) : Prop :=
  ∃ e : Flight, exec i s = .next (s.withFlight (if go && d ≠ 0#5 then [e] else [])) ∧
    e.due = s.x.bno + lat ∧ e.unit = 0 ∧ e.dest = d.toNat ∧ e.what = 0 ∧ dwordOfLanes e.val = v

/-- The same for a predicate p[n], with latency 1. -/
def PredicateResult (i : Instr) (s : State) (go : Bool) (n : Nat) (b : Bool) : Prop :=
  ∃ e : Flight, exec i s = .next (s.withFlight (if go && n ≠ 0 then [e] else [])) ∧
    e.due = s.x.bno + 1 ∧ e.unit = 0 ∧ e.dest = 32 + n ∧ e.what = 0 ∧ (e.val.at 0).getLsbD 0 = b

/-- A code address from an integer: 56 bits with [1:0] cleared (04 R86). -/
def codeAddr (v : Int) : Addr := BitVec.ofInt 56 (v / 4 * 4)

/-- The state with a taken transfer recorded in the bundle's frame, and nothing else changed (04 R83). -/
def State.withTransfer (s : State) (t : Addr) (link : Option Nat) : State :=
  { s with cur := { s.cur with transfer := some t, link := match link with | some r => some r | none => s.cur.link } }

/-- The state with one cause of the slot in execution added, and nothing else changed (03 R69). -/
def State.withCause (s : State) (rank code : Nat) (info : Dword) : State :=
  { s with cur := { s.cur with causes := s.cur.causes ++ [⟨s.cur.idx, rank, code, s.cur.cluster, info⟩] } }

/-- The state with one more reason for the bundle to wait, and nothing else changed (03 R72, 18 R380). -/
def State.withWait (s : State) (code : Nat) : State := { s with cur := { s.cur with waits := s.cur.waits ++ [code] } }

/-- The state whose bundle gives up the issue path as it commits, and nothing else changed (05 R111 to R114). -/
def State.withSuspend (s : State) (x : Suspend) : State := { s with cur := { s.cur with suspend := some x } }

/-- The state in which a value is on its way to s[d], which is held back until it lands; s0 takes none (03 R72). -/
def State.withReturn (s : State) (d : BitVec 5) (v : Dword) : State :=
  { s with x := { s.x with out := if d = 0#5 then s.x.out else s.x.out ++ [(d.toNat, some v)] } }

/-- The default information of a cause as a number (03 R69): the op word, the cluster, the bit position. -/
def State.defaultInfo (s : State) (pos : Nat) : Dword :=
  BitVec.ofNat 64 (s.cur.word.toNat + s.cur.cluster % 8 * 2 ^ 32 + pos * 2 ^ 35)

/-- A vector op of two sources answers a next state: its sources are read in order by the operand rules, with captures (03 R56,
R58), a value lands by the destination rules under the op's lane mask with a latency (03 R57, 06 R130), and the value stands in
the stated relation to what the sources gave. -/
def VectorResult (i : Instr) (s : State) (f : VR) (lat : Nat) (value : Lanes → Lanes → Lanes → Prop) : Prop :=
  ∃ v, exec i s = .next ((s.srcAB s.cur.kind f).1.landV s.cur.kind f lat (s.active f) v) ∧
    value (s.srcAB s.cur.kind f).2.1 (s.srcAB s.cur.kind f).2.2 v

/-- The same for an op that reads source a alone. -/
def VectorResult1 (i : Instr) (s : State) (f : VR) (lat : Nat) (value : Lanes → Lanes → Prop) : Prop :=
  ∃ v, exec i s = .next ((s.srcA s.cur.kind f).1.landV s.cur.kind f lat (s.active f) v) ∧
    value (s.srcA s.cur.kind f).2 v

/-- The same for an op whose active lanes raise flags, given for each lane as a bit set (08 R168, R170). -/
def VectorFlagResult (i : Instr) (s : State) (f : VR) (lat unit : Nat) (value : Lanes → Lanes → (Nat → Nat) → Lanes → Prop) :
    Prop :=
  ∃ (v : Lanes) (fl : Nat → Nat),
    exec i s = .next (((s.srcAB s.cur.kind f).1.raise s.cur.cluster unit fl).landV s.cur.kind f lat (s.active f) v) ∧
    (∀ i, (s.active f).getLsbD i = false → fl i = 0) ∧
    value (s.srcAB s.cur.kind f).2.1 (s.srcAB s.cur.kind f).2.2 fl v

/-- A float op of one or two sources answers a next state: element j of lane i of the result is the code that the function
gives, the flags of a lane are those its elements raise, of the lanes of a mask only, under which the sources are read and the
result lands (08 R173, 06 R130). -/
def FloatResult (i : Instr) (s : State) (f : VR) (two : Bool) (lat unit n : Nat) (m : BitVec 16)
    (g : Lanes → Lanes → Nat → Nat → Nat × Nat) : Prop :=
  let r := if two then s.srcAB s.cur.kind f m else ((s.srcA s.cur.kind f m).1, (s.srcA s.cur.kind f m).2, (s.srcA s.cur.kind f m).2)
  ∃ (v : Lanes) (fl : Nat → Nat),
    exec i s = .next ((r.1.raise s.cur.cluster unit fl).landV s.cur.kind f lat m v) ∧
    (∀ i < 16, ∀ j < 32 / n, elem n (v.at i) j = (g r.2.1 r.2.2 i j).1 % 2 ^ n) ∧
    (∀ i, m.getLsbD i = false → fl i = 0) ∧
    ∀ i < 16, m.getLsbD i = true → ∀ b, (fl i).testBit b = true ↔ ∃ j < 32 / n, (g r.2.1 r.2.2 i j).2.testBit b = true

/-- The state whose bundle has noted the scratchpad lines it touches (09 R192), and nothing else changed. -/
def State.withLines (s : State) (l : List Nat) : State := { s with cur := { s.cur with lines := l } }

/-- The state whose bundle makes further effects at its commit, and nothing else changed (03 R75). -/
def State.withPosts (s : State) (l : List Post) : State := { s with cur := { s.cur with posts := s.cur.posts ++ l } }

/-- The rational number a finite value stands for; 0 for a NaN or an infinity (07 R145). -/
def Fp.val : Fp → Rat
  | .fin n m e => (if n then -1 else 1) * (m : Rat) * (2 : Rat) ^ e
  | _ => 0

/-- The value is finite. -/
def Fp.Finite (x : Fp) : Prop := ∃ n m e, x = .fin n m e

/-- x < y for values that are no NaNs: −∞ below every finite value, +∞ above (08 R180). -/
def Fp.Less : Fp → Fp → Prop
  | .inf a, .inf b => a = true ∧ b = false
  | .inf a, .fin _ _ _ => a = true
  | .fin _ _ _, .inf b => b = false
  | .fin n m e, .fin n' m' e' => Fp.val (.fin n m e) < Fp.val (.fin n' m' e')
  | _, _ => False

/-- Element width of a ty field: 32, 16 or 8 (02 R41). -/
def widthOf (t : BitVec 2) : Nat := if t = 0#2 then 32 else if t = 1#2 then 16 else 8

/-- A number of n bits as a signed integer (00 R4). -/
def signed (n x : Nat) : Int := if x < 2 ^ (n - 1) then (x : Int) else (x : Int) - (2 ^ n : Nat)

/-- An access at a virtual address goes through and reaches a physical one: it is aligned and translates with the privilege of
the context; device memory does not refuse it; the line is intact and no fill holds it back (10 R219 to R227, R243). `t` is the
state with the translation in its TLBs. -/
def State.Reaches (s : State) (va : Dword) (align : Nat) (write noDevice narrow : Bool) (t : State) (pa : Nat) : Prop :=
  va.toNat % align = 0 ∧ (∃ ty, s.translate va write (s.x.sp || s.x.h) = (t, .ok (pa, ty)) ∧ (noDevice = true → ty ≠ 2)) ∧
    (narrow = true → s.space pa ≠ .regs) ∧ s.integrityFail pa = false ∧ s.fillWaits va pa = false

/-- The watch table is empty, so that a write wakes nobody (10 R231). -/
def State.NoneWaiting (s : State) : Prop := s.core.watch = []

/-- Two states differ at most in what memory holds, and outside a range of physical addresses every byte reads as before under
the partition's key. -/
def State.SameOutside (t u : State) (pa n : Nat) : Prop :=
  u = { t with pkg := { t.pkg with mem := u.pkg.mem, key := u.pkg.key, live := u.pkg.live, filling := u.pkg.filling, corrupt := u.pkg.corrupt } } ∧
    ∀ a, a < pa ∨ pa + n ≤ a → u.pkg.read t.keyId a = t.pkg.read t.keyId a

/-- The second state is the first with a number stored in n bytes at a physical address, lowest byte first (00 R5); a line with
key id 0, which no partition has, reads as zeros (10 R226, 25 R445). -/
def State.Stored (t u : State) (pa n v : Nat) : Prop :=
  t.SameOutside u pa n ∧ (t.keyId ≠ 0 → ∀ i < n, (u.pkg.read t.keyId (pa + i)).toNat = v / 256 ^ i % 256)

/-- The barrier object at a place may have changed, and nothing else has (10 R232). -/
def State.ObjectOnly (t u : State) (a : BarAt) : Prop :=
  if a.pad then u = { t with core := { t.core with pad := u.core.pad } } ∧
    ∀ x, x < a.addr ∨ a.addr + 16 ≤ x → Map.get 0 u.core.pad x = Map.get 0 t.core.pad x
  else t.SameOutside u a.addr 16

/-- An engine command has been accepted at this bundle, and nothing else has changed: it is the last of the core's commands, it
carries the strand, the pitch and the privilege of its context, its operands and its regions; with `mark` every line that its
write region touches is empty (11 R244, R245, 09 R193). -/
def State.Accepts (s t : State) (op : Instr) (args : List Dword) (rd wr : Option (Nat × Nat)) (mark : Bool) : Prop :=
  ∃ c : Cmd, c.id = s.core.nextId ∧ c.ctx = s.xn ∧ c.strand = s.x.brec ∧ c.pitch = s.x.pitch ∧ c.op = op ∧ c.priv = s.x.priv ∧
    c.args = args ∧ c.rd = rd ∧ c.wr = wr ∧ c.rdDone = rd.isNone ∧ c.wrDone = wr.isNone ∧
    t = { s with core := { s.core with
      cmds := s.core.cmds ++ [c], nextId := s.core.nextId + 1, notFull := t.core.notFull } } ∧
    ∀ n, t.full n = true ↔ s.full n = true ∧ ¬ (mark = true ∧ ∃ a k, wr = some (a, k) ∧ a < 128 * (n + 1) ∧ 128 * n < a + k)

/-- The scoreboard has an entry free (11 R245). -/
def State.BoardFree (s : State) : Prop := s.core.entries.length < 32

/-- The numbers of the commands of a core are below the next one, so that a new command's is its own (11 R244). -/
def State.IdsFresh (s : State) : Prop := ∀ k ∈ s.core.cmds, k.id < s.core.nextId

/-- The instruction answers a next state that has one cause of a code more. -/
def Raises (i : Instr) (s : State) (code : Nat) : Prop :=
  ∃ t, exec i s = .next t ∧ ∃ c ∈ t.cur.causes, c.code = code ∧ c.slot = s.cur.idx

/-- A piece of work of a page-walk engine, for a command or on the engine's own account (none), ends with a value in a state (13
R284). -/
def Kv.Ok {α : Type} (k : Kv α) (w : Option Nat) (s : State) (x : α) (t : State) : Prop := k.run w s = (.ok x, t)
/-- It stops with a cause; without information of its own the cause is met on what the command names (11 R247). -/
def Kv.Fails {α : Type} (k : Kv α) (w : Option Nat) (s : State) (e : KvErr) (t : State) : Prop := k.run w s = (.error e, t)

/-- The entry through which an address is translated: of the µTLB, or for a command the page it has touched before (10 R217). -/
def State.entryFor (s : State) (w : Option Nat) (a : Nat) : Option TlbEntry :=
  match w with
  | none => s.core.utlb.find? (·.covers a)
  | some id => (s.core.pages.find? fun p => p.1 = id && p.2.1.covers a).map (·.2.1)

/-- The entries of a translation map n bytes at a virtual address onto a physical range, writeable and intact (10 R214 to R217,
R226). -/
def State.Mapped (s : State) (va n pa : Nat) (w : Option Nat := none) : Prop :=
  ∀ i < n, s.cxlFail (pa + i) = false ∧ (pa + i) / 128 ∉ s.pkg.corrupt ∧ s.space (pa + i) ≠ .none ∧
    ∃ e, s.entryFor w ((va + i) % 2 ^ 56) = some e ∧ e.leaf.getLsbD 2 = true ∧
      bits e.leaf 16 32 * 2 ^ 16 / 2 ^ e.size * 2 ^ e.size + (va + i) % 2 ^ 56 % 2 ^ e.size = pa + i

/-- The second state is the first with the descriptor of a frame changed, which stands at a physical address (13 R280). -/
def State.FrameBecomes (t u : State) (pa : Nat) (f : Fdesc) : Prop :=
  t.SameOutside u pa 32 ∧ (t.keyId ≠ 0 → fdescOf f.id f.pool (u.pkg.reads u.keyId pa 32) = f)

/-- The second state is the first with the descriptor of a tile changed (15 R322). -/
def State.TileBecomes (t u : State) (d : Tile) : Prop :=
  t.SameOutside u (t.part.setup.tileTable + 32 * d.id) 32 ∧ (t.keyId ≠ 0 → u.tileAt d.id = d)

/-- A ru.step is over: it has left the list of commands, and the lines of its write region are full (16 R347, R348). -/
def RuleStepOver (c : Cmd) (t : State) : Prop :=
  t.core.cmd c.id = none ∧ ∀ a k, c.wr = some (a, k) → ∀ l, a < 128 * (l + 1) → 128 * l < a + k → t.full l = true

/-- A ru.step that has run is over, and no byte outside its alternate area has changed. The area holds the plane, bit 0 of every
cell in rows of 1-bit codes, where that is written; what a synchronous step leaves in it otherwise is a free value, and a
chequerboard step leaves it alone (16 R343, R349). -/
def RuleStepFinished (s : State) (c : Cmd) (t : State) (plane : Bool) : Prop :=
  let size := ruSize c.ruC
  let line := ruWidth c.ruC / 8
  let used := max (if ruU c.ruC then 0 else size) (if plane then ruRows c.ruC * line else 0)
  let cell (x y : Nat) : Nat := ruCell c.ruC (s.padRead c.ruTile size) x y
  let byte (u : State) (a : Nat) : Byte := Map.get 0 u.core.pad a
  RuleStepOver c t ∧ (∀ a, a < c.ruAlt ∨ c.ruAlt + used ≤ a → byte t a = byte s a) ∧
  (plane = false → ruU c.ruC = false → ∀ i < size, byte t (c.ruAlt + i) = Config.altByte s.free i) ∧
  (plane = true → c.ruAlt + used ≤ c.ruTile ∨ c.ruTile + size ≤ c.ruAlt → ∀ x < ruWidth c.ruC, ∀ y < ruRows c.ruC,
    (byte t (c.ruAlt + y * line + x / 8)).toNat / 2 ^ (x % 8) % 2 = cell x y % 2)

/-- Read the SI immediate of a slot: imm15, or literal word 0 when imm15 is 0x4000, as an integer, signed or not (04 R79). -/
def State.immInt (s : State) (i : BitVec 15) (signed : Bool) : Int :=
  let k : BitVec 32 := s.cur.lits.getD 0 0#32
  match decide (i = 0x4000#15), signed with
  | true, true => k.toInt
  | true, false => k.toNat
  | false, true => i.toInt
  | false, false => i.toNat

end Sys2Proof.Machine
end

