-- ==== Sys2Proof/WellFormed.lean ====
section
/-! DEFINITION. Well-formed instructions: those an assembler could write (03 R59 to R62, R68). -/

namespace Sys2Proof

/-- Well-formed: the fields are those of the named variant, and no field value is one that raises illegal-operand in
a packet with seven literal words. Every device step is well-formed. -/
def WellFormed (i : Instr) : Prop := variantOk i = true ∧ operandFault 7 0 i = none

/-- The same as a test. -/
def wellFormed (i : Instr) : Bool := variantOk i && (operandFault 7 0 i).isNone

end Sys2Proof
end

