-- ==== Sys2Proof/Certificates/Slice0/Obligations.lean ====
section
/-! DEFINITION. The statements for the provers. Each says which rule of the specification it formalises. -/

open Sys2Proof Sys2Proof.Machine

/-! ## Scalar class (01 R20, 03 R71, 04 R77 to R82) -/

/-- 04 R78, arithmetic members: the result of add, sub, mul, mulh, mulhu, min, max, minu and maxu as integers, under the
predicate, with its latency; nothing else changes. 04 R78, logic and shift members: and, or, xor and andn bit by bit, and the
shifts by y[5:0] as products and quotients. 04 R78, counts and fields: clz and popc, sext from n = imm7 bits, bfx and bfi of w =
b + 1 bits at lo = imm7, over the operands R78 gives them. 04 R79: the immediate members, with imm15 or literal word 0 extended
as the table says; li ignores a. 04 R80 to R82: cmp and cmpi on the condition codes the table gives them, sel and plog. -/
def Obligations.ScalarInstructionResults : Prop :=
  (∀ (f : SR) (s : State),
    let x := s.x.sreg f.a.toNat
    let y := s.x.sreg f.b.toNat
    let go := s.x.preg f.p.toNat
    ScalarResult (.add f) s go f.d 1 (BitVec.ofNat 64 (x.toNat + y.toNat)) ∧
    ScalarResult (.sub f) s go f.d 1 (BitVec.ofInt 64 (x.toInt - y.toInt)) ∧
    ScalarResult (.mul f) s go f.d 3 (BitVec.ofNat 64 (x.toNat * y.toNat)) ∧
    ScalarResult (.mulh f) s go f.d 3 (BitVec.ofInt 64 (x.toInt * y.toInt / 2 ^ 64)) ∧
    ScalarResult (.mulhu f) s go f.d 3 (BitVec.ofNat 64 (x.toNat * y.toNat / 2 ^ 64)) ∧
    ScalarResult (.min f) s go f.d 1 (BitVec.ofInt 64 (min x.toInt y.toInt)) ∧
    ScalarResult (.max f) s go f.d 1 (BitVec.ofInt 64 (max x.toInt y.toInt)) ∧
    ScalarResult (.minu f) s go f.d 1 (BitVec.ofNat 64 (min x.toNat y.toNat)) ∧
    ScalarResult (.maxu f) s go f.d 1 (BitVec.ofNat 64 (max x.toNat y.toNat))) ∧
  (∀ (f : SR) (s : State),
    let x := s.x.sreg f.a.toNat
    let y := s.x.sreg f.b.toNat
    let go := s.x.preg f.p.toNat
    let bitwise (i : Instr) (g : Bool → Bool → Bool) : Prop :=
      ∃ v : Dword, ScalarResult i s go f.d 1 v ∧ ∀ n < 64, v.getLsbD n = g (x.getLsbD n) (y.getLsbD n)
    bitwise (.and f) (· && ·) ∧ bitwise (.or f) (· || ·) ∧ bitwise (.xor f) (· != ·) ∧
    bitwise (.andn f) (fun a b => a && !b) ∧
    ScalarResult (.shl f) s go f.d 1 (BitVec.ofNat 64 (x.toNat * 2 ^ (y.toNat % 64))) ∧
    ScalarResult (.shr f) s go f.d 1 (BitVec.ofNat 64 (x.toNat / 2 ^ (y.toNat % 64))) ∧
    ScalarResult (.sar f) s go f.d 1 (BitVec.ofInt 64 (x.toInt / 2 ^ (y.toNat % 64)))) ∧
  (∀ (f : SR) (s : State),
    let x := s.x.sreg f.a.toNat
    let go := s.x.preg f.p.toNat
    let n := f.f.toNat
    let w := f.b.toNat + 1
    (∃ k ≤ 64, ScalarResult (.clz f) s go f.d 1 (BitVec.ofNat 64 k) ∧ x.toNat < 2 ^ (64 - k) ∧
      (k < 64 → 2 ^ (63 - k) ≤ x.toNat)) ∧
    ScalarResult (.popc f) s go f.d 1
      (BitVec.ofNat 64 ((List.range 64).filter fun i => x.getLsbD i).length) ∧
    (1 ≤ n → n ≤ 64 → ∃ v : Dword, ScalarResult (.sext f) s go f.d 1 v ∧
      ∀ i < 64, v.getLsbD i = x.getLsbD (min i (n - 1))) ∧
    (n + w ≤ 64 → ScalarResult (.bfx f) s go f.d 1 (BitVec.ofNat 64 (x.toNat / 2 ^ n % 2 ^ w))) ∧
    (n + w ≤ 64 → ∃ v : Dword, ScalarResult (.bfi f) s go f.d 1 v ∧
      ∀ i < 64, v.getLsbD i = if n ≤ i ∧ i < n + w then x.getLsbD (i - n) else (s.x.sreg f.d.toNat).getLsbD i)) ∧
  (∀ (f : SI) (s : State),
    let x := s.x.sreg f.a.toNat
    let k := s.immInt f.i true
    let z := s.immInt f.i false
    ScalarResult (.addi f) s true f.d 1 (BitVec.ofInt 64 (x.toInt + k)) ∧
    ScalarResult (.andi f) s true f.d 1 (x &&& BitVec.ofInt 64 k) ∧
    ScalarResult (.ori f) s true f.d 1 (x ||| BitVec.ofInt 64 z) ∧
    ScalarResult (.xori f) s true f.d 1 (x ^^^ BitVec.ofInt 64 z) ∧
    ScalarResult (.shli f) s true f.d 1 (BitVec.ofNat 64 (x.toNat * 2 ^ (z.toNat % 64))) ∧
    ScalarResult (.shri f) s true f.d 1 (BitVec.ofNat 64 (x.toNat / 2 ^ (z.toNat % 64))) ∧
    ScalarResult (.sari f) s true f.d 1 (BitVec.ofInt 64 (x.toInt / 2 ^ (z.toNat % 64))) ∧
    ScalarResult (.li f) s true f.d 1 (BitVec.ofInt 64 k)) ∧
  ((∀ (f : SR) (s : State),
    let x := s.x.sreg f.a.toNat
    let y := s.x.sreg f.b.toNat
    let go := s.x.preg f.p.toNat
    let pd := f.d.toNat % 8
    let fn := f.f.toNat
    let cmp (b : Bool) : Prop := PredicateResult (.cmp f) s go pd b
    (fn % 8 = 0 → cmp (decide (x = y))) ∧ (fn % 8 = 1 → cmp (decide (x ≠ y))) ∧
    (fn % 8 = 2 → cmp (decide (x.toInt < y.toInt))) ∧ (fn % 8 = 3 → cmp (decide (y.toInt ≤ x.toInt))) ∧
    (fn % 8 = 4 → cmp (decide (x.toNat < y.toNat))) ∧ (fn % 8 = 5 → cmp (decide (y.toNat ≤ x.toNat))) ∧
    ScalarResult (.sel f) s go f.d 1 (if s.x.preg (fn % 8) then x else y) ∧
    PredicateResult (.plog f) s go pd
      (fn.testBit (2 * (s.x.preg (f.a.toNat % 8)).toNat + (s.x.preg (f.b.toNat % 8)).toNat))) ∧
  ∀ (f : SI) (s : State),
    let x := s.x.sreg f.a.toNat
    let k := BitVec.ofInt 64 (s.immInt f.i true)
    let c := f.d.toNat / 8
    let cmpi (b : Bool) : Prop := PredicateResult (.cmpi f) s true (f.d.toNat % 8) b
    (c = 0 → cmpi (decide (x = k))) ∧ (c = 1 → cmpi (decide (x ≠ k))) ∧
    (c = 2 → cmpi (decide (x.toInt < k.toInt))) ∧ (c = 3 → cmpi (decide (x.toNat < k.toNat))))

/-- 01 R20, 03 R71: where a scalar or predicate result lands, the register takes the value, s0 reads zero and p0 reads true
whatever lands, and every other scalar register and predicate keeps what it holds. 03 R71: what lands as a bundle's number comes
is exactly what is due; results whose number lies ahead stay in flight. How a result in flight is written down is the model's
choice (log 13). -/
def Obligations.ResultsLandWhenDue : Prop :=
  (∀ (c : Ctx) (e : Flight) (n : Nat), e.unit = 0 → e.what = 0 →
    (e.dest < 32 →
      (c.landOne e).sreg n = (if n = e.dest ∧ n ≠ 0 then dwordOfLanes e.val else c.sreg n) ∧
      (c.landOne e).p = c.p) ∧
    (32 ≤ e.dest → e.dest < 40 → n < 8 →
      (c.landOne e).preg n = (if n = e.dest - 32 ∧ n ≠ 0 then (e.val.at 0).getLsbD 0 else c.preg n) ∧
      (c.landOne e).s = c.s) ∧
    c.sreg 0 = 0 ∧ c.preg 0 = true) ∧
  (∀ (s : State), (∀ e ∈ s.x.flight, e.what ≠ 3) →
    s.landDue.x.flight = s.x.flight.filter (fun e => decide (s.x.bno < e.due)) ∧
    s.landDue.x = ((s.x.flight.filter fun e => decide (e.due ≤ s.x.bno)).foldl Ctx.landOne
      { s.x with flight := s.x.flight.filter fun e => decide (s.x.bno < e.due) }))

/-! ## Control, strands, traps and control registers (04 R83 to R107, 05 R108 to R119, 18) -/

/-- 04 R83, R86 to R88, R101: the taken and untaken forms of br, jmp, call, jr, ret and swapb: the target, the link register,
and that nothing else changes; swapb into an unbound half is code-window-miss. 04 R83 to R85, R87: the bundle after a taken
transfer issues next and leaves a pending target; after the delay bundle execution continues at that target, with the delay
bundle's own taken transfer as the next pending target. 04 R89, R90, R94, R95: what loop, loopi and lbrk ask for outside handler
mode: a level with the count, start, end and P, the skip of a count of zero (none in the delay bundle of a taken transfer),
loop-depth at a fifth level, and lbrk's transfer with its level closed. 04 R91: in sequence each innermost level that ends at
the bundle closes while its count is at most 1, up to one that ends elsewhere, or to one with a count above 1, whose count falls
by one and whose start issues next; a skip makes none of a level that ends elsewhere; that a level opened at a bundle takes part
in the test of that bundle is no sentence of R91 but the model's choice (log 28). 04 R92: at a back edge of a level with P and
the request flag set, the strand gives up the path with everything landed, its loop levels and stated run unchanged; otherwise
it goes on. The bundle's frame is the model's form of it (log 6, log 53). -/
def Obligations.ControlFlow : Prop :=
  ((∀ (f : SB) (s : State),
    let go := s.x.preg f.p.toNat != f.n
    let a : Int := s.cur.addr.toNat
    let o := f.o.toInt
    exec (.br f) s = .next (if go then s.withTransfer (codeAddr (a + 4 * o)) none else s) ∧
    exec (.jmp f) s = .next (if go then s.withTransfer (codeAddr (a / 64 * 64 + 64 * o)) none else s) ∧
    exec (.call f) s = .next (if go then s.withTransfer (codeAddr (a + 4 * o)) (some 31) else s) ∧
    exec (.swapb f) s = .next (if !go then s else
      match (if s.core.halfOf s.cur.addr = some true then s.core.iwA else s.core.iwB) with
      | some b => s.withTransfer (codeAddr (b.toNat * 2 ^ 15 + 4 * o)) none
      | none => s.withCause 8 0x48 (BitVec.ofNat 64 s.cur.addr.toNat))) ∧
  ∀ (f : SR) (s : State),
    let go := s.x.preg f.p.toNat
    exec (.jr f) s = .next (if go then
      s.withTransfer (codeAddr (s.x.sreg f.a.toNat).toNat) (if f.d = 0#5 then none else some f.d.toNat) else s) ∧
    exec (.ret f) s = .next (if go then s.withTransfer (codeAddr (s.x.sreg 31).toNat) none else s)) ∧
  (∀ (c : Ctx) (f : Frame), f.opened = none →
    (∀ t, c.pend = some t →
      (c.flow f).1.pc = t ∧ (c.flow f).1.pend = f.transfer ∧ (c.flow f).1.link = f.link ∧
      (c.flow f).1.levels = c.levels ∧ (c.flow f).1.depth = c.depth) ∧
    (∀ t, c.pend = none → f.transfer = some t →
      (c.flow f).1.pc = f.addr + BitVec.ofNat 56 (4 * f.words) ∧ (c.flow f).1.pend = some t ∧
      (c.flow f).1.link = f.link ∧ (c.flow f).1.levels = c.levels ∧ (c.flow f).1.depth = c.depth)) ∧
  (let opens (s : State) (count : BitVec 32) (fin : Nat) (p : Bool) : State :=
    let e : Addr := BitVec.ofNat 56 (s.cur.addr.toNat + 4 * fin)
    if count = 0#32 then
      (match s.x.pend with | some _ => s | none => { s with cur := { s.cur with skip := some e } })
    else if s.x.depth < 4 then { s with cur := { s.cur with opened := some ⟨count, s.cur.seq, e, p⟩ } }
    else s.withCause 8 0xA2 (s.defaultInfo 0)
  (∀ (f : SR) (s : State), s.x.h = false →
    exec (.loop f) s = .next (if s.x.preg f.p.toNat then
      opens s ((s.x.sreg f.a.toNat).setWidth 32) (f.b.toNat * 128 + f.f.toNat) (f.d.getLsbD 4) else s)) ∧
  (∀ (f : SI) (s : State), s.x.h = false →
    exec (.loopi f) s = .next (opens s (BitVec.ofInt 32 (s.immInt f.i false))
      (f.d.toNat % 16 * 32 + f.a.toNat) (f.d.getLsbD 4))) ∧
  ∀ (f : SB) (s : State), s.x.h = false →
    exec (.lbrk f) s = .next (if s.x.preg f.p.toNat != f.n then
      ({ s with x := { s.x with depth := s.x.depth - 1 } } : State).withTransfer
        (codeAddr ((s.cur.addr.toNat : Int) + 4 * f.o.toInt)) none else s)) ∧
  (∀ (c : Ctx) (f : Frame) (n : Nat), c.pend = none → f.transfer = none → f.opened = none → f.skip = none →
    n ≤ c.depth → c.depth ≤ 4 →
    (∀ k < n, (c.level (c.depth - 1 - k)).fin = f.addr ∧ (c.level (c.depth - 1 - k)).count.toNat ≤ 1) →
    let l := c.level (c.depth - 1 - n)
    let d := (c.flow f).1
    (n = c.depth ∨ l.fin ≠ f.addr →
      c.flow f = ({ c with depth := c.depth - n, pc := f.addr + BitVec.ofNat 56 (4 * f.words) }, false)) ∧
    (n < c.depth → l.fin = f.addr → 1 < l.count.toNat → d.pc = l.start ∧ d.pend = none ∧ d.depth = c.depth - n ∧
      (c.flow f).2 = (l.p && c.req.isSome) ∧
      ∀ k, d.level k = if k = c.depth - 1 - n then { l with count := l.count - 1 } else c.level k)) ∧
  (∀ (c : Ctx) (f : Frame),
    (∀ l, c.depth < 4 → f.opened = some l → c.flow f =
      { c with levels := (c.setLevel c.depth l).levels, depth := c.depth + 1 }.flow { f with opened := none }) ∧
    (∀ a, c.pend = none → f.transfer = none → f.opened = none → f.skip = some a →
      c.depth = 0 ∨ (c.level (c.depth - 1)).fin ≠ f.addr → c.flow f = ({ c with pc := a, sk := true }, false))) ∧
  (∀ (s : State) (a q : Addr) (w : Nat), s.cur = { emptyFrame with addr := a, words := w, seq := q } → s.x.pend = none →
    0 < s.x.depth → s.x.depth ≤ 4 →
    let l := s.x.level (s.x.depth - 1)
    let t := s.commit
    let c := t.ctx s.xn
    l.fin = a → 1 < l.count.toNat →
    (l.p = false ∨ s.x.req = none → t.run = s.run ∧ t.xn = s.xn ∧ t.x.status = s.x.status ∧ t.x.pc = l.start) ∧
    (l.p = true → s.x.req ≠ none → (c.status = .ready ∨ c.status = .running) ∧ c.pc = l.start ∧ c.run = s.x.run ∧
      c.flight = [] ∧ c.holds = [] ∧ c.latchOk = 0 ∧ c.depth = s.x.depth ∧
      ∀ k, c.level k = if k = s.x.depth - 1 then { l with count := l.count - 1 } else s.x.level k))

/-- 04 R106, R107, 05 R111, R112, R114, 18 R387, R388, 04 R100: what nop, gtc, ifence, yield, wait, park, halt, trap and tret
ask of the commit or wait for. The run is imm15 or imm7, or literal word 0. 03 R58, R76, 05 R111, R112: at a yield or a wait
every result in flight lands before the strand gives up the path, holds and latches become invalid, and its context is ready (or
waits) with the stated run, at the next bundle; the scalar registers are those of the landings. 05 R112, 03 R72: a park waits
for s1 to s5, which it reads, and for the G loads. 05 R110, R112, R113: it writes the resume pc, past line padding, the run and
s1 to s5 into the record, whose state becomes 2, and nothing else of memory; the context is freed and the strand kept among the
parked for a party of one, and reserved for a member of a larger party; with W set it clears W and goes on as at a yield. 05
R114, 10 R231: a halt sets state 3, frees the context and the strand's watch entries, and its party has one member less or ends.
That a wait empties the transpose buffer too, as R211 says of a yield and a park, is the model's choice (log 49); so is the
frame, which the spec's text does not name (log 6). -/
def Obligations.StrandInstructions : Prop :=
  ((∀ (f : SR) (s : State),
    let go := s.x.preg f.p.toNat
    let run := if f.f.toNat = 127 then (s.cur.lits.getD 0 0#32).toNat else f.f.toNat
    let mine (c : Cmd) : Prop := c.strand.toNat % 2 ^ 56 = s.x.brec.toNat % 2 ^ 56
    exec (.nop f) s = .next s ∧
    ScalarResult (.gtc f) s go f.d 1 s.gtc ∧
    ((∀ c ∈ s.core.cmds, c.writesStore = false) → exec (.ifence f) s = .next s) ∧
    ((∃ c ∈ s.core.cmds, c.writesStore = true) → exec (.ifence f) s = .next (if go then s.withWait 6 else s)) ∧
    exec (.wait f) s = .next (if s.x.h then s.withCause 2 0x08 (s.defaultInfo 0)
      else if go then s.withSuspend (.wait run (s.x.sreg f.a.toNat)) else s) ∧
    exec (.park f) s = .next (if s.x.h then s.withCause 2 0x08 (s.defaultInfo 0)
      else if !go then s
      else if s.x.out.any (fun r => decide (1 ≤ r.1 ∧ r.1 ≤ 5)) then s.withWait 3
      else if s.x.out.any (fun r => r.2.isSome) then s.withWait 7 else s.withSuspend (.park run)) ∧
    ((∀ c ∈ s.core.cmds, ¬ mine c) → s.x.ef = none →
      exec (.halt f) s = .next (if go then s.withSuspend .halt else s)) ∧
    ((∃ c ∈ s.core.cmds, mine c) → s.x.ef = none → exec (.halt f) s = .next (if go then s.withWait 6 else s)) ∧
    (∀ e, s.x.ef = some e → exec (.halt f) s = .next (if go then s.withCause 8 0x82
      (BitVec.ofNat 64 (e.info.toNat % 2 ^ 40 + min e.more 255 * 2 ^ 40 + e.cause.toNat * 2 ^ 56)) else s)) ∧
    exec (.tret f) s = .next (if s.x.h then { s with cur := { s.cur with tret := true } }
      else s.withCause 3 0x10 (s.defaultInfo 0))) ∧
  ∀ (f : SI) (s : State),
    exec (.yield f) s = .next (if s.x.h then s.withCause 2 0x08 (s.defaultInfo 0)
      else s.withSuspend (.yield (s.immInt f.i false).toNat)) ∧
    exec (.trap f) s = .next { s with cur := { s.cur with
      trap := some (s.cur.idx, BitVec.ofInt 64 (s.immInt f.i false)) } }) ∧
  (∀ (s : State) (k : Nat) (t : Dword),
    let y := (s.landAll.giveUpBy (.yield k)).ctx s.xn
    let w := (s.landAll.giveUpBy (.wait k t)).ctx s.xn
    (y.status = .ready ∨ y.status = .running) ∧
    (t.toNat ≤ s.gtc.toNat → w.status = .ready ∨ w.status = .running) ∧
    (s.gtc.toNat < t.toNat → w.status = .waiting t) ∧
    ∀ c, c = y ∨ c = w → c.run = k ∧ c.flight = [] ∧ c.holds = [] ∧ c.latchOk = 0 ∧ c.unseen = [] ∧ c.tbuf = [] ∧ c.pc = s.x.pc ∧
      c.pend = s.x.pend ∧ c.s = s.landAll.x.s ∧ c.levels = s.x.levels ∧ c.depth = s.x.depth) ∧
  (∀ (s : State) (k pa : Nat), s.Mapped (va56 s.x.brec) 64 pa → s.NoneWaiting → s.keyId ≠ 0 → isHost pa = false →
    (∀ h ∈ s.part.starts, va56 h.rec_ ≠ va56 s.x.brec) →
    let old := recordOf (s.pkg.reads s.keyId pa 64)
    let t := s.landAll.giveUpBy (.park k)
    let c := t.ctx s.xn
    let r := recordOf (t.pkg.reads t.keyId pa 64)
    (∀ a, a < pa ∨ pa + 64 ≤ a → t.pkg.read t.keyId a = s.pkg.read s.keyId a) ∧
    (old.w = false → r.pc = codeAddr (s.resumePc s.x).toNat ∧ r.run = k % 2 ^ 16 ∧ r.state = 2 ∧ r.w = false ∧ r.rank = old.rank ∧
      r.psize = old.psize ∧ r.pos = old.pos ∧ r.job = old.job ∧ r.pitch = old.pitch ∧
      r.regs = (List.range 5).map (fun i => s.landAll.x.sreg (i + 1)) ∧
      (s.x.psize = 0 → c.status = .empty ∧
        ∃ e ∈ t.part.parked, e.addr = s.x.brec ∧ e.sp = s.x.sp ∧ e.rtile = s.x.rtile ∧ e.party = s.x.party ∧ e.ef = s.x.ef) ∧
      (s.x.psize ≠ 0 → c.status = .reserved)) ∧
    (old.w = true → r = { old with w := false } ∧ (c.status = .ready ∨ c.status = .running) ∧ c.run = k ∧ c.pc = s.x.pc)) ∧
  (∀ (s : State) (c : Ctx),
    let word (a : Addr) : Option Word := (s.core.codeIdx a).map s.core.codeWord
    let line : Addr := BitVec.ofNat 56 (c.pc.toNat / 64 * 64 + 64)
    (word c.pc ≠ some 0 → s.resumePc c = c.pc) ∧ (word c.pc = some 0 → word line ≠ some 0 → s.resumePc c = line)) ∧
  (∀ (s : State) (pa : Nat), s.Mapped (va56 s.x.brec) 64 pa → s.keyId ≠ 0 → isHost pa = false →
    (∀ w ∈ s.core.watch, w.barrier = false → w.pad = false → w.addr / 128 ≠ (pa + 11) / 128) →
    s.part.builds = [] → (∀ p ∈ s.part.parties, p.id = s.x.party → 1 < p.left ∨ p.job = 0) →
    let old := recordOf (s.pkg.reads s.keyId pa 64)
    let t := s.landAll.giveUpBy .halt
    recordOf (t.pkg.reads t.keyId pa 64) = { old with state := 3 } ∧ (t.ctx s.xn).status = .empty ∧
    t.core.watch = s.core.watch.filter (fun w => decide (va56 w.strand ≠ va56 s.x.brec)) ∧
    ∀ p ∈ s.part.parties, p.id = s.x.party → (∀ q ∈ s.part.parties, q.id = p.id → q = p) →
      (1 < p.left → { p with left := p.left - 1 } ∈ t.part.parties) ∧
      (p.left ≤ 1 → ∀ q ∈ t.part.parties, q.id ≠ p.id))

/-- 18 R374, R375, 03 R76, 04 R85: taking a trap. In handler mode it is the fatal double-trap 0xB8, which stops the partition
and changes no register; else the results in flight, numbering, latches and holds are put aside, the pending target and a held
link move to ctx.dtgt, cause, fault mask, tpc and information are written, H is set and the pc is ctx.tvec; loop levels, vstat,
registers, engine commands and memory are unchanged. 18 R388, 03 R76, 04 R85: tret after a trap whose handler left the trap
registers: H clears, the bundle at ctx.tpc issues next under the number it had, with the results in flight, latches and holds
put aside, the pending target and the held link. 18 R387: the bundle of a trap op commits and trap entry follows with cause
0xA1, k as information, the op's bit in the fault mask and ctx.tpc at the next bundle in sequence. 18 R371, R375: in handler
mode loop, loopi, lbrk and mwait are illegal-op too, whatever their predicate; without privilege ctxsv, ctxld, tlbinv,
tlbinv.all, tlbsync, kv.grant, msg.hnd and sct.evict raise privilege, and have no other effect; 03 R69: a ctxsv or ctxld whose
predicate is true and whose s[b] is 8 or more raises illegal-operand, which ranks first. When the results in flight of a trapped
context land is log 22. -/
def Obligations.TrapsAndPrivilege : Prop :=
  (∀ (s : State) (cause : Nat) (fmask : BitVec 16) (tinfo : Dword) (tpc : Addr),
    let t := s.takeTrap cause fmask tinfo tpc
    (s.x.h = true → t.x = s.x ∧ t.part.stopped = true ∧ t.pkg.mem = s.pkg.mem ∧ t.core = s.core ∧ t.pkg.dumping = true ∧
      ∃ r : LogRec, t.pkg.log = s.pkg.log ++ [r] ∧ r.cause = 0xB8#8 ∧ r.info = tinfo ∧ r.gtc = s.gtc) ∧
    (s.x.h = false →
      t = { s with x := { s.x with
        saved := some ⟨s.x.bno, s.x.flight, s.x.latch, s.x.latchOk, s.x.holds⟩, flight := [], latchOk := 0, holds := [],
        dtgt := t.x.dtgt, pend := none, link := none, cause := BitVec.ofNat 8 cause, fmask := fmask,
        tpc := codeAddr tpc.toNat, tinfo := tinfo, h := true, pc := s.x.tvec, waited := 0, bankw := 0 } } ∧
      t.x.dtgt.getLsbD 0 = s.x.pend.isSome ∧ t.x.dtgt.getLsbD 1 = s.x.link.isSome ∧
      (∀ p, s.x.pend = some p → t.x.dtgt.extractLsb' 2 54 = p.extractLsb' 2 54) ∧
      (∀ r, s.x.link = some r → (t.x.dtgt.extractLsb' 56 5).toNat = r % 32))) ∧
  (∀ (s : State) (cause : Nat) (fmask : BitVec 16) (tinfo : Dword) (tpc : Addr), s.x.h = false →
    (s.takeTrap cause fmask tinfo tpc).x.trapReturn =
      { s.x with cause := BitVec.ofNat 8 cause, fmask := fmask, tinfo := tinfo, tpc := codeAddr tpc.toNat,
                 pc := codeAddr tpc.toNat, pend := s.x.pend.map fun p => codeAddr p.toNat,
                 link := s.x.link.map (· % 32), saved := none, waited := 0, bankw := 0,
                 dtgt := (s.takeTrap cause fmask tinfo tpc).x.dtgt }) ∧
  (∀ (s : State) (a q : Addr) (w i : Nat) (k : Dword), s.x.h = false → s.x.depth = 0 → s.x.pend = none → i < 16 →
    let t := { s with cur := { emptyFrame with addr := a, words := w, seq := q, trap := some (i, k) } }.commit
    t.x.cause = 0xA1#8 ∧ t.x.tinfo = k ∧ (∀ n < 16, t.x.fmask.getLsbD n = decide (n = i)) ∧ t.x.h = true ∧
      t.x.pc = s.x.tvec ∧ t.x.tpc = codeAddr q.toNat ∧ t.x.flight = [] ∧
      t.x.saved.map (·.bno) = some (s.x.bno + 1)) ∧
  ((∀ (s : State), s.x.h = true →
    (∀ f, exec (.loop f) s = .next (s.withCause 2 0x08 (s.defaultInfo 0))) ∧
    (∀ f, exec (.loopi f) s = .next (s.withCause 2 0x08 (s.defaultInfo 0))) ∧
    (∀ f, exec (.lbrk f) s = .next (s.withCause 2 0x08 (s.defaultInfo 0))) ∧
    (∀ f, exec (.mwait f) s = .next (s.withCause 2 0x09 (s.defaultInfo 0)))) ∧
  ∀ (s : State), s.x.h = false → s.x.sp = false →
    let t := Host.Outcome.next (s.withCause 4 0xA0 (s.defaultInfo 0))
    (∀ f : SR,
      let u := if s.x.preg f.p.toNat = true ∧ 8 ≤ (s.x.sreg f.b.toNat).toNat then
        Host.Outcome.next (s.withCause 3 0x10 (s.defaultInfo 10)) else t
      exec (.ctxsv f) s = u ∧ exec (.ctxld f) s = u) ∧
    (∀ f, exec (.tlbinv f) s = t ∧ exec (.tlbinvAll f) s = t ∧ exec (.tlbsync f) s = t) ∧
    ∀ f, exec (.kvGrant f) s = t ∧ exec (.msgHnd f) s = t ∧ exec (.sctEvict f) s = t)

/-- 04 R102 to R105, 05 R117, 08 R168, 09 R207, 18 R372, R373: what csrr lands for every number a chapter assigns; a number from
0x200 upward, or one that no chapter assigns, is illegal-operand. 04 R102, R105, 00 R7, 18 R373: csrw asks for a write at the
commit, or raises illegal-operand, or privilege for a core register or a trap register other than ctx.tsave0-3; and once the
write has been made the register reads as its fields allow, read-only numbers as before, and no other register differs. -/
def Obligations.ControlRegisters : Prop :=
  (∀ (f : SI) (s : State),
    let n := (s.immInt f.i false).toNat
    let reads (v : Nat) : Prop := ScalarResult (.csrr f) s true f.d 1 (BitVec.ofNat 64 v)
    let lev := s.x.level
    let win (w : Option (BitVec 41)) : Nat := match w with | some b => b.toNat * 2 ^ 15 + 1 | none => 0
    (n = 0x000 → reads (s.xn % 8 + 8 * s.core.num + 2 ^ 10 * s.core.die)) ∧
    (n = 0x008 → reads s.x.rm.toNat) ∧
    (n = 0x010 → reads (s.x.depth + 8 * s.x.sk.toNat + 16 * (lev 0).p.toNat + 32 * (lev 1).p.toNat +
      64 * (lev 2).p.toNat + 128 * (lev 3).p.toNat)) ∧
    (∀ k < 4, (n = 0x011 + k → reads (lev k).count.toNat) ∧ (n = 0x015 + k → reads (lev k).start.toNat) ∧
      (n = 0x019 + k → reads (lev k).fin.toNat) ∧ (n = 0x038 + k → reads (Map.get 0 s.x.tsave k).toNat)) ∧
    (n = 0x020 → reads s.x.brec.toNat) ∧ (n = 0x022 → reads s.x.dtgt.toNat) ∧ (n = 0x024 → reads s.x.rtile.toNat) ∧
    (n = 0x030 → reads s.x.tvec.toNat) ∧ (n = 0x031 → reads s.x.cause.toNat) ∧ (n = 0x032 → reads s.x.fmask.toNat) ∧
    (n = 0x033 → reads s.x.tpc.toNat) ∧ (n = 0x034 → reads s.x.tinfo.toNat) ∧
    (n = 0x035 → reads (s.x.h.toNat + 2 * (s.x.sp || s.x.h).toNat + 4 * s.x.sp.toNat)) ∧
    (∀ k < 8, n = 0x040 + k → reads (s.x.vst k).toNat) ∧
    (n = 0x048 → ∃ v : Nat, reads v ∧ v < 64 ∧
      ∀ i < 6, (v.testBit i = true ↔ ∃ k < 8, (s.x.vst k).getLsbD i = true)) ∧
    (∀ b < 2, n = 0x140 + b → reads (let k := s.core.bank b
      if k.owner ≠ 0 ∧ k.owner = s.x.pitch % 128 then 1 + k.mode * 4 + k.flags * 16 + k.owner * 256 else 0)) ∧
    (n = 0x150 → reads s.core.rres) ∧ (n = 0x100 → reads s.core.maxrun) ∧ (n = 0x101 → reads s.core.deadline) ∧ (n = 0x102 → reads s.core.slice) ∧
    (n = 0x103 → reads s.core.wdog.toNat) ∧ (n = 0x110 → reads (win s.core.iwA)) ∧ (n = 0x111 → reads (win s.core.iwB)) ∧
    (∀ q < 16, (n = 0x120 + q → reads (s.core.stream q).head.toNat) ∧ (n = 0x130 + q → reads (s.core.stream q).tail.toNat)) ∧
    (0x200 ≤ n ∨ csrKnown n = false → exec (.csrr f) s = .next (s.withCause 3 0x10 (s.defaultInfo 0)))) ∧
  ((∀ (f : SI) (s : State),
    let n := (s.immInt f.i false).toNat
    exec (.csrw f) s = .next (
      if csrKnown n = false then s.withCause 3 0x10 (s.defaultInfo 0)
      else if (0x100 ≤ n ∨ (0x030 ≤ n ∧ n ≤ 0x035)) ∧ s.x.sp = false ∧ s.x.h = false then
        s.withCause 4 0xA0 (s.defaultInfo 0)
      else { s with cur := { s.cur with posts := s.cur.posts ++ [.csr n (s.x.sreg f.a.toNat)] } })) ∧
  ∀ (s : State) (n : Nat) (v : Dword), csrKnown n = true →
    let t := s.applyCsr (.csr n v)
    let holds (k : Nat) : Prop := t.csrRead n = BitVec.ofNat 64 k
    (n = 0x008 → holds (v.toNat % 4)) ∧
    (n = 0x010 → holds (v.toNat % 256 / 8 * 8 + if v.toNat % 8 ≤ 4 then v.toNat % 8 else s.x.depth)) ∧
    (0x011 ≤ n ∧ n ≤ 0x014 → holds (v.toNat % 2 ^ 32)) ∧
    ((0x015 ≤ n ∧ n ≤ 0x01C) ∨ n = 0x030 ∨ n = 0x033 → holds (v.toNat % 2 ^ 56 / 4 * 4)) ∧
    (n = 0x022 → holds (v.toNat % 2 ^ 61)) ∧ (n = 0x031 → holds (v.toNat % 2 ^ 8)) ∧ (n = 0x032 → holds (v.toNat % 2 ^ 16)) ∧
    (n = 0x034 ∨ (0x038 ≤ n ∧ n ≤ 0x03B) → holds v.toNat) ∧
    (0x040 ≤ n ∧ n ≤ 0x047 → t.csrRead n = v &&& 0x3F3F#64) ∧
    (n = 0x100 → holds (v.toNat % 2 ^ 16)) ∧ (n = 0x101 → holds (v.toNat % 2 ^ 20)) ∧ (n = 0x103 → holds (v.toNat % 2 ^ 32)) ∧
    (n = 0x102 → holds (if v.toNat % 2 ^ 16 < 256 then s.core.slice else v.toNat % 2 ^ 16)) ∧
    (n ∈ [0x000, 0x020, 0x024, 0x035, 0x048, 0x110, 0x111, 0x140, 0x141, 0x150] ∨ (0x120 ≤ n ∧ n ≤ 0x13F) → t = s) ∧
    ∀ m, csrKnown m = true → m ≠ n → ¬ (m = 0x048 ∧ 0x040 ≤ n ∧ n ≤ 0x047) → t.csrRead m = s.csrRead m)

/-- 04 R96, R99: iwin binds a half as the bundle commits, to the window of s[a][55:15]; the other half is unbound when it holds
the same window; a code address is fetched from the half whose window holds it, at its offset in the window, and one that lies
in neither is a miss. -/
def Obligations.CodeWindowsBindAndFetch : Prop :=
  (∀ (f : SI) (s : State),
    let b : BitVec 41 := BitVec.ofNat 41 ((s.x.sreg f.a.toNat).toNat / 2 ^ 15)
    exec (.iwin f) s = .next { s with cur := { s.cur with posts := s.cur.posts ++ [.window (f.d.getLsbD 0) b] } } ∧
    let c := (s.applyPost (.window (f.d.getLsbD 0) b)).core
    (f.d.getLsbD 0 = false → c.iwA = some b ∧ c.iwB = if s.core.iwB = some b then none else s.core.iwB) ∧
    (f.d.getLsbD 0 = true → c.iwB = some b ∧ c.iwA = if s.core.iwA = some b then none else s.core.iwA)) ∧
  ∀ (c : CoreSt) (a : Addr) (sk : Bool),
    let w : BitVec 41 := BitVec.ofNat 41 (a.toNat / 2 ^ 15)
    (c.iwA = some w → c.codeIdx a = some (a.toNat % 32768 / 4)) ∧
    (c.iwA ≠ some w → c.iwB = some w → c.codeIdx a = some (8192 + a.toNat % 32768 / 4)) ∧
    (c.iwA ≠ some w → c.iwB ≠ some w → c.codeIdx a = none ∧ ∀ n, c.fetch n sk a = .miss a sk)

/-- 05 R115: spawn of a record in each state: an unaligned address is illegal-operand; a translation fault is reported; 1
running sets W and answers 1, 3 halted answers 2 and does nothing. 2 parked is made ready and answers 0: on its reserved
context, or by R110 on a free one of the core, where it is parked no longer; with no room it stands last in the ready list as
one that resumes, or, when the list holds 1,024 records, nothing happens and the answer is 3. 0 new is placed and answers 0, or
stands in the list the same way; there is no room before the partition has an image (04 R98), nor in the contexts that 15 R328
reserves. 05 R108, R110, R115, 18 R373: a strand placed or made ready on a context of this core is ready there with the pc, s1
to s5 and control fields of its record, the partition's trap vector, no level open, unprivileged unless its placing was
privileged, holds and latches invalid and l1 to l3 zero, and the state of its record is 1. 05 R108: a record that is invalid is
discarded with the event record invalid-record; that a new one with psize other than 0 is, that nothing states the value of s[d]
then, and that a record whose context is taken goes to a free context of this core first, are the model's choice (log 7, log
51). -/
def Obligations.SpawnAndPlacement : Prop :=
  let made (t : State) (n : Nat) (va : Dword) (r : Record) (sp : Bool) : Prop :=
    let c := t.ctx n
    c.status = .ready ∧ c.pc = r.pc ∧ c.brec = va ∧ (∀ i < 5, c.sreg (i + 1) = r.regs.getD i 0) ∧ c.sp = sp ∧ c.h = false ∧
    c.depth = 0 ∧ c.tvec.toNat = t.part.setup.trapVec.toNat % 2 ^ 56 / 4 * 4 ∧ c.rank = r.rank ∧ c.psize = r.psize ∧
    c.pos = r.pos ∧ c.job = r.job ∧ c.pitch = r.pitch ∧ c.run = r.run ∧ c.holds = [] ∧ c.latchOk = 0 ∧ c.flight = [] ∧
    (∀ cl m, c.lmask cl m = if m = 0 then 0xFFFF#16 else 0#16) ∧ (∀ k < 8, c.vst k = 0) ∧ ∀ k < 4, Map.get 0 c.tsave k = 0
  let queued (s : State) (e : ReadyEnt) : State := { s with die := { s.die with ready := s.die.ready ++ [e] } }
  (∀ (f : SR) (s : State),
    let va := s.x.sreg f.a.toNat
    let go := s.x.preg f.p.toNat
    let t := (s.translate va false s.x.priv).1
    let r := recordOf (t.recBytes (va.toNat % 2 ^ 56))
    (go = false → exec (.spawn f) s = .next s) ∧
    (go = true → va.toNat % 64 ≠ 0 → exec (.spawn f) s = .next (s.withCause 3 0x10 (s.defaultInfo 15))) ∧
    (go = true → va.toNat % 64 = 0 → ∀ c, (s.translate va false s.x.priv).2 = .error c →
      exec (.spawn f) s = .next (t.withCause 8 c (BitVec.ofNat 64 (va.toNat % 2 ^ 56)))) ∧
    (go = true → va.toNat % 64 = 0 → ∀ pa ty, (s.translate va false s.x.priv).2 = .ok (pa, ty) → s.integrityFail pa = false →
      (r.state = 1 → exec (.spawn f) s = .next ((t.recW va true).withReturn f.d 1)) ∧
      (r.state = 3 → exec (.spawn f) s = .next (t.withReturn f.d 2)) ∧
      (r.state = 2 → match t.resumeParked va (t.coreSource t.xn 0) (BitVec.ofNat 64 s.cur.addr.toNat) with
        | (u, some v) => exec (.spawn f) s = .next (u.withReturn f.d (BitVec.ofNat 64 v))
        | (u, none) => ∃ w, exec (.spawn f) s = .next (({ u with free := u.free + 1 } : State).withReturn f.d w)) ∧
      (r.state = 0 → (∀ e ∈ t.die.ready, va56 e.addr ≠ va56 va) →
        (r.psize = 0 → t.recordOk r = true →
          (∀ u, t.placeOne va r s.x.sp 0 false = some u → exec (.spawn f) s = .next (u.withReturn f.d 0)) ∧
          (t.placeOne va r s.x.sp 0 false = none →
            (t.die.ready.length < 1024 → exec (.spawn f) s = .next ((queued t ⟨va, s.x.sp, false, false, none⟩).withReturn f.d 0)) ∧
            (1024 ≤ t.die.ready.length → exec (.spawn f) s = .next (t.withReturn f.d 3)))) ∧
        (r.psize ≠ 0 ∨ t.recordOk r = false → ∃ u e, exec (.spawn f) s = .next u ∧ u.pkg.log = t.pkg.log ++ [e] ∧
          e.cause = 0xA4#8 ∧ e.gtc = s.gtc ∧ u.rest = t.rest ∧ u.core = t.core ∧ u.die = t.die)))) ∧
  (∀ (s : State) (va : Dword) (pa : Nat), s.Mapped (va56 va) 64 pa → s.NoneWaiting → s.keyId ≠ 0 → isHost pa = false →
    let r := recordOf (s.pkg.reads s.keyId pa 64)
    let running (u : State) : Prop := recordOf (u.pkg.reads u.keyId pa 64) = { r with state := 1 }
    let k := s.parkedOf va false
    (∀ sp,
      (s.part.loaded = false ∨ s.freeCount ≤ s.core.rres → s.placeOne va r sp 0 false = none) ∧
      ∀ n, s.part.loaded = true → s.core.rres < s.freeCount → s.freeCtx = some n → r.pitch = 0 → r.lines = 0 →
        ∃ u, s.placeOne va r sp 0 false = some u ∧ made u n va r sp ∧ running u) ∧
    (s.recordOk r = true → ∀ (src : Nat) (pc : Dword),
      (∀ n, s.ctxOf va = some n → (s.ctx n).status = .reserved → ∃ u, s.resumeParked va src pc = (u, some 0) ∧
        made u n va { r with pitch := (s.ctx n).pitch } (s.ctx n).sp ∧ running u) ∧
      (s.ctxOf va = none → (∀ e ∈ s.die.ready, va56 e.addr ≠ va56 va) →
        (∀ n, s.core.rres < s.freeCount → s.freeCtx = some n →
          (r.pitch = 0 ∧ r.lines = 0) ∨ (r.pitch ≠ 0 ∧ (s.core.pitchOf r.pitch).isSome = true) →
          ∃ u, s.resumeParked va src pc = (u, some 0) ∧ made u n va r k.sp ∧ running u ∧
            ∀ e ∈ u.part.parked, va56 e.addr ≠ va56 va) ∧
        (s.freeCount ≤ s.core.rres → r.pitch ≠ 0 ∨ (∀ d < 4, s.idleOn d = false) →
          (s.die.ready.length < 1024 → s.resumeParked va src pc = (queued s ⟨va, k.sp, true, false, none⟩, some 0)) ∧
          (1024 ≤ s.die.ready.length → s.resumeParked va src pc = (s, some 3))))) ∧
    (s.recordOk r = false → s.ctxOf va = none → (∀ e ∈ s.die.ready, va56 e.addr ≠ va56 va) → ∀ (src : Nat) (pc : Dword),
      ∃ u e, s.resumeParked va src pc = (u, none) ∧ u.pkg.log = s.pkg.log ++ [e] ∧ e.cause = 0xA4#8 ∧ e.gtc = s.gtc ∧
        u.x = s.x ∧ u.rest = s.rest ∧ u.core = s.core ∧ u.die = s.die ∧ u.part = s.part))

/-- 18 R390: tlbinv removes every entry of both TLBs that maps s[a], and only those; tlbinv.all removes every entry; a command
that has translated through an entry removed is marked, and tlbsync waits while one is in flight (10 R217); nothing else
changes. 18 R389: ctxsv of a context that may be saved leaves it empty, frees every watch entry of its strand and raises no
cause, or, while the context is owed a register, stops its long commands and waits; ctxld of an image of version 1 into an empty
context gives it what the image holds, ready, frozen or waiting as its format word says. 18 R379, R381: the bytes that ctxsv
writes of a context outside handler mode, and that ctxld reads: the format word, the resume PC past line padding, the registers
at their offsets, the replay entries with their fields, and zeros in the bytes between the areas and after the last entry;
memory outside the image keeps what it holds. The offsets within the areas at 0x0158, 0x0260, 0x5000 and after, where R381 lists
the content alone, are the model's choice (log 33). -/
def Obligations.SystemInstructions : Prop :=
  (∀ (f : SR) (s : State), s.x.sp = true ∨ s.x.h = true →
    let va := (s.x.sreg f.a.toNat).toNat % 2 ^ 56
    let maps (e : TlbEntry) : Bool := decide (va / 2 ^ e.size = e.vbase / 2 ^ e.size)
    let without (keep : TlbEntry → Bool) : State := { s with
      core := { s.core with utlb := s.core.utlb.filter keep, pages := s.core.pages.map fun p => (p.1, p.2.1, p.2.2 || !keep p.2.1) },
      die := { s.die with tlb := s.die.tlb.filter keep } }
    let go := s.x.preg f.p.toNat
    exec (.tlbinv f) s = .next (if go then without (fun e => !maps e) else s) ∧
    exec (.tlbinvAll f) s = .next (if go then without (fun _ => false) else s) ∧
    ((∀ p ∈ s.core.pages, p.2.2 = false) → exec (.tlbsync f) s = .next s) ∧
    ((∃ p ∈ s.core.pages, p.2.2 = true) → exec (.tlbsync f) s = .next (if go then s.withWait 7 else s))) ∧
  (∀ (f : SR) (s : State),
    let va := s.x.sreg f.a.toNat
    let a := va.toNat % 2 ^ 56
    let n := (s.x.sreg f.b.toNat).toNat
    (s.x.sp = true ∨ s.x.h = true) → s.x.preg f.p.toNat = true → va.toNat % 4096 = 0 → n < 8 → n ≠ s.xn →
    ((s.ctx n).status ≠ .empty → (s.ctx n).status ≠ .reserved → s.imageFault a true = none →
      (∀ r ∈ ((s.stopSteps n).ctx n).out, r.2.isSome = true) →
      ∃ t, exec (.ctxsv f) s = .next t ∧ (t.ctx n).status = .empty ∧ t.cur.causes = s.cur.causes ∧ t.cur.waits = s.cur.waits ∧
        ∀ w ∈ t.core.watch, va56 w.strand ≠ va56 ((s.stopSteps n).ctx n).brec) ∧
    ((s.ctx n).status ≠ .empty → (s.ctx n).status ≠ .reserved → s.imageFault a true = none →
      (∃ r ∈ ((s.stopSteps n).ctx n).out, r.2 = none) → ∃ t, exec (.ctxsv f) s = .next t ∧ t.core = (s.stopSteps n).core ∧
        t.cur.causes = s.cur.causes ∧ t.cur.waits = s.cur.waits ++ [7] ∧ t.cur.stops = s.cur.stops ++ [n]) ∧
    ((s.ctx n).status = .empty → s.imageFault a false = none →
      let r (k o : Nat) : Nat := s.devNat (a + o) k
      r 8 0 % 2 ^ 16 = 1 → r 8 0 / 2 ^ 32 % 2 ^ 11 ≤ 1024 → (recordOf (s.recBytes (r 8 0x240))).pitch = 0 →
      let count := r 8 0 / 2 ^ 32 % 2 ^ 11
      ∃ t, exec (.ctxld f) s = .next t ∧ t.cur.causes = s.cur.causes ∧
        let c := t.ctx n
        let dword (v : Dword) (o : Nat) : Prop := v = BitVec.ofNat 64 (r 8 o)
        let lanes (l : Lanes) (o : Nat) : Prop := ∀ i < 16, (l.at i).toNat = r 4 (o + 4 * i)
        c.pc = addrOf (BitVec.ofNat 64 (r 8 8)) ∧ c.h = (r 8 0).testBit 18 ∧ c.sp = (r 8 0).testBit 19 ∧
        (∀ i < 31, dword (c.sreg (i + 1)) (0x10 + 8 * i)) ∧ (∀ i < 8, i ≠ 0 → c.preg i = (r 1 0x108).testBit i) ∧
        c.bno = r 8 0x110 ∧ (∀ i < 8, dword (Map.get 0 c.m i) (0x118 + 8 * i)) ∧ (r 8 0x1D8 % 8 ≤ 4 → c.depth = r 8 0x1D8 % 8) ∧
        (∀ i < 4, (c.level i).count.toNat = r 4 (0x158 + 32 * i) ∧ (c.level i).start.toNat = r 8 (0x160 + 32 * i) % 2 ^ 56 / 4 * 4 ∧
          (c.level i).fin.toNat = r 8 (0x168 + 32 * i) % 2 ^ 56 / 4 * 4 ∧ (c.level i).p = (r 8 0x1D8).testBit (4 + i)) ∧
        c.rm.toNat = r 1 0x1E0 % 4 ∧ c.tvec.toNat = r 8 0x1F0 % 2 ^ 56 / 4 * 4 ∧ c.cause.toNat = r 1 0x1F8 ∧
        c.fmask.toNat = r 2 0x200 ∧ c.tpc.toNat = r 8 0x208 % 2 ^ 56 / 4 * 4 ∧ dword c.tinfo 0x210 ∧
        (∀ i < 4, dword (Map.get 0 c.tsave i) (0x218 + 8 * i)) ∧ dword c.brec 0x240 ∧ dword c.ruCfg 0x260 ∧
        c.ruGen.toNat = r 2 0x268 % 2 ^ 10 ∧ dword c.copy.cfg 0x300 ∧
        (∀ cl < 8, (∀ k < 32, lanes (c.vreg cl k) (0x1000 + 0x800 * cl + 64 * k)) ∧
          (∀ k < 4, lanes (Map.get Lanes.zero c.latch (4 * cl + k)) (0x5000 + 0x400 * cl + 64 * k) ∧
            c.latchOk.getLsbD (4 * cl + k) = (r 8 (0x5198 + 0x400 * cl)).testBit k) ∧
          (∀ k < 3, (c.lmask cl (k + 1)).toNat = r 2 (0x5188 + 0x400 * cl + 2 * k)) ∧
          c.vst cl = BitVec.ofNat 32 (r 4 (0x5190 + 0x400 * cl)) &&& 0x3F3F#32) ∧
        (∀ i < 16, lanes (Map.get Lanes.zero c.tbuf i) (0x7000 + 64 * i)) ∧
        ((r 8 0).testBit 18 = false → ∀ pa, s.Mapped a 163840 pa → c.flight.length = count ∧ ∀ k e, c.flight[k]? = some e →
          let o := 0x8000 + 128 * k
          e.due = r 8 0x110 + r 1 (o + 66) ∧ e.unit = r 1 (o + 64) % 8 ∧ e.cluster = r 1 (o + 64) / 16 % 8 ∧
          e.dest = r 1 (o + 65) % 64 ∧ e.what = r 1 (o + 65) / 64 ∧ e.lanes.toNat = r 2 (o + 68) ∧ lanes e.val o) ∧
        c.status = (match r 8 0 / 2 ^ 16 % 4 with
          | 1 => .frozen | 2 => .waiting (BitVec.ofNat 64 (r 8 0x320)) | _ => .ready))) ∧
  (∀ (f : SR) (s : State) (pa : Nat),
    let va := s.x.sreg f.a.toNat
    let n := (s.x.sreg f.b.toNat).toNat
    let c := s.ctx n
    (s.x.sp = true ∨ s.x.h = true) → s.x.preg f.p.toNat = true → va.toNat % 4096 = 0 → n < 8 → n ≠ s.xn →
    s.Mapped (va.toNat % 2 ^ 56) 163840 pa → s.NoneWaiting → s.keyId ≠ 0 → isHost pa = false → isHost (pa + 163839) = false →
    s.core.cmds = [] → c.out = [] → c.h = false → c.saved = none → c.flight.length ≤ 1024 → c.depth ≤ 4 → ∀ k u,
    (k = 0 ∧ c.status = .ready) ∨ (k = 1 ∧ c.status = .frozen) ∨ (k = 2 ∧ c.status = .waiting u) →
    ∃ t, exec (.ctxsv f) s = .next t ∧ (∀ x, x < pa ∨ pa + 163840 ≤ x → t.pkg.read t.keyId x = s.pkg.read s.keyId x) ∧
      let m (o k : Nat) : Nat := leNat (t.pkg.reads t.keyId (pa + o) k)
      let lanes (l : Lanes) (o : Nat) : Prop := ∀ i < 16, m (o + 4 * i) 4 = (l.at i).toNat
      let zero (o e : Nat) : Prop := ∀ x, o ≤ x → x < e → m x 1 = 0
      m 0 8 = 1 + k * 2 ^ 16 + c.sp.toNat * 2 ^ 19 + c.flight.length * 2 ^ 32 ∧ m 8 8 = (s.resumePc c).toNat ∧
      (∀ i < 31, m (0x10 + 8 * i) 8 = (c.sreg (i + 1)).toNat) ∧ m 0x108 1 = c.p.toNat / 2 * 2 ∧ m 0x110 8 = c.bno % 2 ^ 64 ∧
      (∀ i < 8, m (0x118 + 8 * i) 8 = (Map.get 0 c.m i).toNat) ∧
      (∀ i < 4, m (0x158 + 32 * i) 8 = (c.level i).count.toNat ∧ m (0x160 + 32 * i) 8 = (c.level i).start.toNat ∧
        m (0x168 + 32 * i) 8 = (c.level i).fin.toNat) ∧
      m 0x1D8 8 = c.depth + 8 * c.sk.toNat + 16 * (c.level 0).p.toNat + 32 * (c.level 1).p.toNat + 64 * (c.level 2).p.toNat +
        128 * (c.level 3).p.toNat ∧
      m 0x1E0 8 = c.rm.toNat ∧ m 0x1E8 8 = c.dtgt.toNat ∧ m 0x1F0 8 = c.tvec.toNat ∧ m 0x1F8 8 = c.cause.toNat ∧
      m 0x200 8 = c.fmask.toNat ∧ m 0x208 8 = c.tpc.toNat ∧ m 0x210 8 = c.tinfo.toNat ∧
      (∀ i < 4, m (0x218 + 8 * i) 8 = (Map.get 0 c.tsave i).toNat) ∧ m 0x238 8 = c.rtile.toNat ∧ m 0x240 8 = c.brec.toNat ∧
      m 0x260 8 = c.ruCfg.toNat ∧ m 0x268 8 = c.ruGen.toNat + 1024 * c.ruD.toNat ∧
      (∀ i < 6, let l := Map.get ⟨0, 0, 0⟩ c.copy.levels i
        m (0x270 + 24 * i) 8 = l.count.toNat ∧ m (0x278 + 24 * i) 8 = l.ss.toNat ∧ m (0x280 + 24 * i) 8 = l.ds.toNat) ∧
      m 0x300 8 = c.copy.cfg.toNat ∧ (k = 2 → m 0x320 8 = u.toNat) ∧ zero 0x350 0x1000 ∧
      (∀ cl < 8, (∀ k < 32, lanes (c.vreg cl k) (0x1000 + 0x800 * cl + 64 * k)) ∧
        (∀ k < 4, lanes (Map.get Lanes.zero c.latch (4 * cl + k)) (0x5000 + 0x400 * cl + 64 * k) ∧
          (m (0x5198 + 0x400 * cl) 8).testBit k = c.latchOk.getLsbD (4 * cl + k)) ∧
        (∀ k < 2, let h := Map.get none c.holds (2 * cl + k)
          (m (0x5198 + 0x400 * cl) 8).testBit (4 + k) = h.isSome ∧
          ∀ x, h = some x → lanes x.val (0x5100 + 0x400 * cl + 64 * k)) ∧
        (∀ k < 3, m (0x5188 + 0x400 * cl + 2 * k) 2 = (c.lmask cl (k + 1)).toNat) ∧
        m (0x5190 + 0x400 * cl) 8 = (c.vst cl).toNat) ∧
      (∀ i < 16, lanes (Map.get Lanes.zero c.tbuf i) (0x7000 + 64 * i)) ∧ zero 0x7400 0x8000 ∧
      (∀ k e, c.flight[k]? = some e →
        let o := 0x8000 + 128 * k
        lanes e.val o ∧ m (o + 64) 1 = (e.unit + 16 * e.cluster) % 256 ∧ m (o + 65) 1 = (e.dest % 64 + 64 * e.what) % 256 ∧
        m (o + 66) 1 = (e.due - c.bno) % 256 ∧ m (o + 68) 2 = e.lanes.toNat ∧ m (o + 67) 1 = 0 ∧ zero (o + 70) (o + 128)) ∧
      zero (0x8000 + 128 * c.flight.length) 163840)

/-- 05 R118: when no context issues and one of the core is ready, the arbiter puts a ready context on the issue path, with age
bonus zero, and where ready ones fit in the slice, one of those with the highest effective rank among them. 05 R118, R119, 18
R378, R380, R374, 03 R54: a slice that has run out while another context is ready asks the issuing context to yield; a request
of core.deadline cycles freezes it, with its results in flight, numbering, holds, latches and pending target kept and a record
deadline; a bundle that has waited core.wdog cycles traps with watchdog; the empty bundle takes a cycle and a number. 05 R112,
R115, R119, 03 R72, 10 R227, R240: a wait ends at its time and the context is ready; a strand asleep in mwait returns with code
1 at its timeout and 4 at the partition's broadcast, and its watch entries are freed; the oldest ready record is placed when a
context frees, one of a parked strand or a handler start without a pitch on another die of the partition too (01 R30, 17 R364),
once the partition has an image, or discarded when it is invalid (05 R108; the information of that record is log 39); an
outstanding register takes its value; a filled region no longer holds accesses back. Each event is a step of its own, whose
order the model chooses (log 5, log 26); so is the lowest such die with an idle context, the number of which the model counts
(log 51). -/
def Obligations.Scheduling : Prop :=
  (∀ (s : State), s.run = false → s.part.swapping = false → (∃ n < 8, (s.ctx n).isReady = true) →
    let t := s.arbitrate
    let fits (n : Nat) : Prop := n < 8 ∧ (s.ctx n).isReady = true ∧ (s.countedRun (s.ctx n) : Int) ≤ s.core.left
    t.run = true ∧ t.xn < 8 ∧ (s.ctx t.xn).isReady = true ∧ t.x.status = .running ∧ t.x.bonus = 0 ∧ t.x.req = none ∧
    t.x.s = (s.ctx t.xn).s ∧ t.x.pc = (s.ctx t.xn).pc ∧
    ((∃ n, fits n) → fits t.xn ∧ t.core.left = s.core.left ∧
      ∀ n, fits n → (s.ctx n).rank + (s.ctx n).bonus ≤ (s.ctx t.xn).rank + (s.ctx t.xn).bonus) ∧
    ((∀ n, ¬ fits n) → t.core.left = s.core.slice)) ∧
  (∀ (s : State), s.run = true →
    (s.core.left ≤ 0 → s.x.req = none → (∃ n < 8, n ≠ s.xn ∧ (s.ctx n).isReady = true) →
      exec .sliceExpiry s = .next { s with x := { s.x with req := some 0 } }) ∧
    (0 < s.core.left ∨ s.x.req ≠ none ∨ (∀ n < 8, n ≠ s.xn → (s.ctx n).isReady = false) → exec .sliceExpiry s = .next s) ∧
    (∀ k, s.x.req = some k → s.core.deadline ≤ k → (∀ x ∈ s.x.out, x.2.isSome = true) → ∃ t, exec .freeze s = .next t ∧
      (let c := t.ctx s.xn
       (c.status = .frozen ∨ c.status = .running) ∧ c.out = [] ∧ c.req = none ∧ c.flight = s.x.flight ∧ c.bno = s.x.bno ∧
       c.holds = s.x.holds ∧ c.latch = s.x.latch ∧ c.latchOk = s.x.latchOk ∧ c.tbuf = s.x.tbuf ∧ c.pc = s.x.pc ∧ c.pend = s.x.pend) ∧
      ∃ e ∈ t.pkg.log, e.cause = 0xA6#8 ∧ e.gtc = s.gtc) ∧
    (s.x.req = none ∨ (∃ k, s.x.req = some k ∧ k < s.core.deadline) → exec .freeze s = .next s) ∧
    (s.core.wdog ≠ 0#32 → s.core.wdog.toNat ≤ s.x.waited → s.x.h = false → ∃ t, exec .watchdog s = .next t ∧ t.x.cause = 0xA5#8 ∧
      t.x.tinfo.toNat = s.x.wcode % 8 ∧ t.x.h = true ∧ t.x.pc = s.x.tvec ∧ t.x.tpc = codeAddr s.x.pc.toNat ∧ t.x.s = s.x.s) ∧
    (s.core.wdog = 0#32 ∨ s.x.waited < s.core.wdog.toNat → exec .watchdog s = .next s) ∧
    ∀ a q, s.cur = Frame.start a q 1 → s.x.depth = 0 → s.x.pend = none → s.x.flight = [] → ∃ t, exec .emptyBundle s = .next t ∧
      t.x.bno = s.x.bno + 1 ∧ t.x.pc = a + 4#56 ∧ t.x.s = s.x.s ∧ t.x.p = s.x.p ∧ t.x.v = s.x.v ∧ t.run = true ∧
      t.core = { s.core with left := s.core.left - 1 } ∧ t.pkg.mem = s.pkg.mem) ∧
  (∀ (s : State),
    let ended (m : Nat) : Prop := ∃ u, (s.ctx m).status = .waiting u ∧ u.toNat ≤ s.gtc.toNat
    let late (m : Nat) : Prop := ∃ u d, (s.ctx m).status = .sleeping u d ∧ u.toNat ≤ s.gtc.toNat
    let rest (t : State) (n : Nat) : Prop := ∀ m, m ≠ n → t.ctx m = { s.ctx m with req := (t.ctx m).req }
    let back (c d : Ctx) (r code : Nat) : Prop := c.status = .ready ∧ c.pc = d.pc ∧
      ∀ i, c.sreg i = if i = r ∧ i ≠ 0 then BitVec.ofNat 64 code else d.sreg i
    let freed (n : Nat) : List Watch := s.core.watch.filter fun w => decide (va56 w.strand ≠ va56 (s.ctx n).brec)
    (∀ n < 8, ended n → (∀ m < n, ¬ ended m) → ∃ t, exec .waitExpiry s = .next t ∧
      t.ctx n = { s.ctx n with status := .ready, wasReady := true } ∧ rest t n ∧ t.core = s.core ∧ t.pkg = s.pkg ∧
      (s.run = true → s.x.req = none → n ≠ s.xn → s.x.rank + s.x.bonus < (s.ctx n).rank + (s.ctx n).bonus → t.x.req = some 0)) ∧
    ((∀ n < 8, ¬ ended n) → exec .waitExpiry s = .next s) ∧
    (∀ n < 8, ∀ u d, late n → (∀ m < n, ¬ late m) → (s.ctx n).status = .sleeping u d → ∃ t, exec .mwaitTimeout s = .next t ∧
      back (t.ctx n) (s.ctx n) d 1 ∧ rest t n ∧ t.core = { s.core with watch := freed n } ∧ t.pkg = s.pkg) ∧
    ((∀ n < 8, ¬ late n) → exec .mwaitTimeout s = .next s) ∧
    (∃ t, exec .partitionWideWakeBroadcast s = .next t ∧ t.pkg = s.pkg ∧ t.part = s.part ∧
      ∀ n < 8, (∀ u d, (s.ctx n).status = .sleeping u d → back (t.ctx n) (s.ctx n) d 4) ∧
        ((∀ u d, (s.ctx n).status ≠ .sleeping u d) → t.ctx n = { s.ctx n with req := (t.ctx n).req })) ∧
    (∀ e l, s.die.ready = e :: l → e.tile = none → s.NoneWaiting → let r := recordOf (s.recBytes (e.addr.toNat % 2 ^ 56))
      (∀ n, s.freeCtx = some n → r.pitch = 0 → r.lines = 0 → s.recordOk r = true → e.resume = true ∨ s.part.loaded = true →
        s.core.rres < s.freeCount →
        ∃ t, exec .readyListPlace s = .next t ∧ t.die.ready = l ∧ (t.ctx n).status = .ready ∧ (t.ctx n).brec = e.addr ∧
          (t.ctx n).pc = r.pc ∧ (e.resume = false → (t.ctx n).sp = e.sp) ∧ ∀ i < 5, (t.ctx n).sreg (i + 1) = r.regs.getD i 0) ∧
      (let others (d : Nat) : Prop := d < 4 ∧ d ≠ s.core.die ∧ s.part.setup.dies.getLsbD d = true ∧
          Map.get 0 s.die.away d + s.core.rres < 768
       s.recordOk r = true → s.freeCount ≤ s.core.rres →
        ((e.resume = false ∧ (e.far = false ∨ s.part.loaded = false)) ∨ r.pitch ≠ 0 ∨ (∀ d, ¬ others d) → (∀ y ∈ l, y.tile = none) → exec .readyListPlace s = .next s) ∧
        ∀ d, e.resume = true ∨ (e.far = true ∧ s.part.loaded = true) → r.pitch = 0 → others d → (∀ k < d, ¬ others k) → ∃ t, exec .readyListPlace s = .next t ∧
          t.die.ready = l ∧ (∀ k, Map.get 0 t.die.away k = Map.get 0 s.die.away k + if k = d then 1 else 0) ∧ t.core = s.core ∧
          ∀ n, t.ctx n = s.ctx n) ∧
      (s.recordOk r = false → ∃ t y, exec .readyListPlace s = .next t ∧ t.die.ready = l ∧ t.pkg.log = s.pkg.log ++ [y] ∧
        y.cause = 0xA4#8 ∧ y.info = e.addr ∧ t.rest = s.rest ∧ t.x = s.x ∧ t.core = s.core)) ∧
    (s.die.ready = [] → exec .readyListPlace s = .next s) ∧
    (∀ c r v, (s.ctx c).out.find? (fun x => x.1 = r) = some (r, some v) → ∃ t, exec (.gloadReturn c r) s = .next t ∧
      (t.ctx c).out = (s.ctx c).out.erase (r, some v) ∧ (∀ i, (t.ctx c).sreg i = if i = r ∧ i ≠ 0 then v else (s.ctx c).sreg i) ∧
      (∀ m, m ≠ c → t.ctx m = s.ctx m) ∧ t.core = s.core ∧ t.pkg = s.pkg) ∧
    ∀ r, exec (.livenessFillDone r) s = .next { s with pkg := { s.pkg with filling := s.pkg.filling.erase r } })

/-! ## Global memory (10) -/

/-- 10 R214, R216, R218, R219, R243: what a translated access answers: the TLBs alone may change; a leaf with P refuses an
unprivileged access with page-privilege, then one without W a write with write-protection, then an address where nothing stands
is physical-range; else the address is the page's base with the offset in the page. 10 R214, R215: one entry of the walk. A
table entry that is not valid, has a reserved bit, a memory type of 3, a leaf above level 2 or a pointer at level 0 ends the
walk with no translation; a leaf ends it with the page size of its level, and P of any entry of the walk makes the page
privileged; a pointer goes on at the next level's table; an entry whose line fails its code ends the walk with integrity (10
R226). -/
def Obligations.TranslationRules : Prop :=
  (∀ (s : State) (va : Dword) (write priv : Bool),
    let a := va.toNat % 2 ^ 56
    let r := s.translate va write priv
    r.1 = { s with core := { s.core with utlb := r.1.core.utlb }, die := { s.die with tlb := r.1.die.tlb } } ∧
    (∀ c, (s.tlbFind a).2 = .error c → r.2 = .error c ∧ (c = 0x42 ∨ c = 0x46)) ∧
    ∀ e, (s.tlbFind a).2 = .ok e →
      let pa := bits e.leaf 16 32 * 2 ^ 16 / 2 ^ e.size * 2 ^ e.size + a % 2 ^ e.size
      r.2 = if e.leaf.getLsbD 3 = true ∧ priv = false then .error 0x44
        else if write = true ∧ e.leaf.getLsbD 2 = false then .error 0x43
        else if s.space pa = .none then .error 0x49
        else .ok (pa, bits e.leaf 4 2)) ∧
  (∀ (s : State) (va level table : Nat) (p : Bool), level ≤ 4 →
    let index := match level with
      | 4 => va / 2 ^ 48 % 256 | 3 => va / 2 ^ 39 % 512 | 2 => va / 2 ^ 30 % 512 | 1 => va / 2 ^ 21 % 512 | _ => va / 2 ^ 16 % 32
    let e : Nat := s.memNat (table + 8 * index) 8
    let q := p || e.testBit 3
    let whole := s.integrityFail (table + 8 * index) = false
    (¬ whole → s.walk va level table p = .error 0x46) ∧
    (whole → e.testBit 0 = false ∨ e / 2 ^ 4 % 4 = 3 ∨ e / 2 ^ 6 % 2 ^ 6 ≠ 0 ∨ (e.testBit 1 = true ∧ 3 ≤ level) ∨
      (e.testBit 1 = false ∧ level = 0) → s.walk va level table p = .error 0x42) ∧
    (whole → e.testBit 0 = true → e / 2 ^ 4 % 4 ≠ 3 → e / 2 ^ 6 % 2 ^ 6 = 0 → e.testBit 1 = false → ∀ n, level = n + 1 →
      s.walk va level table p = s.walk va n (e / 2 ^ 12 % 2 ^ 36 * 2 ^ 12) q) ∧
    (whole → e.testBit 0 = true → e / 2 ^ 4 % 4 ≠ 3 → e / 2 ^ 6 % 2 ^ 10 = 0 → e.testBit 1 = true → level ≤ 2 →
      e / 2 ^ 16 % (if level = 2 then 2 ^ 14 else if level = 1 then 2 ^ 5 else 1) = 0 →
      ∃ leaf : Dword, s.walk va level table p = .ok (leaf, if level = 2 then 30 else if level = 1 then 21 else 16) ∧
        leaf.getLsbD 3 = q ∧ ∀ i < 64, i ≠ 3 → leaf.getLsbD i = e.testBit i))

/-- 10 R225 to R227: a byte written under a key id other than 0 reads back under it; every other byte reads under that key as
before, also in a region that the write makes live; a line of another key id, a line with key id 0 and a region that is not live
read as zeros. What a line of which nothing is listed reads as is the rule of R226 and R227 (log 4, log 29). -/
def Obligations.MemoryReadsBackUnderItsKey : Prop :=
  ∀ (p : Pkg) (k pa : Nat) (b : Byte),
    let q := p.write k pa b
    (1 ≤ k → q.read k pa = b) ∧ (∀ a, a ≠ pa → q.read k a = p.read k a) ∧
    (∀ a j, a / 128 ≠ pa / 128 → q.read j a = p.read j a) ∧
    (∀ a j, ¬ (0x400000000000 ≤ a ∧ a < 0x800000000000) → (p.keyAt a ≠ j ∨ p.keyAt a = 0 ∨ p.liveAt a = false) → p.read j a = 0) ∧
    q.liveAt pa = true ∧ (¬ (0x400000000000 ≤ pa ∧ pa < 0x800000000000) → q.keyAt pa = k)

/-- 10 R234, R243: ldg lands the bytes it reaches, zero-extended; stg stores the low bytes of s[d] and nothing else; pfg has no
visible effect; a misaligned address is global-alignment and a translation fault its cause, with the address and access as
information. 10 R230, R235 to R237: amo, cas and amof replace the word or dword they reach by the function of its old value and
s[d], or by s[d + 1] where it equals s[d], and land the old value; a cas that fails writes nothing. That an access performs as
its bundle issues is the model's choice (log 8). -/
def Obligations.GlobalAccesses : Prop :=
  (∀ (f : GF) (s : State),
    let n := 2 ^ (f.o.toNat / 256)
    let va := s.x.sreg f.b.toNat + BitVec.ofNat 64 (f.o.toNat % 256 * n)
    let a := va.toNat % 2 ^ 56
    exec (.pfg f) s = .next s ∧
    (∀ t pa, s.Reaches va n false false (decide (n < 4)) t pa → s.space pa ≠ .regs →
      ∃ v : Dword, exec (.ldg f) s = .next (t.withReturn f.d v) ∧ v.toNat < 256 ^ n ∧
        ∀ i < n, v.toNat / 256 ^ i % 256 = (s.pkg.read s.keyId (pa + i)).toNat) ∧
    (∀ t pa, s.Reaches va n true false (decide (n < 4)) t pa → s.space pa ≠ .regs → s.NoneWaiting →
      ∃ u, exec (.stg f) s = .next u ∧ t.Stored u pa n (s.x.sreg f.d.toNat).toNat) ∧
    (va.toNat % n ≠ 0 →
      exec (.ldg f) s = .next (s.withCause 8 0x45 (BitVec.ofNat 64 a)) ∧
      exec (.stg f) s = .next (s.withCause 8 0x45 (BitVec.ofNat 64 (a + 2 ^ 56)))) ∧
    (va.toNat % n = 0 →
      (∀ t c, s.translate va false (s.x.sp || s.x.h) = (t, .error c) →
        exec (.ldg f) s = .next (t.withCause 8 c (BitVec.ofNat 64 a))) ∧
      (∀ t c, s.translate va true (s.x.sp || s.x.h) = (t, .error c) →
        exec (.stg f) s = .next (t.withCause 8 c (BitVec.ofNat 64 (a + 2 ^ 56)))))) ∧
  (∀ (f : GF) (s t : State) (pa : Nat),
    let n := if f.o.getLsbD 5 then 8 else 4
    let va (k : Nat) := s.x.sreg f.b.toNat + BitVec.ofNat 64 (f.o.toNat % 32 * k)
    let old (k : Nat) : Nat := s.memNat pa k
    let y := (s.x.sreg f.d.toNat).toNat % 256 ^ n
    let z := (s.x.sreg (f.d.toNat + 1)).toNat % 256 ^ n
    let int (x : Nat) : Int := if x < 256 ^ n / 2 then x else (x : Int) - (256 ^ n : Nat)
    let becomes (i : Instr) (k v : Nat) : Prop :=
      ∃ u, exec i s = .next (u.withReturn f.d (BitVec.ofNat 64 (old k))) ∧ t.Stored u pa k v
    s.NoneWaiting →
    (s.Reaches (va n) n true true false t pa →
      (f.o.toNat / 64 = 0 → becomes (.amo f) n ((old n + y) % 256 ^ n)) ∧
      (f.o.toNat / 64 = 1 → becomes (.amo f) n (old n &&& y)) ∧ (f.o.toNat / 64 = 2 → becomes (.amo f) n (old n ||| y)) ∧
      (f.o.toNat / 64 = 3 → becomes (.amo f) n (old n ^^^ y)) ∧
      (f.o.toNat / 64 = 4 → becomes (.amo f) n (if int (old n) ≤ int y then old n else y)) ∧
      (f.o.toNat / 64 = 5 → becomes (.amo f) n (if int (old n) ≤ int y then y else old n)) ∧
      (f.o.toNat / 64 = 6 → becomes (.amo f) n (min (old n) y)) ∧
      (f.o.toNat / 64 = 7 → becomes (.amo f) n (max (old n) y)) ∧ (f.o.toNat / 64 = 8 → becomes (.amo f) n y) ∧
      (old n = y → becomes (.cas f) n z) ∧
      (old n ≠ y → exec (.cas f) s = .next (t.withReturn f.d (BitVec.ofNat 64 (old n))))) ∧
    (s.Reaches (va 4) 4 true true false t pa →
      becomes (.amof f) 4 (Fmt.f32.rnd 0 (Fp.sum 0 [Fmt.f32.dec (old 4), Fmt.f32.dec ((s.x.sreg f.d.toNat).toNat % 2 ^ 32)])).1))

/-- 10 R231, R239, R240: mon lands the dword and arms an entry of the strand on its line, freeing the entry armed longest ago
from a full table of 32; mwait returns at once with 0 when an entry of the strand has fired, with 1 when the time has come, with
2 after an eviction, the lowest first, frees the strand's entries, and lands everything in flight as a wait does (03 R58);
otherwise it asks to sleep. 10 R231, 05 R113: a store fires the monitors of its lines, and a new phase the entries of its
object; firing marks exactly the entries selected and changes no entry's owner or address; a strand asleep in mwait is then
ready with code 0 in its register and its entries freed, one that has not parked has W set in its record, and a parked member of
a party is ready at the pc of its record; where no entry is selected nothing changes. 10 R232, R233, R241: where a bar op finds
its object (in global memory, or at a pitch offset with S = 1), and what bar.init, bar.arrive, bar.expect and bar.wait do to it
and answer; after each op arr = 0 and trn = 0 begin the next phase. That an access performs as its bundle issues (log 8), and
that a strand asleep in mwait whose record is in state 1 has W set besides, and that an evicted entry counts with code 2
although it had fired (log 51), are the model's choice. -/
def Obligations.MonitorsAndBarriers : Prop :=
  (∀ (f : GF) (s : State),
    let va := s.x.sreg f.b.toNat + BitVec.ofNat 64 (f.o.toNat * 8)
    let tmo := s.x.sreg f.b.toNat
    let mine (w : Watch) : Prop := w.strand.toNat % 2 ^ 56 = s.x.brec.toNat % 2 ^ 56
    let ends (code : Nat) : Prop := ∃ u : State,
      exec (.mwait f) s = .next ((u.withReturn f.d (BitVec.ofNat 64 code)).withSuspend .stay) ∧
      (∀ w, w ∈ u.core.watch ↔ w ∈ s.core.watch ∧ ¬ mine w) ∧
      u = { s with x := { s.x with evicted := false }, core := { s.core with watch := u.core.watch } }
    (∀ t pa, s.Reaches va 8 false true false t pa →
      let w : Watch := ⟨s.x.brec, false, false, pa / 128 * 128, false⟩
      let v := BitVec.ofNat 64 (s.memNat pa 8)
      (s.core.watch.length < 32 → exec (.mon f) s =
        .next { t.withReturn f.d v with core := { t.core with watch := t.core.watch ++ [w] } }) ∧
      (∀ o l, s.core.watch = o :: l → 32 ≤ s.core.watch.length → exec (.mon f) s =
        .next (({ t.withReturn f.d v with core := { t.core with watch := l ++ [w] } } : State).evictWatch o.strand))) ∧
    (s.x.h = false →
      ((∃ w ∈ s.core.watch, mine w ∧ w.fired = true) → ends 0) ∧
      ((∀ w ∈ s.core.watch, mine w → w.fired = false) →
        (tmo.toNat ≤ s.gtc.toNat → ends 1) ∧ (s.gtc.toNat < tmo.toNat → s.x.evicted = true → ends 2) ∧
        (s.gtc.toNat < tmo.toNat → s.x.evicted = false →
          exec (.mwait f) s = .next (s.withSuspend (.mwait f.o.toNat tmo f.d.toNat)))))) ∧
  (∀ (s : State), s.landAll.giveUpBy .stay = s.landAll) ∧
  (∀ (f : GF) (s t : State) (pa : Nat),
    let n := 2 ^ (f.o.toNat / 256)
    s.Reaches (s.x.sreg f.b.toNat + BitVec.ofNat 64 (f.o.toNat % 256 * n)) n true false (decide (n < 4)) t pa → s.space pa ≠ .regs →
    exec (.stg f) s = .next (({ t with pkg := t.pkg.writes t.keyId pa (natBytes n (s.x.sreg f.d.toNat).toNat) } : State).fire fun w =>
      !w.barrier && !w.pad && decide (pa / 128 * 128 ≤ w.addr) && decide (w.addr ≤ (pa + n - 1) / 128 * 128))) ∧
  (∀ (s : State) (a : BarAt) (b : Barrier), b.arr = 0 → b.trn = 0 →
    s.barPut a b true = (s.barPut a { b with phase := b.phase + 1, arr := b.exp } false).fire fun w =>
      w.barrier && w.pad = a.pad && w.addr = a.addr) ∧
  (∀ (s : State) (test : Watch → Bool) (va : Dword),
    let marked : State := { s with core := { s.core with
      watch := s.core.watch.map fun w => if test w then { w with fired := true } else w } }
    ((∀ w ∈ s.core.watch, test w = false) → s.fire test = s) ∧
    ((∃ w ∈ s.core.watch, test w = true) → (∀ w ∈ s.core.watch, test w = true → va56 w.strand = va56 va) →
      ∀ pa, s.Mapped (va56 va) 64 pa → s.keyId ≠ 0 → isHost pa = false →
        (∀ w ∈ s.core.watch, w.barrier = false → w.pad = false → w.addr / 128 ≠ (pa + 11) / 128) →
        let old := recordOf (s.pkg.reads s.keyId pa 64)
        let t := s.fire test
        let r := recordOf (t.pkg.reads t.keyId pa 64)
        (old.state = 1 → (∀ n u d, s.ctxOf va = some n → (s.ctx n).status ≠ .sleeping u d) →
          marked.SameOutside t (pa + 11) 1 ∧ r = { old with w := true }) ∧
        (∀ n u d, s.ctxOf va = some n → (s.ctx n).status = .sleeping u d →
          (old.state = 1 → (marked.mwaitReturn n 0).SameOutside t (pa + 11) 1 ∧ r = { old with w := true }) ∧
          (old.state = 0 ∨ old.state = 3 → t = marked.mwaitReturn n 0)) ∧
        (∀ n, old.state = 2 → s.ctxOf va = some n → (s.ctx n).status = .reserved → s.recordOk old = true →
          (t.ctx n).status = .ready ∧ (t.ctx n).pc = old.pc ∧ (∀ i < 5, (t.ctx n).sreg (i + 1) = old.regs.getD i 0) ∧
          r = { old with state := 1 } ∧ t.core.watch = marked.core.watch))) ∧
  (∀ (s : State) (n d code : Nat) (t : Dword), n ≠ s.xn → (s.ctx n).status = .sleeping t d →
    let u := s.mwaitReturn n code
    (u.ctx n).status = .ready ∧ (d ≠ 0 → (u.ctx n).sreg d = BitVec.ofNat 64 code) ∧ (u.ctx n).pc = (s.ctx n).pc ∧
    (∀ r, r ≠ d → (u.ctx n).sreg r = (s.ctx n).sreg r) ∧ u.pkg = s.pkg ∧
    ∀ w, w ∈ u.core.watch ↔ w ∈ s.core.watch ∧ w.strand.toNat % 2 ^ 56 ≠ (s.ctx n).brec.toNat % 2 ^ 56) ∧
  (∀ (f : GF) (s : State),
    let va := s.x.sreg f.b.toNat + BitVec.ofNat 64 (f.o.toNat % 512 * 16)
    let d := s.x.sreg f.d.toNat
    let next (b : Barrier) : Barrier :=
      if b.arr = 0 ∧ b.trn = 0 then ⟨b.exp, b.trn, b.exp, b.phase + 1⟩ else b
    (f.o.getLsbD 9 = false → ∀ t pa, s.Reaches va 16 true true false t pa → s.barAt f = .ok (t, ⟨false, pa⟩)) ∧
    (f.o.getLsbD 9 = true → va.toNat % 16 = 0 → ∀ p, s.pitch = some p → va.toNat + 16 ≤ p.lines * 128 →
      s.barAt f = .ok (s, ⟨true, p.base * 128 + va.toNat⟩)) ∧
    ((d.toNat % 2 ^ 32 = 0 ∨ 2 ^ 31 ≤ d.toNat % 2 ^ 32) →
      exec (.barInit f) s = .next (s.withCause 3 0x11 (s.defaultInfo 20))) ∧
    ∀ t a, s.barAt f = .ok (t, a) → s.NoneWaiting → a.pad = true ∨ s.keyId ≠ 0 →
      let b := t.barGet a
      let waits : State := { t.withReturn f.d (BitVec.ofNat 64 b.phase.toNat) with
        core := { t.core with watch := t.core.watch ++ [⟨s.x.brec, true, a.pad, a.addr, false⟩] } }
      (0 < d.toNat % 2 ^ 32 → d.toNat % 2 ^ 32 < 2 ^ 31 → ∃ u, exec (.barInit f) s = .next u ∧ t.ObjectOnly u a ∧
        u.barGet a = ⟨BitVec.ofNat 32 d.toNat, 0, BitVec.ofNat 32 d.toNat, 0⟩) ∧
      (b.arr ≠ 0 → ∃ u : State, exec (.barArrive f) s = .next (u.withReturn f.d (BitVec.ofNat 64 b.phase.toNat)) ∧
        t.ObjectOnly u a ∧ u.barGet a = next { b with arr := b.arr - 1 }) ∧
      (b.arr = 0 → ∃ u : State, exec (.barArrive f) s = .next (u.withReturn f.d (BitVec.ofNat 64 (b.phase.toNat + 2 ^ 63))) ∧
        t.ObjectOnly u a ∧ u.barGet a = next b) ∧
      (∃ u, exec (.barExpect f) s = .next u ∧ t.ObjectOnly u a ∧
        u.barGet a = next { b with trn := BitVec.ofInt 32 (b.trn.toInt + d.toInt) }) ∧
      (b.phase.toNat ≠ d.toNat % 2 ^ 16 → ∃ u : State,
        exec (.barWait f) s = .next (u.withReturn f.d (BitVec.ofNat 64 (b.phase.toNat + 2 ^ 16))) ∧
        t.ObjectOnly u a ∧ u.barGet a = next b) ∧
      (b.phase.toNat = d.toNat % 2 ^ 16 →
        exec (.barWait f) s = .next (if b.arr = 0 ∧ b.trn = 0 then waits.barPut a b true else waits)))

/-- 10 R238, R242, 05 R120: fence and drain order accesses that have performed already; drain.e waits for the strand's engine
commands, after a pending engine fault; cmpl counts a task down and lands the new count, all ones when it was zero already, and
with the last one performs the completion store. 05 R120: the completion store of a job header writes seq to the completion word
when the word is aligned and reachable for a write by a unit of the device, which is privileged (log 30); otherwise it stores
nothing and the event log records the cause with the job's index; for a scope other than 2, 3 or 4 a record with cause
invalid-record comes first. The agent and the information of these records are log 39. That an access has performed when the
next bundle issues is the model's choice (log 8). -/
def Obligations.FencesAndCompletion : Prop :=
  (∀ (f : GF) (s : State),
    let va := s.x.sreg f.b.toNat + BitVec.ofNat 64 (f.o.toNat % 32 * 32)
    let mine (c : Cmd) : Prop := c.strand.toNat % 2 ^ 56 = s.x.brec.toNat % 2 ^ 56
    exec (.fence f) s = .next s ∧ exec (.drain f) s = .next s ∧
    (s.x.ef = none → (∀ c ∈ s.core.cmds, ¬ mine c) → exec (.drainE f) s = .next s) ∧
    (s.x.ef = none → (∃ c ∈ s.core.cmds, mine c) → exec (.drainE f) s = .next (s.withWait 6)) ∧
    (∀ e, s.x.ef = some e → exec (.drainE f) s = .next (s.withCause 8 0x82
      (BitVec.ofNat 64 (e.info.toNat % 2 ^ 40 + min e.more 255 * 2 ^ 40 + e.cause.toNat * 2 ^ 56)))) ∧
    ∀ t pa, s.Reaches va 32 true true false t pa → s.NoneWaiting →
      let n := s.memNat (pa + 16) 4
      (n = 0 → exec (.cmpl f) s = .next (t.withReturn f.d (BitVec.allOnes 64))) ∧
      (2 ≤ n → ∃ u : State, exec (.cmpl f) s = .next (u.withReturn f.d (BitVec.ofNat 64 (n - 1))) ∧ t.Stored u (pa + 16) 4 (n - 1)) ∧
      (n = 1 → ∃ u : State, t.Stored u (pa + 16) 4 0 ∧ exec (.cmpl f) s = .next ((u.completionStore (va.toNat % 2 ^ 56)
        ((va.toNat % 2 ^ 56 - s.part.setup.jobs) / 32)).withReturn f.d 0))) ∧
  (∀ (s : State) (hdr job : Nat), s.NoneWaiting →
    let word := s.devNat hdr 8
    let seq := s.devNat (hdr + 8) 8
    let scope := s.devNat (hdr + 20) 1
    let t := s.completionStore hdr job
    let w := s.translate (BitVec.ofNat 64 word) true true
    ∃ first : LogRec, first.cause = 0xA4#8 ∧ first.info = BitVec.ofNat 64 job ∧ first.gtc = s.gtc ∧
      let log := s.pkg.log ++ (if 2 ≤ scope ∧ scope ≤ 4 then [] else [first])
      (∀ pa ty, word % 8 = 0 → w.2 = .ok (pa, ty) → s.integrityFail pa = false → s.space pa ≠ .regs →
        t.pkg.log = log ∧ (s.keyId ≠ 0 → ∀ i < 8, (t.pkg.read s.keyId (pa + i)).toNat = seq / 256 ^ i % 256) ∧
        (∀ a, a < pa ∨ pa + 8 ≤ a → t.pkg.read s.keyId a = s.pkg.read s.keyId a)) ∧
      (word % 8 ≠ 0 ∨ (∃ c, w.2 = .error c) ∨ (∃ pa ty, w.2 = .ok (pa, ty) ∧ s.integrityFail pa = true) →
        t.pkg.mem = s.pkg.mem ∧ ∃ r, t.pkg.log = log ++ [r] ∧ r.info = BitVec.ofNat 64 job ∧ (word % 8 ≠ 0 → r.cause = 0x45#8) ∧
          (∀ c, word % 8 = 0 → w.2 = .error c → r.cause = BitVec.ofNat 8 c) ∧
          (∀ pa ty, word % 8 = 0 → w.2 = .ok (pa, ty) → s.integrityFail pa = true → r.cause = 0x46#8)))

/-! ## Vector class (06, 07, 08) -/

/-- 03 R56, R58: what a source code of a slot gives: a register of the cluster, a latch (stale-operand when nothing has landed
in it and a lane is active), a hold that the same kind captured (else stale-operand likewise), or a literal of the packet in
every lane; nothing but a cause is added. 03 R58: a set hold bit captures the source's value for the next bundle with the op's
kind; a clear one captures nothing; and once captured that kind reads it and another kind finds it stale. -/
def Obligations.VectorSourcesAndHolds : Prop :=
  (∀ (s : State) (k : Kind) (cl : Nat) (code : BitVec 6) (m : BitVec 16),
    let n := code.toNat
    let stale (c : Nat) : State := if m = 0 then s else s.withCause 6 c (s.defaultInfo 0)
    (n < 32 → s.src k cl code m = (s, s.x.vreg cl n)) ∧
    (∀ u < 4, n = 32 + u →
      s.src k cl code m = (if s.x.latchOk.getLsbD (4 * cl + u) then s else stale 0x19, s.x.latchOf cl u)) ∧
    (∀ side < 2, n = 36 + side →
      (∀ h, Map.get none s.x.holds (2 * cl + side) = some h → h.kind = k → s.src k cl code m = (s, h.val)) ∧
      ((Map.get none s.x.holds (2 * cl + side) = none ∨
          ∃ h, Map.get none s.x.holds (2 * cl + side) = some h ∧ h.kind ≠ k) →
        (s.src k cl code m).1 = stale 0x1A)) ∧
    (∀ j < 8, n = 40 + j → (s.src k cl code m).1 = s ∧ ∀ i < 16, (s.src k cl code m).2.at i = s.cur.lits.getD j 0#32)) ∧
  (∀ (s : State) (k k' : Kind) (cl side : Nat) (v : Lanes) (code : BitVec 6) (m : BitVec 16), side < 2 →
    (s.capture false k cl side v = s) ∧
    s.capture true k cl side v =
      { s with cur := { s.cur with posts := s.cur.posts ++ [.hold (2 * cl + side) ⟨k, v⟩] } } ∧
    (let t := s.applyPost (.hold (2 * cl + side) ⟨k, v⟩)
    code.toNat = 36 + side →
      t.src k cl code m = (t, v) ∧ (k ≠ k' → m ≠ 0 → (t.src k' cl code m).1 = t.withCause 6 0x1A (t.defaultInfo 0))))

/-- 03 R57, R71, 06 R130: a result lands in vd or nowhere, and in the unit's latch, under the lane mask: at its bundle number
lane i of the register and of the latch takes the value where the mask is set and keeps its own elsewhere, the latch is valid,
and no other register, latch or mask changes. X ops have no latch. 03 R71, 06 R130, R140: where a lane-mask result lands, the
bits of its lanes take bit 0 of its lanes, the other bits and every other mask keep theirs, and l0 reads as all ones whatever
lands. That a landing makes the latch valid whatever its lanes (log 58), and how a result in flight is written down (log 13),
are the model's choice. -/
def Obligations.VectorResultsLandUnderMasks : Prop :=
  ((∀ (s : State) (k : Kind) (f : VR) (lat : Nat) (m : BitVec 16) (v : Lanes), k = .A ∨ k = .B ∨ k = .M ∨ k = .F ∨ k = .X →
    let u := match k with | .A => 1 | .B => 2 | .M => 3 | .F => 4 | _ => 5
    let e (what dest : Nat) : Flight := ⟨s.x.bno + lat, u, s.cur.cluster, dest, what, m, v⟩
    (f.w = false → f.d.toNat < 32 → s.landV k f lat m v = s.withFlight [e (if k = .X then 0 else 2) f.d.toNat]) ∧
    (f.w = true → s.landV k f lat m v = s.withFlight (if k = .X then [] else [e 1 0]))) ∧
  ∀ (c : Ctx) (e : Flight), 1 ≤ e.unit → e.unit ≤ 5 → e.cluster < 8 → e.dest < 32 → (e.unit = 5 → e.what = 0) → e.what < 3 →
    let d := c.landOne e
    (∀ cl < 8, ∀ n < 32, ∀ i < 16, (d.vreg cl n).at i =
      if cl = e.cluster ∧ n = e.dest ∧ e.what ≠ 1 ∧ e.lanes.getLsbD i = true then e.val.at i else (c.vreg cl n).at i) ∧
    (∀ cl < 8, ∀ u < 4, ∀ i < 16, (d.latchOf cl u).at i =
      if cl = e.cluster ∧ u + 1 = e.unit ∧ e.what ≠ 0 ∧ e.lanes.getLsbD i = true then e.val.at i else (c.latchOf cl u).at i) ∧
    (∀ cl < 8, ∀ u < 4, d.latchOk.getLsbD (4 * cl + u) =
      (c.latchOk.getLsbD (4 * cl + u) || decide (cl = e.cluster ∧ u + 1 = e.unit ∧ e.what ≠ 0))) ∧
    d.s = c.s ∧ d.p = c.p ∧ d.l = c.l ∧ d.vstat = c.vstat ∧ d.m = c.m ∧ d.holds = c.holds) ∧
  (∀ (c : Ctx) (e : Flight) (cl n : Nat), e.unit = 6 → e.what = 0 → e.cluster < 8 → e.dest < 4 → cl < 8 → n < 4 →
    let d := c.landOne e
    (∀ i < 16, (d.lmask cl n).getLsbD i =
      if cl = e.cluster ∧ n = e.dest ∧ n ≠ 0 ∧ e.lanes.getLsbD i = true then (e.val.at i).getLsbD 0
      else (c.lmask cl n).getLsbD i) ∧
    d.lmask cl 0 = 0xFFFF#16 ∧ d.v = c.v ∧ d.s = c.s ∧ d.p = c.p ∧ d.latch = c.latch)

/-- 08 R168, R170, R172, R75: the flags of an op are joined once into the flags of the bundle, those that some lane raises and
no others; each raised flag whose enable in vstat is set is a cause 0x20 + 4 × flag + unit with the lanes that raised it. The
commit of a bundle ORs the flags it has met, each in its cluster, into that cluster's vstat, where every other bit stays. -/
def Obligations.FlagsEnablesAndStatus : Prop :=
  (∀ (s : State) (cl unit : Nat) (fl : Nat → Nat), (∀ i < 16, fl i < 64) →
    let t := s.raise cl unit fl
    let raised (n : Nat) : Prop := ∃ i < 16, (fl i).testBit n = true
    ((∀ n < 6, ¬ raised n) → t = s) ∧
    ((∃ n < 6, raised n) → ∃ all, t.cur.flags = s.cur.flags ++ [(cl, all)] ∧ ∀ n, all.testBit n = true ↔ raised n) ∧
    t = { s with cur := { s.cur with flags := t.cur.flags, causes := t.cur.causes } } ∧
    (∀ c, c ∈ t.cur.causes ↔ c ∈ s.cur.causes ∨ ∃ n < 6, raised n ∧ (s.x.vst cl).getLsbD (8 + n) = true ∧
      c.slot = s.cur.idx ∧ c.rank = 7 ∧ c.code = 0x20 + 4 * n + unit ∧ c.cluster = s.cur.cluster ∧
      c.info.extractLsb' 0 32 = s.cur.word ∧ (c.info.extractLsb' 32 3).toNat = s.cur.cluster % 8 ∧
      (c.info.extractLsb' 35 13).toNat = 0 ∧ ∀ i < 16, c.info.getLsbD (48 + i) = (fl i).testBit n)) ∧
  (∀ (s : State) (cl all : Nat),
    let t := s.applyFlag (cl, all)
    t.x.vst cl = s.x.vst cl ||| BitVec.ofNat 32 all ∧ (∀ c, c ≠ cl → t.x.vst c = s.x.vst c) ∧
    t = { s with x := { s.x with vstat := t.x.vstat } }) ∧
  ∀ (s : State) (a q : Addr) (w : Nat) (met : List (Nat × Nat)), s.x.depth = 0 →
    s.cur = { emptyFrame with addr := a, words := w, seq := q, flags := met } → ∀ c, ∀ n < 32,
      (s.commit.x.vst c).getLsbD n = true ↔ (s.x.vst c).getLsbD n = true ∨ ∃ f ∈ met, f.1 = c ∧ f.2.testBit n = true

/-- 06 R135 to R137: the integer arithmetic members on every element of every lane: results modulo 2^n, multiplies with latency
3; vmac adds to vd, and vdot4 and vdot2 add the signed products to the whole lane of vd (v0 for a latch or stream destination).
06 R138, R139: the logic members on whole lanes, shifts by the low bits of each element of b, counts, and the six condition bits
of vcmp. 06 R133, R135, R142: vaddsat, vsubsat and vpack clamp to the signed range of n bits and raise OF in exactly the active
lanes where an element was clamped; vunpk sign-extends the half of each lane that lane 0 of b selects. 06 R140 to R144: vmskl's
mask bits land in l[n] and the latch, vsel writes all sixteen lanes and reads of a those of the mask and of b the others,
vbcast, vlane, vext and vins move elements between the lanes of the cluster. That vins writes the lane of its element and
nothing when that lane is inactive (log 14), and that vmskl with nw writes no mask register (log 23), are the model's choices.
-/
def Obligations.VectorIntegerResults : Prop :=
  (∀ (f : VR) (s : State),
    let n := widthOf f.t
    let each (i : Instr) (lat : Nat) (g : Nat → Nat → Int) : Prop := VectorResult i s f lat fun a b v =>
      ∀ i < 16, ∀ j < 32 / n, (elem n (v.at i) j : Int) = g (elem n (a.at i) j) (elem n (b.at i) j) % (2 ^ n : Nat)
    let one (i : Instr) (w : Nat) (g : Nat → Int) : Prop := VectorResult1 i s f 1 fun a v =>
      ∀ i < 16, ∀ j < 32 / w, (elem w (v.at i) j : Int) = g (elem w (a.at i) j) % (2 ^ w : Nat)
    let old := s.x.vreg s.cur.cluster (if f.w = true ∨ 32 ≤ f.d.toNat then 0 else f.d.toNat)
    one (.vmov f) 32 (fun x => x) ∧ one (.vabs f) n (fun x => ((signed n x).natAbs : Int)) ∧ one (.vneg f) n (fun x => -(x : Int)) ∧
    each (.vadd f) 1 (fun x y => x + y) ∧ each (.vsub f) 1 (fun x y => (x : Int) - y) ∧
    each (.vmin f) 1 (fun x y => min (signed n x) (signed n y)) ∧ each (.vmax f) 1 (fun x y => max (signed n x) (signed n y)) ∧
    each (.vminu f) 1 (fun x y => (min x y : Nat)) ∧ each (.vmaxu f) 1 (fun x y => (max x y : Nat)) ∧
    each (.vmul f) 3 (fun x y => x * y) ∧ each (.vmulh f) 3 (fun x y => signed n x * signed n y / (2 ^ n : Nat)) ∧
    VectorResult (.vmac f) s f 3 (fun a b v => ∀ i < 16, ∀ j < 32 / n,
      elem n (v.at i) j = (elem n (old.at i) j + elem n (a.at i) j * elem n (b.at i) j) % 2 ^ n) ∧
    VectorResult (.vdot4 f) s f 3 (fun a b v => ∀ i < 16, ((v.at i).toNat : Int) = (((old.at i).toNat : Int) +
      signed 8 (elem 8 (a.at i) 0) * signed 8 (elem 8 (b.at i) 0) + signed 8 (elem 8 (a.at i) 1) * signed 8 (elem 8 (b.at i) 1) +
      signed 8 (elem 8 (a.at i) 2) * signed 8 (elem 8 (b.at i) 2) +
      signed 8 (elem 8 (a.at i) 3) * signed 8 (elem 8 (b.at i) 3)) % 2 ^ 32) ∧
    VectorResult (.vdot2 f) s f 3 (fun a b v => ∀ i < 16, ((v.at i).toNat : Int) = (((old.at i).toNat : Int) +
      signed 16 (elem 16 (a.at i) 0) * signed 16 (elem 16 (b.at i) 0) +
      signed 16 (elem 16 (a.at i) 1) * signed 16 (elem 16 (b.at i) 1)) % 2 ^ 32)) ∧
  (∀ (f : VR) (s : State),
    let n := widthOf f.t
    let lanes (i : Instr) (g : Word → Word → Word) : Prop := VectorResult i s f 1 fun a b v =>
      ∀ i < 16, v.at i = g (a.at i) (b.at i)
    let each (i : Instr) (r : Nat → Nat → Nat → Prop) : Prop := VectorResult i s f 1 fun a b v =>
      ∀ i < 16, ∀ j < 32 / n, r (elem n (a.at i) j) (elem n (b.at i) j) (elem n (v.at i) j)
    let one (i : Instr) (r : Nat → Nat → Prop) : Prop := VectorResult1 i s f 1 fun a v =>
      ∀ i < 16, ∀ j < 32 / n, r (elem n (a.at i) j) (elem n (v.at i) j)
    lanes (.vand f) (· &&& ·) ∧ lanes (.vor f) (· ||| ·) ∧ lanes (.vxor f) (· ^^^ ·) ∧ lanes (.vandn f) (fun x y => x &&& ~~~y) ∧
    each (.vshl f) (fun x y z => z = x * 2 ^ (y % n) % 2 ^ n) ∧ each (.vshr f) (fun x y z => z = x / 2 ^ (y % n)) ∧
    each (.vsar f) (fun x y z => signed n z = signed n x / (2 ^ (y % n) : Nat)) ∧
    each (.vrshr f) (fun x y z => signed n z =
      if y % n = 0 then signed n x else (signed n x + (2 ^ (y % n - 1) : Nat)) / (2 ^ (y % n) : Nat)) ∧
    each (.vcmp f) (fun x y z => z < 64 ∧ (z.testBit 0 = true ↔ x = y) ∧ (z.testBit 1 = true ↔ x ≠ y) ∧
      (z.testBit 2 = true ↔ signed n x < signed n y) ∧ (z.testBit 3 = true ↔ signed n y ≤ signed n x) ∧
      (z.testBit 4 = true ↔ x < y) ∧ (z.testBit 5 = true ↔ y ≤ x)) ∧
    one (.vclz f) (fun x z => z ≤ n ∧ x < 2 ^ (n - z) ∧ (z < n → 2 ^ (n - 1 - z) ≤ x)) ∧
    one (.vpopc f) (fun x z => z = ((List.range n).filter fun i => x.testBit i).length)) ∧
  (∀ (f : VR) (s : State), s.cur.kind = .A ∨ s.cur.kind = .B →
    let n := widthOf f.t
    let unit := if s.cur.kind = .A then 0 else 1
    let lo : Int := -(2 ^ (n - 1) : Nat)
    let hi : Int := (2 ^ (n - 1) : Nat) - 1
    let sat (i : Instr) (g : Lanes → Lanes → Nat → Nat → Int) : Prop := VectorFlagResult i s f 1 unit fun a b fl v =>
      (∀ i < 16, ∀ j < 32 / n, signed n (elem n (v.at i) j) = max lo (min (g a b i j) hi)) ∧
      ∀ i < 16, (s.active f).getLsbD i = true →
        fl i = if ∃ j < 32 / n, g a b i j < lo ∨ hi < g a b i j then 4 else 0
    let el (a : Lanes) (i j : Nat) : Int := signed n (elem n (a.at i) j)
    let wide (a : Lanes) (i j : Nat) : Int := signed (2 * n) (elem (2 * n) (a.at i) j)
    sat (.vaddsat f) (fun a b i j => el a i j + el b i j) ∧ sat (.vsubsat f) (fun a b i j => el a i j - el b i j) ∧
    (f.t ≠ 0#2 → sat (.vpack f) (fun a b i j => if j < 16 / n then wide a i j else wide b i (j - 16 / n))) ∧
    (f.t ≠ 0#2 → VectorResult (.vunpk f) s f 1 fun a b v => ∀ i < 16, ∀ j < 16 / n,
      signed (2 * n) (elem (2 * n) (v.at i) j) = el a i (16 / n * ((b.at 0).toNat % 2) + j))) ∧
  (∀ (f : VR) (s : State), s.cur.kind = .A ∨ s.cur.kind = .B →
    let n := widthOf f.t
    let per := 32 / n
    let m := s.active f
    let r := s.srcAB s.cur.kind f
    let el (a : Lanes) (e : Nat) : Nat := elem n (a.at (e / per)) (e % per)
    let old := s.x.vreg s.cur.cluster (if f.w = true ∨ 32 ≤ f.d.toNat then 0 else f.d.toNat)
    let k := (r.2.2.at 0).toNat % (16 * per)
    (∃ v : Lanes, (∀ i < 16, v.at i = if r.2.1.at i &&& r.2.2.at i = 0#32 then 0#32 else 1#32) ∧
      exec (.vmskl f) s = .next (r.1.withFlight (
        (if f.w = true ∨ f.d.toNat % 4 = 0 then [] else [⟨s.x.bno + 1, 6, s.cur.cluster, f.d.toNat % 4, 0, m, v⟩]) ++
        [⟨s.x.bno + 1, if s.cur.kind = .A then 1 else 2, s.cur.cluster, 0, 1, m, v⟩]))) ∧
    (let a := s.srcA s.cur.kind f m
    let b := a.1.srcB s.cur.kind f (~~~m)
    ∃ v : Lanes, (∀ i < 16, v.at i = if m.getLsbD i then a.2.at i else b.2.at i) ∧
      exec (.vsel f) s = .next (b.1.landV s.cur.kind f 1 0xFFFF#16 v)) ∧
    VectorResult (.vbcast f) s f 1 (fun a b v => ∀ i < 16, ∀ j < per,
      elem n (v.at i) j = el a ((b.at 0).toNat % (16 * per))) ∧
    VectorResult (.vlane f) s f 1 (fun a b v => ∀ i < 16, v.at i = a.at ((b.at i).toNat % 16)) ∧
    VectorResult (.vext f) s f 1 (fun a b v => ∀ e < 16 * per, el v e =
      if 0 ≤ (e : Int) + (b.at 0).toInt ∧ (e : Int) + (b.at 0).toInt < 16 * per then
        el a ((e : Int) + (b.at 0).toInt).toNat else 0) ∧
    (m.getLsbD (k / per) = false → exec (.vins f) s = .next r.1) ∧
    (m.getLsbD (k / per) = true → ∃ v : Lanes, (∀ e < 16 * per, el v e = if e = k then el r.2.1 0 else el old e) ∧
      exec (.vins f) s = .next
        (r.1.landV s.cur.kind f 1 (if f.w = true ∨ f.d.toNat < 32 then 1#16 <<< (k / per) else m) v)))

/-- 07 R145, R146, R147: a code of a format with sign s, exponent field E and fraction field F stands for (−1)^s × (1 + F / 2^f)
× 2^(E − bias), or (−1)^s × (F / 2^f) × 2^(1 − bias) when E is zero, but for the infinities and NaNs of E all ones and the E4M3
NaN; the default NaNs are quiet NaNs. 07 R150: the linear value of an L6 code is (−1)^s × T[f] × 2^(i − 11) with c − 16 = 4 i +
f, which FP32 holds exactly; 0 is zero and 0x20 NaR, never a negative zero. 07 R156: a finite value that a format can hold
converts to its own code without a flag, in every rounding mode. -/
def Obligations.FormatsDecodeTheirCodes : Prop :=
  (∀ (f : Fmt) (x : Nat), f ≠ .l6 → x < 2 ^ f.width →
    let neg := x / 2 ^ (f.eb + f.fb) = 1
    let E := x / 2 ^ f.fb % 2 ^ f.eb
    let F := x % 2 ^ f.fb
    let sign : Rat := if neg then -1 else 1
    let special := (f.hasInf = true ∧ E = 2 ^ f.eb - 1) ∨ (f = .e4m3 ∧ E = 15 ∧ F = 7)
    (f.dec f.nanBits = .nan false ∨ f = .e2m1) ∧
    (¬ special → E = 0 → (f.dec x).Finite ∧ (f.dec x).val = sign * ((F : Rat) / 2 ^ f.fb) * (2 : Rat) ^ (1 - f.bias)) ∧
    (¬ special → E ≠ 0 → (f.dec x).Finite ∧
      (f.dec x).val = sign * (1 + (F : Rat) / 2 ^ f.fb) * (2 : Rat) ^ ((E : Int) - f.bias)) ∧
    (f.hasInf = true → E = 2 ^ f.eb - 1 → F = 0 → f.dec x = .inf (decide neg)) ∧
    (f.hasInf = true → E = 2 ^ f.eb - 1 → F ≠ 0 → f.dec x = .nan (decide (F < 2 ^ (f.fb - 1)))) ∧
    (f = .e4m3 → E = 15 → F = 7 → f.dec x = .nan false)) ∧
  (Fmt.l6.dec 0 = .fin false 0 0 ∧ Fmt.l6.dec 0x20 = .nan false ∧
  ∀ c fr : Nat, ∀ i : Int, ∀ neg : Bool, 1 ≤ c → c < 32 → fr < 4 → (c : Int) - 16 = 4 * i + fr →
    (Fmt.l6.dec (c + if neg then 32 else 0)).Finite ∧
    (Fmt.l6.dec (c + if neg then 32 else 0)).val =
      (if neg then -1 else 1) * (([2048, 2435, 2896, 3444].getD fr 0 : Nat) : Rat) * (2 : Rat) ^ (i - 11)) ∧
  (∀ x rm : Nat, x < 64 → x ≠ 0x20 → rm < 4 → ∃ y < 2 ^ 32, Fmt.f32.enc rm (Fmt.l6.dec x) = (y, 0) ∧
    (Fmt.f32.dec y).Finite ∧ (Fmt.f32.dec y).val = (Fmt.l6.dec x).val) ∧
  (∀ (f : Fmt) (rm x : Nat), rm < 4 → x < 2 ^ f.width → (f.dec x).Finite → f.enc rm (f.dec x) = (x, 0))

/-- 07 R154, R156: rounding a finite nonzero value into a format other than L6. Without OF the result is finite: toward zero it
is the largest magnitude not above, toward +∞ the least value not below, toward −∞ the largest not above, and to nearest no code
is nearer; NX says that the value changed. OF is raised exactly when the value rounded with unbounded exponent exceeds the
largest finite one: it reaches the next step above it, or in nearest mode the middle (itself when the last bit of the largest
value is odd), or in the directed mode away from zero anything above. With OF comes NX, and the result is the infinity of the
mode, or the largest finite value in the other modes, for E5M2 and without infinities. 07 R157: L6 rounds the same way among its
values and zero, a tie to the code whose c is even; what reaches past the largest value is that value with OF and NX, where the
next step above it is 16; UF is raised exactly when the value, rounded in the mode to the linear values without a lower bound,
stays below code 0x01, whose lower neighbour is 1/16. The overflow and underflow rules of the narrow formats are read as log 18
says. -/
def Obligations.RoundingIsCorrect : Prop :=
  (∀ (f : Fmt) (rm : Nat) (neg : Bool) (m : Nat) (e : Int), f ≠ .l6 → rm < 4 → 0 < m →
    let z : Rat := Fp.val (.fin neg m e)
    let r := f.enc rm (.fin neg m e)
    let y : Rat := (f.dec r.1).val
    let code (c : Nat) : Prop := c < 2 ^ f.width ∧ (f.dec c).Finite
    (r.2.testBit 2 = false → code r.1 ∧ (r.2.testBit 4 = true ↔ y ≠ z) ∧
      (rm = 0 → ∀ c, code c → |y - z| ≤ |(f.dec c).val - z|) ∧
      (rm = 1 → |y| ≤ |z| ∧ ∀ c, code c → |(f.dec c).val| ≤ |z| → |(f.dec c).val| ≤ |y|) ∧
      (rm = 2 → z ≤ y ∧ ∀ c, code c → z ≤ (f.dec c).val → y ≤ (f.dec c).val) ∧
      (rm = 3 → y ≤ z ∧ ∀ c, code c → (f.dec c).val ≤ z → (f.dec c).val ≤ y)) ∧
    let top : Rat := (f.dec f.maxBits).val
    let step : Rat := top - (f.dec (f.maxBits - 1)).val
    let away : Prop := (rm = 2 ∧ neg = false) ∨ (rm = 3 ∧ neg = true)
    (rm = 0 → (r.2.testBit 2 = true ↔ top + step / 2 < |z| ∨ (top + step / 2 = |z| ∧ f.maxBits % 2 = 1))) ∧
    (away → (r.2.testBit 2 = true ↔ top < |z|)) ∧
    (rm ≠ 0 → ¬ away → (r.2.testBit 2 = true ↔ top + step ≤ |z|)) ∧
    (r.2.testBit 2 = true → r.2 = 20 ∧
      (f.hasInf = true → f ≠ .e5m2 → rm = 0 ∨ away → f.dec r.1 = .inf neg) ∧
      (f.hasInf = false ∨ f = .e5m2 ∨ (rm ≠ 0 ∧ ¬ away) → r.1 = f.maxBits + (if neg then 2 ^ (f.width - 1) else 0)))) ∧
  ∀ (rm : Nat) (neg : Bool) (m : Nat) (e : Int), rm < 4 → 0 < m →
    let z : Rat := Fp.val (.fin neg m e)
    let r := Fmt.l6.enc rm (.fin neg m e)
    let v (c : Nat) : Rat := (Fmt.l6.dec c).val
    let y : Rat := v r.1
    let code (c : Nat) : Prop := c < 64 ∧ c ≠ 0x20
    let away : Prop := (rm = 2 ∧ neg = false) ∨ (rm = 3 ∧ neg = true)
    (∀ c, code c → (Fmt.l6.dec c).Finite) ∧
    (r.2.testBit 2 = false → code r.1 ∧ (r.2.testBit 4 = true ↔ y ≠ z) ∧
      (rm = 0 → ∀ c, code c → |y - z| ≤ |v c - z| ∧ (|y - z| = |v c - z| → c ≠ r.1 → r.1 % 2 = 0)) ∧
      (rm = 1 → |y| ≤ |z| ∧ ∀ c, code c → |v c| ≤ |z| → |v c| ≤ |y|) ∧
      (rm = 2 → z ≤ y ∧ ∀ c, code c → z ≤ v c → y ≤ v c) ∧ (rm = 3 → y ≤ z ∧ ∀ c, code c → v c ≤ z → v c ≤ y)) ∧
    (r.2.testBit 2 = true ↔ (rm = 0 ∧ (v 31 + 16) / 2 ≤ |z|) ∨ (away ∧ v 31 < |z|) ∨ (rm ≠ 0 ∧ ¬ away ∧ 16 ≤ |z|)) ∧
    (r.2.testBit 2 = true → r = (31 + (if neg then 32 else 0), 20)) ∧
    (r.2.testBit 3 = true ↔ (rm = 0 ∧ |z| ≤ (1 / 16 + v 1) / 2) ∨ (away ∧ |z| ≤ 1 / 16) ∨ (rm ≠ 0 ∧ ¬ away ∧ |z| < v 1))

/-- 08 R174, R183: a sum of finite values is exact, and so is a product; a NaN operand gives the default NaN with NV when one is
signalling; ∞ − ∞ and 0 × ∞ are invalid; any other sum with an infinity is that infinity, and any other product with one is an
infinity of the sign of the product. 08 R177: a fused multiply-add of finite values rounds the exact x × y + z once; a product
of 0 and an infinity, in either order, is the default NaN with NV whatever z is; a NaN among the three gives the default NaN
with NV when one is signalling; an infinite product or z is the result, or the default NaN with NV when they differ in sign. 08
R178: the smaller or larger of two values that are no NaNs is one of them, with −∞ below and +∞ above every number and −0 below
+0; it is the one that is no NaN when the other is, and the default NaN of two. A NaN beside +∞ and −∞ in a sum counts as a NaN,
without NV: the model's choice (log 58). -/
def Obligations.SumsAndProductsAreExact : Prop :=
  ((∀ (rm : Nat) (l : List Fp), (∀ x ∈ l, x.Finite) →
    (Fp.sum rm l).2 = 0 ∧ (Fp.sum rm l).1.Finite ∧ (Fp.sum rm l).1.val = (l.map Fp.val).sum) ∧
  (∀ x y : Fp, x.Finite → y.Finite → (x.mul y).2 = 0 ∧ (x.mul y).1.Finite ∧ (x.mul y).1.val = x.val * y.val) ∧
  (∀ (rm : Nat) (l : List Fp), (∃ x ∈ l, x.isNan = true) →
    (Fp.sum rm l).1 = .nan false ∧ ((Fp.sum rm l).2 = 1 ↔ ∃ x ∈ l, x = .nan true)) ∧
  (∀ (rm : Nat) (l : List Fp), (∀ x ∈ l, x.isNan = false) → .inf true ∈ l → .inf false ∈ l → Fp.sum rm l = (.nan false, 1)) ∧
  (∀ (rm : Nat) (l : List Fp) (n : Bool), (∀ x ∈ l, x.isNan = false) → .inf n ∈ l → .inf (!n) ∉ l → Fp.sum rm l = (.inf n, 0)) ∧
  (∀ x y : Fp, x.isNan = true ∨ y.isNan = true → (x.mul y).1 = .nan false ∧
    ((x.mul y).2 = if x = .nan true ∨ y = .nan true then 1 else 0)) ∧
  (∀ (n n' : Bool) (m : Nat) (e : Int), (Fp.inf n).mul (.inf n') = (.inf (n != n'), 0) ∧
    (m ≠ 0 → (Fp.inf n).mul (.fin n' m e) = (.inf (n != n'), 0) ∧ (Fp.fin n' m e).mul (.inf n) = (.inf (n != n'), 0))) ∧
  (∀ (n n' : Bool) (e : Int), (Fp.inf n).mul (.fin n' 0 e) = (.nan false, 1) ∧ (Fp.fin n' 0 e).mul (.inf n) = (.nan false, 1))) ∧
  ((∀ (fm : Fmt) (rm : Nat) (x y z : Fp), x.Finite → y.Finite → z.Finite →
    ∃ w : Fp, w.Finite ∧ w.val = x.val * y.val + z.val ∧ fm.fma rm x y z = fm.enc rm w) ∧
  (∀ (fm : Fmt) (rm : Nat) (n n' : Bool) (e : Int) (z : Fp),
    fm.fma rm (.inf n) (.fin n' 0 e) z = (fm.nanBits, 1) ∧ fm.fma rm (.fin n' 0 e) (.inf n) z = (fm.nanBits, 1)) ∧
  (∀ (fm : Fmt) (rm : Nat) (x y z : Fp),
    (x.isNan = true ∨ y.isNan = true → fm.fma rm x y z = (fm.nanBits, if x = .nan true ∨ y = .nan true ∨ z = .nan true then 1 else 0)) ∧
    (∀ sig, (x.mul y).1.isNan = false → z = .nan sig → fm.fma rm x y z = (fm.nanBits, sig.toNat)) ∧
    (∀ n, (x.mul y).1 = .inf n →
      (z.Finite ∨ z = .inf n → fm.fma rm x y z = fm.enc rm (.inf n)) ∧ (z = .inf (!n) → fm.fma rm x y z = (fm.nanBits, 1))) ∧
    (∀ n, x.Finite → y.Finite → z = .inf n → fm.fma rm x y z = fm.enc rm (.inf n))) ∧
  (∀ x y : Fp, x.Finite → y.Finite →
    ((Fp.pick false x y).1 = x ∨ (Fp.pick false x y).1 = y) ∧ (Fp.pick false x y).1.val = min x.val y.val ∧
    ((Fp.pick true x y).1 = x ∨ (Fp.pick true x y).1 = y) ∧ (Fp.pick true x y).1.val = max x.val y.val) ∧
  (∀ (mx : Bool) (x y : Fp), x.isNan = false → y.isNan = false →
    let r := Fp.pick mx x y
    let below (a b : Fp) : Prop := a.Less b ∨ (a.isZero = true ∧ b.isZero = true ∧ a.neg? = true ∧ b.neg? = false)
    (r.1 = x ∨ r.1 = y) ∧ r.2 = 0 ∧
    (if mx then ¬ below r.1 x ∧ ¬ below r.1 y else ¬ below x r.1 ∧ ¬ below y r.1)) ∧
  (∀ (mx a b : Bool), Fp.pick mx (.nan a) (.nan b) = (.nan false, (a || b).toNat)) ∧
  (∀ (mx : Bool) (x : Fp) (sig : Bool), x.isNan = false →
    Fp.pick mx x (.nan sig) = (x, sig.toNat) ∧ Fp.pick mx (.nan sig) x = (x, sig.toNat)))

/-- 08 R173, R176 to R178, R182: vfadd, vfsub, vfmul, vfma, vfms, vfmin, vfmax and vfscl: each element is the exact result of
the elements of a, b and vd rounded once in ctx.rm, with the flags of the rounding and of special operands. 08 R179 to R181, 07
R165: vfabs and vfneg change the sign bit, vfcmp writes the condition code of the ordering of the values, vfcls the class, vfrnd
an integral value by the mode (a tie to even, a zero with the sign of the value), without NX; a NaN becomes the default NaN (but
in vfcmp and vfcls), with NV when signalling. 08 R183: the reductions take element j of every active lane of va and element j of
lane 0 of b, and every active lane gets the exact sum rounded once in ctx.rm, or the largest or smallest by the rules of vfmax
and vfmin (−0 below +0, infinities as values, a NaN only when every term is one, NV when one is signalling); an exact zero sum
is −0 when every term is −0 and in the mode toward −∞; with no active lane no register, latch or flag is written. -/
def Obligations.VectorFloatResults : Prop :=
  (∀ (f : VR) (s : State), s.cur.kind = .A ∨ s.cur.kind = .B →
    let n := if f.t = 0#2 then 32 else 16
    let fm : Fmt := if f.t = 0#2 then .f32 else if f.t = 1#2 then .bf16 else .f16
    let unit := if s.cur.kind = .A then 0 else 1
    let rm := s.x.rm.toNat
    let m := s.active f
    let at_ (x : Lanes) (i j : Nat) : Fp := fm.dec (elem n (x.at i) j)
    let old := s.x.vreg s.cur.cluster (if f.w = true ∨ 32 ≤ f.d.toNat then 0 else f.d.toNat)
    let round (z : Fp × Nat) : Nat × Nat := ((fm.enc rm z.1).1, (fm.enc rm z.1).2 ||| z.2)
    FloatResult (.vfadd f) s f true 4 unit n m (fun a b i j => round (Fp.sum rm [at_ a i j, at_ b i j])) ∧
    FloatResult (.vfsub f) s f true 4 unit n m (fun a b i j => round (Fp.sum rm [at_ a i j, (at_ b i j).neg])) ∧
    FloatResult (.vfmul f) s f true 4 unit n m (fun a b i j => round ((at_ a i j).mul (at_ b i j))) ∧
    FloatResult (.vfma f) s f true 4 unit n m (fun a b i j => fm.fma rm (at_ a i j) (at_ b i j) (at_ old i j)) ∧
    FloatResult (.vfms f) s f true 4 unit n m (fun a b i j => fm.fma rm (at_ a i j).neg (at_ b i j) (at_ old i j)) ∧
    FloatResult (.vfmin f) s f true 2 unit n m (fun a b i j => fm.rnd 0 (Fp.pick false (at_ a i j) (at_ b i j))) ∧
    FloatResult (.vfmax f) s f true 2 unit n m (fun a b i j => fm.rnd 0 (Fp.pick true (at_ a i j) (at_ b i j))) ∧
    FloatResult (.vfscl f) s f true 2 unit n m (fun a b i j => match at_ a i j with
      | .fin neg k e => fm.enc rm (.fin neg k (e + signed n (elem n (b.at i) j)))
      | v => fm.enc rm v)) ∧
  (∀ (f : VR) (s : State), s.cur.kind = .A ∨ s.cur.kind = .B →
    let n := if f.t = 0#2 then 32 else 16
    let fm : Fmt := if f.t = 0#2 then .f32 else if f.t = 1#2 then .bf16 else .f16
    let unit := if s.cur.kind = .A then 0 else 1
    let rm := if f.b.getLsbD 2 then f.b.toNat % 4 else s.x.rm.toNat
    let m := s.active f
    let nanCase (x : Nat) (r : Nat × Nat) : Prop := ∀ sig, fm.dec x = .nan sig → r = (fm.nanBits, sig.toNat)
    (∃ g : Nat → Nat × Nat, FloatResult (.vfabs f) s f false 1 unit n m (fun a _ i j => g (elem n (a.at i) j)) ∧
      ∀ x < 2 ^ n, nanCase x (g x) ∧ ((fm.dec x).isNan = false → g x = (x % 2 ^ (n - 1), 0))) ∧
    (∃ g : Nat → Nat × Nat, FloatResult (.vfneg f) s f false 1 unit n m (fun a _ i j => g (elem n (a.at i) j)) ∧
      ∀ x < 2 ^ n, nanCase x (g x) ∧
        ((fm.dec x).isNan = false → g x = (if x < 2 ^ (n - 1) then x + 2 ^ (n - 1) else x - 2 ^ (n - 1), 0))) ∧
    (∃ g : Nat → Nat → Nat × Nat,
      FloatResult (.vfcmp f) s f true 2 unit n m (fun a b i j => g (elem n (a.at i) j) (elem n (b.at i) j)) ∧
      ∀ x y, let X := fm.dec x; let Y := fm.dec y
        ((g x y).2 = if X = .nan true ∨ Y = .nan true then 1 else 0) ∧
        (X.isNan = true ∨ Y.isNan = true → (g x y).1 = 8) ∧
        (X.isNan = false → Y.isNan = false →
          (X.Less Y → (g x y).1 = 18) ∧ (Y.Less X → (g x y).1 = 36) ∧ (¬ X.Less Y → ¬ Y.Less X → (g x y).1 = 49))) ∧
    (∃ g : Nat → Nat, FloatResult (.vfcls f) s f false 1 unit n m (fun a _ i j => (g (elem n (a.at i) j), 0)) ∧
      ∀ x < 2 ^ n, let F := x % 2 ^ (n - 1)
        (∀ sig, fm.dec x = .nan sig → g x = if sig then 2 ^ 8 else 2 ^ 9) ∧
        (∀ neg, fm.dec x = .inf neg → g x = if neg then 2 ^ 0 else 2 ^ 7) ∧
        ((fm.dec x).Finite → g x = 2 ^ (match decide (2 ^ (n - 1) ≤ x) with
          | true => if F = 0 then 3 else if F < 2 ^ fm.fb then 2 else 1
          | false => if F = 0 then 4 else if F < 2 ^ fm.fb then 5 else 6))) ∧
    (∃ g : Nat → Nat × Nat, FloatResult (.vfrnd f) s f false 2 unit n m (fun a _ i j => g (elem n (a.at i) j)) ∧
      ∀ x < 2 ^ n, nanCase x (g x) ∧ (∀ neg, fm.dec x = .inf neg → g x = (x, 0)) ∧
        ((fm.dec x).Finite → ∃ t : Int, let z : Rat := (fm.dec x).val
          (g x).2 = 0 ∧ (fm.dec (g x).1).val = (t : Rat) ∧
          (t = 0 → (g x).1 = x / 2 ^ (n - 1) * 2 ^ (n - 1)) ∧
          (rm = 0 → |(t : Rat) - z| ≤ 1 / 2 ∧ (|(t : Rat) - z| = 1 / 2 → t % 2 = 0)) ∧
          (rm = 1 → |(t : Rat)| ≤ |z| ∧ |z| < |(t : Rat)| + 1) ∧
          (rm = 2 → z ≤ t ∧ (t : Rat) < z + 1) ∧ (rm = 3 → (t : Rat) ≤ z ∧ z < t + 1)))) ∧
  (∀ (f : VR) (s : State), s.cur.kind = .A →
    let n := if f.t = 0#2 then 32 else 16
    let fm : Fmt := if f.t = 0#2 then .f32 else if f.t = 1#2 then .bf16 else .f16
    let rm := s.x.rm.toNat
    let m := s.active f
    let terms (a b : Lanes) (j : Nat) : List Fp :=
      ((List.range 16).filter fun i => m.getLsbD i).map (fun i => fm.dec (elem n (a.at i) j)) ++ [fm.dec (elem n (b.at 0) j)]
    let below (x y : Fp) : Prop := x.Less y ∨ (x.isZero = true ∧ y.isZero = true ∧ x.neg? = true ∧ y.neg? = false)
    let extreme (mx : Bool) (g : Lanes → Lanes → Nat → Nat × Nat) : Prop := ∀ a b j, j < 32 / n →
      let l := terms a b j
      let r := fm.dec (g a b j).1
      (g a b j).2 = (if .nan true ∈ l then 1 else 0) ∧ ((∀ x ∈ l, x.isNan = true) → (g a b j).1 = fm.nanBits) ∧
      ((∃ x ∈ l, x.isNan = false) → r ∈ l ∧ r.isNan = false ∧
        ∀ y ∈ l, y.isNan = false → (mx = true → ¬ below r y) ∧ (mx = false → ¬ below y r))
    let total (l : List Fp) : Fp × Nat := Fp.sumZ (decide ((∀ x ∈ l, x.isZero = true ∧ x.neg? = true) ∨ rm = 3)) l
    (m ≠ 0#16 → FloatResult (.vrsum f) s f true 4 0 n m (fun a b _ j => ((fm.enc rm (total (terms a b j)).1).1,
      (fm.enc rm (total (terms a b j)).1).2 ||| (total (terms a b j)).2))) ∧
    (m ≠ 0#16 → ∃ g, FloatResult (.vrmax f) s f true 4 0 n m (fun a b _ j => g a b j) ∧ extreme true g) ∧
    (m ≠ 0#16 → ∃ g, FloatResult (.vrmin f) s f true 4 0 n m (fun a b _ j => g a b j) ∧ extreme false g) ∧
    (m = 0#16 → let u := (s.srcAB .A f).1
      (∀ i ∈ [Instr.vrsum f, .vrmax f, .vrmin f], exec i s = .next (u.landNone .A f 4)) ∧
      (f.w = true ∨ f.d.toNat < 32 → u.landNone .A f 4 = u))) ∧
  (∀ (z : Bool) (l : List Fp), (∀ x ∈ l, x.Finite) →
    (Fp.sumZ z l).2 = 0 ∧ (Fp.sumZ z l).1.Finite ∧ (Fp.sumZ z l).1.val = (l.map Fp.val).sum ∧
    ((l.map Fp.val).sum = 0 → (Fp.sumZ z l).1 = .fin z 0 0))

/-- 07 R154, R156: conversion of a value to an integer of n bits: the integer the mode chooses, with NX when it differs and UF
when a nonzero value becomes zero, saturated to the range with NV alone; a NaN gives 0 and an infinity the end of the range,
with NV. 07 R161 to R164: vcvt, vfcvti and vicvtf convert the elements that the part index h selects, in ctx.rm; with fewer
source than destination elements the others keep their values from vd. That UF is raised where a nonzero value becomes the
integer zero is the model's choice (log 18). -/
def Obligations.VectorConversions : Prop :=
  (∀ (n : Nat) (uns : Bool) (rm : Nat) (x : Fp), 1 < n → rm < 4 →
    let r := toIntFmt n uns rm x
    let lo : Int := if uns then 0 else -(2 ^ (n - 1) : Nat)
    let hi : Int := if uns then (2 ^ n : Nat) - 1 else (2 ^ (n - 1) : Nat) - 1
    let z := x.val
    ((r.1 : Int) < (2 ^ n : Nat)) ∧ (∀ sig, x = .nan sig → r = (0, 1)) ∧
    (∀ neg, x = .inf neg → (r.1 : Int) = (if neg then lo else hi) % (2 ^ n : Nat) ∧ r.2 = 1) ∧
    (x.Finite → ∃ t : Int,
      (rm = 0 → |(t : Rat) - z| ≤ 1 / 2 ∧ (|(t : Rat) - z| = 1 / 2 → t % 2 = 0)) ∧
      (rm = 1 → |(t : Rat)| ≤ |z| ∧ |z| < |(t : Rat)| + 1) ∧ (rm = 2 → z ≤ t ∧ (t : Rat) < z + 1) ∧
      (rm = 3 → (t : Rat) ≤ z ∧ z < t + 1) ∧
      (lo ≤ t → t ≤ hi → (r.1 : Int) = t % (2 ^ n : Nat) ∧ r.2 = if (t : Rat) = z then 0 else if t = 0 then 24 else 16) ∧
      (t < lo → (r.1 : Int) = lo % (2 ^ n : Nat) ∧ r.2 = 1) ∧ (hi < t → (r.1 : Int) = hi ∧ r.2 = 1))) ∧
  (∀ (f : VR) (s : State), s.cur.kind = .A ∨ s.cur.kind = .B →
    let unit := if s.cur.kind = .A then 0 else 1
    let rm := s.x.rm.toNat
    let m := s.active f
    let h := f.t.toNat
    let old := s.x.vreg s.cur.cluster (if f.w = true ∨ 32 ≤ f.d.toNat then 0 else f.d.toNat)
    let fmt (c : Nat) : Fmt := [Fmt.f32, .bf16, .f16, .e4m3, .e5m2, .l6].getD c .l6
    let flts (c : Nat) : Nat := [1, 2, 2, 4, 4, 4].getD c 4
    let ints (c : Nat) : Nat := [1, 2, 4].getD c 4
    let mapped (ps pd : Nat) (conv : Nat → Nat × Nat) (a _b : Lanes) (i j : Nat) : Nat × Nat :=
      if ps < pd then (if j / ps = h then conv (elem (32 / ps) (a.at i) (j % ps)) else (elem (32 / pd) (old.at i) j, 0))
      else if pd < ps then conv (elem (32 / ps) (a.at i) (pd * h + j))
      else conv (elem (32 / ps) (a.at i) j)
    let hi := f.b.toNat / 8
    let lo := f.b.toNat % 8
    let mid := f.b.toNat / 2 % 4
    let uns := f.b.getLsbD 0
    let width := 32 / ints mid
    FloatResult (.vcvt f) s f false 2 unit (32 / flts lo) m (mapped (flts hi) (flts lo)
      fun x => (fmt lo).enc rm ((fmt hi).dec (x % 2 ^ (fmt hi).width))) ∧
    FloatResult (.vfcvti f) s f false 2 unit width m (mapped (flts hi) (ints mid)
      fun x => toIntFmt width uns rm ((fmt hi).dec (x % 2 ^ (fmt hi).width))) ∧
    FloatResult (.vicvtf f) s f false 2 unit (32 / flts hi) m (mapped (ints mid) (flts hi)
      fun x => (fmt hi).enc rm (let v : Int := if uns then (x : Int) else signed width x
        .fin (decide (v < 0)) v.natAbs 0)))

/-- 07 R148, R149, R158: quantising 32 values: a NaN or infinity gives scale 0xFF, zero elements and NV; all zeros give scale 0;
else the scale is floor(log2 amax) − emax + 127, clamped to 0 to 254, and an MXINT8 element is RNE of 64 times the scaled value,
clamped to ±127. An element of a block reads as its own value times 2^(scale − 127). 07 R166, R167: vqmx lays the block of its
32 values out in vd, without a lane mask; vdqmx reads such a block and converts its values to ty in RNE, the half that lane 0 of
b selects for f32. That a flag of vqmx counts in all sixteen lanes is the model's choice (log 58). -/
def Obligations.MxBlocks : Prop :=
  ((∀ (k : Mx) (l : List Fp),
    let q := k.quant l
    let emax : Int := match k with | .fp4 => 2 | .int8 => 0 | .l6 => 3
    ((∃ x ∈ l, ¬ x.Finite) → q = (0xFF, l.map (fun _ => 0), 1)) ∧
    ((∀ x ∈ l, x.Finite ∧ x.val = 0) → q = (0, l.map (fun _ => 0), 0)) ∧
    ((∀ x ∈ l, x.Finite) → ∀ a ∈ l, a.val ≠ 0 → (∀ x ∈ l, |x.val| ≤ |a.val|) → ∀ e : Int,
      (2 : Rat) ^ e ≤ |a.val| → |a.val| < (2 : Rat) ^ (e + 1) →
      (q.1 : Int) = max 0 (min 254 (e - emax + 127)) ∧ q.2.1.length = l.length ∧ q.2.2.testBit 2 = false ∧
      (k = .int8 → ∀ i < l.length, ∃ t : Int,
        let z : Rat := (l.getD i (.inf false)).val * (2 : Rat) ^ (133 - (q.1 : Int))
        |(t : Rat) - z| ≤ 1 / 2 ∧ (|(t : Rat) - z| = 1 / 2 → t % 2 = 0) ∧
        ((q.2.1.getD i 0 : Nat) : Int) = max (-127) (min 127 t) % 256))) ∧
  ∀ (scale x : Nat), scale < 255 →
    (Mx.fp4.dec scale x).val = (Fmt.e2m1.dec (x % 16)).val * (2 : Rat) ^ ((scale : Int) - 127) ∧
    (Mx.int8.dec scale x).val = (signed 8 (x % 256) : Rat) * (2 : Rat) ^ ((scale : Int) - 133) ∧
    (x % 64 ≠ 32 → (Mx.l6.dec scale x).val = (Fmt.l6.dec (x % 64)).val * (2 : Rat) ^ ((scale : Int) - 127)) ∧
    (∀ k : Mx, k.dec 255 x = .nan false)) ∧
  (∀ (f : VR) (s : State), s.cur.kind = .A ∨ s.cur.kind = .B →
    let unit := if s.cur.kind = .A then 0 else 1
    let two := f.t = 0#2
    let n := if f.t = 0#2 then 32 else 16
    let fm : Fmt := if f.t = 0#2 then .f32 else if f.t = 1#2 then .bf16 else .f16
    let k : Mx := if f.m = 0#2 then .fp4 else if f.m = 1#2 then .int8 else .l6
    let one := s.srcA s.cur.kind f 0xFFFF#16
    let r := if two then s.srcAB s.cur.kind f 0xFFFF#16 else (one.1, one.2, one.2)
    let vals : List Fp := (List.range 32).map fun e => fm.dec
      (if two then (if e < 16 then (r.2.1.at e).toNat else (r.2.2.at (e - 16)).toNat) else elem 16 (r.2.1.at (e / 2)) (e % 2))
    let q := k.quant vals
    (∃ v : Lanes, exec (.vqmx f) s =
        .next ((r.1.raise s.cur.cluster unit (fun _ => q.2.2)).landV s.cur.kind f 4 0xFFFF#16 v) ∧
      (k = .fp4 → (∀ e < 32, elem 4 (v.at (e / 8)) (e % 8) = q.2.1.getD e 0 % 16) ∧ (v.at 4).toNat = q.1 ∧
        ∀ i < 16, 4 < i → v.at i = 0) ∧
      (k ≠ .fp4 → (∀ e < 32, elem 8 (v.at (e / 4)) (e % 4) = q.2.1.getD e 0 % 256) ∧ (v.at 8).toNat = q.1 ∧
        ∀ i < 16, 8 < i → v.at i = 0)) ∧
    FloatResult (.vdqmx f) s f two 4 unit n 0xFFFF#16 (fun a b i j =>
      let scale := (a.at (if k = .fp4 then 4 else 8)).toNat % 256
      let e := if two then 16 * ((b.at 0).toNat % 2) + i else 2 * i + j
      fm.enc 0 (k.dec scale (if k = .fp4 then elem 4 (a.at (e / 8)) (e % 8) else elem 8 (a.at (e / 4)) (e % 4)))))

/-- 08 R184, R186, R189: the nine F ops give each active lane the function's result of its FP32 code with latencies 6, 8, 10 and
12; a NaN gives the default NaN, and the infinities, zeros and negative operands the results and flags of the table. 08 R185 to
R187: the exact results (exp2 of an integer from −149 to 127, log2 of a power of two, rcp of a power of two, rsq of a power of
four), sqrt correctly rounded, rcp and rsq within one ulp, x ≥ 128 for exp2 and a magnitude below 2^−128 for rcp overflow, sin
and cos of 2^20 or more raise RR and NX, the odd and even functions, and rcp subnormal or zero above 2^126. Inside the bound of
R185 the result is a free choice (log 9). -/
def Obligations.SpecialFunctions : Prop :=
  ((∀ (f : VR) (s : State), s.cur.kind = .F →
    let op (i : Instr) (lat : Nat) (g : Nat → Nat × Nat) : Prop :=
      FloatResult i s f false lat 2 32 (s.active f) (fun a _ i _ => g (a.at i).toNat)
    op (.exp2 f) 6 sfExp2 ∧ op (.log2 f) 6 sfLog2 ∧ op (.rcp f) 8 sfRcp ∧ op (.rsq f) 8 sfRsq ∧ op (.sqrt f) 10 sfSqrt ∧
    op (.sin f) 12 (sfTrig false) ∧ op (.cos f) 12 (sfTrig true) ∧ op (.tanh f) 10 sfTanh ∧ op (.sigm f) 10 sfSigm) ∧
  (∀ x sig, Fmt.f32.dec x = .nan sig →
    ∀ g ∈ [sfExp2, sfLog2, sfRcp, sfRsq, sfSqrt, sfTrig false, sfTrig true, sfTanh, sfSigm], g x = (0x7FC00000, sig.toNat)) ∧
  (let nan := 0x7FC00000
  let inf := 0x7F800000
  let ninf := 0xFF800000
  let one := 0x3F800000
  let nz := 0x80000000
  sfExp2 ninf = (0, 0) ∧ sfExp2 0 = (one, 0) ∧ sfExp2 nz = (one, 0) ∧ sfExp2 inf = (inf, 0) ∧
  sfLog2 ninf = (nan, 1) ∧ sfLog2 0 = (ninf, 2) ∧ sfLog2 nz = (ninf, 2) ∧ sfLog2 inf = (inf, 0) ∧ sfLog2 one = (0, 0) ∧
  sfRcp ninf = (nz, 0) ∧ sfRcp 0 = (inf, 2) ∧ sfRcp nz = (ninf, 2) ∧ sfRcp inf = (0, 0) ∧
  sfRsq ninf = (nan, 1) ∧ sfRsq 0 = (inf, 2) ∧ sfRsq nz = (ninf, 2) ∧ sfRsq inf = (0, 0) ∧
  sfSqrt ninf = (nan, 1) ∧ sfSqrt 0 = (0, 0) ∧ sfSqrt nz = (nz, 0) ∧ sfSqrt inf = (inf, 0) ∧
  (∀ c, sfTrig c ninf = (nan, 1) ∧ sfTrig c inf = (nan, 1)) ∧ sfTrig false 0 = (0, 0) ∧ sfTrig false nz = (nz, 0) ∧
  sfTrig true 0 = (one, 0) ∧ sfTrig true nz = (one, 0) ∧
  sfTanh ninf = (0xBF800000, 0) ∧ sfTanh 0 = (0, 0) ∧ sfTanh nz = (nz, 0) ∧ sfTanh inf = (one, 0) ∧
  sfSigm ninf = (0, 0) ∧ sfSigm 0 = (0x3F000000, 0) ∧ sfSigm nz = (0x3F000000, 0) ∧ sfSigm inf = (one, 0)) ∧
  ∀ (x m : Nat) (e : Int), 0 < m → Fmt.f32.dec x = .fin true m e →
    sfLog2 x = (0x7FC00000, 1) ∧ sfRsq x = (0x7FC00000, 1) ∧ sfSqrt x = (0x7FC00000, 1)) ∧
  (∀ (x : Nat) (neg : Bool) (m : Nat) (e : Int), x < 2 ^ 32 → 0 < m → Fmt.f32.dec x = .fin neg m e →
    let z : Rat := Fp.val (.fin neg m e)
    let val (c : Nat) : Rat := (Fmt.f32.dec c).val
    (∀ k : Int, -149 ≤ k → k ≤ 127 → z = k → (sfExp2 x).2 = 0 ∧ val (sfExp2 x).1 = (2 : Rat) ^ k) ∧
    (128 ≤ z → sfExp2 x = (0x7F800000, 20)) ∧
    (∀ k : Int, z = (2 : Rat) ^ k → (sfLog2 x).2 = 0 ∧ val (sfLog2 x).1 = k) ∧
    (∀ k : Int, -127 ≤ k → |z| = (2 : Rat) ^ k → (sfRcp x).2 = 0 ∧ val (sfRcp x).1 = 1 / z) ∧
    (∀ k : Int, z = (4 : Rat) ^ k → (sfRsq x).2 = 0 ∧ val (sfRsq x).1 = (2 : Rat) ^ (-k)) ∧
    ((2 : Rat) ^ 126 < |z| → (sfRcp x).1 % 2 ^ 31 < 0x00800000) ∧
    (|z| < (2 : Rat) ^ (-128 : Int) → sfRcp x = (0x7F800000 + (if neg then 2 ^ 31 else 0), 20)) ∧
    (∀ k : Int, -126 ≤ k → k ≤ 126 → (2 : Rat) ^ k ≤ 1 / |z| → 1 / |z| < (2 : Rat) ^ (k + 1) →
      |val (sfRcp x).1 - 1 / z| ≤ (2 : Rat) ^ (k - 23)) ∧
    (neg = false → ∀ k : Int, (4 : Rat) ^ k * z ≤ 1 → 1 < (4 : Rat) ^ (k + 1) * z →
      let y := val (sfRsq x).1
      let u := (2 : Rat) ^ (k - 23)
      u ≤ y ∧ (y - u) * (y - u) * z ≤ 1 ∧ 1 ≤ (y + u) * (y + u) * z) ∧
    (neg = false →
      let c := (sfSqrt x).1
      let low := (val (c - 1) + val c) / 2
      let high := (val c + val (c + 1)) / 2
      low * low ≤ z ∧ z ≤ high * high ∧ ((sfSqrt x).2 = if val c * val c = z then 0 else 16)) ∧
    ((2 : Rat) ^ 20 ≤ |z| → sfTrig false x = (0x7FC00000, 48) ∧ sfTrig true x = (0x7FC00000, 48)) ∧
    (|z| < (2 : Rat) ^ 20 → (sfTrig false x).2.testBit 4 = true ∧ (sfTrig true x).2.testBit 4 = true) ∧
    (sfTanh x).2.testBit 4 = true ∧ (sfSigm x).2.testBit 4 = true ∧
    (neg = false →
      let flip (c : Nat) : Nat := if c < 2 ^ 31 then c + 2 ^ 31 else c - 2 ^ 31
      sfTanh (x + 2 ^ 31) = (flip (sfTanh x).1, (sfTanh x).2) ∧
      sfRcp (x + 2 ^ 31) = (flip (sfRcp x).1, (sfRcp x).2) ∧
      (|z| < (2 : Rat) ^ 20 → sfTrig false (x + 2 ^ 31) = (flip (sfTrig false x).1, (sfTrig false x).2) ∧
        sfTrig true (x + 2 ^ 31) = sfTrig true x)))

/-! ## Local memory (09) -/

/-- 09 R191, R194, R203: vld, vlds, vldx and vldb: when every active lane's offset is aligned, inside the pitch and on a full
line, lane i lands the word at its offset at latency 4; an active lane that is not aligned is scratchpad-alignment, else one
outside the pitch scratchpad-bounds, with the faulting lanes as information; an empty line makes the bundle wait. 09 R195, R203:
vst, vsts and vstx: with every active lane aligned and inside the pitch, the bundle's commit stores the words of the source code
in d at the offsets of the active lanes, as one store in which a higher lane is kept, and lands nothing. 09 R193, R195: what the
effects of a committing bundle do: a store writes its bytes and no other byte of the scratchpad; a line effect sets or clears
that line's bit and no other; neither changes registers, memory or streams. 09 R204, R205: vldt lands the 64 bytes and the
line's bit whatever it is; fefill and feempty set n lines' bits as the bundle commits, n from 1 to 128; fetest lands the bits of
the lines from L on, an active lane whose line is outside the pitch being scratchpad-bounds; another n is illegal-operand. That
vldt's mask lands also with nw, and that fetest with nw writes no mask, are the model's choices (log 23). 09 R196, R197, R208:
efence makes every earlier store of the context visible to the engines; efence.rd also waits until every engine command of the
context has read its source. efence takes no cycles of its own, by the model's choice (log 21). -/
def Obligations.ScratchpadAccessesAndLines : Prop :=
  (∀ (f : VR) (s : State) (p : Pitch), s.pitch = some p →
    let r := s.srcAB .M f
    let a := r.2.1
    let b := r.2.2
    let m := s.active f
    let load (i : Instr) (x : Nat → Nat) (bad : Nat → Prop) : Prop :=
      let inside (l : Nat) : Prop := x l + 4 ≤ p.lines * 128
      let line (l : Nat) : Nat := (p.base * 128 + x l) / 128
      let act (l : Nat) : Prop := l < 16 ∧ m.getLsbD l = true
      ((∀ l, act l → ¬ bad l) → (∀ l, act l → inside l) →
        ((∀ l, act l → s.full (line l) = true) → ∃ (v : Lanes) (lines : List Nat),
          exec i s = .next ((r.1.withLines lines).landV .M f 4 m v) ∧
          ∀ l, act l → (v.at l).toNat = leNat (s.padRead (p.base * 128 + x l) 4)) ∧
        ((∃ l, act l ∧ s.full (line l) = false) → ∃ t, exec i s = .next t ∧ t.cur.waits = r.1.cur.waits ++ [1])) ∧
      ((∃ l, act l ∧ bad l) → ∃ info : Dword, exec i s = .next (r.1.withCause 8 0x41 info) ∧
        ∀ l < 16, info.getLsbD (48 + l) = true ↔ act l ∧ bad l) ∧
      ((∀ l, act l → ¬ bad l) → (∃ l, act l ∧ ¬ inside l) → ∃ info : Dword, exec i s = .next (r.1.withCause 8 0x40 info) ∧
        ∀ l < 16, info.getLsbD (48 + l) = true ↔ act l ∧ ¬ inside l)
    let A := (a.at 0 + b.at 0).toNat % 2 ^ 21
    let strided (l : Nat) : Nat := ((((a.at 0).toNat : Int) + l * (b.at 0).toInt) % 2 ^ 21).toNat
    let indexed (l : Nat) : Nat := ((a.at 0).toNat + (b.at l).toNat) % 2 ^ 21
    load (.vld f) (fun l => (A + 4 * l) % 2 ^ 21) (fun _ => A % 64 ≠ 0) ∧ load (.vlds f) strided (fun l => strided l % 4 ≠ 0) ∧
    load (.vldx f) indexed (fun l => indexed l % 4 ≠ 0) ∧ load (.vldb f) (fun _ => A) (fun _ => A % 4 ≠ 0)) ∧
  (∀ (f : VR) (s : State) (p : Pitch), s.pitch = some p →
    let r := s.srcAB .M f
    let d := r.1.src .M s.cur.cluster f.d (s.active f)
    let a := r.2.1
    let b := r.2.2
    let lanes := (List.range 16).filter fun l => (s.active f).getLsbD l
    let store (i : Instr) (x : Nat → Nat) (bad : Nat → Prop) : Prop :=
      (∀ l ∈ lanes, ¬ bad l ∧ x l + 4 ≤ p.lines * 128) → ∃ lines : List Nat, exec i s =
        .next ((d.1.withLines lines).withPosts [.store (lanes.map fun l => (p.base * 128 + x l, natBytes 4 (d.2.at l).toNat))])
    let A := (a.at 0 + b.at 0).toNat % 2 ^ 21
    let strided (l : Nat) : Nat := ((((a.at 0).toNat : Int) + l * (b.at 0).toInt) % 2 ^ 21).toNat
    let indexed (l : Nat) : Nat := ((a.at 0).toNat + (b.at l).toNat) % 2 ^ 21
    store (.vst f) (fun l => (A + 4 * l) % 2 ^ 21) (fun _ => A % 64 ≠ 0) ∧ store (.vsts f) strided (fun l => strided l % 4 ≠ 0) ∧
    store (.vstx f) indexed (fun l => indexed l % 4 ≠ 0)) ∧
  ((∀ (s : State) (l : List (Nat × List Byte)),
    let t := s.applyPost (.store l)
    let covers (y : Nat × List Byte) (x : Nat) : Prop := y.1 ≤ x ∧ x < y.1 + y.2.length
    (∀ (u v : List (Nat × List Byte)) (y : Nat × List Byte), l = u ++ y :: v → ∀ i < y.2.length,
      (∀ z ∈ v, ¬ covers z (y.1 + i)) → Map.get 0 t.core.pad (y.1 + i) = y.2.getD i 0#8) ∧
    (∀ x, (∀ y ∈ l, ¬ covers y x) → Map.get 0 t.core.pad x = Map.get 0 s.core.pad x) ∧
    t.core.notFull = s.core.notFull ∧ t.core.streams = s.core.streams ∧ t.pkg = s.pkg ∧
    t.x = { s.x with unseen := t.x.unseen } ∧ t.part = s.part) ∧
  ∀ (s : State) (n : Nat) (full : Bool),
    let t := s.applyPost (.line n full)
    t.full n = full ∧ (∀ k, k ≠ n → t.full k = s.full k) ∧ t = { s with core := { s.core with notFull := t.core.notFull } }) ∧
  (∀ (f : VR) (s : State) (p : Pitch), s.pitch = some p →
    let q := s.srcAB .M f
    let r := s.srcAB .M f 0xFFFF#16
    let A := (r.2.1.at 0 + r.2.2.at 0).toNat % 2 ^ 21
    let B := (q.2.1.at 0 + q.2.2.at 0).toNat % 2 ^ 21
    let m := s.active f
    let c := s.cur.cluster
    let L := (r.2.1.at 0).toNat % 2 ^ 21
    let n := (r.2.2.at 0).toNat
    let line (k : Nat) : Nat := p.base + k
    (A % 64 = 0 → A + 64 ≤ p.lines * 128 → ∃ (v : Lanes) (lines : List Nat),
      exec (.vldt f) s = .next ((((r.1.withLines lines).landV .M f 4 0xFFFF#16 v)).withFlight
        (if f.m = 0#2 then [] else [⟨s.x.bno + 4, 6, c, f.m.toNat, 0, 0xFFFF#16,
          Lanes.of fun _ => if s.full (line (A / 128)) then 1#32 else 0#32⟩])) ∧
      ∀ i < 16, (v.at i).toNat = leNat (s.padRead (p.base * 128 + A + 4 * i) 4)) ∧
    (1 ≤ n → n ≤ 128 → L % 128 = 0 → L + 128 * n ≤ p.lines * 128 → ∀ full : Bool,
      exec (if full then .fefill f else .feempty f) s =
        .next (r.1.withPosts ((List.range n).map fun i => .line (line (L / 128 + i)) full))) ∧
    (n = 0 ∨ 128 < n → exec (.fefill f) s = .next (r.1.withCause 3 0x16 (s.defaultInfo 6)) ∧
      exec (.feempty f) s = .next (r.1.withCause 3 0x16 (s.defaultInfo 6))) ∧
    let outside (i : Nat) : Prop := m.getLsbD i = true ∧ p.lines * 128 < (B / 128 + i) * 128 + 128
    ((∃ i < 16, outside i) → ∃ info : Dword, exec (.fetest f) s = .next (q.1.withCause 8 0x40 info) ∧
      ∀ i < 16, info.getLsbD (48 + i) = true ↔ outside i) ∧
    ((∀ i < 16, ¬ outside i) →
      ∃ v : Lanes, (∀ i < 16, m.getLsbD i = true → v.at i = if s.full (line (B / 128 + i)) then 1#32 else 0#32) ∧
      exec (.fetest f) s = .next (q.1.withFlight (
        (if f.w = true ∨ f.d.toNat % 4 = 0 then [] else [⟨s.x.bno + 1, 6, c, f.d.toNat % 4, 0, m, v⟩]) ++
        [⟨s.x.bno + 1, 3, c, 0, 1, m, v⟩])))) ∧
  (∀ (f : VR) (s : State),
    let seen : State := { s with x := { s.x with unseen := [] } }
    let reading := ∃ c ∈ s.core.cmds, c.ctx = s.xn ∧ c.rd.isSome = true ∧ c.rdDone = false
    exec (.efence f) s = .next seen ∧ (¬ reading → exec (.efenceRd f) s = .next seen) ∧
    (reading → exec (.efenceRd f) s = .next (s.withWait 6)))

/-- 09 R198, R200 to R202: a pop of a bound stream with enough elements delivers the next chunk after the bundle's earlier pops
and takes its elements, with the flags of its conversion in the active lanes; with too few it waits, and an unbound or foreign
stream is stream-unbound; the head moves by the elements popped only when the bundle commits. 09 R200, R201, 07 R160: the chunk
is the elements at their places in the ring in order, raw or converted in RNE to the lane format, with the flags each lane's
elements raise. 09 R201: a bundle whose pushes need more room than the capacity leaves after the fill, the pops of the bundle
and the chunks in flight waits. 09 R200 to R202, 06 R130: a push of a bound stream reserves its room and carries zero in
inactive lanes; its flags are those of the conversion to the memory format, of a block for an MX ring (07 R158, R160). Where it
lands, the ring takes the chunk's elements at tail, raw or converted in RNE, one after another around the ring, an MX ring the
elements of the block with its scale byte at the block's place, and tail advances by their number; other bytes and streams stay.
09 R198, R206: sbind loads a stream of the context's pitch from a well-formed descriptor with its rings inside the pitch, lines
taken from the pitch base; sfmt sets formats that R199 allows and sadv moves head or tail; overruns, bad formats and unbound
streams are the causes 0x99, 0x9A and 0x98. All take effect at the commit. 09 R198, R199: which descriptors bind, and what they
bind: every field at its place, k at most 14, base a multiple of 2^k, the fill within the capacity, the reserved fields zero and
the formats allowed. A push converts with the formats current at its landing (log 24). That sbind, sfmt and sadv act whatever
the lane mask is the model's choice (log 58). -/
def Obligations.Streams : Prop :=
  ((∀ (s : State) (k : Kind) (cl q : Nat) (code : BitVec 6) (m : BitVec 16), q < 16 → code.toNat = 48 + q →
    let r := s.core.stream q
    let n := chunkElems r.popf r.mfmt
    let taken := ((s.cur.pops.filter fun x => x.1 = q).map (·.2)).sum
    let mine := (∃ p, s.pitch = some p ∧ p.qset.getLsbD q = true) ∧ r.bound = true
    let chunk := s.chunkAt r (r.head.toNat + taken)
    (¬ mine → (s.src k cl code m).1 = s.withCause 8 0x98 (s.defaultInfo 0)) ∧
    (mine → (r.tail - r.head).toNat < taken + n → (s.src k cl code m).1 = s.withWait 4) ∧
    (mine → taken + n ≤ (r.tail - r.head).toNat → ∃ fl : Nat → Nat,
      (∀ i, fl i = if m.getLsbD i = true then chunk.2 i else 0) ∧
      (s.src k cl code m).1 = ({ s with cur := { s.cur with pops := s.cur.pops ++ [(q, n)] } } : State).raise cl (kFlagUnit k) fl ∧
      (s.src k cl code m).2 = chunk.1)) ∧
  ∀ (s : State) (q n : Nat),
    let t := s.applyPop (q, n)
    (t.core.stream q).head = (s.core.stream q).head + BitVec.ofNat 32 n ∧ (t.core.stream q).tail = (s.core.stream q).tail ∧
    (∀ k, k ≠ q → t.core.stream k = s.core.stream k) ∧ t = { s with core := { s.core with streams := t.core.streams } }) ∧
  (∀ (s : State) (r : Stream) (h : Nat), r.k ≤ 14 → r.mfmt ≤ 11 → r.popf ∈ [0, 1, 2, 9, 10, 11] ∨ (r.popf = 15 ∧ r.mfmt ∉ [6, 7, 8]) →
    let size := codeBytes r.mfmt
    let byte (a : Nat) : Nat := (Map.get 0 s.core.pad a).toNat
    let code (e : Nat) : Nat := if r.mfmt = 6 then byte (r.base * 128 + e / 2 % (128 * 2 ^ r.k)) / 16 ^ (e % 2) % 16
      else ((List.range size).map fun b => byte (r.base * 128 + e * size % (128 * 2 ^ r.k) + b) * 256 ^ b).sum
    let scale (e : Nat) : Nat := byte (r.sbase * 128 + e / 32 % (r.capacity / 32) * 2 ^ r.sstr)
    let int (e : Nat) : Int := signed (8 * size) (code e)
    let value (e : Nat) : Fp := match r.mfmt with
      | 6 => Mx.fp4.dec (scale e) (code e) | 7 => Mx.int8.dec (scale e) (code e) | 8 => Mx.l6.dec (scale e) (code e)
      | 9 | 10 | 11 => .fin (decide (int e < 0)) (int e).natAbs 0
      | m => ([Fmt.f32, .bf16, .f16, .e4m3, .e5m2].getD m .l6).dec (code e)
    let w := 8 * codeBytes (if r.popf = 15 then r.mfmt else r.popf)
    let conv (e : Nat) : Nat × Nat := if r.popf = 15 then (code e, 0) else if 9 ≤ r.popf then toIntFmt w false 0 (value e)
      else ([Fmt.f32, .bf16].getD r.popf .f16).enc 0 (value e)
    chunkElems r.popf r.mfmt = 16 * (32 / w) ∧ ∀ i < 16,
      (∀ j < 32 / w, elem w ((s.chunkAt r h).1.at i) j = (conv (h + 32 / w * i + j)).1 % 2 ^ w) ∧
      ∀ b, ((s.chunkAt r h).2 i).testBit b = true ↔ ∃ j < 32 / w, (conv (h + 32 / w * i + j)).2.testBit b = true) ∧
  (∀ (s t : State),
    let total (q : Nat) (l : List (Nat × Nat)) : Nat := ((l.filter fun x => x.1 = q).map (·.2)).sum
    (s.roomFor t.cur = true ↔ ∀ x ∈ t.cur.pushes, let r := s.core.stream x.1
      r.fill - total x.1 t.cur.pops + (s.flights.filter fun e => e.what = 3 && e.dest = x.1).length * chunkElems r.pushf r.mfmt +
        total x.1 t.cur.pushes ≤ r.capacity) ∧
    (s.roomFor t.cur = false → t.cur.causes = [] → t.cur.waits = [] → t.cur.stops = [] →
      s.settle exec t = s.hold exec 4 t.cur.empties)) ∧
  (let lane (r : Stream) : Nat := if r.pushf = 15 then r.mfmt else r.pushf
  let w (r : Stream) : Nat := 8 * codeBytes (lane r)
  let x (r : Stream) (v : Lanes) (e : Nat) : Nat := elem (w r) (v.at (e / (32 / w r))) (e % (32 / w r))
  let value (r : Stream) (v : Lanes) (e : Nat) : Fp :=
    if 9 ≤ lane r then .fin (decide (signed (w r) (x r v e) < 0)) (signed (w r) (x r v e)).natAbs 0
    else ([Fmt.f32, .bf16].getD (lane r) .f16).dec (x r v e)
  let conv (r : Stream) (v : Lanes) (e : Nat) : Nat × Nat :=
    if r.pushf = 15 then (x r v e, 0) else if 9 ≤ r.mfmt then toIntFmt (8 * codeBytes r.mfmt) false 0 (value r v e)
    else ([Fmt.f32, .bf16, .f16, .e4m3, .e5m2].getD r.mfmt .l6).enc 0 (value r v e)
  let made (r : Stream) (v : Lanes) : Nat × List Nat × Nat :=
    Mx.quant (if r.mfmt = 6 then .fp4 else if r.mfmt = 7 then .int8 else .l6) ((List.range 32).map (value r v))
  let unscaled (r : Stream) : Prop := r.mfmt ∈ [0, 1, 2, 3, 4, 5, 9, 10, 11] ∧ (r.pushf = 15 ∨ r.pushf ∈ [0, 1, 2, 9, 10, 11])
  let scaled (r : Stream) : Prop := r.mfmt ∈ [6, 7, 8] ∧ (r.pushf = 1 ∨ r.pushf = 2)
  (∀ (s : State) (k : Kind) (f : VR) (lat q : Nat) (m : BitVec 16) (v : Lanes), q < 16 → f.w = false → f.d.toNat = 48 + q →
    let r := s.core.stream q
    let mine := (∃ p, s.pitch = some p ∧ p.qset.getLsbD q = true) ∧ r.bound = true
    let t := s.landV k f lat m v
    (¬ mine → t = s.withCause 8 0x98 (s.defaultInfo 0)) ∧
    (mine → ∃ (u : Lanes) (fl : Nat → Nat), (∀ i < 16, u.at i = if m.getLsbD i then v.at i else 0#32) ∧
      t.cur.pushes = s.cur.pushes ++ [(q, chunkElems r.pushf r.mfmt)] ∧
      t.cur.flags = (s.raise s.cur.cluster (kFlagUnit k) fl).cur.flags ∧
      t.cur.causes = (s.raise s.cur.cluster (kFlagUnit k) fl).cur.causes ∧
      (unscaled r → ∀ i < 16, ∀ b, (fl i).testBit b = true ↔ ∃ e < 512 / w r, e * w r / 32 = i ∧ (conv r u e).2.testBit b = true) ∧
      (scaled r → ∀ b, (∃ i < 16, (fl i).testBit b = true) ↔ (made r u).2.2.testBit b = true) ∧
      ∃ e, t.x.flight = s.x.flight ++ e ∧ (⟨s.x.bno + lat, kFlightUnit k, s.cur.cluster, q, 3, 0xFFFF#16, u⟩ : Flight) ∈ e)) ∧
  ∀ (s : State) (q : Nat) (v : Lanes),
    let r := s.core.stream q
    let size := codeBytes r.mfmt
    let n := 512 / w r
    let t := s.landPush q v
    let byte (a : Nat) : Byte := Map.get 0 t.core.pad a
    let ring := r.base * 128
    let len := 128 * 2 ^ r.k
    let moved (n : Nat) : Prop := (t.core.stream q).tail = r.tail + BitVec.ofNat 32 n ∧ (t.core.stream q).head = r.head ∧
      ∀ k, k ≠ q → t.core.stream k = s.core.stream k
    let kept (a : Nat) : Prop := a < ring ∨ ring + len ≤ a → byte a = Map.get 0 s.core.pad a
    r.k ≤ 14 →
      (unscaled r → n ≤ r.capacity → moved n ∧ (∀ a, kept a) ∧ ∀ e < n, ∀ b < size,
        byte (ring + ((r.tail.toNat + e) * size) % len + b) = BitVec.ofNat 8 ((conv r v e).1 / 256 ^ b)) ∧
      (scaled r →
        let at_ := r.sbase * 128 + r.tail.toNat / 32 % (r.capacity / 32) * 2 ^ r.sstr
        let code (e : Nat) : Nat := (made r v).2.1.getD e 0
        at_ < ring ∨ ring + len ≤ at_ → moved 32 ∧ (∀ a, a ≠ at_ → kept a) ∧ byte at_ = BitVec.ofNat 8 (made r v).1 ∧
          ∀ e < 32, let p := r.tail.toNat + e
            (r.mfmt = 6 → (byte (ring + p / 2 % len)).toNat / 16 ^ (p % 2) % 16 = code e) ∧
            (r.mfmt ≠ 6 → byte (ring + p % len) = BitVec.ofNat 8 (code e)))) ∧
  (∀ (f : VR) (s : State) (p : Pitch), s.pitch = some p → s.cur.pops = [] → s.cur.posts = [] → f.a.toNat < 32 → f.b.toNat < 32 →
    f.h = false → f.k = false →
    let q := f.d.toNat % 16
    let a := s.x.vreg s.cur.cluster f.a.toNat
    let b := s.x.vreg s.cur.cluster f.b.toNat
    let A := (a.at 0 + b.at 0).toNat % 2 ^ 21
    let r := s.core.stream q
    let m := (a.at 0).toNat
    let pop := m % 16
    let push := m / 16 % 16
    let unbound := Host.Outcome.next (s.withCause 8 0x98 (s.defaultInfo 0))
    (p.qset.getLsbD q = false → exec (.sfmt f) s = unbound ∧ exec (.sadv f) s = unbound) ∧
    (p.qset.getLsbD q = true → r.bound = false → exec (.sfmt f) s = unbound ∧ exec (.sadv f) s = unbound) ∧
    (p.qset.getLsbD q = true → r.bound = true →
      (laneFmtOk false pop r.mfmt = true → laneFmtOk true push r.mfmt = true →
        exec (.sfmt f) s = .next (s.withPosts [.stream q { r with popf := pop, pushf := push } 0])) ∧
      (laneFmtOk false pop r.mfmt = false ∨ laneFmtOk true push r.mfmt = false →
        exec (.sfmt f) s = .next (s.withCause 8 0x9A (s.defaultInfo 0))) ∧
      ((b.at 0).getLsbD 0 = false → m ≤ r.fill →
        exec (.sadv f) s = .next (s.withPosts [.stream q { r with head := r.head + a.at 0 } 0])) ∧
      ((b.at 0).getLsbD 0 = false → r.fill < m → exec (.sadv f) s = .next (s.withCause 8 0x99 (s.defaultInfo 0))) ∧
      ((b.at 0).getLsbD 0 = true → r.fill + m ≤ r.capacity →
        exec (.sadv f) s = .next (s.withPosts [.stream q { r with tail := r.tail + a.at 0 } 0])) ∧
      ((b.at 0).getLsbD 0 = true → r.capacity < r.fill + m → exec (.sadv f) s = .next (s.withCause 8 0x99 (s.defaultInfo 0)))) ∧
    (A % 32 = 0 → A + 32 ≤ p.lines * 128 →
      (p.qset.getLsbD q = false → exec (.sbind f) s = unbound) ∧
      (p.qset.getLsbD q = true →
        (streamOfDesc (s.padRead (p.base * 128 + A) 32) = none →
          exec (.sbind f) s = .next (s.withCause 8 0x9A (s.defaultInfo 0))) ∧
        ∀ d, streamOfDesc (s.padRead (p.base * 128 + A) 32) = some d → (∀ x ∈ d.areas, x.1 + x.2 ≤ p.lines * 128) →
          ∃ v lines, exec (.sbind f) s = .next ((s.withLines lines).withPosts [.stream q { d with base := d.base + p.base, sbase := d.sbase + p.base } v])))) ∧
  (∀ (base k mfmt popf pushf sstr sbase : Nat) (head tail : Word),
    base < 2 ^ 14 → k ≤ 14 → mfmt < 16 → popf < 16 → pushf < 16 → sstr < 8 → sbase < 2 ^ 14 →
    let desc := natBytes 2 base ++ natBytes 1 k ++ natBytes 1 mfmt ++ natBytes 1 (popf + 16 * pushf) ++ natBytes 1 sstr ++
      natBytes 2 sbase ++ natBytes 4 head.toNat ++ natBytes 4 tail.toNat ++ List.replicate 16 0#8
    let r : Stream := ⟨true, base, k, mfmt, popf, pushf, sstr, sbase, head, tail⟩
    let unscaled := mfmt ∈ [0, 1, 2, 3, 4, 5, 9, 10, 11]
    let scaled := mfmt ∈ [6, 7, 8]
    let lane := [0, 1, 2, 9, 10, 11]
    let fits := base % 2 ^ k = 0 ∧ (tail - head).toNat ≤ 128 * 2 ^ k * 2 / codeNibbles mfmt
    let formats := (unscaled ∧ (popf ∈ lane ∨ popf = 15) ∧ (pushf ∈ lane ∨ pushf = 15)) ∨
      (scaled ∧ popf ∈ lane ∧ (pushf = 1 ∨ pushf = 2))
    (fits ∧ formats → streamOfDesc desc = some r) ∧ (¬ (fits ∧ formats) → streamOfDesc desc = none))

/-- 09 R209 to R211: the cross-cluster moves read source a from the cluster, lane and parameter they name, xred folds the eight
clusters (a float maximum as vfmax does), trpi puts a row of the transpose buffer in flight at latency 16 and trpo reads a
column at issue; where the row lands, the lanes of the mask take the value, and every other lane, row and register keeps what it
holds. The sources are read in order by the operand rules, with captures (03 R56, R58), and the result lands by the destination
rules. A source a that is no register is read in the op's own cluster, by the model's choice (log 15), and so is how a row in
flight is written down (log 13); a move captures the value that it moves. -/
def Obligations.CrossClusterMoves : Prop :=
  (∀ (f : VR) (s : State),
    let c := s.cur.cluster
    let m := s.active f
    let ra := s.src .X c f.a m
    let rb := ra.1.srcB .X f
    let r := s.srcAB .X f
    let column := s.srcA .X f
    let va (k : Nat) : Lanes := if f.a.toNat < 32 then s.x.vreg k f.a.toNat else ra.2
    let b := rb.2
    let p := (b.at 0).toNat
    let moves (i : Instr) (g : Nat → Word) : Prop := ∃ v : Lanes,
      exec i s = .next ((rb.1.capture f.h .X c 0 v).landV .X f 1 m v) ∧ ∀ i < 16, v.at i = g i
    let terms (i : Nat) : List Fp := (List.range 8).map fun k => Fmt.f32.dec ((va k).at i).toNat
    moves (.xcp f) (fun i => (va (p % 8)).at i) ∧ moves (.xbc f) (fun _ => (va (p / 16 % 8)).at (p % 16)) ∧
    moves (.xrot f) (fun i => (va ((c + p) % 8)).at i) ∧
    moves (.xshf f) (fun i => (va ((b.at i).toNat / 16 % 8)).at ((b.at i).toNat % 16)) ∧
    (p % 4 = 0 → ∃ v : Lanes, exec (.xred f) s = .next (r.1.landV .X f 4 m v) ∧
      ∀ i < 16, (v.at i).toNat = (((List.range 8).map fun k => ((va k).at i).toNat).sum) % 2 ^ 32) ∧
    (p % 4 = 2 → ∃ v : Lanes, exec (.xred f) s = .next (r.1.landV .X f 4 m v) ∧
      ∀ i < 16, (∃ k < 8, v.at i = (va k).at i) ∧ ∀ k < 8, ((va k).at i).toInt ≤ (v.at i).toInt) ∧
    (p % 4 = 1 → ∃ (v : Lanes) (fl : Nat → Nat), exec (.xred f) s = .next ((r.1.raise c 3 fl).landV .X f 4 m v) ∧
      (∀ i, fl i = if m.getLsbD i = true then (Fmt.f32.rnd 0 (Fp.sum 0 (terms i))).2 else 0) ∧
      ∀ i < 16, (v.at i).toNat = (Fmt.f32.enc 0 (Fp.sum 0 (terms i)).1).1) ∧
    (p % 4 = 3 → ∃ (v : Lanes) (fl : Nat → Nat), exec (.xred f) s = .next ((r.1.raise c 3 fl).landV .X f 4 m v) ∧
      (∀ i, fl i = if m.getLsbD i = true ∧ .nan true ∈ terms i then 1 else 0) ∧
      ∀ i < 16, let r := Fmt.f32.dec (v.at i).toNat
        ((∀ x ∈ terms i, x.isNan = true) → v.at i = 0x7FC00000#32) ∧
        ((∃ x ∈ terms i, x.isNan = false) → r ∈ terms i ∧ r.isNan = false ∧ ∀ y ∈ terms i, y.isNan = false →
          ¬ r.Less y ∧ ¬ (r.isZero = true ∧ y.isZero = true ∧ r.neg? = true ∧ y.neg? = false))) ∧
    exec (.trpi f) s = .next (r.1.withFlight
      [⟨s.x.bno + 16, 5, c, ((r.2.2.at 0).toNat + c) % 16, 1, m, r.2.1⟩]) ∧
    ∃ v : Lanes, exec (.trpo f) s = .next (column.1.landV .X f 16 m v) ∧
      ∀ i < 16, v.at i = (Map.get Lanes.zero s.x.tbuf i).at (((column.2.at 0).toNat + c) % 16)) ∧
  ∀ (c : Ctx) (e : Flight), e.unit = 5 → e.what = 1 → e.dest < 16 →
    let d := c.landOne e
    d = { c with tbuf := d.tbuf } ∧ ∀ r < 16, ∀ i < 16, (Map.get Lanes.zero d.tbuf r).at i =
      if r = e.dest ∧ e.lanes.getLsbD i = true then e.val.at i else (Map.get Lanes.zero c.tbuf r).at i

/-! ## Copy and matrix engines (11, 12) -/

/-- 11 R248, R255 to R257: cq.lvl stages a level, cq.cfg the configuration word and cq.bar the barrier, and nothing else
changes. 11 R249 to R252, R257, R258: cq.go takes a pending engine fault first, then copy-config, the alignment of a scratchpad
barrier, bounds, copy-overlap; a copy with a count of 0 completes at once; any other is accepted with the regions of its
scratchpad sides, whose lines become empty unless N is set. The binding is cleared. 11 R250, R253: as a line of a raw copy
inside the scratchpad lands, each of its bytes takes the byte at its source address, no other byte changes, the line becomes
full, and the command is done when it was the last. Each line lands in a step of its own (log 5). -/
def Obligations.CopyEngine : Prop :=
  (∀ (f : EF) (s : State),
    let c := s.x.copy
    let a := s.x.sreg f.a.toNat
    (∃ t, exec (.cqLvl f) s = .next t ∧ t = { s with x := { s.x with copy := { c with levels := t.x.copy.levels } } } ∧
      Map.get ⟨0, 0, 0⟩ t.x.copy.levels (f.i.toNat % 8) = ⟨a.setWidth 32, s.x.sreg f.b.toNat, s.x.sreg f.c.toNat⟩ ∧
      ∀ k, k ≠ f.i.toNat % 8 → Map.get ⟨0, 0, 0⟩ t.x.copy.levels k = Map.get ⟨0, 0, 0⟩ c.levels k) ∧
    exec (.cqCfg f) s = .next { s with x := { s.x with copy := { c with cfg := a } } } ∧
    exec (.cqBar f) s = .next { s with x := { s.x with copy := { c with bar := some (f.i.getLsbD 0, a) } } }) ∧
  (∀ (f : EF) (s : State),
    (∀ e, s.x.ef = some e → exec (.cqGo f) s = .next (s.withCause 8 0x82 e.tinfo)) ∧
    (s.x.ef = none →
      let j := s.copyJob f
      let n := j.cfg.toNat / 2 ^ 12 % 8
      let sf := j.cfg.toNat % 16
      let df := j.cfg.toNat / 16 % 16
      let ssp := j.cfg.toNat / 2 ^ 8 % 4
      let dsp := j.cfg.toNat / 2 ^ 10 % 4
      let fmts := [0, 1, 2, 3, 4, 5, 9, 10, 11]
      let ss := if sf = 15 then 1 else codeBytes sf
      let ds := if dsp = 2 then 4 else if df = 15 then 1 else codeBytes df
      let none_ := ∃ l ∈ j.levels, l.count = 0#32
      let ok : Prop := j.cfg.toNat < 2 ^ 16 ∧ 1 ≤ n ∧ n ≤ 6 ∧ dsp ≠ 3 ∧ ssp ≤ 1 ∧
        ((sf = 15 ∧ df = 15) ∨ (sf ∈ fmts ∧ df ∈ fmts)) ∧ j.src.toNat % ss = 0 ∧ j.dst.toNat % ds = 0 ∧
        (∀ l ∈ j.levels, l.ss.toNat % ss = 0 ∧ l.ds.toNat % ds = 0) ∧
        (dsp = 2 → df = 15 ∧ j.bar = none ∧ (¬ none_ → 0 ≤ j.dstSpan.1 ∧ j.dstSpan.2 ≤ 0x10000))
      let inside (r : Int × Int) : Prop := ∃ p, s.pitch = some p ∧ 0 ≤ r.1 ∧ r.2 ≤ p.lines * 128
      let barOk : Prop := ∀ a, j.bar = some (true, a) → a.toNat % 16 = 0 ∧ inside (a.toNat, a.toNat + 16)
      let cleared : State := { s with x := { s.x with copy := { s.x.copy with bar := none } } }
      let region (r : Int × Int) : Option (Nat × Nat) :=
        match s.pitch with
        | some p => regionOf (p.base * 128 + r.1.toNat) (r.2 - r.1).toNat
        | none => none
      let rd := if ssp = 0 then region j.srcSpan else none
      let wr := if dsp = 0 then region j.dstSpan else none
      (¬ ok → exec (.cqGo f) s = .next (s.withCause 8 0x80 (s.defaultInfo 0))) ∧
      (ok → ∀ a, j.bar = some (true, a) → a.toNat % 16 ≠ 0 → Raises (.cqGo f) s 0x41) ∧
      (ok → barOk → none_ → exec (.cqGo f) s = .next cleared) ∧
      (ok → barOk → ¬ none_ →
        ((ssp = 0 ∧ ¬ inside j.srcSpan) ∨ (dsp = 0 ∧ ¬ inside j.dstSpan) → Raises (.cqGo f) s 0x40) ∧
        ((ssp = 0 → inside j.srcSpan) → (dsp = 0 → inside j.dstSpan) →
          (regionsMeet rd wr = true → exec (.cqGo f) s = .next (s.withCause 8 0x81 (s.defaultInfo 0))) ∧
          (regionsMeet rd wr = false → (rd = none ∧ wr = none) ∨ s.BoardFree → ∃ t args, exec (.cqGo f) s = .next t ∧
            cleared.Accepts t (.cqGo f) args rd wr (!j.cfg.getLsbD 15) ∧ args.take 3 = [j.src, j.dst, j.cfg]) ∧
          (regionsMeet rd wr = false → ¬ (rd = none ∧ wr = none) → ¬ s.BoardFree →
            exec (.cqGo f) s = .next (cleared.withWait 2)))))) ∧
  (∀ (f : EF) (s : State) (c : Cmd) (id line base : Nat) (landed : List Nat),
    s.core.cmd id = some c → c.op = .cqGo f → c.st = 0 :: base :: landed → c.old = [] → c.copyCfg.toNat % 2 ^ 12 = 0xFF →
    c.copyCfg.getLsbD 15 = false → s.core.canRead c = true → s.core.canWrite c = true → line ∈ c.linesLeft →
    c.elems.Pairwise (fun x y => x.2 ≠ y.2) → (∀ x ∈ c.elems, ∀ y ∈ c.elems, x.1 ≠ y.2) →
    ∃ t, exec (.copyLineLand id line) s = .next t ∧ t.full line = true ∧
      (∀ x ∈ c.elems, c.lineOf x.2 = line →
        Map.get 0 t.core.pad (base + x.2.toNat) = Map.get 0 s.core.pad (base + x.1.toNat)) ∧
      (∀ a, (∀ x ∈ c.elems, c.lineOf x.2 = line → a ≠ base + x.2.toNat) →
        Map.get 0 t.core.pad a = Map.get 0 s.core.pad a) ∧
      ((∀ l ∈ c.linesLeft, l = line) → t.core.cmd id = none) ∧
      ((∃ l ∈ c.linesLeft, l ≠ line) → ∃ d, t.core.cmd id = some d ∧ d.rd = c.rd ∧ d.wr = c.wr ∧
        ∀ l, l ∈ d.linesLeft ↔ l ∈ c.linesLeft ∧ l ≠ line))

/-- 11 R247: a command that stops with a fault fills the lines of its write region and leaves; its strand's context keeps the
first fault and counts the others; what the trap reports is the address's low 40 bits, the count and the cause. The identifier
of a cause that has no address is as log 41 reads it. -/
def Obligations.EngineFaultsAreRecorded : Prop :=
  (∀ (s : State) (c : Cmd) (info : Dword) (cause n : Nat), s.ctxOf c.strand = some n → n < 8 → s.xn < 8 →
    let t := s.failCmd c info cause
    t.core.cmd c.id = none ∧ t.pkg = s.pkg ∧ t.part = s.part ∧ t.core.pad = s.core.pad ∧
    (∀ a k, c.wr = some (a, k) → ∀ l, a < 128 * (l + 1) → 128 * l < a + k → t.full l = true) ∧
    ((s.ctx n).ef = none → (t.ctx n).ef = some ⟨info, BitVec.ofNat 8 cause, 0⟩) ∧
    (∀ e, (s.ctx n).ef = some e → (t.ctx n).ef = some { e with more := e.more + 1 })) ∧
  ∀ e : EngineFault, e.tinfo.extractLsb' 0 40 = e.info.extractLsb' 0 40 ∧
    (e.tinfo.extractLsb' 40 8).toNat = min e.more 255 ∧ e.tinfo.extractLsb' 48 8 = 0#8 ∧ e.tinfo.extractLsb' 56 8 = e.cause

/-- 12 R273: mx.setp writes a parameter register of the context, and mx.getp returns one. 12 R263, R268, R270 to R272, R275,
R276: when mx.call, mx.drain and mx.zero are accepted into the queue of eight, and which cause each check raises. Whose a bank
is, is what the queued commands will have made of it (log 35); a slot is as the last load still to be made will set it. 12 R274:
mx.ld copies its micro-ops into the store and its slot names them, at once where nothing holds its read back; the limits, the
reserved slots and the privileged ones raise their causes. -/
def Obligations.MatrixInstructions : Prop :=
  (∀ (f : EF) (s : State),
    let k := f.i.toNat % 8
    (∃ t, exec (.mxSetp f) s = .next t ∧ t = { s with x := { s.x with m := t.x.m } } ∧
      Map.get 0 t.x.m k = s.x.sreg f.a.toNat ∧ ∀ n, n ≠ k → Map.get 0 t.x.m n = Map.get 0 s.x.m n) ∧
    exec (.mxGetp f) s = .next (s.withReturn f.c (Map.get 0 s.x.m k))) ∧
  (∀ (f : EF) (s : State),
    let me := s.x.pitch % 128
    let owner (b : Nat) : Nat := (s.core.claims.of b).1
    let mode (b : Nat) : Nat := (s.core.claims.of b).2
    let room : Prop := s.core.matrixQueue.length < 8
    (let slot := f.i.toNat % 64
     let bank := f.i.toNat / 64 % 2
     let m (k : Nat) : Nat := (Map.get 0 s.x.m k).toNat
     let fmt := m 4 % 32
     let need := if fmt = 16 then 2 else if fmt = 11 then 1 else 0
     let b := if need = 2 then 0 else bank
     let ring (q : Nat) : Prop := (∃ p, s.pitch = some p ∧ p.qset.getLsbD q = true) ∧ (s.core.stream q).bound = true
     let cfg : Prop := (fmt ≤ 8 ∨ fmt = 11 ∨ fmt = 16) ∧ m 0 < 16 ∧ m 1 < 16 ∧ m 3 < 2 ^ 30 ∧ m 4 < 32 ∧ m 0 % 16 ≠ m 1 % 16
     let known : Prop := slot = 0 ∨ slot = 1 ∨ (8 ≤ slot ∧ (s.core.slotOf slot).2 ≠ 0)
     let mine : Prop := owner b ≠ 0 ∧ owner b = me ∧ mode b = need
     let large (q : Nat) : Prop := 4096 ≤ ((s.core.stream q).inFmt fmt).capacity
     ((∀ e ∈ s.core.cmds, ∀ g, e.op ≠ .mxLd g) → s.core.slotOf slot = Map.get (0, 0) s.core.slots slot) ∧
     (cfg → known → mine → (∀ k < 2, ring (m k % 16) ∧ large (m k % 16)) → room → ∃ t args, exec (.mxCall f) s = .next t ∧
       s.Accepts t (.mxCall f) args none none false ∧ args.take 8 = (List.range 8).map (Map.get 0 s.x.m)) ∧
     (¬ cfg → Raises (.mxCall f) s 0x88) ∧ (¬ known → Raises (.mxCall f) s 0x89) ∧
     (¬ mine → cfg → Raises (.mxCall f) s 0x8A) ∧ ((∃ k < 2, ¬ ring (m k % 16)) → Raises (.mxCall f) s 0x98)) ∧
    (let fmt := f.i.toNat % 16
     let bank := f.i.toNat / 16 % 2
     let a := (s.x.sreg f.a.toNat).toNat
     let n := 16384 * codeBytes fmt
     let mine : Prop := owner bank ≠ 0 ∧ owner bank = me
     let ok : Prop := if mode bank = 2 then fmt = 0 ∨ fmt = 12 else fmt ∈ [0, 1, 2, 3, 4, 5, 9, 10, 11]
     (∀ p, s.pitch = some p → mine → mode bank ≤ 2 → ok → a % 128 = 0 → a + n ≤ p.lines * 128 → room → s.BoardFree →
       ∃ t, exec (.mxDrain f) s = .next t ∧ s.Accepts t (.mxDrain f) [] none (some (p.base * 128 + a, n)) true) ∧
     (¬ mine → Raises (.mxDrain f) s 0x8A) ∧ (mine → mode bank ≤ 2 → ¬ ok → Raises (.mxDrain f) s 0x88) ∧
     (a % 128 ≠ 0 → Raises (.mxDrain f) s 0x41)) ∧
    let md := f.i.toNat % 4
    let bank := f.i.toNat / 4 % 2
    let free (b : Nat) : Prop := owner b = 0 ∨ owner b = me
    let ok : Prop := s.pitch ≠ none ∧ free bank ∧ (md = 2 → free 1)
    (ok → room → ∃ t, exec (.mxZero f) s = .next t ∧ s.Accepts t (.mxZero f) [] none none false) ∧
    (¬ ok → Raises (.mxZero f) s 0x8A)) ∧
  (∀ (f : EF) (s : State),
    let slot := f.i.toNat % 64
    let a := (s.x.sreg f.a.toNat).toNat
    let d := (s.x.sreg f.b.toNat).toNat % 2048
    let n := (s.x.sreg f.c.toNat).toNat
    let size : Prop := 1 ≤ n ∧ n ≤ 2048 ∧ d + n ≤ 2048
    let allowed : Prop := 8 ≤ slot ∧ (slot ≤ 31 → s.x.priv = true)
    (∀ p, s.pitch = some p → size → allowed → a % 8 = 0 → a + 8 * n ≤ p.lines * 128 → s.BoardFree → s.IdsFresh →
      s.x.unseen = [] → s.cur.waits = [] → s.cur.causes = [] →
      (∀ e ∈ s.core.cmds, (∀ g, e.op ≠ .mxLd g) ∧ (∀ g, e.op = .mxCall g → e.st ≠ []) ∧
        (e.wrDone = false → regionsMeet e.wr (some (p.base * 128 + a, 8 * n)) = false)) →
      ∃ t, exec (.mxLd f) s = .next t ∧
        t = { s with core := { s.core with
          micro := t.core.micro, slots := t.core.slots, nextId := s.core.nextId + 1, pages := t.core.pages,
          codeOld := t.core.codeOld } } ∧
        t.core.pages = s.core.pages.filter (fun p => p.1 ≠ s.core.nextId) ∧
        t.core.codeOld = s.core.codeOld.filter (fun p => p.1 ≠ s.core.nextId) ∧
        (∀ i < n, Map.get 0 t.core.micro (d + i) = BitVec.ofNat 64 (leNat (s.padRead (p.base * 128 + a + 8 * i) 8))) ∧
        (∀ k, k < d ∨ d + n ≤ k → Map.get 0 t.core.micro k = Map.get 0 s.core.micro k) ∧
        Map.get (0, 0) t.core.slots slot = (d, n) ∧
        ∀ k, k ≠ slot → Map.get (0, 0) t.core.slots k = Map.get (0, 0) s.core.slots k) ∧
    (¬ size → Raises (.mxLd f) s 0x88) ∧ (slot < 8 → Raises (.mxLd f) s 0x89) ∧
    (8 ≤ slot → slot ≤ 31 → s.x.priv = false → Raises (.mxLd f) s 0xA0))

/-- 12 R265, R266: a group of finite products is cut toward zero at the window's last bit, summed exactly and added into the
accumulator with one rounding; INT8 products are added exactly modulo 2^32; only a NaN operand makes a NaN without NV. 12 R261,
R262, R266, R269: one k-block of an INT8 call of routine 0 adds its 32 products into every element in range, leaves the others,
takes 4,096 elements from each ring and completes; a binary64 pair aside, a drain in FP32 stores the bank. 12 R270, 22 R426: the
bank of a kv.attn that has stopped becomes +0 once the commands of the queue accepted before it have left, and no other bank
changes. What the matrix rules leave to reading is log 36. -/
def Obligations.MatrixEngineSteps : Prop :=
  ((∀ (w : Nat) (acc : Word) (p : List Fp), (∀ x ∈ p, x.Finite) → (Fmt.f32.dec acc.toNat).Finite → (∃ x ∈ p, x.val ≠ 0) →
    ∃ (E : Int) (t : List Rat) (sum : Fp),
      let q : Rat := 2 ^ (E - w + 1)
      (∀ x ∈ p, |x.val| < 2 ^ (E + 1)) ∧ (∃ x ∈ p, (2 : Rat) ^ E ≤ |x.val|) ∧ t.length = p.length ∧
      (∀ k < p.length, let x := (p.getD k (.fin false 0 0)).val
        let y := t.getD k 0
        (∃ z : Int, y = z * q) ∧ |y| ≤ |x| ∧ |x| - |y| < q ∧ 0 ≤ x * y) ∧
      sum.Finite ∧ sum.val = (Fmt.f32.dec acc.toNat).val + t.sum ∧
      mxGroup w acc false p false = (BitVec.ofNat 32 (Fmt.f32.enc 0 sum).1, (Fmt.f32.enc 0 sum).2)) ∧
  (∀ (acc : Word) (l : List (MxEl × MxEl)), (mxDotInt acc l).toNat =
    (((acc.toNat : Int) + (l.map fun (x : MxEl × MxEl) => signed 8 (x.1.2 % 256) * signed 8 (x.2.2 % 256)).sum) % 2 ^ 32).toNat) ∧
  ∀ (w : Nat) (acc : Word) (p : List Fp),
    (¬ (.inf false ∈ p ∧ .inf true ∈ p) → mxGroup w acc true p false = (0x7FC00000#32, 0)) ∧
    (.inf false ∈ p → .inf true ∈ p → mxGroup w acc false p false = (0x7FC00000#32, fNV)) ∧
    ∀ nan : Bool, mxGroup w acc nan p true = (0x7FC00000#32, fNV)) ∧
  (∀ (s : State) (c : Cmd) (b n : Nat), c.onMatrix = true → s.core.zeroAfter = [(b, n)] →
    let t := s.endCmd c
    ((∀ e ∈ s.core.matrixQueue, e.id ≠ c.id → n ≤ e.id) → (∀ i j, t.core.acc b i j = 0) ∧ t.core.zeroAfter = [] ∧
      ∀ k, k ≠ b → t.core.bank k = s.core.bank k) ∧
    ((∃ e ∈ s.core.matrixQueue, e.id ≠ c.id ∧ e.id < n) → t.core.banks = s.core.banks ∧ t.core.zeroAfter = [(b, n)])) ∧
  (∀ (f : EF) (s : State) (c : Cmd) (l : List Cmd), s.core.matrixQueue = c :: l → s.core.zeroAfter = [] →
    (c.op = .mxCall f → c.st = [0, 1, 0] → c.micro = [1#64 <<< 58, 0#64] → c.mxFmt = 11 → (c.mreg 3).toNat < 2 ^ 14 →
      let qa := (c.mreg 0).toNat % 16
      let qb := (c.mreg 1).toNat % 16
      let ra := s.core.stream qa
      let rb := s.core.stream qb
      let b := f.i.toNat / 64 % 2
      let el (r : Stream) (n t : Nat) : Int :=
        signed 8 (Map.get 0 s.core.pad (r.base * 128 + (r.head.toNat + 32 * n + t) % (128 * 2 ^ r.k))).toNat
      qa ≠ qb → 4096 ≤ ra.fill → 4096 ≤ rb.fill → ∃ t, exec .mxKblock s = .next t ∧
        (∀ i < 128, ∀ j < 128, t.core.acc b i j = if i ≤ (c.mreg 3).toNat % 128 ∧ j ≤ (c.mreg 3).toNat / 128 % 128 then
          s.core.acc b i j + BitVec.ofInt 32 ((List.range 32).map fun k => el ra i k * el rb j k).sum else s.core.acc b i j) ∧
        t.core.stream qa = { ra with head := ra.head + 4096 } ∧ t.core.stream qb = { rb with head := rb.head + 4096 } ∧
        t.core.cmd c.id = none ∧ t.core.pad = s.core.pad ∧ t.pkg = s.pkg ∧ t.x = s.x) ∧
    (c.op = .mxDrain f → f.i.toNat % 16 = 0 → ∀ a, c.wr = some (a, 65536) → s.core.canWrite c = true →
      let b := f.i.toNat / 16 % 2
      (s.core.bank b).mode = 0 → ∃ t, exec .mxDrainRun s = .next t ∧
        (∀ i < 128, ∀ j < 128, leNat (t.padRead (a + 4 * (128 * i + j)) 4) =
          (codeConv 0 0 0 (s.core.acc b i j).toNat).1 % 2 ^ 32) ∧
        (∀ x, x < a ∨ a + 65536 ≤ x → Map.get 0 t.core.pad x = Map.get 0 s.core.pad x) ∧
        (∀ n, a < 128 * (n + 1) → 128 * n < a + 65536 → t.full n = true) ∧ t.core.cmd c.id = none ∧
        (f.i.getLsbD 5 = false → t.core.bank b = s.core.bank b) ∧
        (f.i.getLsbD 5 = true → (t.core.bank b).owner = 0 ∧ (t.core.bank b).flags = 0)) ∧
    (c.op = .mxZero f → f.i.toNat % 4 ≤ 1 → c.pitch % 128 ≠ 0 →
      let b := f.i.toNat / 4 % 2
      ∃ t, exec .mxZeroRun s = .next t ∧ t.core.bank b = ⟨c.pitch % 128, f.i.toNat % 4, 0, []⟩ ∧ t.core.cmd c.id = none ∧
        ((s.core.bank (1 - b)).mode ≠ 2 → (s.core.bank (1 - b)).owner ≠ 0 → t.core.bank (1 - b) = s.core.bank (1 - b)) ∧
        ((s.core.bank (1 - b)).mode = 2 → t.core.bank (1 - b) = Bank.empty)))

/-! ## Key-value store and attention (13, 14) -/

/-- 11 R244, 13 R286 to R300, 14 R319, 03 R72: a kv command that names no scratchpad is accepted with its operands and no
region, and one that returns a value holds its register back until then; kv.grant needs privilege and a count from 1 to 1,024.
03 R61, 13 R286, 14 R312, R317, R318: kv.app, kv.attn and kv.merge read their blocks at issue and are accepted with their
regions when no check of their entries fails; a kv.attn on a complete state block changes nothing. The order of a command's
checks is log 41. -/
def Obligations.KvCommandsAccepted : Prop :=
  (∀ (f : EF) (s : State),
    let args := [s.x.sreg f.a.toNat, s.x.sreg f.b.toNat, s.x.sreg f.c.toNat]
    let n := (s.x.sreg f.c.toNat).toNat
    (∀ i ∈ [Instr.kvFork f, .kvFree f, .kvSeal f, .kvUndo f, .kvTrim f, .kvClass f, .kvClassAll f, .kvDemote f, .kvPromote f,
        .kvPin f, .kvUnpin f, .kvRet f], ∃ t, exec i s = .next t ∧ s.Accepts t i args none none false) ∧
    (∀ i ∈ [Instr.kvLend f, .kvLen f, .kvLenT f, .kvPos f], ∃ t, exec i s = .next (t.owes f.c) ∧
      s.Accepts t i args none none false) ∧
    (s.x.priv = true → 1 ≤ n → n ≤ 1024 → ∃ t, exec (.kvGrant f) s = .next t ∧ s.Accepts t (.kvGrant f) args none none false) ∧
    (s.x.priv = true → n = 0 ∨ 1024 < n → exec (.kvGrant f) s = .next (s.withCause 8 0x66 (s.defaultInfo 0))) ∧
    (s.x.priv = false → exec (.kvGrant f) s = .next (s.withCause 4 0xA0 (s.defaultInfo 0)))) ∧
  (∀ (f : EF) (s : State) (p : Pitch), s.pitch = some p → s.BoardFree →
    let base := p.base * 128
    let size := p.lines * 128
    let a := (s.x.sreg f.a.toNat).toNat
    let b := (s.x.sreg f.b.toNat).toNat
    let quiet (x n : Nat) : Prop := ∀ k ∈ s.core.cmds, k.wrDone = true ∨ regionsMeet k.wr (some (x, n)) = false
    let q := s.padRead (base + a) 64
    let n (o k : Nat) : Nat := fieldOf q o k
    let block : Prop := a % 64 = 0 ∧ a + 64 ≤ size ∧ quiet (base + a) 64 ∧ s.full ((base + a) / 128) = true
    let head (x o k : Nat) : Nat := s.padNat (base + x + o) k
    (block → n 3 1 = 0 → n 20 1 ≤ 2 → n 21 3 = 0 → n 28 36 = 0 → ∀ d u, (kvSeq (n 0 4 % 2 ^ 24)).Ok none s d u →
      1 ≤ n 10 2 → n 8 2 + n 10 2 ≤ d.pool.layers →
      let k := n 10 2 * d.pool.heads * d.pool.D * (if n 20 1 = 0 then 4 else 2)
      k ≠ 0 → n 12 4 + k ≤ size → n 16 4 + k ≤ size →
      let lo := base + min a (min (n 12 4) (n 16 4))
      let hi := base + max (a + 64) (max (n 12 4 + k) (n 16 4 + k))
      ∃ t, exec (.kvApp f) s = .next (t.owes f.c) ∧ s.Accepts t (.kvApp f) [] (some (lo, hi - lo)) none false) ∧
    (block → n 3 1 ≠ 0 ∨ 2 < n 20 1 → exec (.kvApp f) s = .next (s.withCause 8 0x66 (s.defaultInfo 0))) ∧
    (block → attnBad q = false → ∀ d u, (kvSeq (n 0 4 % 2 ^ 24)).Ok none s d u →
      let rows := n 15 1 * n 16 1
      let qof := n 20 4
      let sof := n 24 4
      let qn := rows * d.pool.D * (if n 18 1 = 0 then 4 else 2)
      let sn := 128 + rows * (128 + 4 * d.pool.D)
      let rd := (base + min a qof, max (a + 64) (qof + qn) - min a qof)
      let bank := s.core.claims.of (f.i.toNat % 2)
      let ring (r : Nat) : Prop := p.qset.getLsbD r = true ∧ (s.core.stream r).bound = true ∧
        d.pool.P * d.pool.D ≤ (s.core.stream r).pairs.capacity
      n 12 2 < d.pool.layers → n 14 1 + n 15 1 ≤ d.pool.heads → qof % 64 = 0 → sof % 128 = 0 → qof + qn ≤ size → sof + sn ≤ size →
      regionsMeet (some rd) (some (base + sof, sn)) = false → bank = (s.x.pitch % 128, 0) → s.x.pitch % 128 ≠ 0 →
      ring (n 17 1 % 16) → ring (n 17 1 / 16) → quiet (base + sof) 128 → s.core.matrixQueue.length < 8 →
      (head sof 26 1 = 0 ∨ (head sof 26 1 = 1 ∨ head sof 26 1 = 3) ∧ s.attnMatches (base + sof) q = true →
        ∃ t, exec (.kvAttn f) s = .next t ∧ s.Accepts t (.kvAttn f) [] (some rd) (some (base + sof, sn)) true) ∧
      (head sof 26 1 = 2 → exec (.kvAttn f) s = .next s)) ∧
    (block → attnBad q = true → exec (.kvAttn f) s = .next (s.withCause 8 0x70 (s.defaultInfo 0))) ∧
    let len (x : Nat) : Nat := 128 + head x 23 1 * head x 24 1 * (128 + 4 * (64 * 2 ^ (head x 25 1 % 4)))
    let good (x : Nat) : Prop := x % 128 = 0 ∧ x + 128 ≤ size ∧ x + len x ≤ size ∧ quiet (base + x) 128
    let same (o : Nat) : Prop := head a o 1 = head b o 1
    let ldim (x : Nat) : Nat := head x 25 1 % 4
    good a → good b →
      (head a 26 1 = 2 → head b 26 1 = 2 → same 23 → same 24 → ldim a = ldim b → a + len a ≤ b ∨ b + len b ≤ a →
        ∃ t, exec (.kvMerge f) s = .next t ∧ s.Accepts t (.kvMerge f) []
          (some (base + min a b, max (a + len a) (b + len b) - min a b)) (some (base + a, len a)) true) ∧
      (¬ (head a 26 1 = 2 ∧ head b 26 1 = 2 ∧ same 23 ∧ same 24 ∧ ldim a = ldim b) →
        exec (.kvMerge f) s = .next (s.withCause 8 0x71 (s.defaultInfo 0))))

/-- 13 R288 to R290, R292, R293, R295, R296, 14 R319: what the commands do to descriptors: kv.seal commits and stamps, kv.len
and kv.pos deliver, kv.pin and kv.unpin count within 255, kv.class sets the class, kv.grant pushes a free frame onto its list.
kv.fork copies the blocks up to Lc into the target and counts each frame once more, or fails on the target that its conditions
refuse; kv.free counts each frame from the last block down once less and frees those at zero after the descriptor is cut;
kv.undo sets Lt and the fill of each block from Lc on. The ends of transits: a drop rung leaves a frame of no present token at
rung and home; a move to a format reads every present vector, and writes its values in the target format at the target home; a
trim moves the vectors of the tokens that survive to the first slots of every layer, and survivor follows. The spare of a lend
takes tier 2 with its lender (R300). A command that waits for nothing is carried out in one step (log 40), and kv.class past the
last block fails with kv-position (log 41): the model's choice. -/
def Obligations.KvCommandsDo : Prop :=
  (∀ (s : State) (c : Cmd) (w : Option Nat), s.NoneWaiting →
    (∀ d pa, (kvSeq (c.arg 0 % 2 ^ 24)).Ok w s d s → s.Mapped d.va 128 pa w → s.keyId ≠ 0 → ∃ t, (kvSealBody c).Ok w s .done t ∧
      s.SameOutside t pa 40 ∧ t.memNat pa 4 = d.Lt ∧ t.memNat (pa + 4) 4 = d.Lt ∧ t.memNat (pa + 8) 4 = d.nblk ∧
      t.memNat (pa + 32) 8 = s.gtc.toNat ∧ ∀ i, 12 ≤ i → i < 32 → t.memNat (pa + i) 1 = s.memNat (pa + i) 1) ∧
    (∀ d, (kvSeq (c.arg 0 % 2 ^ 24)).Ok w s d s →
      (kvLenBody c false).Ok w s .done (s.deliver c (BitVec.ofNat 64 d.Lc)) ∧
      (kvLenBody c true).Ok w s .done (s.deliver c (BitVec.ofNat 64 d.Lt)) ∧
      let t := c.arg 1 % 2 ^ 32
      (d.nblk ≤ t / d.pool.P → (kvPosBody c).Ok w s .done (s.deliver c (BitVec.allOnes 64))) ∧
      ∀ id f, t / d.pool.P < d.nblk → (kvBlock d (t / d.pool.P)).Ok w s id s → (kvFrame id).Ok w s f s →
        ∃ v : Dword, (kvPosBody c).Ok w s .done (s.deliver c v) ∧ (v.extractLsb' 0 32).toNat = f.id ∧
          (v.extractLsb' 32 8).toNat = f.slot (t % d.pool.P) ∧ (v.extractLsb' 40 3).toNat = f.tier ∧
          v.extractLsb' 43 19 = 0#19 ∧ (v.getLsbD 62 = true ↔ d.Lc ≤ t) ∧ v.getLsbD 63 = f.present (t % d.pool.P)) ∧
    (∀ f pa, (kvFrame (c.arg 0)).Ok w s f s → s.Mapped (f.pool.fdt + 32 * f.idx) 32 pa w →
      f = fdescOf f.id f.pool (s.pkg.reads s.keyId pa 32) →
      (f.pins < 255 → ∃ t, (kvPinBody c true).Ok w s .done t ∧ s.FrameBecomes t pa { f with pins := f.pins + 1 }) ∧
      (0 < f.pins → ∃ t, (kvPinBody c false).Ok w s .done t ∧ s.FrameBecomes t pa { f with pins := f.pins - 1 }) ∧
      (f.pins = 255 → (kvPinBody c true).Fails w s (0x64, none) s) ∧ (f.pins = 0 → (kvPinBody c false).Fails w s (0x64, none) s)) ∧
    (∀ d, (kvSeq (c.arg 0)).Ok w s d s →
      (d.nblk ≤ c.arg 1 → (kvClassBody c).Fails w s (0x61, none) s) ∧
      (d.nblk < c.arg 1 % 2 ^ 32 → (kvFreeBody c).Fails w s (0x61, none) s) ∧
      ∀ id f pa, c.arg 1 < d.nblk → (kvBlock d (c.arg 1)).Ok w s id s → (kvFrame id).Ok w s f s →
        s.Mapped (f.pool.fdt + 32 * f.idx) 32 pa w → f = fdescOf f.id f.pool (s.pkg.reads s.keyId pa 32) →
        ∃ t, (kvClassBody c).Ok w s .done t ∧ s.FrameBecomes t pa { f with cls := c.arg 2 % 8 }) ∧
    (∀ f pa head, c.arg 2 = 1 → (kvFrame (c.arg 1 % 2 ^ 32)).Ok w s f s →
      (f.refcount ≠ 0 ∨ f.tier ≠ 4 → (kvGrantBody c).Fails w s (0x67, some (BitVec.ofNat 64 (c.arg 1 % 2 ^ 32))) s) ∧
      (s.Mapped (f.pool.fdt + 32 * f.idx) 32 pa w → s.Mapped (c.arg 0) 8 head w → head + 8 ≤ pa ∨ pa + 32 ≤ head →
        f = fdescOf f.id f.pool (s.pkg.reads s.keyId pa 32) → f.refcount = 0 → f.tier = 4 →
        let old := s.memNat head 8
        ∃ t u, s.FrameBecomes t pa { f with loc := old % 2 ^ 32 } ∧ t.Stored u head 8 (f.id + (old / 2 ^ 32 + 1) * 2 ^ 32) ∧
          (kvGrantBody c).Ok w s .done u))) ∧
  (∀ (s : State) (w : Option Nat), s.NoneWaiting →
    (∀ (f : Fdesc) (pa : Nat), s.Mapped (f.pool.fdt + 32 * f.idx) 32 pa w → f.refcount < 2 ^ 16 → f.fill < 2 ^ 7 → f.cls < 8 →
      f.tier < 8 → f.rung < 4 → f.fmt < 16 → f.readers < 2 ^ 8 → f.key < 2 ^ 12 → f.surv < 2 ^ 64 → f.loc < 2 ^ 48 →
      f.pins < 2 ^ 8 → f.used < 2 ^ 64 → ∃ t, (kvPutFrame f).Ok w s () t ∧ s.FrameBecomes t pa f) ∧
    (∀ (d : Seq) (pa : Nat), s.Mapped d.va 12 pa w → d.Lc < 2 ^ 32 → d.Lt < 2 ^ 32 → d.nblk < 2 ^ 32 →
      ∃ t, (kvPutSeq d).Ok w s () t ∧ s.Stored t pa 12 (d.Lc + d.Lt * 2 ^ 32 + d.nblk * 2 ^ 64)) ∧
    ∀ (d : Seq) (b id pa : Nat), s.Mapped (d.bt + 4 * b) 4 pa w → ∃ t, (kvPutBlock d b id).Ok w s () t ∧ s.Stored t pa 4 id) ∧
  (∀ (c : Cmd) (w : Option Nat) (s r : State) (d : Seq) (u : Nat → State) (t : State),
    let block (e : Seq) (x y : State) (b : Nat) (g : Fdesc → Fdesc) (p : Fdesc → Prop) : Prop :=
      ∃ id f m n, (kvBlock e b).Ok w x id m ∧ (kvFrame id).Ok w m f n ∧ p f ∧ (kvPutFrame (g f)).Ok w n () y
    ((kvSeq (c.arg 0)).Ok w s d r →
      let k := (d.Lc + d.pool.P - 1) / d.pool.P
      ∀ e x, (kvSeq (c.arg 1)).Ok w r e x →
        (e.nblk ≠ 0 → (kvForkBody c).Fails w s (0x60, some (BitVec.ofNat 64 (c.arg 1))) x) ∧
        (e.nblk = 0 → e.pool.id ≠ d.pool.id → (kvForkBody c).Fails w s (0x66, some (BitVec.ofNat 64 (c.arg 1))) x) ∧
        (e.nblk = 0 → e.pool.id = d.pool.id → e.cap < k →
          (kvForkBody c).Fails w s (0x69, some (BitVec.ofNat 64 (c.arg 1))) x) ∧
        ∀ ids (v : Nat → State), e.nblk = 0 → e.pool.id = d.pool.id → k ≤ e.cap →
          ((List.range k).mapM (kvBlock d)).Ok w x ids (u 0) →
          (∀ b < k, ∃ f m, (kvFrame (ids.getD b 0)).Ok w (u b) f m ∧ f.refcount < 65535 ∧
            (kvPutFrame { f with refcount := f.refcount + 1 }).Ok w m () (u (b + 1))) →
          v 0 = u k → (∀ b < k, (kvPutBlock e b (ids.getD b 0)).Ok w (v b) () (v (b + 1))) →
          (kvPutSeq { e with Lc := d.Lc, Lt := d.Lc, nblk := k }).Ok w (v k) () t → (kvForkBody c).Ok w s .done t) ∧
    ((kvSeq (c.arg 0)).Ok w s d (u 0) → ∀ (frees : Nat → List Nat),
      let m := c.arg 1 % 2 ^ 32
      let n := d.nblk - m
      let l := (List.range n).flatMap frees
      m ≤ d.nblk →
      (∀ i < n, block d (u i) (u (i + 1)) (d.nblk - 1 - i) (fun f => { f with refcount := f.refcount - 1 })
        fun f => f.refcount ≠ 0 ∧ frees i = if f.refcount = 1 then [f.id] else []) →
      (kvPutSeq { d with nblk := m, Lt := min d.Lt (m * d.pool.P), Lc := min d.Lc (m * d.pool.P) }).Ok w (u n) () t →
      (l = [] → (kvFreeBody c).Ok w s .done t) ∧
      (l ≠ [] → (kvFreeBody c).Ok w s (.wait (4 :: t.gtc.toNat :: 0 :: 0 :: l)) t)) ∧
    ((kvSeq (c.arg 0 % 2 ^ 24)).Ok w s d r → (kvPutSeq { d with Lt := d.Lc }).Ok w r () (u 0) →
      (∀ b < d.nblk, (b < d.Lc / d.pool.P → u (b + 1) = u b) ∧
        (d.Lc / d.pool.P ≤ b → block d (u b) (u (b + 1)) b (fun f => { f with fill := min d.pool.P (d.Lc - b * d.pool.P) })
          fun _ => True)) →
      (kvUndoBody c).Ok w s .done (u d.nblk))) ∧
  (∀ (s : State) (f : Fdesc) (pa : Nat) (w : Option Nat), s.NoneWaiting → s.Mapped (f.pool.fdt + 32 * f.idx) 32 pa w →
    f = fdescOf f.id f.pool (s.pkg.reads s.keyId pa 32) →
    (∀ rung fmt, rung < 4 → f.pool.rung f.cls rung = some (4, fmt) → f.home < 2 ^ 48 → f.pool.hfmt < 16 → ∃ t,
      (s.countPool f.pool.id 2 1).FrameBecomes t pa { f with surv := 0, tier := 0, fmt := f.pool.hfmt, rung := rung, loc := f.home } ∧
      (kvMove f rung).Ok w s () t) ∧
    (∀ rung tier fmt, rung < 4 → f.pool.rung f.cls rung = some (tier, fmt) → tier ≤ 1 → s.keyId ≠ 0 → f.fill ≤ f.pool.P →
      let home := if tier = 0 then f.home else f.cxlHome
      let p := f.pool
      let held (t : State) (base fm l kv sl h : Nat) : List Byte × List Byte :=
        (t.pkg.reads s.keyId (base + p.vecOff fm l kv sl h) (p.vecLen fm), t.pkg.reads s.keyId (base + p.scaleOff fm l kv sl h) (p.scaleLen fm))
      home + p.S ≤ 2 ^ 48 → pa + 32 ≤ home ∨ home + p.S ≤ pa →
      (∀ a n, f.loc ≤ a → a + n ≤ f.loc + p.S → s.physFault a n = none) →
      (∀ a n, home ≤ a → a + n ≤ home + p.S → s.physWriteFault a n = none) →
      ∃ t, (kvMove f rung).Ok w s () t ∧
        fdescOf f.id p (t.pkg.reads t.keyId pa 32) =
          { f with tier := tier, fmt := fmt, rung := rung, loc := home, key := s.keyId } ∧
        (∀ l < p.layers, ∀ kv < 2, ∀ sl < f.slots, ∀ h < p.heads, let x := held s f.loc f.fmt l kv sl h
          held t home fmt l kv sl h = vecEnc fmt (vecVals f.fmt x.1 x.2)) ∧
        (∀ a, a < home ∨ home + p.S ≤ a → a < pa ∨ pa + 32 ≤ a → t.pkg.read s.keyId a = s.pkg.read s.keyId a) ∧
        t.core = s.core ∧ t.part = s.part ∧ t.x = s.x) ∧
    (∀ c, s.keyId ≠ 0 → f.fill ≤ f.pool.P → f.pool.hfmt < 2 → pa + 32 ≤ f.loc ∨ f.loc + f.pool.S ≤ pa →
      (∀ a n, f.loc ≤ a → a + n ≤ f.loc + f.pool.S → s.physFault a n = none ∧ s.physWriteFault a n = none) →
      let keep := (List.range f.fill).filter fun o => f.present o && (c.arg 2).testBit o
      let n := f.pool.heads * f.pool.vecLen f.pool.hfmt
      let at_ (i slot : Nat) : Nat := f.loc + (i * f.pool.P + slot) * n
      ∃ t, (kvTrimEnd c f).Ok w s () t ∧
        fdescOf f.id f.pool (t.pkg.reads t.keyId pa 32) =
          { f with surv := f.surv &&& (c.arg 2 ||| (2 ^ 64 - 2 ^ f.fill)), tier := 0 } ∧
        (∀ i < 2 * f.pool.layers, ∀ k < keep.length,
          t.pkg.reads t.keyId (at_ i k) n = s.pkg.reads s.keyId (at_ i (f.slot (keep.getD k 0))) n) ∧
        (∀ a, a < f.loc ∨ f.loc + f.pool.S ≤ a → a < pa ∨ pa + 32 ≤ a → t.pkg.read t.keyId a = s.pkg.read s.keyId a) ∧
        t.core = s.core ∧ t.part = s.part ∧ t.x = s.x) ∧
    (∀ c dev remote, (kvFrame (c.arg 0)).Ok w s f s → dev < 2 ^ 15 → remote < 2 ^ 32 → f.pool.hfmt < 16 → ∃ t,
      (s.countPool f.pool.id 3 1).FrameBecomes t pa
        { f with tier := 2, refcount := 0, rung := 0, fmt := f.pool.hfmt, loc := dev * 2 ^ 32 + remote } ∧
      (kvLendReply c 0 dev remote).Ok w s .done (t.deliver c 0)) ∧
    (∀ c code dev remote, (kvFrame (c.arg 0)).Ok w s f s → code ≠ 0 →
      (kvLendReply c code dev remote).Ok w s .done (s.deliver c (BitVec.ofNat 64 code))))

/-- 14 R307, R308: a partial whose m is −∞ adds nothing to another one, which the merge gives unchanged; the merge does not
depend on the order of its sides, and a NaN in m on either side makes a row of NaNs; the fold of a unit merges its page partial
into each row of its head, with the keys and values that the causal rule leaves of the unit, and takes the unit. What the steps
do: a fold goes on with the next head's unit, or gives up the page after the last head; a staged page leaves the list and its
first unit is pushed, a CXL page after its bytes are read, a page out of transit after its entry is read again (deferred again
it keeps its place in the list); a freed frame is pushed on its pool's list, a borrowed one after its kv-return; a transit ends
with the trim or the move. 14 R303, 13 R291, R295, R297, R299, R300: the steps by which commands of the store go on: a free
engine takes the oldest waiting command and the others follow; a frame is freed, a transit ends, a unit is folded, a page is
taken up; a lend request without a reply within 100 µs of acceptance returns 3, and an unreachable lender is a kv-lend fault.
The steps in which a command goes on are the model's choice (log 40), and so are the fields of the kv-return message (log 37).
-/
def Obligations.AttentionSteps : Prop :=
  ((∀ (D : Nat) (x y : Partial), x.o.length = D → y.o.length = D →
    Partial.merge D x y = Partial.merge D y x ∧
    (x.m = 0xFF800000#32 → y.m = 0xFF800000#32 → Partial.merge D x y = ⟨0xFF800000#32, 0, List.replicate D 0⟩) ∧
    (x.m = 0xFF800000#32 → (f32v y.m).Finite → (∀ w ∈ y.l :: y.o, (f32v w).isNan = false) → Partial.merge D x y = y) ∧
    ((f32v x.m).isNan = true → Partial.merge D x y = ⟨0x7FC00000#32, 0x7FC00000#32, List.replicate D 0x7FC00000#32⟩)) ∧
  ∀ (s : State) (c : Cmd) (f : Fdesc) (pos : List (Nat × Nat)) (j : Nat), c.aQk ≠ c.aQv →
    let t := (s.foldUnit c f pos j).1
    let n := BitVec.ofNat 32 (pos.length * c.aD)
    let qk := s.core.stream c.aQk
    let qv := s.core.stream c.aQv
    let fmt := if f.fmt = 1 then 2 else 1
    let unit := pos.zip ((List.range pos.length).map fun u => (s.ringVec qk c.aD u, s.ringVals qv c.aD u f.fmt))
    let page (q : Nat) : Partial × Nat × Bool := pagePartial c.aD f.fmt fmt (s.query c fmt (j * c.aNq + q))
      ((unit.filter fun x => c.reqField 32 1 % 2 = 0 || decide (x.1.1 ≤ c.reqField 28 4 + q)).map (·.2))
    t.core.stream c.aQk = { qk with head := qk.head + n } ∧ t.core.stream c.aQv = { qv with head := qv.head + n } ∧
    (∀ q < c.aNq, let r := j * c.aNq + q
      t.attnRow c.aState c.aD r = Partial.merge c.aD (s.attnRow c.aState c.aD r) (page q).1) ∧
    ((s.foldUnit c f pos j).2 = true ↔ ∃ q < c.aNq, (page q).2.2 = true) ∧
    (∀ r, r < j * c.aNq ∨ (j + 1) * c.aNq ≤ r → t.attnRow c.aState c.aD r = s.attnRow c.aState c.aD r) ∧
    t.pkg = s.pkg ∧ t.part = s.part ∧ t.x = { s.x with unseen := t.x.unseen } ∧
    ∀ a, a < c.aState + 128 → Map.get 0 t.core.pad a = Map.get 0 s.core.pad a) ∧
  (∀ (s : State) (c : Cmd) (a : Attn) (w : Option Nat), s.core.cmd c.id = some c → c.att = some a →
    let keeps (t : State) (b : Attn) : Except KvErr KvNext × State := (.ok (.wait c.st), t.putCmd { c with att := some b })
    let goes (b : Attn) : Kv KvNext := do kvAttnKeep c (← kvAttnGo c c.walkFuel b)
    (∀ pg j, a.cur = some (pg, j, true) →
      let f := pageFrame pg
      let pos := pagePositions c a.lim pg.block f
      let r := s.foldUnit c f pos j
      let b : Attn := { a with nan := a.nan || r.2, cur := some (pg, j + 1, false) }
      (kvAttnFold c).run w s = (goes b).run w r.1 ∧
      (∀ t, pos ≠ [] → j + 1 < c.aNh → r.1.pushUnit c pg f pos (j + 1) = some t →
        (kvAttnFold c).run w s = keeps t { b with cur := some (pg, j + 1, true) }) ∧
      (∀ t, c.aNh ≤ j + 1 → (kvLeave pg.frame).Ok w (r.1.putCmd { c with att := some { b with cur := none } }) () t →
        (kvAttnFold c).run w s = keeps t { b with cur := none })) ∧
    (∀ blk, (∀ pg ∈ s.stagedPages c a, pg.block ≠ blk) → (kvAttnStaged c blk).run w s = (.ok (.wait c.st), s)) ∧
    ∀ blk pg, (s.stagedPages c a).find? (fun p => p.block = blk) = some pg →
      let b : Attn := { a with listed := a.listed.erase pg }
      let takes (q : Page) (u : State) : Prop :=
        (kvAttnStaged c blk).run w s = (goes { b with cur := some (q, 0, false) }).run w u ∧
        ∀ t, pagePositions c a.lim q.block (pageFrame q) ≠ [] → 0 < c.aNh →
          u.pushUnit c q (pageFrame q) (pagePositions c a.lim q.block (pageFrame q)) 0 = some t →
          (kvAttnStaged c blk).run w s = keeps t { b with cur := some (q, 0, true) }
      (pg.transit = false → pg.bytes.isSome = true → takes pg s) ∧
      (pg.transit = false → pg.bytes = none → ∀ l u, (stagePage c (pageFrame pg)).Ok w s l u → takes { pg with bytes := some l } u) ∧
      (pg.transit = true → ∀ d u, (kvVisit c b pg.block).Ok w s d u → 
        (kvAttnStaged c blk).run w s = (goes (d.putBack a.listed pg)).run w u)) ∧
  (∀ (s u : State) (c : Cmd) (f : Fdesc) (w : Option Nat),
    (c.phase = 4 → (kvFrame (c.st.getD 4 0)).Ok w s f s →
      let sent := (s.sendMsg (s.engineMsg f.peer 5 [f.remote] [])).countPool f.pool.id 4 1
      (f.tier ≤ 1 ∧ (kvPush f.pool.flist f).Ok w s () u) ∨
        (f.tier = 2 ∧ s.isPeer f.peer = true ∧ (kvPush f.pool.flist f).Ok w sent () u) →
      (∀ id l, c.st.drop 5 = id :: l → (kvFreeOne c).Ok w s (.wait (4 :: u.gtc.toNat :: c.st.getD 2 0 :: c.st.getD 3 0 :: id :: l)) u) ∧
      (c.st.drop 5 = [] → c.st.getD 2 0 = 0 → (kvFreeOne c).Ok w s .done u) ∧
      (c.st.drop 5 = [] → c.st.getD 2 0 ≠ 0 → ∃ i, (kvFreeOne c).Fails w s (c.st.getD 2 0, i) u)) ∧
    ((kvFrame (c.st.getD 2 0)).Ok w s f s →
      (∀ g, c.op = .kvTrim g → (kvTrimEnd c f).Ok w s () u → (kvTransitEnd c).Ok w s .done u) ∧
      ((∀ g, c.op ≠ .kvTrim g) → (kvMove f (c.st.getD 3 0)).Ok w s () u → (kvTransitEnd c).Ok w s .done u))) ∧
  (∀ (s : State) (c : Cmd) (id : Nat), s.core.cmd id = some c → c.isKv = true →
    (∀ k, s.kvWaiting = some c → s.freeEngine = some k → exec .pweAssign s =
      .next ({ s with die := { s.die with pwe := s.die.pwe ++ [(k, id)], pweLast := s.core.num } } : State).kvGoAll) ∧
    (s.transitOver c = true → exec (.kvTransitEnd id) s = .next (s.kvRun c (kvTransitEnd c)).kvGo) ∧
    (c.unitReady = true → exec (.attnUnitFold id) s = .next (s.kvRun c (kvAttnFold c)).kvGo) ∧
    (∀ b, s.pageReady c = true → exec (.attnPageStaged id b) s = .next (s.kvRun c (kvAttnStaged c b)).kvGo) ∧
    (∀ fid, (∀ k ∈ s.core.cmds, k.st.getD 4 0 = fid → k.phase = 4 → k = c) → c.st.getD 4 0 = fid → s.freeable c = true →
      exec (.kvFrameFree fid) s = .next (s.kvRun c (kvFreeOne c)).kvGo) ∧
    (∀ f, c.op = .kvLend f → c.phase = 0 ∨ c.phase = 6 → c.since + 100000 ≤ s.gtc.toNat →
      exec (.kvLendTimeout id) s = .next (((s.deliver c 3).freePwe c).endCmd c).kvGo) ∧
    (c.phase = 1 ∨ c.phase = 2 ∨ c.phase = 8 ∨ (c.phase = 3 ∧ c.st.length ≤ 5) → c.att = none → s.portTo 0 = none ∨ c.since + 100000 ≤ s.gtc.toNat →
      exec (.lenderUnreachable id) s = .next (s.kvStop c (0x68, none)).kvGo) ∧
    (c.phase = 0 → s.pageLost c = true → exec (.lenderUnreachable id) s = .next (s.kvStop c (0x72, none)).kvGo))

/-- 13 R297 to R300, 17 R357: the messages of lending: a request is answered with a code and a frame, a kv-read with the bytes
of the lent frame, a kv-write is performed, changing no other byte, and acknowledged, a kv-return frees the frame; what a
command waits for lets it go on, a grant that comes 100 µs after the acceptance of its kv.lend is returned and counted, a
kv-return held for a lender that is reached again is sent and counted, and an answer that comes 100 µs after a command began to
wait for it, or later, lets nothing go on (R299). What the lender does: a request takes the first frame of llist, whose
descriptor takes tier 3 with the borrower and its frame, or is answered with code 2 (no such geometry) or 1 (an empty list); a
kv-return pushes the frame on llist with tier 4. What an answer lets a command do: a split goes on to copy its slots, or to end;
an append sets fill, used and Lt; a kv.ret stores the slots, takes tier 0 and sends the kv-return. The model's choices: the
fields of these messages and the key id of the frames lent to a device (log 37); that a kv-read or a kv-write that meets a line
that fails its code is logged and not answered, that a lend request whose serving faults is logged and answered 1, and that one
that meets no partition is answered 2 (log 57). -/
def Obligations.LendingMessages : Prop :=
  (∀ (s t : State) (m : Msg),
    let reply (u : State) (kind : Nat) (x : List Nat) (pay : List Byte) : State := u.sendMsg (u.engineMsg m.sdev kind x pay)
    (s.takeMsg (fun x => x.kind = 2) = some (m, t) →
      (t.part.present = false → exec .lendRequestReceive s = .next (reply t 7 [2, 0, m.x.getD 8 0] [])) ∧
      (t.part.present = true → let v := if t.lendKey m.sdev = 0 then t.renewKey m.sdev else t
        (∀ code i u, (lendServe m).Ok none v (code, i) u →
          exec .lendRequestReceive s = .next (reply u 7 [code, i, m.x.getD 8 0] [])) ∧
        ∀ e u, (lendServe m).Fails none v e u →
          exec .lendRequestReceive s = .next (reply (u.logReceive e.1) 7 [1, 0, m.x.getD 8 0] []))) ∧
    (s.takeMsg (fun x => x.kind = 7) = some (m, t) →
      (∀ c f, t.core.cmd (m.x.getD 2 0) = some c → c.op = .kvLend f → c.phase = 6 → s.gtc.toNat < c.since + 100000 →
        exec .lendReplyReceive s = .next (t.kvRun c (kvLendReply c (m.x.getD 0 0) m.sdev (m.x.getD 1 0))).kvGo) ∧
      ((∀ c ∈ t.core.cmds, c.id = m.x.getD 2 0 → c.since + 100000 ≤ s.gtc.toNat) →
        exec .lendReplyReceive s = .next (if m.x.getD 0 0 = 0
          then (reply t 5 [m.x.getD 1 0] []).countPool (m.x.getD 1 0 / 2 ^ 28 % 16) 4 1 else t))) ∧
    (s.takeMsg (fun x => x.kind = 5) = some (m, t) →
      (t.lentTo (m.x.getD 0 0) m.sdev = none → exec .kvReturnReceive s = .next t) ∧
      ∀ f u, t.lentTo (m.x.getD 0 0) m.sdev = some f → (kvPush f.pool.llist f).Ok none t () u → exec .kvReturnReceive s = .next u) ∧
    (s.takeMsg (fun x => x.kind = 3 && x.x.getD 0 0 = 0) = some (m, t) →
      (t.lentTo (m.x.getD 1 0) m.sdev = none → exec .kvReadReceive s = .next t) ∧
      ∀ f, t.lentTo (m.x.getD 1 0) m.sdev = some f →
        let l := msgRanges (m.x.drop 2)
        (t.lentFail m.sdev f.home l = true → exec .kvReadReceive s = .next (t.logReceive 0x46)) ∧
        (t.lentFail m.sdev f.home l = false → exec .kvReadReceive s = .next (reply t 3 (1 :: msgTail m)
          (l.flatMap fun x => t.pkg.reads (t.lendKey m.sdev) (f.home + x.1) x.2)))) ∧
    (s.takeMsg (fun x => x.kind = 3 && x.x.getD 0 0 = 1) = some (m, t) → ∀ c, t.core.cmd (m.x.getD 1 0) = some c →
      c.att = none → (c.phase = 1 ∨ c.phase = 8 → s.gtc.toNat < c.since + 100000 →
        exec .kvReadReplyReceive s = .next (t.kvRun c (kvBody c m.payload)).kvGo) ∧
      (c.since + 100000 ≤ s.gtc.toNat → exec .kvReadReplyReceive s = .next t)) ∧
    (s.takeMsg (fun x => x.kind = 4 && x.x.getD 0 0 = 0) = some (m, t) →
      (t.lentTo (m.x.getD 1 0) m.sdev = none → exec .kvWriteReceive s = .next t) ∧
      ∀ f, t.lentTo (m.x.getD 1 0) m.sdev = some f →
       let l := cutRanges (msgRanges (m.x.drop 2)) m.payload
       (t.lendStuck m.sdev f.home l = true → exec .kvWriteReceive s = .next (t.logReceive 0x46)) ∧
       (t.lendStuck m.sdev f.home l = false → ∃ u, exec .kvWriteReceive s = .next (reply u 4 (1 :: msgTail m) []) ∧
        (t.NoneWaiting → t.lendKey m.sdev ≠ 0 → ∀ o n, msgRanges (m.x.drop 2) = [(o, n)] → m.payload.length = n →
          let k := t.lendKey m.sdev
          u.pkg.reads k (f.home + o) n = m.payload ∧
          (∀ a, a < f.home + o ∨ f.home + o + n ≤ a → u.pkg.read k a = t.pkg.read k a) ∧
          (∀ j a, a / 128 < (f.home + o) / 128 ∨ (f.home + o + n - 1) / 128 < a / 128 → u.pkg.read j a = t.pkg.read j a) ∧
          u = { t with pkg := { t.pkg with
            mem := u.pkg.mem, key := u.pkg.key, live := u.pkg.live, filling := u.pkg.filling, corrupt := u.pkg.corrupt } }))) ∧
    (s.takeMsg (fun x => x.kind = 4 && x.x.getD 0 0 = 1) = some (m, t) → ∀ c, t.core.cmd (m.x.getD 1 0) = some c →
      (c.phase = 2 ∨ c.phase = 3 → s.gtc.toNat < c.since + 100000 →
        exec .kvWriteAckReceive s = .next (t.kvRun c (kvBody c [])).kvGo) ∧
      (c.since + 100000 ≤ s.gtc.toNat → exec .kvWriteAckReceive s = .next t)) ∧
    ∀ dev remote pool, s.isPeer dev = true → s.part.returns.find? (fun x => x.1 = dev) = some (dev, remote, pool) →
      let t : State := { s with part := { s.part with returns := s.part.returns.erase (dev, remote, pool) } }
      exec (.kvReturnRelease dev) s = .next ((t.sendMsg (t.engineMsg dev 5 [remote] [])).countPool pool 4 1)) ∧
  (∀ (s : State) (f : Fdesc) (pa head : Nat) (w : Option Nat), s.NoneWaiting → s.Mapped (f.pool.fdt + 32 * f.idx) 32 pa w →
    f = fdescOf f.id f.pool (s.pkg.reads s.keyId pa 32) → head + 8 ≤ pa ∨ pa + 32 ≤ head →
    let old := s.memNat head 8
    (∀ list, s.Mapped list 8 head w → ∃ t u, s.FrameBecomes t pa { f with tier := 4, loc := old % 2 ^ 32 } ∧
      t.Stored u head 8 (f.id + (old / 2 ^ 32 + 1) * 2 ^ 32) ∧ (kvPush list f).Ok w s () u) ∧
    ∀ m : Msg, s.Mapped f.pool.llist 8 head → (kvPoolRaw (m.x.getD 1 0 % 16)).Ok none s f.pool s → w = none →
      let same : Prop := f.pool.valid = true ∧ f.pool.ok = true ∧ f.pool.geometry = (m.x.drop 2).take 5
      (¬ same → (lendServe m).Ok none s (2, 0) s) ∧
      (same → old % 2 ^ 32 = 2 ^ 32 - 1 → (lendServe m).Ok none s (1, 0) s) ∧
      (same → old % 2 ^ 32 = f.id → f.id < 2 ^ 32 - 1 → m.sdev < 2 ^ 15 → m.x.getD 7 0 < 2 ^ 32 → s.keyId ≠ 0 →
        ∀ pb, s.Mapped (s.part.setup.pools + 128 * f.pool.id) 128 pb → head + 8 ≤ pb ∨ pb + 128 ≤ head →
        (kvFrame f.id).Ok none s f s → ∃ t u, s.Stored t head 8 (f.loc % 2 ^ 32 + (old / 2 ^ 32 + 1) * 2 ^ 32) ∧
          t.FrameBecomes u pa { f with tier := 3, loc := m.sdev * 2 ^ 32 + m.x.getD 7 0 } ∧ (lendServe m).Ok none s (0, f.id) u)) ∧
  (∀ (s : State) (c : Cmd) (pay : List Byte) (w : Option Nat),
    (∀ g d, c.op = .kvApp g → (kvSeq (c.reqField 0 4 % 2 ^ 24)).Ok w s d s →
      let p := d.pool
      let b := c.reqField 4 4 / p.P
      let o := c.reqField 4 4 % p.P
      let spare := c.reqField 24 4
      (∀ f, (kvSource c).Ok w s f s →
        (c.phase = 1 → (kvBody c pay).run w s = (kvSplitCopy c d f spare b o (c.reqField 4 4)
          (cutRanges (p.slotRanges f.slots) pay)).run w (s.countPool p.id 6 pay.length)) ∧
        (c.phase = 2 → (kvBody c pay).run w s = (kvSplitEnd c d f spare b o (c.reqField 4 4)).run w s)) ∧
      (c.phase = 3 → c.st.length ≤ 5 → ∀ f pa pb, (kvFrame (c.st.getD 4 0)).Ok w s f s → s.NoneWaiting →
        s.Mapped (f.pool.fdt + 32 * f.idx) 32 pa w → s.Mapped d.va 12 pb w → pa + 32 ≤ pb ∨ pb + 12 ≤ pa →
        f = fdescOf f.id f.pool (s.pkg.reads s.keyId pa 32) → o < 127 → c.reqField 4 4 + 1 < 2 ^ 32 →
        ∃ t u, s.FrameBecomes t pa { f with fill := max f.fill (o + 1), used := s.gtc.toNat } ∧
          t.Stored u pb 12 (d.Lc + max d.Lt (c.reqField 4 4 + 1) * 2 ^ 32 + d.nblk * 2 ^ 64) ∧ (kvBody c pay).Ok w s .done u)) ∧
    ∀ g f u v, c.op = .kvRet g → c.phase = 8 → (kvFrame (c.arg 0)).Ok w s f s →
      (kvWriteRanges f.home (cutRanges (f.pool.slotRanges (c.st.getD 2 0)) pay)).Ok w (s.countPool f.pool.id 6 pay.length) () u →
      (kvPutFrame { f with tier := 0, loc := f.home, key := u.keyId }).Ok w u () v → v.isPeer f.peer = true →
      (kvBody c pay).Ok w s .done ((v.sendMsg (v.engineMsg f.peer 5 [f.remote] [])).countPool f.pool.id 4 1))

/-! ## Tiles and rule table (15, 16) -/

/-- 15 R332, R334 to R337, 11 R247: at the directory, when their turn has come, tl.def and tl.def.r make a tile, tl.pin and
tl.unpin count, tl.drop leaves a recipe's tile without bytes and tl.drop.f deletes; each condition that fails is recorded for
the strand with the tile's id, and 10 R226 a descriptor that cannot be read with its cause. tl.done publishes the build of the
context, or is tile-state without one. The order of commands at the directory is the model's choice (log 44), and so is it that
the tile table is physical memory under the partition's key (log 42). -/
def Obligations.TileCommandsAtTheDirectory : Prop :=
  ∀ (f : EF) (s : State), s.NoneWaiting → s.IdsFresh → s.x.ef = none → s.ctxOf s.x.brec = some s.xn →
    let id := (s.x.sreg f.a.toNat).toNat
    let d := s.tileAt id
    let size := (s.x.sreg f.b.toNat).toNat
    let aux := s.x.sreg f.c.toNat
    let mine (k : Cmd) : Prop := k.isTile = true ∧ va56 k.strand = va56 s.x.brec ∧ k.tilePhase ≠ 2
    let turn : Prop := ∀ k ∈ s.core.cmds, ¬ (mine k ∧ k.tile = id)
    let still : Prop := s.core.copying id = false
    let exists_ : Prop := id < s.part.setup.tileCount ∧ id ≠ 0xFFFFFFFF
    let fault (n : Nat) : Option Nat := s.physFault (s.part.setup.tileTable + 32 * n) 32
    let settled (t u : State) : Prop := u = { t with core := { t.core with
      nextId := t.core.nextId + 1, cmds := u.core.cmds, micro := u.core.micro, slots := u.core.slots, pages := u.core.pages,
      codeOld := u.core.codeOld } } ∧
      u.core.cmd t.core.nextId = none
    let freed : State := { s with part := { s.part with tiles := s.part.tiles.filter fun x => x ≠ id } }
    let becomes (i : Instr) (t : State) (e : Tile) : Prop := ∃ u v, exec i s = .next v ∧ settled t u ∧ u.TileBecomes v e
    let faults (i : Instr) (code : Byte) : Prop := ∃ u, exec i s = .next u ∧ u.x.ef = some ⟨s.x.sreg f.a.toNat, code, 0⟩ ∧
      u.pkg = s.pkg
    (turn → ¬ exists_ → faults (.tlDef f) 0x90 ∧ faults (.tlPin f) 0x90 ∧ (still → faults (.tlDrop f) 0x90)) ∧
    (turn → exists_ → ∀ e, fault id = some e → ∀ i ∈ [Instr.tlDef f, .tlDefR f, .tlPin f, .tlUnpin f], ∃ u n, exec i s = .next u ∧
      u.x.ef = some ⟨n, BitVec.ofNat 8 e, 0⟩ ∧ u.pkg = s.pkg) ∧
    (turn → exists_ → fault id = none →
      (d.v = true → faults (.tlDef f) 0x91 ∧ faults (.tlDefR f) 0x91) ∧
      (d.v = false → size % 128 ≠ 0 ∨ size < 128 ∨ 2 ^ 20 < size → faults (.tlDef f) 0x92 ∧ faults (.tlDefR f) 0x92) ∧
      (d.v = false → size % 128 = 0 → 128 ≤ size → size ≤ 2 ^ 20 →
        (∀ pa ty, aux.toNat % 128 = 0 → s.translate aux true s.x.priv = (s, .ok (pa, ty)) → becomes (.tlDef f) s
          { d with st := 1, r := false, v := true, depth := 0, pins := 0, size := size, loc := pa, aux := pa, waiters := 0 }) ∧
        (aux.toNat % 64 = 0 → becomes (.tlDefR f) s { d with
          st := 2, r := true, v := true, depth := 0, pins := 0, size := size, loc := 0, aux := aux.toNat, waiters := 0 })) ∧
      (d.v = true →
        (d.pins < 65535 → becomes (.tlPin f) s { d with pins := d.pins + 1 }) ∧ (d.pins = 65535 → faults (.tlPin f) 0x94) ∧
        (0 < d.pins → becomes (.tlUnpin f) s { d with pins := d.pins - 1 }) ∧ (d.pins = 0 → faults (.tlUnpin f) 0x94) ∧
        (still → d.st = 3 → faults (.tlDrop f) 0x91 ∧ faults (.tlDropF f) 0x91) ∧
        (still → d.st ≠ 3 → 0 < d.pins → faults (.tlDrop f) 0x93 ∧ faults (.tlDropF f) 0x93) ∧
        (still → d.st ≠ 3 → d.pins = 0 →
          becomes (.tlDropF f) freed { d with v := false } ∧ (d.r = false → faults (.tlDrop f) 0x91) ∧
          (d.r = true → d.st = 2 → ∃ u, exec (.tlDrop f) s = .next u ∧ settled s u) ∧
          (d.r = true → d.st ≤ 1 → becomes (.tlDrop f) freed { d with st := 2, loc := 0 })))) ∧
    ((∀ b ∈ s.part.builds, va56 b.rec_ = va56 s.x.brec → b.done = true) ∨ s.x.rtile.getLsbD 63 = false →
      exec (.tlDone f) s = .next (s.withCause 8 0x91 (s.defaultInfo 0))) ∧
    ∀ b, s.x.rtile.getLsbD 63 = true → s.keyId ≠ 0 → fault b.tile = none → (∀ k ∈ s.core.cmds, ¬ mine k) → b.done = false → va56 b.rec_ = va56 s.x.brec →
      b ∈ s.part.builds → (∀ x ∈ s.part.builds, va56 x.rec_ = va56 s.x.brec → x = b) → b.srcs.Nodup → b.tile ∉ b.srcs →
      b.tile < 2 ^ 32 → (∀ x ∈ b.srcs, x < 2 ^ 32) →
      ∃ u, exec (.tlDone f) s = .next u ∧ u.part.builds = s.part.builds.filter (fun x => x ≠ b) ∧
        u.tileAt b.tile = { s.tileAt b.tile with st := if s.inArea (s.tileAt b.tile).loc then 0 else 1, waiters := 0 } ∧
        (∀ x ∈ b.srcs, u.tileAt x = { s.tileAt x with pins := (s.tileAt x).pins - 1 }) ∧
        ∀ k ∈ s.core.cmds, k.isTile = true → k.tile = b.tile → k.tilePhase = 2 → ∃ e ∈ u.core.cmds, e.id = k.id ∧ e.tilePhase = 1

/-- 15 R333, R334, 09 R193: tl.get and tl.put name their region and begin to copy a tile that stands in memory; a tl.get of a
tile in build waits for it; another size or state is recorded for the strand. A line of a copy moves its 128 bytes. 15 R326,
R331: a tl.get of a tile in state 2 spawns its build: beyond depth 4 it is tile-depth, without room it waits, with a recipe
record that cannot be read or is rejected it is recipe-invalid; else the tile takes state 3 with its depth, parent, one waiter
and its room, each source a pin, the record is copied to the strand area with job 0, and its strand is placed, on a free context
of the core first. 15 R324, R326: a step of the directory frees what waits for room or for a place: the first command for which
there is room now is carried out, and the oldest spawn held is placed, or stays held. The model's choices: the steps of a copy
(log 44), the place of the record, strandArea + 64 nextStrand with no place used again, and that a free context of the core
comes first (log 51). -/
def Obligations.TileCopiesAndRetries : Prop :=
  ((∀ (f : EF) (s : State) (p : Pitch), s.pitch = some p → s.NoneWaiting → s.IdsFresh → s.BoardFree → s.x.ef = none →
    s.ctxOf s.x.brec = some s.xn → s.x.wlines = [] →
    let id := (s.x.sreg f.a.toNat).toNat
    let b := (s.x.sreg f.b.toNat).toNat
    let n := (s.x.sreg f.c.toNat).toNat
    let d := s.tileAt id
    let at_ := some (p.base * 128 + b, n)
    (∀ k ∈ s.core.cmds, ¬ (k.isTile = true ∧ va56 k.strand = va56 s.x.brec ∧ k.tilePhase ≠ 2 ∧ k.tile = id)) →
    id < s.part.setup.tileCount → id ≠ 0xFFFFFFFF → s.physFault (s.part.setup.tileTable + 32 * id) 32 = none → d.v = true → b % 128 = 0 → b + n ≤ p.lines * 128 → 0 < n →
    let goes (i : Instr) (rd wr : Option (Nat × Nat)) (ph : Nat) : Prop := ∃ t c, exec i s = .next t ∧
      t.core.cmd s.core.nextId = some c ∧ c.op = i ∧ c.rd = rd ∧ c.wr = wr ∧ c.tilePhase = ph ∧ t.core.pad = s.core.pad ∧
      ∀ l, t.full l = true ↔ s.full l = true ∧ ¬ (wr ≠ none ∧ p.base * 128 + b < 128 * (l + 1) ∧ 128 * l < p.base * 128 + b + n)
    let faults (i : Instr) (code : Byte) : Prop := ∃ t, exec i s = .next t ∧ t.x.ef = some ⟨s.x.sreg f.a.toNat, code, 0⟩
    (n ≠ d.size → faults (.tlGet f) 0x92 ∧ faults (.tlPut f) 0x92) ∧
    (n = d.size → d.st ≤ 1 → goes (.tlGet f) none at_ 1 ∧ (d.r = false → goes (.tlPut f) at_ none 1)) ∧
    (n = d.size → d.st = 3 → s.x.rtile.getLsbD 63 = false → goes (.tlGet f) none at_ 2 ∧ faults (.tlPut f) 0x91) ∧
    (n = d.size → d.st = 2 ∨ d.st ≤ 1 ∧ d.r = true → faults (.tlPut f) 0x91)) ∧
  ∀ (s : State) (c : Cmd) (id line a n : Nat), s.core.cmd id = some c → s.canMove c = true → line ∈ c.tileLines →
    (∃ l ∈ c.tileLines, l ≠ line) →
    let loc := (s.tileAt c.tile).loc + 128 * line
    s.physFault loc 128 = none → s.physWriteFault loc 128 = none →
    ∃ t d, exec (.tileCopyLand id line) s = .next t ∧ t.core.cmd id = some d ∧ (∀ l, l ∈ d.tileLines ↔ l ∈ c.tileLines ∧ l ≠ line) ∧
      (c.wr = some (a, n) → a % 128 = 0 → t.full (a / 128 + line) = true ∧ t.pkg = s.pkg ∧
        t.padRead (a + 128 * line) 128 = s.pkg.reads s.keyId loc 128) ∧
      (c.wr = none → c.rd = some (a, n) → c.old = [] → s.NoneWaiting → s.keyId ≠ 0 →
        t.pkg.reads s.keyId loc 128 = s.padRead (a + 128 * line) 128 ∧ t.core.pad = s.core.pad)) ∧
  (∀ (s u v : State) (c : Cmd) (f : EF) (loc pa : Nat) (b : List Byte), c.op = .tlGet f → s.tileId c.tile = true →
    c.tile < 2 ^ 32 → s.tileFault c.tile = none →
    let d := s.tileAt c.tile
    let k := (if c.rtile.getLsbD 63 then c.rtile.toNat / 2 ^ 32 % 8 else 0) + 1
    let parent := if c.rtile.getLsbD 63 then c.rtile.toNat % 2 ^ 32 else 0xFFFFFFFF
    let srcs := recipeSources b
    d.v = true → (c.args.getD 2 0).toNat = d.size → d.st = 2 →
    (4 < k → s.carry c = s.failOn c 0x95) ∧
    (k ≤ 4 → s.allocTile d.size = (u, none) → s.carry c = u.tileWait c [3]) ∧
    (k ≤ 4 → s.allocTile d.size = (u, some loc) →
      (u.recipeBytes d.aux = (v, none) → s.carry c = v.failOn c 0x96) ∧
      (u.recipeBytes d.aux = (v, some b) → v.recipeOk b = false → s.carry c = v.failOn c 0x96) ∧
      let va := s.part.setup.strandArea + 64 * v.part.nextStrand
      let record := recordOf b
      (u.recipeBytes d.aux = (v, some b) → v.recipeOk b = true → v.NoneWaiting → v.keyId ≠ 0 → loc < 2 ^ 48 → srcs.Nodup →
        c.tile ∉ srcs → (∀ x ∈ srcs, (v.tileAt x).pins < 65535) → v.core.cmd c.id = some c → va < 2 ^ 56 → v.Mapped va 64 pa →
        (∀ x < v.part.setup.tileCount, let y := v.part.setup.tileTable + 32 * x
          pa + 64 ≤ y ∨ y + 32 ≤ pa) →
        let t := s.carry c
        let r := recordOf (t.pkg.reads t.keyId pa 64)
        t.tileAt c.tile = { d with st := 3, depth := k, parent := parent, waiters := 1, loc := loc } ∧
        (∀ x ∈ srcs, t.tileAt x = { v.tileAt x with pins := (v.tileAt x).pins + 1 }) ∧
        t.part.builds = v.part.builds ++ [⟨c.tile, BitVec.ofNat 64 va, srcs, false⟩] ∧
        t.part.nextStrand = v.part.nextStrand + 1 ∧ t.core.cmd c.id = some { c with st := [2] } ∧
        r.pc = record.pc ∧ r.regs = record.regs ∧ r.rank = record.rank ∧ r.job = 0 ∧
        (∀ n, v.freeCtx = some n → n ≠ v.xn → v.part.loaded = true → record.lines = 0 →
          (t.ctx n).status = .ready ∧ (t.ctx n).brec = BitVec.ofNat 64 va ∧ (t.ctx n).pc = record.pc ∧
          (t.ctx n).rtile.toNat = 2 ^ 63 + k * 2 ^ 32 + c.tile ∧ r.state = 1)))) ∧
  (∀ s : State,
    (∀ t, s.roomed = some t → exec .tileRoomFreed s = .next t.tileGo) ∧ (s.roomed = none → exec .tileRoomFreed s = .next s) ∧
    (∀ e l t, s.die.held = e :: l → State.placeBuild { s with die := { s.die with held := l } } e = (t, true) →
      exec .recipeSpawnRetry s = .next t) ∧
    ∀ e l t, s.die.held = e :: l → State.placeBuild { s with die := { s.die with held := l } } e = (t, false) →
      exec .recipeSpawnRetry s = .next s)

/-- 16 R344 to R347, R350 to R353: ru.cfg and ru.gen.w write the context's registers; ru.tab and ru.step enter the queue of four
with their regions after their checks, and a step's acceptance clears D; ru.gen returns the counter and D once no earlier step
of the strand is left. The order of ru.tab's checks is log 46. -/
def Obligations.RuleCommands : Prop :=
  ∀ (f : EF) (s : State),
    let a := (s.x.sreg f.a.toNat).toNat
    exec (.ruCfg f) s = .next { s with x := { s.x with ruCfg := s.x.sreg f.a.toNat } } ∧
    exec (.ruGenW f) s = .next { s with x := { s.x with ruGen := (s.x.sreg f.a.toNat).setWidth 10, ruD := false } } ∧
    (s.ctxOf s.x.brec = some s.xn → s.IdsFresh → s.x.held f.c.toNat = false →
      (∀ k ∈ s.core.cmds, va56 k.strand = va56 s.x.brec → k.isStep = false ∧ ∀ g, k.op ≠ .ruGen g) → ∃ t,
      exec (.ruGen f) s = .next t ∧ (f.c ≠ 0#5 → t.x.sreg f.c.toNat = BitVec.ofNat 64 (s.x.ruGen.toNat + 1024 * s.x.ruD.toNat)) ∧
      (∀ n, n ≠ f.c.toNat → t.x.sreg n = s.x.sreg n) ∧ t.x = { s.x with s := t.x.s } ∧ t.pkg = s.pkg) ∧
    ∀ p, s.pitch = some p → s.BoardFree → (s.core.cmds.filter Cmd.isRule).length < 4 →
      (let b := (s.x.sreg f.b.toNat).toNat
       let n := (s.x.sreg f.c.toNat).toNat
       let ok : Prop := b % 128 = 0 ∧ n % 128 = 0 ∧ 128 ≤ n ∧ n ≤ 32768 ∧ b + n ≤ 32768
       (ok → a % 128 = 0 → a + n ≤ p.lines * 128 → ∃ t, exec (.ruTab f) s = .next t ∧
         s.Accepts t (.ruTab f) [BitVec.ofNat 64 b, BitVec.ofNat 64 n] (some (p.base * 128 + a, n)) none false) ∧
       (¬ ok → exec (.ruTab f) s = .next (s.withCause 8 0x8D (s.defaultInfo 0)))) ∧
      let c := s.x.ruCfg
      let g := f.i.toNat % 256 + 1
      let x := f.i.getLsbD 9
      let w := 2 ^ (c.toNat % 4)
      let nb := c.toNat / 4 % 4
      let r := c.toNat / 16 % 4
      let u := c.getLsbD 7
      let bd := c.toNat / 2 ^ 8 % 4
      let h := c.toNat / 2 ^ 14 % 64
      let rows := c.toNat / 2 ^ 21 % 128 + 1
      let units := c.toNat / 2 ^ 28 % 2 ^ 13 + 1
      let alt := c.toNat / 2 ^ 41 % 2 ^ 21
      let size := rows * 8 * units * w
      let altn := max (if u then 0 else size) (if x then rows * 8 * units else 0)
      let ok : Prop := c.toNat < 2 ^ 62 ∧ c.toNat % 4 ≠ 3 ∧ nb ≠ 3 ∧ r ≠ 0 ∧ (nb = 0 → rows = 1) ∧ (nb ≠ 0 → r = 1) ∧
        c.toNat / 2 ^ 10 % 16 < 2 ^ w ∧ size ≤ 65536 ∧ (bd = 3 → 1 ≤ h ∧ (if u then 2 else 1) * g * r ≤ h) ∧
        (altn ≠ 0 → alt % 128 = 0 ∧ (alt + altn ≤ a ∨ a + size ≤ alt))
      let tp := p.base * 128 + a
      let ap := if altn = 0 then tp else p.base * 128 + alt
      let wr := (min tp ap, max (tp + size) (ap + altn) - min tp ap)
      (a % 128 = 0 → ok → a + size ≤ p.lines * 128 → (altn ≠ 0 → alt + altn ≤ p.lines * 128) → ∃ t args,
        exec (.ruStep f) s = .next { t with x := { t.x with ruD := false } } ∧
        s.Accepts t (.ruStep f) args (some (tp, size)) (some wr) true ∧ args.take 2 = [c, BitVec.ofNat 64 (if u then 2 * g else g)]) ∧
      (a % 128 = 0 → ¬ ok → exec (.ruStep f) s = .next (s.withCause 8 0x8C (s.defaultInfo 0))) ∧
      (a % 128 ≠ 0 → Raises (.ruStep f) s 0x41)

/-- 16 R339 to R343: what one generation does: every cell of the tile, or in chequerboard mode every cell of the half-step's
parity, takes the low bits of the table entry that its code and its neighbours' codes index, with neighbours outside read by the
boundary mode; no other cell changes. 16 R346, R347, R350, R352: the rule unit carries on with the head of its queue: a table
load copies its bytes and completes; a step sets its counter to 0 with N as it starts, then makes one generation at a time below
its target; at the target its lines fill, D is set when it was the context's last, with X the plane of the tile stands in the
alternate area (R349), and what synchronous mode leaves there without X is a free value (R343). 16 R348: a freeze, a ctxsv or a
swap stops the steps of its context: one that runs completes with its lines full, the generation reached in the tile and the
counter, and D clear below the target; one that is queued completes as well, no cell changed. 16 R345: the steps of a strand
that parks go on from one counter that no context reads. The model's choices (log 46): the steps of the unit, that a queued step
with N that is stopped leaves the counter at 0, that one stopped at its target is done, and that the ru.gens of a strand that
parks are over. -/
def Obligations.RuleGenerationsAndSteps : Prop :=
  (∀ (c : Dword) (table : List Host.Cell) (b : List Byte) (x y : Nat) (parity : Option Nat), c.toNat % 4 ≠ 3 → c.toNat / 4 % 4 ≠ 3 →
    let w := 2 ^ (c.toNat % 4)
    let width := 64 * (c.toNat / 2 ^ 28 % 2 ^ 13 + 1)
    let rows := c.toNat / 2 ^ 21 % 128 + 1
    let nb := c.toNat / 4 % 4
    let r : Int := (c.toNat / 16 % 4 : Nat)
    let bd := c.toNat / 2 ^ 8 % 4
    let fc := c.toNat / 2 ^ 10 % 16
    let cell (t : List Byte) (u v : Nat) : Nat := (t.getD (v * (width * w / 8) + u * w / 8) 0).toNat / 2 ^ (u * w % 8) % 2 ^ w
    let coord (n : Nat) (u : Int) : Option Nat :=
      if 0 ≤ u ∧ u < n then some u.toNat
      else if bd = 1 then some (u % n).toNat
      else if bd = 2 then some (if u < 0 then -1 - u else 2 * n - 1 - u).toNat
      else none
    let near (o : Int × Int) : Nat :=
      match coord width (x + o.1), coord rows (y + o.2) with
      | some u, some v => cell b u v
      | _, _ => fc
    let offs : List (Int × Int) :=
      if nb = 0 then ((List.range 7).map fun (i : Nat) => (((i : Int) - 3, 0) : Int × Int)).filter fun o => o.1 ≠ 0 ∧ o.1.natAbs ≤ r
      else if nb = 1 then [(0, -1), (-1, 0), (1, 0), (0, 1)]
      else [(-1, -1), (0, -1), (1, -1), (-1, 0), (1, 0), (-1, 1), (0, 1), (1, 1)]
    let n := offs.length
    let full : Prop := (1 + n) * w ≤ 16 ∧ c.getLsbD 6 = false
    let index (full : Bool) : Nat := if full then cell b x y * 2 ^ (n * w) +
      ((List.range n).map fun k => near (offs.getD k (0, 0)) * 2 ^ (k * w)).sum
      else cell b x y * 256 + (offs.map near).sum
    let entry (i : Nat) : Nat := (Map.get 0 table (i / 2)).toNat / 2 ^ (4 * (i % 2)) % 16
    x < width → y < rows →
    let steps : Prop := match parity with | some p => (x + y + c.toNat / 2 ^ 20 % 2) % 2 = p | none => True
    (ruNext c table b parity).length = rows * (width * w / 8) ∧
    (steps → full → cell (ruNext c table b parity) x y = entry (index true) % 2 ^ w) ∧
    (steps → ¬ full → cell (ruNext c table b parity) x y = entry (index false) % 2 ^ w) ∧
    (¬ steps → cell (ruNext c table b parity) x y = cell b x y)) ∧
  (∀ (s : State) (c : Cmd), s.core.ruHead = some c →
    (∀ f a n, c.op = .ruTab f → s.core.canRead c = true → s.core.canWrite c = true → c.ruPhase = 0 → c.rd = some (a, n) →
      c.old = [] → (c.args.getD 1 0).toNat = n → ∃ t, exec .ruStepRun s = .next t ∧
      (∀ i < n, Map.get 0 t.core.rule ((c.args.getD 0 0).toNat + i) = Map.get 0 s.core.pad (a + i)) ∧
      (∀ k, k < (c.args.getD 0 0).toNat ∨ (c.args.getD 0 0).toNat + n ≤ k → Map.get 0 t.core.rule k = Map.get 0 s.core.rule k) ∧
      t.core.cmd c.id = none) ∧
    (∀ f n, c.op = .ruStep f → s.core.canRead c = true → s.core.canWrite c = true → s.ctxOf c.strand = some n → c.ruLinked = true →
      let gen (t : State) : Nat := (t.ctx n).ruGen.toNat
      let target := c.ruTarget
      (c.st = [0, 1, 0] → c.old = [] → ∃ t d, exec .ruStepRun s = .next t ∧ t.core.cmd c.id = some d ∧ d.ruPhase = 1 ∧
        gen t = (if c.ruN then 0 else gen s) ∧ ∀ k, Map.get 0 t.core.pad k = Map.get 0 s.core.pad k) ∧
      (c.ruPhase = 1 → gen s < target → target ≤ 512 → ∃ t, exec .ruStepRun s = .next t ∧ gen t = gen s + 1 ∧
        t.padRead c.ruTile (ruSize c.ruC) = ruNext c.ruC s.core.rule (s.padRead c.ruTile (ruSize c.ruC))
          (if ruU c.ruC then some (gen s % 2) else none) ∧
        ∀ k, k < c.ruTile ∨ c.ruTile + ruSize c.ruC ≤ k → Map.get 0 t.core.pad k = Map.get 0 s.core.pad k) ∧
      (c.ruPhase = 1 → target ≤ gen s → (∀ k ∈ s.core.cmds, k.id = c.id → k = c) → ∃ t, exec .ruStepComplete s = .next t ∧
        gen t = gen s ∧ RuleStepFinished s c t c.ruX ∧
        ((∀ k ∈ s.core.cmds, k.isStep = true → va56 k.strand = va56 c.strand → k.id ≤ c.id) → (t.ctx n).ruD = true) ∧
        ∀ k ∈ s.core.cmds, k.isStep = true → va56 k.strand = va56 c.strand → c.id < k.id → (t.ctx n).ruD = (s.ctx n).ruD))) ∧
  (∀ (s t : State) (c : Cmd) (n : Nat), t = s.stopSteps n ∨ t = s.ruStop (s.ctx n).brec → c ∈ s.core.cmds → c.isStep = true →
    c.ruLinked = true → s.ctxOf (s.ctx n).brec = some n → va56 c.strand = va56 (s.ctx n).brec →
    (∀ k ∈ s.core.cmds, k.isStep = true → va56 k.strand = va56 c.strand → k = c) → (∀ k ∈ s.core.cmds, k.id = c.id → k = c) →
    let gen := (s.ctx n).ruGen.toNat
    (c.ruPhase = 1 → gen < c.ruTarget → RuleStepFinished s c t false ∧ (t.ctx n).ruGen = (s.ctx n).ruGen ∧ (t.ctx n).ruD = (s.ctx n).ruD) ∧
    (c.ruPhase = 1 → c.ruTarget ≤ gen → RuleStepFinished s c t c.ruX ∧ (t.ctx n).ruGen = (s.ctx n).ruGen ∧ (t.ctx n).ruD = true) ∧
    (c.ruPhase = 0 → RuleStepOver c t ∧ t.core.pad = s.core.pad ∧ (t.ctx n).ruD = (s.ctx n).ruD ∧
      (t.ctx n).ruGen = if c.ruN then 0 else (s.ctx n).ruGen)) ∧
  (∀ (s : State) (c : Cmd) (count : Nat), c ∈ s.core.cmds → c.isStep = true → c.ruLinked = true →
    let t := s.ruPark c.strand count
    (∃ d ∈ t.core.cmds, d.id = c.id ∧ d.ruPhase = c.ruPhase ∧ d.ruGroup = s.core.nextId ∧ t.ruCount d = count) ∧
    ∀ k ∈ t.core.cmds, va56 k.strand = va56 c.strand → ∀ f, k.op ≠ .ruGen f)

/-! ## Messages, queues and the stream-context table (17, 05 R120 to R128) -/

/-- 17 R355, R366 to R369: msg.send is accepted with its block and a scratchpad payload as read region; msg.post matches, posts
or finds the lists full; msg.cancel withdraws; msg.probe looks; msg.hnd sets an entry under privilege. Blocks that break a limit
are msg-config, endpoints that name no partition msg-endpoint. The order of the causes of a block is log 45. -/
def Obligations.MessageCommands : Prop :=
  ∀ (f : EF) (s : State) (p : Pitch), s.pitch = some p → s.BoardFree →
    let base := p.base * 128
    let size := p.lines * 128
    let a := (s.x.sreg f.a.toNat).toNat
    let q := s.padRead (base + a) 64
    let n (o k : Nat) : Nat := fieldOf q o k
    let block : Prop := a % 64 = 0 ∧ a + 64 ≤ size ∧ s.full ((base + a) / 128) = true ∧
      ∀ k ∈ s.core.cmds, k.wrDone = true ∨ regionsMeet k.wr (some (base + a, 64)) = false
    let mine (e : Nat) : Prop := s.part.present = true ∧ e ≠ 255 ∧ ∃ x ∈ s.part.setup.endpoints, x.1 = e
    let fmts := [0, 1, 2, 3, 4, 5, 9, 10, 11, 15]
    let elem (c : Nat) : Nat := if c = 15 then 1 else codeBytes c
    (block →
      (let pad := n 5 1 / 16 % 2 = 0 ∧ 0 < n 12 4
       let ok : Prop := n 0 2 % 32 < 16 ∧ n 0 2 / 32 % 32 < 16 ∧ n 0 2 / 1024 < 16 ∧ n 2 1 ≤ 254 ∧ n 3 1 ≤ 1 ∧ n 5 1 % 16 ∈ fmts ∧ n 5 1 < 128 ∧ n 6 1 ≤ 254 ∧ n 7 1 = 0 ∧
         n 12 4 ≤ 2 ^ 24 ∧ n 16 8 % elem (n 5 1 % 16) = 0 ∧ n 32 32 = 0
       (ok → mine (n 6 1) → (pad → n 16 8 + n 12 4 ≤ size) → ∃ t, exec (.msgSend f) s = .next t ∧ s.Accepts t (.msgSend f)
         [BitVec.ofNat 64 (if pad then base + n 16 8 else n 16 8), BitVec.ofNat 64 (n 24 8)]
         (some (if pad then (base + min a (n 16 8), max (a + 64) (n 16 8 + n 12 4) - min a (n 16 8)) else (base + a, 64)))
         none false) ∧
       (¬ ok → exec (.msgSend f) s = .next (s.withCause 8 0xB0 (s.defaultInfo 0))) ∧
       (ok → ¬ mine (n 6 1) → exec (.msgSend f) s = .next (s.withCause 8 0xB1 (s.defaultInfo 0)))) ∧
      (let r := s.recvOf q
       let ok : Prop := postBad q = false ∧ mine (n 16 1)
       let placed (d : Option (Nat × Nat)) : Prop :=
         (∀ m, s.part.unexp.find? (fun m => (r d).fits m) = some m → ∃ t : State, exec (.msgPost f) s = .next (t.withReturn f.c 1) ∧
           t.part.unexp = s.part.unexp.erase m ∧ (∃ l ∈ t.part.landings, l.msg = m ∧ l.recv = r d) ∧ t.x = s.x) ∧
         ((∀ m ∈ s.part.unexp, (r d).fits m = false) →
           (s.part.posted.length < 4096 + s.part.setup.postOverflow → ∃ t : State,
             exec (.msgPost f) s = .next (t.withReturn f.c (BitVec.ofNat 64 (s.part.nextRecv % 2 ^ 32 * 2 ^ 32))) ∧
             t.part = { s.part with posted := s.part.posted ++ [{ r d with id := s.part.nextRecv }], nextRecv := s.part.nextRecv + 1 } ∧
             t.x = s.x ∧ ∀ a k, d = some (a, k) → ∀ l, a < 128 * (l + 1) → 128 * l < a + k → t.full l = false) ∧
           (4096 + s.part.setup.postOverflow ≤ s.part.posted.length → exec (.msgPost f) s = .next (s.withReturn f.c 2)))
       let row := n 32 4 * elem (n 17 1 / 16)
       let span := ((n 36 4 : Int) - 1) * (BitVec.ofNat 64 (n 40 8)).toInt
       let lo : Int := n 24 8 + min 0 span
       let hi : Int := n 24 8 + max 0 span + row
       (ok → n 17 1 % 2 = 1 → placed none) ∧
       (ok → n 17 1 % 2 = 0 → 0 ≤ lo → hi ≤ size → placed (some (base + lo.toNat, (hi - lo).toNat))) ∧
       (ok → n 17 1 % 2 = 0 → lo < 0 ∨ (size : Int) < hi → Raises (.msgPost f) s 0x40) ∧
       (postBad q = true → exec (.msgPost f) s = .next (s.withCause 8 0xB0 (s.defaultInfo 0)))) ∧
      (n 0 4 < 2 ^ 23 → n 4 4 < 2 ^ 23 → mine (n 16 1) →
        let fits (m : Msg) : Bool := recvMatch (n 16 1) (n 0 4) (n 4 4) (BitVec.ofNat 32 (n 8 4)) (BitVec.ofNat 32 (n 12 4)) m
        (∀ m, s.part.unexp.find? fits = some m → exec (.msgProbe f) s =
          .next (s.withReturn f.c (BitVec.ofNat 64 (m.len + (m.sdev * 256 + m.sep) * 2 ^ 32 + 2 ^ 63)))) ∧
        ((∀ m ∈ s.part.unexp, fits m = false) → exec (.msgProbe f) s = .next (s.withReturn f.c 0)))) ∧
    (let id := (s.x.sreg f.a.toNat).toNat % 2 ^ 32
     let own (r : Recv) : Prop := r.id % 2 ^ 32 = id ∧ va56 r.strand = va56 s.x.brec
     (∀ r, s.part.posted.find? (fun r => r.id % 2 ^ 32 = id && decide (va56 r.strand = va56 s.x.brec)) = some r → ∃ t : State,
       exec (.msgCancel f) s = .next (t.withReturn f.c 0) ∧ t.part = { s.part with posted := s.part.posted.filter fun x => x.id ≠ r.id } ∧
       ∀ l, t.full l = true ↔ s.full l = true ∨ (r.lines.1 ≤ l ∧ l < r.lines.1 + r.lines.2)) ∧
     ((∀ r ∈ s.part.posted, ¬ own r) → (∃ x ∈ s.part.matched, x.1 % 2 ^ 32 = id ∧ va56 x.2 = va56 s.x.brec) →
       exec (.msgCancel f) s = .next (s.withReturn f.c 1)) ∧
     ((∀ r ∈ s.part.posted, ¬ own r) → (∀ x ∈ s.part.matched, ¬ (x.1 % 2 ^ 32 = id ∧ va56 x.2 = va56 s.x.brec)) →
       exec (.msgCancel f) s = .next (s.withReturn f.c 2))) ∧
    let va := s.x.sreg f.a.toNat
    let k := f.i.toNat % 256
    (s.x.priv = false → exec (.msgHnd f) s = .next (s.withCause 4 0xA0 (s.defaultInfo 0))) ∧
    (s.x.priv = true → va.toNat % 64 ≠ 0 → Raises (.msgHnd f) s 0x45) ∧
    (s.x.priv = true → va.toNat % 64 = 0 → ∃ t, exec (.msgHnd f) s = .next t ∧
      t = { s with part := { s.part with handlers := t.part.handlers } } ∧
      t.handlerEntry k = (if va = 0#64 then none else some (va, s.x.sreg f.b.toNat)) ∧
      ∀ j, j ≠ k → t.handlerEntry j = s.handlerEntry j)

/-- 17 R359, R361: a receive on an endpoint takes a message of it whose source and tag agree in the bits of its masks; a message
takes the receive posted first. 17 R355, R357, R359 to R361: the receive engine takes a message from the head of its port:
handed to the lists of the partition that its endpoint names, discarded with a record where none is named, matched with the
first posted receive that fits, else queued; a message for a partition that is stopped or swapped out is held, and so are all
when a cause has stopped every one (18 R383, R385); a payload joins its rendezvous; a clear-to-send releases the oldest send
whose header it answers. How a header, its payload and a clear-to-send name each other is log 38. -/
def Obligations.MessagesArriveAndMatch : Prop :=
  (∀ (r : Recv) (m : Msg), r.fits m = true ↔ m.dep = r.ep ∧
    (∀ b, r.smask.testBit b = true → (m.sdev * 256 + m.sep).testBit b = r.src.testBit b) ∧
    ∀ b < 32, r.tmask.getLsbD b = true → m.tag.getLsbD b = r.tag.getLsbD b) ∧
  (∀ (s t : State) (m : Msg),
    (s.takeMsg (fun x => decide (x.kind ≤ 1) && s.canTake x) = some (m, t) →
      (isPayload m = true → ∃ u, exec .msgArrival s = .next u ∧ u.part.posted = t.part.posted ∧ u.part.unexp = t.part.unexp ∧
        u.part.landings = t.part.landings.map fun l => if l.id = m.x.getD 0 0 ∧ l.msg.z = true ∧ l.here = false then
          { l with msg := { l.msg with payload := m.payload }, here := true } else l) ∧
      (isPayload m = false → t.endpoint m.dep = false →
        (t.pkg.otherAt m.dep = none → ∃ u e, exec .msgArrival s = .next u ∧ u.part = t.part ∧ u.pkg.log = t.pkg.log ++ [e] ∧
          e.cause = 0xB1#8) ∧
        ∀ o, t.pkg.otherAt m.dep = some o → exec .msgArrival s = .next { t with pkg := { t.pkg with
          others := t.pkg.others.map fun x => if x = o then { o with arrived := o.arrived ++ [m] } else x } }) ∧
      (isPayload m = false → t.endpoint m.dep = true →
        (∀ r, t.part.posted.find? (fun r => r.fits m) = some r → ∃ u, exec .msgArrival s = .next u ∧
          u.part.posted = t.part.posted.filter (fun x => x.id ≠ r.id) ∧ u.part.unexp = t.part.unexp ∧
          ∃ l, u.part.landings = t.part.landings ++ [l] ∧ l.recv = r ∧ l.msg = m) ∧
        ((∀ r ∈ t.part.posted, r.fits m = false) → exec .msgArrival s =
          .next { t with part := { t.part with unexp := t.part.unexp ++ [m] } }))) ∧
    (s.takeMsg (fun x => x.kind = 6) = some (m, t) →
      (∀ c, t.core.cmds.find? (fun c => c.answered m) = some c → ∃ u d, exec .ctsReceive s = .next u ∧
        u.core.cmd c.id = some d ∧ d.st = [2, m.x.getD 0 0] ∧ d.req = c.req ∧ u.part = t.part) ∧
      ((∀ c ∈ t.core.cmds, c.answered m = false) → exec .ctsReceive s = .next t))) ∧
  (∀ (s : State) (m : Msg),
    let ours : Prop := isPayload m = true ∨ s.endpoint m.dep = true
    (ours → s.part.stopped = true ∨ s.part.swapped = true → s.canTake m = false) ∧
    (¬ ours → s.part.stopped = false → s.canTake m = match s.pkg.otherAt m.dep with | some o => !o.stopped | none => true) ∧
    (∀ r, s.part.stopped = true → (∀ o ∈ s.pkg.others, o.stopped = true) → s.pkg.fatal = some r →
      r.cause = 0xBE#8 ∨ r.cause = 0xBF#8 ∨ r.src.toNat / 128 % 128 = 119 ∨ r.src.toNat / 128 % 128 = 120 → s.canTake m = false)) ∧
  (∀ (s t : State) (c : Cmd) (id : Nat), c.isSend = true → c.st.getD 0 0 = 1 → t.me = c.msgField 0 2 →
    let m := s.sendOf c [] []
    c.answered (t.engineMsg m.sdev 6 [id, m.dep, m.sep, m.kind, m.hidx, m.tag.toNat, m.len, m.fmt] []) = true)

/-- 17 R357, R366: a message leaves with the fields of its block: eagerly with its payload up to 64 KiB, and the command
completes; longer with its header first, and the command waits, with the payload after the clear-to-send; without a route the
strand records msg-route. 17 R362, R363: a raw payload lands in a scratchpad tensor row by row, its lines become full, and its
record holds the bytes, the source and the flags; bytes beyond maxlen or the tensor are dropped. The steps of a send are the
model's (log 45). -/
def Obligations.MessagesLeaveAndLand : Prop :=
  (∀ (s : State) (c : Cmd) (id : Nat), s.core.cmd id = some c → s.sendReady c = true →
    let n (o k : Nat) : Nat := fieldOf c.req o k
    let fields (m : Msg) : Prop := m.dst = n 0 2 ∧ m.dep = n 2 1 ∧ m.kind = n 3 1 ∧ m.sdev = s.me ∧ m.sep = n 6 1 ∧
      m.hidx = (if n 3 1 = 1 then n 4 1 else 0) ∧ m.tag.toNat = n 8 4 ∧ m.len = n 12 4 ∧ m.fmt = n 5 1 % 16 ∧
      (m.z = true ↔ 65536 < n 12 4)
    let sent (t : State) (m : Msg) : Prop := if m.dst = s.me then t.pkg.inbox = s.pkg.inbox ++ [m] ∧ t.pkg.outbox = s.pkg.outbox
      else t.pkg.outbox = s.pkg.outbox ++ [m] ∧ t.pkg.inbox = s.pkg.inbox
    let a := (c.args.getD 0 0).toNat
    (s.reaches (n 0 2) = true → c.st = [0, 0] → n 12 4 ≤ 65536 → n 5 1 / 16 % 2 = 0 → c.args.getD 1 0 = 0#64 → c.old = [] →
      ∃ t m, exec (.msgSendComplete id) s = .next t ∧ fields m ∧ m.payload = s.padRead a (n 12 4) ∧ sent t m ∧ t.core.cmd id = none) ∧
    (s.reaches (n 0 2) = true → c.st = [0, 0] → 65536 < n 12 4 → ∃ t m d, exec (.msgSendComplete id) s = .next t ∧ fields m ∧
      m.payload = [] ∧ m.x = [] ∧ sent t m ∧ t.core.cmd id = some d ∧ d.st = [1, 0]) ∧
    (∀ landing, s.reaches (n 0 2) = true → c.st = [2, landing] → 65536 < n 12 4 → n 5 1 / 16 % 2 = 0 → c.args.getD 1 0 = 0#64 →
      c.old = [] → ∃ t m, exec (.msgSendComplete id) s = .next t ∧ fields m ∧ m.payload = s.padRead a (n 12 4) ∧ m.x = [landing] ∧
        sent t m ∧ t.core.cmd id = none) ∧
    (s.reaches (n 0 2) = false → exec (.msgSendComplete id) s = .next (s.failCmd c 0 0xB2))) ∧
  ((∀ (s : State) (l : Landing) (k : Nat), s.part.landings.find? (fun l => l.id = k) = some l → s.landable l = true →
    let r := l.recv
    let m := l.msg
    l.handler = none → r.act = 0 → r.rec_ = 0#64 → m.fmt = 15 → r.fmt = 15 → r.glob = false → 0 < r.cnt0 →
    let n := min (min m.payload.length r.maxlen) (r.cnt0 * r.cnt1)
    let at_ (e : Nat) : Nat := r.base + (r.dest + BitVec.ofNat 64 (e % r.cnt0) + BitVec.ofNat 64 (e / r.cnt0) * r.str1).toNat
    (∀ e < n, ∀ g < n, at_ e = at_ g → e = g) →
    ∃ t, exec (.msgLandingComplete k) s = .next t ∧ (∀ e < n, Map.get 0 t.core.pad (at_ e) = m.payload.getD e 0) ∧
      (∀ x, (∀ e < n, x ≠ at_ e) → Map.get 0 t.core.pad x = Map.get 0 s.core.pad x) ∧
      (∀ j, t.full j = true ↔ s.full j = true ∨ (r.lines.1 ≤ j ∧ j < r.lines.1 + r.lines.2)) ∧
      t.part = { s.part with landings := s.part.landings.filter fun x => x.id ≠ k } ∧ t.pkg = s.pkg) ∧
  ∀ (m : Msg) (n : Nat) (bad cut : Bool), n < 2 ^ 32 → m.sep < 256 → m.sdev < 2 ^ 15 →
    let w := recordWord m n bad cut
    (w.extractLsb' 0 32).toNat = n ∧ (w.extractLsb' 32 23).toNat = m.sdev * 256 + m.sep ∧ w.extractLsb' 55 7 = 0#7 ∧
      w.getLsbD 62 = bad ∧ w.getLsbD 63 = cut)

/-- 05 R121, R122, R124, 04 R98: a wake write adds to a queue's length within its ring, or is logged; at the end of a die slice,
and not before, a remap gives the slots to the first 64 queues with work, by the rank of the head record and the age bonus,
those of equal rank by the remaps they have stood unmapped, then by number, and the others grow older; a mapped slot places the
head of its queue, or keeps it while it does not fit or no image is loaded. Each is a step of its own (log 5); what an entry
that cannot be read does is log 39. -/
def Obligations.QueuesAndDispatch : Prop :=
  (∀ (s : State) (q n : Nat) (d : QueueSetup), s.part.desc q = some d → 0 < n →
    (s.part.queue q).len + n ≤ 2 ^ d.log2 → (s.wakeQueue q n).part.queue q = { s.part.queue q with len := (s.part.queue q).len + n } ∧
      ∀ j, j ≠ q → (s.wakeQueue q n).part.queue j = s.part.queue j) ∧
  (∀ (s : State) (q n : Nat) (d : QueueSetup), s.part.desc q = some d → 2 ^ d.log2 < (s.part.queue q).len + n → 0 < n →
    (s.wakeQueue q n).part = s.part ∧ (s.wakeQueue q n).pkg.log.length = s.pkg.log.length + 1) ∧
  (∀ s : State, s.gtc.toNat < s.die.dnext.toNat → exec .dieSliceRemap s = .next s) ∧
  (∀ s : State, s.die.dnext.toNat ≤ s.gtc.toNat → (s.part.setup.queues.map (·.q)).Nodup → ∃ t, exec .dieSliceRemap s = .next t ∧
    t.die.qslots = (List.range (s.queueOrder.take 64).length).zip (s.queueOrder.take 64) ∧ t.die.dnext = s.die.dnext + s.die.dslice ∧
    (∀ q ∈ s.queueOrder.take 64, t.part.queue q = { s.part.queue q with bonus := 0, idle := 0 }) ∧
    (∀ q ∈ s.queueOrder.drop 64, t.part.queue q =
      { s.part.queue q with bonus := min 15 ((s.part.queue q).bonus + 1), idle := (s.part.queue q).idle + 1 }) ∧
    (∀ d ∈ s.part.setup.queues, (s.part.queue d.q).len = 0 →
      t.part.queue d.q = { s.part.queue d.q with idle := (s.part.queue d.q).idle + 1 }) ∧
    ∀ q, q ∉ s.part.setup.queues.map (·.q) → t.part.queue q = s.part.queue q) ∧
  (∀ s : State, (s.part.setup.queues.map (·.q)).Nodup →
    let rank (q : Nat) : Nat := match s.part.desc q with
      | some d => (recordOf (s.recBytes (d.base + 64 * ((s.part.queue q).head % 2 ^ d.log2)))).rank + (s.part.queue q).bonus
      | none => 0
    let idle (q : Nat) : Nat := (s.part.queue q).idle
    (∀ q, q ∈ s.queueOrder ↔ ∃ d ∈ s.part.setup.queues, d.q = q ∧ 0 < (s.part.queue q).len) ∧ s.queueOrder.Nodup ∧
      s.queueOrder.Pairwise fun p q => rank q < rank p ∨ (rank p = rank q ∧ (idle q < idle p ∨ (idle p = idle q ∧ p < q)))) ∧
  ∀ (s : State) (slot q : Nat) (d : QueueSetup), s.die.qslots.find? (fun x => x.1 = slot) = some (slot, q) → s.part.desc q = some d →
    (s.part.queue q).len ≠ 0 →
    let v := s.part.queue q
    let va := d.base + 64 * (v.head % 2 ^ d.log2)
    let bytes := s.recBytes va
    let r := recordOf bytes
    let gone (cause : Byte) : Prop := ∃ t e, exec (.dispatchPlace slot) s = .next t ∧ t.pkg.log = s.pkg.log ++ [e] ∧
      e.cause = cause ∧ t.part.queue q = { v with head := v.head + 1, len := v.len - 1 }
    (∀ c, s.devTry va false = .error c → gone (BitVec.ofNat 8 c)) ∧
    (bytes ≠ [] → s.recordOk r = false → gone 0xA4#8) ∧
    (bytes ≠ [] → s.recordOk r = true → s.part.loaded = false ∨ s.freeCount < r.psize + 1 + s.core.rres →
      exec (.dispatchPlace slot) s = .next s) ∧
    ∀ u, bytes ≠ [] → s.recordOk r = true → s.part.loaded = true → r.psize + 1 + s.core.rres ≤ s.freeCount →
      (s.newParty r.job (r.psize + 1)).1.placeMembers bytes r d.priv (s.newParty r.job (r.psize + 1)).2 0 (r.psize + 1) = some u →
      exec (.dispatchPlace slot) s = .next (u.setQueue q { v with head := v.head + 1, len := v.len - 1 })

/-- 05 R128: the sct ops on a valid entry: sct.arm sets next and A, sct.disarm clears A, sct.touch and sct.done set last, and
sct.done clears L; sct.read returns a dword; sct.evict, under privilege, starts the eviction of an entry that is in place. 05
R126, R127: the timer logic: an entry is due that is valid and armed, whose next launch is no later than now and that no copy or
wait holds back, the earliest first and the lowest among equals; one that is in place is launched and its next launch is a
period on; one that is evicted takes a slot for its restore, or tries again each microsecond; an armed entry with L and E clear
is quiet when now is past last and the quiet time, and starts its eviction; a copy that ends moves the state. Each is a step of
its own (log 5). 10 R226: an op on an entry whose line fails its code is integrity. The model's choices: that such an entry
counts as not valid for the timer logic (log 57), that sct.evict does not look at A, and that a copy moves no more bytes than a
slot holds (log 59). -/
def Obligations.StreamContexts : Prop :=
  (∀ (f : EF) (s : State), s.NoneWaiting →
    let i := (s.x.sreg f.a.toNat).toNat
    let e := s.sctGet i
    let at_ := s.part.setup.sct + 64 * i
    let changed (i' : Instr) (new : Sct) : Prop := ∃ t, exec i' s = .next t ∧ s.SameOutside t at_ 64 ∧ t.sctGet i = new
    let set (k : Nat) (b : Bool) : Nat := (if e.flag k then e.flags - 2 ^ k else e.flags) + (if b then 2 ^ k else 0)
    let broken : Prop := i < s.part.setup.sctCount ∧ s.integrityFail at_ = true
    let bad : Prop := s.part.setup.sctCount ≤ i ∨ e.flag 0 = false
    let unread := Host.Outcome.next (s.withCause 8 0x46 (s.defaultInfo 0))
    let unbound := Host.Outcome.next (s.withCause 8 0xA3 (s.defaultInfo 0))
    (∀ j ∈ [Instr.sctArm f, .sctDisarm f, .sctTouch f, .sctDone f, .sctRead f],
      (broken → exec j s = unread) ∧ (¬ broken → bad → exec j s = unbound)) ∧
    (¬ broken → ¬ bad → changed (.sctArm f) { e with next := (s.x.sreg f.b.toNat).toNat, flags := set 1 true } ∧
      changed (.sctDisarm f) { e with flags := set 1 false } ∧ changed (.sctTouch f) { e with last := s.gtc.toNat } ∧
      changed (.sctDone f) { e with last := s.gtc.toNat, flags := set 3 false } ∧
      exec (.sctRead f) s = .next (s.withReturn f.c (BitVec.ofNat 64 (s.memNat (at_ + 8 * (f.i.toNat % 8)) 8)))) ∧
    (s.x.priv = false → exec (.sctEvict f) s = .next (s.withCause 4 0xA0 (s.defaultInfo 0))) ∧
    (s.x.priv = true → broken → exec (.sctEvict f) s = unread) ∧
    (s.x.priv = true → ¬ broken → bad → exec (.sctEvict f) s = unbound) ∧
    (s.x.priv = true → ¬ broken → ¬ bad → e.flag 2 = true ∨ e.flag 4 = true → exec (.sctEvict f) s = .next s) ∧
    (s.x.priv = true → ¬ broken → ¬ bad → e.flag 2 = false → e.flag 4 = false → ∃ t, exec (.sctEvict f) s = .next t ∧
      t.sctGet i = { e with flags := set 4 true } ∧ t.part.sctBusy = s.part.sctBusy ++ [(i, e.state, s.gtc.toNat)])) ∧
  (∀ (s : State) (i : Nat), s.NoneWaiting →
    let e := s.sctGet i
    let set (fl k : Nat) (b : Bool) : Nat := (if fl / 2 ^ k % 2 = 1 then fl - 2 ^ k else fl) + (if b then 2 ^ k else 0)
    (∀ d pa, s.sctFirst = some i → e.flag 2 = false → e.next + e.period < 2 ^ 64 → s.part.desc e.queue = some d →
      let v := s.part.queue e.queue
      let b := s.recBytes e.tmpl
      v.len < 2 ^ d.log2 → b ≠ [] → s.devPlace (d.base + 64 * ((v.head + v.len) % 2 ^ d.log2)) 64 = some pa →
      pa + 64 ≤ s.part.setup.sct + 64 * i ∨ s.part.setup.sct + 64 * i + 64 ≤ pa → ∃ t,
      exec .streamLaunch s = .next t ∧
      t.sctGet i = { e with flags := set e.flags 3 true, last := s.gtc.toNat, next := e.next + e.period } ∧
      t.part.queue e.queue = { v with len := v.len + 1 } ∧
      t.pkg.reads t.keyId pa 64 = b.take 24 ++ natBytes 8 e.sid ++ b.drop 32) ∧
    (s.sctFirst = some i → e.flag 2 = true → (∀ x ∈ s.part.sctWait, x.1 ≠ i) →
      (∀ a l, s.part.sctFree = a :: l → ∃ t, exec .streamLaunch s = .next t ∧ t.part.sctFree = l ∧
        t.part.sctBusy = s.part.sctBusy ++ [(i, a, s.gtc.toNat)] ∧ t.sctGet i = { e with flags := set e.flags 4 true }) ∧
      (s.part.sctFree = [] → ∃ t, exec .streamLaunch s = .next t ∧ t.part.sctWait = s.part.sctWait ++ [(i, s.gtc.toNat + 1000)] ∧
        t.pkg.log.length = s.pkg.log.length + 1)) ∧
    (∀ w, s.part.sctWait.find? (fun x => decide (x.2 ≤ s.gtc.toNat)) = some (i, w) → s.part.sctFree = [] →
      exec .streamSlotRetry s = .next { s with part := { s.part with
        sctWait := s.part.sctWait.map fun x => if x = (i, w) then (i, w + 1000) else x } }) ∧
    (∀ w a l, s.part.sctWait.find? (fun x => decide (x.2 ≤ s.gtc.toNat)) = some (i, w) → s.part.sctFree = a :: l → ∃ t,
      exec .streamSlotRetry s = .next t ∧ t.part.sctFree = l ∧ t.part.sctWait = s.part.sctWait.filter (fun x => x.1 ≠ i) ∧
      t.part.sctBusy = s.part.sctBusy ++ [(i, a, s.gtc.toNat)]) ∧
    (s.sctQuietFirst = some i → ∃ t, exec .streamQuietEvict s = .next t ∧ t.sctGet i = { e with flags := set e.flags 4 true } ∧
      t.part.sctBusy = s.part.sctBusy ++ [(i, e.state, e.last + e.quiet * 1000)]) ∧
    ∀ a start, s.keyId ≠ 0 → s.part.sctBusy.find? (fun x => x.1 = i) = some (i, a, start) → s.gtc.toNat ≤ start + 20000 → a < 2 ^ 64 →
      let at_ := s.part.setup.sct + 64 * i
      let n := min e.size s.part.setup.sctSize
      (s.integrityFail at_ = false → e.flag 2 = false → s.physFault a n = none → s.physWriteFault e.back n = none →
        e.back + n ≤ at_ ∨ at_ + 64 ≤ e.back → ∃ t, exec (.streamEvictDone i) s = .next t ∧
        t.part.sctFree = s.part.sctFree ++ [a] ∧ t.part.sctBusy = s.part.sctBusy.filter (fun x => x.1 ≠ i) ∧
        t.sctGet i = { e with state := 0, flags := set (set e.flags 2 true) 4 false } ∧
        t.pkg.reads t.keyId e.back n = s.pkg.reads s.keyId a n) ∧
      (e.flag 2 = true → e.flag 1 = false → s.physFault e.back n = none → s.physWriteFault a n = none →
        a + n ≤ at_ ∨ at_ + 64 ≤ a → ∃ t, exec (.streamRestoreDone i) s = .next t ∧
        t.part.sctBusy = s.part.sctBusy.filter (fun x => x.1 ≠ i) ∧
        t.sctGet i = { e with state := a, flags := set (set e.flags 2 false) 4 false } ∧
        t.pkg.reads t.keyId a n = s.pkg.reads s.keyId e.back n)) ∧
  ∀ s : State,
    let due (i : Nat) : Prop := i < s.part.setup.sctCount ∧ (s.sctGet i).flag 0 = true ∧ (s.sctGet i).flag 1 = true ∧
      (s.sctGet i).flag 4 = false ∧ (s.sctGet i).next ≤ s.gtc.toNat ∧ ∀ x ∈ s.part.sctWait, x.1 ≠ i
    let quiet (i : Nat) : Prop := i < s.part.setup.sctCount ∧ (s.sctGet i).flag 0 = true ∧ (s.sctGet i).flag 1 = true ∧
      (∀ k ∈ [2, 3, 4], (s.sctGet i).flag k = false) ∧ (s.sctGet i).last + (s.sctGet i).quiet * 1000 < s.gtc.toNat
    (∀ i, s.sctFirst = some i ↔ due i ∧ ∀ j, due j →
      (s.sctGet i).next < (s.sctGet j).next ∨ ((s.sctGet i).next = (s.sctGet j).next ∧ i ≤ j)) ∧
    (s.sctFirst = none ↔ ∀ i, ¬ due i) ∧
    (∀ i, s.sctQuietFirst = some i ↔ quiet i ∧ ∀ j, quiet j → i ≤ j) ∧ (s.sctQuietFirst = none ↔ ∀ i, ¬ quiet i)

/-! ## Time, links and the platform (18, 25) -/

/-- 25 R437 to R440, 01 R17: at the full clock a cycle advances the GTC by 4/9 ns at the rate, less what a slewed negative step
takes, at most 1/1000; a step forward counts at once, less what remains to be absorbed; a negative one only adds to that; a step
that is not the host's to make is ignored, and the source is the host until the links are done (R447); a cycle that ends the
absorbing of a step counts for the slice and a request as any other (05 R118, R119); gtc.rate is clamped; gtc.ctl takes PE and
src, and 7 leaves src; gtc.pps latches under PE. 25 R438, R441 to R444: a measurement shows the offset of a port that is up, and
of the source sets LK once its offsets have stayed within 20 ns for a second of measurements; a link that goes down clears LK of
its source and leaves the rate; links train, are attested and keyed, or fail, with a new lending key for the pair under a key id
that nothing else has; before the BARs answer no write of the host is taken, and before step 4 of bring-up, as in recovery, no
link is trained (R446, R447); a CXL port that is down makes every access to its ranges an integrity failure. What a measurement
does to the rate within its bound is open (log 7); the cycle of a lowered clock is log 12. The model's own choices: the cycles
of bring-up, which links step 5 waits for and which is trained next (log 56), the key ids of the lending keys (log 37), and that
a step whose condition does not hold changes nothing (log 26). -/
def Obligations.TimeAndLinks : Prop :=
  (∀ (s : State), s.pkg.clock = 0 → s.pkg.gsub < nsUnits → s.gtc.toNat < 2 ^ 62 →
    -(2 ^ 20) ≤ s.pkg.grate.toInt → s.pkg.grate.toInt ≤ 2 ^ 20 →
    let time (u : State) : Nat := u.gtc.toNat * nsUnits + u.pkg.gsub
    let base : Nat := 4000 * (2 ^ 32 + s.pkg.grate.toInt).toNat
    let cut := min s.pkg.gslew (base / 1000)
    let linksDone : Prop := 5 ≤ s.pkg.stage ∨ (4 ≤ s.pkg.stage ∧
      ∀ j < 6, s.pkg.tried.getLsbD j = true ∧ (s.pkg.port j).state ≠ 1 ∧ (s.pkg.port j).state ≠ 2)
    let src := s.pkg.gctl.toNat % 8
    let host : Prop := src = 0 ∨ ¬ linksDone
    let t := s.passCycle
    (t = { s with gtc := t.gtc, pkg := { s.pkg with gsub := t.pkg.gsub, gslew := s.pkg.gslew - cut, stage := t.pkg.stage } } ∧
      (1 ≤ s.pkg.stage → s.pkg.stage < 4 → t.pkg.stage = s.pkg.stage + 1) ∧
      (s.pkg.stage = 4 → (linksDone → t.pkg.stage = 5) ∧ (¬ linksDone → t.pkg.stage = 4)) ∧
      (s.pkg.stage = 5 → let done : Prop := src = 0 ∨ s.pkg.gctl.getLsbD 3 = true
        (done → t.pkg.stage = 6) ∧ (¬ done → t.pkg.stage = 5)) ∧
      (s.pkg.stage = 0 ∨ 6 ≤ s.pkg.stage → t.pkg.stage = s.pkg.stage) ∧
      time t = time s + base - cut ∧ t.pkg.gsub < nsUnits) ∧
    exec .stepAbsorbedBySlewing s = .next (if 0 < s.pkg.gslew ∧ s.pkg.gslew ≤ base / 1000 then
      { t with core := { s.core with left := s.core.left - 1 }, x := { s.x with req := s.x.req.map (· + 1) } } else s) ∧
    exec .ppsEdge s = .next (if s.pkg.gctl.getLsbD 4 then { s with pkg := { s.pkg with gpps := s.gtc } } else s) ∧
    ∀ (v : Dword) (l : List (Nat × Dword)), s.pkg.recovery = false →
      let queued (o : Nat) (u : State) : Prop := s.pkg.hostw = (o, v) :: l ∧ u.pkg.hostw = l ∧ u.x = s.x ∧ u.core = s.core ∧
        u.part = s.part ∧ u.pkg.mem = s.pkg.mem
      let answers : Prop := 3 ≤ s.pkg.stage
      (¬ answers → ∀ i ∈ [Instr.gtcStepWrite, .gtcRateWrite, .gtcCtlWrite], exec i s = .next s) ∧
      (answers → s.pkg.hostw = (0x300018, v) :: l → ∃ u, exec .gtcStepWrite s = .next u ∧ queued 0x300018 u ∧
        (¬ host → u.gtc = s.gtc ∧ u.pkg.gsub = s.pkg.gsub ∧ u.pkg.gslew = s.pkg.gslew) ∧
        (host → v.toInt < 0 → time u = time s ∧ u.pkg.gslew = s.pkg.gslew + v.toInt.natAbs * nsUnits) ∧
        (host → 0 ≤ v.toInt → v.toNat < 2 ^ 62 →
          time u + s.pkg.gslew = time s + v.toNat * nsUnits + u.pkg.gslew ∧ u.pkg.gslew = s.pkg.gslew - v.toNat * nsUnits)) ∧
      (answers → s.pkg.hostw = (0x300010, v) :: l → ∃ u, exec .gtcRateWrite s = .next u ∧ queued 0x300010 u ∧ u.gtc = s.gtc ∧
        (¬ host → u.pkg.grate = s.pkg.grate) ∧
        (host → u.pkg.grate.toInt = max (-(2 ^ 20)) (min (2 ^ 20) (v.extractLsb' 0 32).toInt))) ∧
      (answers → s.pkg.hostw = (0x300008, v) :: l → ∃ u, exec .gtcCtlWrite s = .next u ∧ queued 0x300008 u ∧ u.gtc = s.gtc ∧
        u.pkg.gctl.getLsbD 4 = v.getLsbD 4 ∧ u.pkg.gctl.toNat % 8 = (if v.toNat % 8 = 7 then src else v.toNat % 8) ∧
        (u.pkg.gctl.toNat % 8 = src → u.pkg.gctl.getLsbD 3 = s.pkg.gctl.getLsbD 3))) ∧
  (∀ (s : State) (k : Nat),
    let p := s.pkg.port k
    let only (t : State) (q : Ltl) : Prop := t.pkg.port k = q ∧ (∀ j, j ≠ k → t.pkg.port j = s.pkg.port j) ∧ t.x = s.x ∧ t.core = s.core ∧
      t.part = s.part ∧ t.gtc = s.gtc ∧ t.pkg.mem = s.pkg.mem
    let linksDone : Prop := 5 ≤ s.pkg.stage ∨ (4 ≤ s.pkg.stage ∧
      ∀ j < 6, s.pkg.tried.getLsbD j = true ∧ (s.pkg.port j).state ≠ 1 ∧ (s.pkg.port j).state ≠ 2)
    let source : Prop := linksDone ∧ s.pkg.gctl.toNat % 8 = k + 1
    let free (i : Nat) : Prop := (s.part.present = true → s.part.setup.key.toNat ≠ i) ∧
      (∀ o ∈ s.pkg.others, o.setup.key.toNat ≠ i) ∧ (∀ x ∈ s.pkg.lkeys, x.2 ≠ i) ∧ ∀ x ∈ s.pkg.key, x.2 ≠ i
    let begun (t : State) : Prop := exec .linkBringUp s = .next t ∧ only t { p with state := 1 } ∧
      ∀ j < 8, t.pkg.tried.getLsbD j = (s.pkg.tried.getLsbD j || decide (j = k))
    (∀ off : Dword, (p.state ≠ 3 → exec (.ltlTimeMeasure k off) s = .next s) ∧
      (p.state = 3 → ∃ t, exec (.ltlTimeMeasure k off) s = .next t ∧ only t { p with toff := off } ∧
        (¬ source → t.pkg.gctl = s.pkg.gctl ∧ t.pkg.grate = s.pkg.grate) ∧
        (source → t.pkg.gctl.getLsbD 4 = s.pkg.gctl.getLsbD 4 ∧ t.pkg.gctl.toNat % 8 = k + 1 ∧
          (t.pkg.gctl.getLsbD 3 = true ↔ off.toInt.natAbs ≤ 20 ∧ 1000000 ≤ s.pkg.lkRun + 1) ∧
          t.pkg.lkRun = (if off.toInt.natAbs ≤ 20 then s.pkg.lkRun + 1 else 0) ∧
          -(2 ^ 20) ≤ t.pkg.grate.toInt ∧ t.pkg.grate.toInt ≤ 2 ^ 20))) ∧
    (∃ t, exec (.ltlLinkDown k) s = .next t ∧ only t { p with state := 0 } ∧ t.pkg.grate = s.pkg.grate ∧
      (s.pkg.gctl.toNat % 8 = k + 1 → t.pkg.gctl.getLsbD 3 = false) ∧ (s.pkg.gctl.toNat % 8 ≠ k + 1 → t.pkg.gctl = s.pkg.gctl)) ∧
    (p.state = 1 → ∀ ok, ∃ t, exec (.ltlAttest k ok) s = .next t ∧ only t { p with state := 2 } ∧ t.pkg.lkeys = s.pkg.lkeys) ∧
    (p.state = 2 → (∃ t, exec (.ltlAttest k true) s = .next t ∧ only t { p with state := 3, peer := (t.pkg.port k).peer } ∧
        (∀ dev, dev ≠ (t.pkg.port k).peer → t.lendKey dev = s.lendKey dev) ∧
        let key := t.lendKey (t.pkg.port k).peer
        (key ≠ 0 → key < 4096 ∧ free key) ∧ (key = 0 → ∀ i, 0 < i → i < 4096 → ¬ free i)) ∧
      ∃ t, exec (.ltlAttest k false) s = .next t ∧ only t { p with state := 4 } ∧ t.pkg.lkeys = s.pkg.lkeys) ∧
    (p.state ≠ 1 → p.state ≠ 2 → ∀ ok, exec (.ltlAttest k ok) s = .next s) ∧
    (s.pkg.recovery = true ∨ s.pkg.stage < 4 → exec .linkBringUp s = .next s) ∧
    (s.pkg.recovery = false → 4 ≤ s.pkg.stage → k < 6 → p.state = 0 → s.pkg.tried.getLsbD k = false →
      (∀ j < k, (s.pkg.port j).state = 0 → s.pkg.tried.getLsbD j = true) → ∃ t, begun t) ∧
    (s.pkg.recovery = false → 4 ≤ s.pkg.stage → k < 6 → p.state = 0 →
      (∀ j < 6, (s.pkg.port j).state = 0 → s.pkg.tried.getLsbD j = true) → (∀ j < k, (s.pkg.port j).state ≠ 0) → ∃ t, begun t) ∧
    ((∀ j < 6, (s.pkg.port j).state ≠ 0) → exec .linkBringUp s = .next s) ∧
    (k < 8 → ∃ t, exec (.cxlPortDown k) s = .next t ∧ t = { s with pkg := { s.pkg with cxlDown := t.pkg.cxlDown } } ∧
      (∀ j < 8, t.pkg.cxlDown.getLsbD j = (s.pkg.cxlDown.getLsbD j || decide (j = k))) ∧
      ∀ r ∈ s.part.setup.cxl, k ∈ r.2.2 → ∀ pa, r.1 ≤ pa → pa < r.1 + r.2.1 → t.integrityFail pa = true))

/-- 25 R433, R435, 05 R121, 00 R7: the host's next register write performs: a wake register of the partition, or of another one
of the package, counts its queue up; a mailbox dword is stored and reads back, and with the last dword of a die the firmware may
set the die slice (05 R122), the event-log ring (18 R384) or the dump region of 2 GiB (R386, R434), both within HBM, or fill the
list of free frames of a core again (13 R292); a store of a program there rings it too, and the ring is served in a step of its
own; a read-only register or an offset where none stands ignores it. The queues of the host's writes and of what it asks of
firmware are the model's (log 27), what firmware may do when it is rung log 50. -/
def Obligations.HostRegisterWrites : Prop :=
  (∀ (s : State) (v : Dword), s.pkg.recovery = false → s.pkg.hostw = [] →
    (∀ d < 4, ∃ u : State, s.regWrite (0x200000 + 0x1000 * d + 0xFF8) v = u ∧
      u = { s with pkg := { s.pkg with mbox := u.pkg.mbox, rings := s.pkg.rings + 1 } } ∧ u.regRead (0x200000 + 0x1000 * d + 0xFF8) = v) ∧
    (s.pkg.rings = 0 → exec .mailboxRing s = .next s) ∧
    ∀ n, s.pkg.rings = n + 1 →
      (s.pkg.fw = [] → exec .mailboxRing s = .next { s with pkg := { s.pkg with rings := n } }) ∧
      ∀ base r, s.pkg.fw = .dumpRegion base :: r → exec .mailboxRing s = .next { s with pkg := { s.pkg with
        rings := n, fw := r, dumpBase := if base + 2 ^ 31 ≤ 0xC000000000 then base else s.pkg.dumpBase } }) ∧
  ∀ (s : State) (o : Nat) (v : Dword) (l : List (Nat × Dword)), s.pkg.hostw = (o, v) :: l → s.pkg.recovery = false →
    3 ≤ s.pkg.stage →
    let t := { s with pkg := { s.pkg with hostw := l } }
    (∀ q < 4096, ∀ p < 4, o = 0x100000 + 0x10000 * p + 8 * q →
      let own : Prop := s.part.present = true ∧ p = s.part.setup.num
      (own → exec .wakeRegisterWrite s = .next (t.wakeQueue q v.toNat)) ∧
      (¬ own → (∀ x ∈ s.pkg.others, x.setup.num ≠ p) → exec .wakeRegisterWrite s = .next t) ∧
      ∀ x d, ¬ own → s.pkg.others.find? (fun x => x.setup.num = p) = some x → x.setup.queues.find? (fun d => d.q = q) = some d →
        let w := Map.get QueueSt.empty x.queues q
        (0 < v.toNat → w.len + v.toNat ≤ 2 ^ d.log2 → ∃ u y, exec .wakeRegisterWrite s = .next u ∧
          u = { t with pkg := { t.pkg with others := u.pkg.others } } ∧ u.pkg.others.find? (fun x => x.setup.num = p) = some y ∧
          Map.get QueueSt.empty y.queues q = { w with len := w.len + v.toNat } ∧
          ∀ j, j ≠ q → Map.get QueueSt.empty y.queues j = Map.get QueueSt.empty x.queues j) ∧
        (2 ^ d.log2 < w.len + v.toNat → 0 < v.toNat → ∃ u e, exec .wakeRegisterWrite s = .next u ∧ u.pkg.others = s.pkg.others ∧
          u.pkg.log = s.pkg.log ++ [e])) ∧
    (∀ d < 4, ∀ m < 512, o = 0x200000 + 0x1000 * d + 8 * m → ∃ u : State,
      u = { t with pkg := { t.pkg with mbox := u.pkg.mbox } } ∧
      (m ≠ 511 → exec .registerWrite s = .next u) ∧ (m = 511 → s.pkg.fw = [] → exec .mailboxRing s = .next u) ∧
      (∀ a r, m = 511 → s.pkg.fw = a :: r →
        let f : State := { u with pkg := { u.pkg with fw := r } }
        (∀ ns, a = .dieSlice ns → 10000 ≤ ns → ns ≤ 1000000 →
          exec .mailboxRing s = .next { f with die := { f.die with dslice := ns } }) ∧
        (∀ base k, a = .eventLog base k → 10 ≤ k → k ≤ 24 → base + 32 * 2 ^ k ≤ 0xC000000000 →
          exec .mailboxRing s = .next { f with pkg := { f.pkg with logBase := base, logSize := 2 ^ k, log := [] } }) ∧
        (∀ base, a = .dumpRegion base → base + 2 ^ 31 ≤ 0xC000000000 → exec .mailboxRing s = .next { f with pkg := { f.pkg with dumpBase := base } }) ∧
        ∀ pool core w, a = .refill pool core → (kvTopUp pool core).Ok none f () w → exec .mailboxRing s = .next w) ∧
      u.regRead o = v ∧ ∀ o', 0x200000 ≤ o' → o' < 0x204000 → o' + 8 ≤ o ∨ o + 8 ≤ o' → u.regRead o' = s.regRead o') ∧
    (o ∈ [0, 8, 0x300000, 0x300020] ∨ (0x400000 ≤ o ∧ o < 0x400600) ∨ (0x500000 ≤ o ∧ o < 0x504000) ∨ 0x504000 ≤ o ∨ o % 8 ≠ 0 →
      exec .registerWrite s = .next t) ∧
    (s.regRead 0x300000 = s.gtc ∧ s.regRead 0x300020 = s.pkg.gpps ∧ s.regRead 0x300018 = 0#64 ∧
      (s.regRead 0).toNat = s.pkg.pos.toNat + 0x4C000000 ∧
      ∀ k < 6, (s.regRead (0x400000 + 0x100 * k)).toNat % 8 = (s.pkg.port k).state % 8 ∧
        s.regRead (0x400008 + 0x100 * k) = (s.pkg.port k).toff)

/-- 25 R442, R445 to R447, 01 R13, R26, 15 R328, 17 R359, R360, 04 R98, 05 R116, 10 R227: a reset puts contexts, core,
partition, links and time back and clears what the package's memories hold; firmware creates a partition on a legal die set that
no other one has, with limits kept, its tables in its carve, its overflow range in HBM, its rings 64-byte aligned, endpoints
that no other one has and a key id of 1 to 4,095 that nothing else has, once bring-up has come to it, be it of the core's die or
of others, and destroys it with every region that holds a line of it not live; an image is loaded and bound while no strand of
the partition runs or is parked, unless the loader rejects it. The model's own choices: the values at reset where no rule gives
one (log 3, log 4); what becomes of host memory at a reset, and of the carve and of CXL bytes at the end of a partition, and
that the core's partition has every key id that no other one has (log 29); what the loader counts as a run too long, a window
that the image lacks, and that a record in the ready list holds a load back (log 55); bring-up (log 56); a request that firmware
does not fulfil changes nothing (log 26). -/
def Obligations.ResetPartitionsAndImages : Prop :=
  (∀ (s : State) (a b : Bool), ∃ t, exec (.deviceReset a b) s = .next t ∧ (∀ n < 8, t.ctx n = emptyCtx) ∧ t.part = emptyPart ∧
    t.core = { resetCore with die := s.core.die, num := s.core.num } ∧ t.die = resetDie ∧ t.gtc = 0#64 ∧ t.run = false ∧
    t.pkg.live = [] ∧ t.pkg.ltl = [] ∧ t.pkg.log = [] ∧ t.pkg.gctl = 0#5 ∧ t.pkg.fatal = none ∧ t.pkg.recovery = !(a && b) ∧
    t.pkg.key = [] ∧ t.pkg.lkeys = [] ∧ t.pkg.others = [] ∧ t.pkg.tried = 0#8 ∧ t.pkg.stage = (if a && b then 1 else 0) ∧
    ∀ x, Map.get 0 t.pkg.mem x = if 0x400000000000 ≤ x ∧ x < 0x800000000000 then Map.get 0 s.pkg.mem x else 0#8) ∧
  (∀ (s : State) (p : PartSetup),
    let linksDone : Prop := 5 ≤ s.pkg.stage ∨ (4 ≤ s.pkg.stage ∧
      ∀ j < 6, s.pkg.tried.getLsbD j = true ∧ (s.pkg.port j).state ≠ 1 ∧ (s.pkg.port j).state ≠ 2)
    let broughtUp : Prop := 6 ≤ s.pkg.stage ∨ (linksDone ∧
      (s.pkg.gctl.toNat % 8 = 0 ∨ s.pkg.gctl.getLsbD 3 = true))
    let given (d : Nat) : Nat := match p.ways.find? fun x => x.1 = d with | some x => x.2 | none => 0
    let carve (d a n : Nat) : Prop := n = 0 ∨ (0xC000000000 + d * 2 ^ 30 ≤ a ∧ a + n ≤ 0xC000000000 + d * 2 ^ 30 + given d * 2 ^ 27)
    let lowest (d : Nat) : Prop := p.dies.getLsbD d = true ∧ ∀ j < d, p.dies.getLsbD j = false
    let some_ (a n : Nat) : Prop := ∃ d < 4, p.dies.getLsbD d = true ∧ carve d a n
    let placed : Prop := (∀ d < 4, lowest d → carve d p.tileTable (32 * p.tileCount) ∧ carve d p.tileArea p.tileAreaSize) ∧
      p.tileOvf + p.tileOvfSize ≤ 0xC000000000 ∧ some_ p.sct (64 * p.sctCount) ∧ ∀ a ∈ p.sctSlots, some_ a p.sctSize
    let known : Prop := (p.endpoints.map (·.1)).Nodup ∧ ∀ x ∈ p.endpoints, x.1 < 255 ∧ (∀ n, x.2 = .core n → n < 384) ∧
      ∀ q, x.2 = .queue q → ∃ d ∈ p.queues, d.q = q
    let limits : Prop := placed ∧ known ∧ p.num < 4 ∧ p.dies.toNat ∈ [1, 2, 4, 8, 3, 12, 15] ∧ 1 ≤ p.key.toNat ∧ (∀ w ∈ p.ways, w.2 ≤ 8) ∧
      p.tileCount ≤ 2 ^ 20 ∧ p.sctCount ≤ 65536 ∧ (∀ q ∈ p.queues, q.q < 4096 ∧ q.base % 64 = 0 ∧ 4 ≤ q.log2 ∧ q.log2 ≤ 16) ∧
      p.postOverflow ≤ 2 ^ 20 ∧ 2 ^ 20 ≤ p.unexpPool ∧ p.unexpPool ≤ 2 ^ 32 ∧ p.unexpPool % 2 ^ 20 = 0 ∧
      ∀ r ∈ p.cxl, r.1 % 2 ^ 28 = 0 ∧ r.2.1 % 2 ^ 28 = 0 ∧ 0x010000000000 ≤ r.1 ∧ r.1 + r.2.1 ≤ 0x400000000000 ∧
        r.2.2.length ∈ [1, 2, 4, 8] ∧ ∀ k ∈ r.2.2, k < 8
    let apart (q : PartSetup) : Prop := q.num ≠ p.num ∧ q.dies &&& p.dies = 0#4 ∧ q.key ≠ p.key ∧
      ∀ x ∈ q.endpoints, ∀ y ∈ p.endpoints, x.1 ≠ y.1
    let legal : Prop := s.pkg.recovery = false ∧ broughtUp ∧ limits ∧ (∀ x ∈ s.pkg.lkeys, x.2 ≠ p.key.toNat) ∧
      (∀ x ∈ s.pkg.key, x.2 ≠ p.key.toNat) ∧
      (s.part.present = true → apart s.part.setup) ∧ ∀ o ∈ s.pkg.others, apart o.setup
    let stored (t : State) : State := p.tables.foldl (fun u x =>
      ({ u with pkg := (u.pkg.writes p.key.toNat x.1 x.2).heal x.1 x.2.length }).fireLines x.1 x.2.length) t
    (legal → ∃ t, exec (.partitionCreate p) s = .next (stored t) ∧ t.x = s.x ∧
      (p.dies.getLsbD s.core.die = true → t.part = { emptyPart with present := true, setup := p, sctFree := p.sctSlots } ∧
        t.core = { s.core with rres := if 1 ≤ p.reserve ∧ p.reserve ≤ 16 then p.reserve else 4 } ∧ t.pkg.counters = [] ∧
        t.pkg.others = s.pkg.others) ∧
      (p.dies.getLsbD s.core.die = false → t.part = s.part ∧ t.core = s.core ∧ t.die = s.die ∧
        t.pkg.others = s.pkg.others ++ [⟨p, [], [], false, []⟩]) ∧
      (∀ d < 4, t.pkg.waysOf d = if p.dies.getLsbD d then given d else s.pkg.waysOf d) ∧
      t.pkg.stage = 7 ∧ t.pkg.mem = s.pkg.mem ∧ t.pkg.key = s.pkg.key ∧ t.pkg.live = s.pkg.live) ∧
    (¬ legal → exec (.partitionCreate p) s = .next s)) ∧
  (∀ s : State, (∀ num r, s.pkg.fw ≠ .destroy num :: r) → exec .partitionDestroy s = .next s) ∧
  (∀ (s : State) (num : Nat) (r : List FwAct), s.pkg.fw = .destroy num :: r →
    let own : Prop := s.part.present = true ∧ s.part.setup.num = num
    let forgotten (t : State) (dies : BitVec 4) (key : Nat → Prop) : Prop := ∀ k x,
      let gone : Prop := (x < 0x00C000000000 ∧ ∃ y ∈ s.pkg.key, key y.2 ∧ y.1 / 2 ^ 14 = x / 2 ^ 21) ∨
        (0x00C000000000 ≤ x ∧ x < 0x00C100000000 ∧ dies.getLsbD (carveDie x) = true) ∨
        (0x00C100000000 ≤ x ∧ x < 0x400000000000 ∧ key (s.pkg.keyAt x))
      (gone → t.pkg.read k x = 0#8) ∧ (¬ gone → t.pkg.read k x = s.pkg.read k x)
    (own → ∃ t, exec .partitionDestroy s = .next t ∧ t.pkg.fw = r ∧ t.part.present = false ∧
      (∀ n < 8, (t.ctx n).status = .empty) ∧ t.core.cmds = [] ∧ t.core.watch = [] ∧ t.core.utlb = [] ∧ t.core.pages = [] ∧
      t.pkg.others = s.pkg.others ∧
      forgotten t s.part.setup.dies fun k => k ≠ 0 ∧ ∀ o ∈ s.pkg.others, o.setup.key.toNat ≠ k) ∧
    (∀ o, ¬ own → s.pkg.others.find? (fun o => o.setup.num = num) = some o → ∃ t, exec .partitionDestroy s = .next t ∧
      t.pkg.fw = r ∧ t.part = s.part ∧ t.x = s.x ∧ t.core = s.core ∧ t.pkg.others = s.pkg.others.filter (fun o => o.setup.num ≠ num) ∧
      forgotten t o.setup.dies fun k => k = o.setup.key.toNat) ∧
    (¬ own → (∀ o ∈ s.pkg.others, o.setup.num ≠ num) → exec .partitionDestroy s =
      .next { s with pkg := { s.pkg with fw := r } })) ∧
  ∀ (s : State) (i : Image),
    let still : Prop := (∀ n < 8, (s.ctx n).status = .empty) ∧ s.part.parked = [] ∧ s.die.ready = []
    let bound (w : Option (Nat × List Word)) (h : Option (BitVec 41)) : Prop := h = w.map fun x => BitVec.ofNat 41 (x.1 / 2 ^ 15)
    let held (w : Option (Nat × List Word)) (t : State) (base : Nat) : Prop := ∀ j < 8192,
      Map.get 0 t.core.istore (base + j) = match w with | some x => x.2.getD j 0#32 | none => Map.get 0 s.core.istore (base + j)
    let rejected : Prop := (s.core.withImage i).rejects i.entries = true
    (s.part.present = true → still → i.maxrun ≤ s.core.maxrun → ¬ rejected → ∃ t, exec (.imageLoad i) s = .next t ∧ bound i.a t.core.iwA ∧
      bound i.b t.core.iwB ∧ held i.a t 0 ∧ held i.b t 8192 ∧ t.part = { s.part with loaded := true } ∧ t.pkg = s.pkg ∧ t.x = s.x) ∧
    (s.part.present = false ∨ ¬ still ∨ s.core.maxrun < i.maxrun ∨ rejected → exec (.imageLoad i) s = .next s)

/-- 18 R376, R384 to R386, 25 R448: a fatal cause of 0xB8 to 0xBF stops the partition of its agent, or every one for 0xBE, 0xBF
and an error in the receive engine or the root-of-trust core, with a record of it, which holds the PC where the agent is a
context, and the first one begins a dump; a thermal shutdown is one of 0xBF; in a stopped partition no context issues; the dump
holds the first event, the images and the sections of the partition and ends with FERR_N; a corrected error is counted; a
lowered clock changes no program state. 18 R382, R383, 10 R240: a swap begins with the request flag of the context that issues;
a partition with no command, result or copy still to come leaves as the swap ends, with the state of its contexts kept and no
entry in its TLB; while it is out nothing of it runs, and messages for others still arrive; at the restore a strand asleep in
mwait resumes with code 3 and every watch entry has fired. The stages of a swap are log 47, the information of a fatal record
log 7, the dump log 52. -/
def Obligations.FatalErrorsAndSwap : Prop :=
  (∀ (s : State),
    let held (e : LogRec) : Prop := s.pkg.dumping = true ∧ ∃ q, s.pkg.fatal = some q ∧
      (q.gtc < e.gtc ∨ (q.gtc = e.gtc ∧ q.src ≤ e.src))
    let named (e : LogRec) (f : Option LogRec) : Prop := (held e → f = s.pkg.fatal) ∧ (¬ held e → f = some e)
    let pcOf (e : LogRec) (src : Nat) : Prop := (96 ≤ src / 2 ^ 7 % 2 ^ 7 ∨ src % 16 ≠ 0 → e.pc = 0#64) ∧
      (src / 2 ^ 7 % 2 ^ 7 = s.core.num → src / 2 ^ 14 = s.core.die → src % 16 = 0 → s.core.num < 96 →
        e.pc = addrDword (s.ctx (src % 2 ^ 7 / 16)).pc)
    let dead (t : State) (code : Byte) (src free : Nat) (others : List Other) : Prop := ∃ e : LogRec, e.cause = code ∧ e.gtc = s.gtc ∧
      e.src = BitVec.ofNat 16 src ∧ pcOf e src ∧ named e t.pkg.fatal ∧
      t = { s with
        free := free
        part := { s.part with stopped := true }
        pkg := { s.pkg with
          log := s.pkg.log ++ [e]
          others := others
          fatal := t.pkg.fatal
          dumping := true } }
    let allStopped := s.pkg.others.map fun o => { o with stopped := true }
    (∀ (code : Byte) (src : BitVec 16), 0xB8 ≤ code.toNat → code.toNat ≤ 0xBF → s.sourceOk src.toNat = true → s.part.builds = [] →
      let die := src.toNat / 2 ^ 14
      let every : Prop := code = 0xBE#8 ∨ code = 0xBF#8 ∨ src.toNat / 2 ^ 7 % 2 ^ 7 = 119 ∨ src.toNat / 2 ^ 7 % 2 ^ 7 = 120
      let mine : Prop := s.part.present = true ∧ s.part.setup.dies.getLsbD die = true
      (every → ∃ t, exec (.fatalError ⟨code, src⟩) s = .next t ∧ dead t code src.toNat (s.free + 2) allStopped) ∧
      (¬ every → mine → ∃ t, exec (.fatalError ⟨code, src⟩) s = .next t ∧ dead t code src.toNat (s.free + 2) s.pkg.others) ∧
      (¬ every → ¬ mine → ∃ (e : LogRec) (f : Option LogRec), e.cause = code ∧ e.gtc = s.gtc ∧ e.src = src ∧ pcOf e src.toNat ∧ named e f ∧
        exec (.fatalError ⟨code, src⟩) s = .next { s with
          free := s.free + 2
          pkg := { s.pkg with
            log := s.pkg.log ++ [e]
            others := s.pkg.others.map fun o => if o.setup.dies.getLsbD die then { o with stopped := true } else o
            fatal := f
            dumping := true } })) ∧
    (∀ (code : Byte) (src : BitVec 16), code.toNat < 0xB8 ∨ 0xBF < code.toNat ∨ s.sourceOk src.toNat = false →
      exec (.fatalError ⟨code, src⟩) s = .next s) ∧
    (s.part.builds = [] → ∃ t, exec .thermalShutdown s = .next t ∧ dead t 0xBF#8 (s.core.die * 2 ^ 14 + 112 * 2 ^ 7) s.free allStopped) ∧
    (s.part.stopped = true → s.nextEvent = none → ∀ l, s.agenda = none :: l ∨ (s.agenda = [] ∧ l = []) →
      ∃ t, step s = .next t ∧ t.part = s.part ∧ t.core.pad = s.core.pad ∧ t.pkg.mem = s.pkg.mem ∧ ∀ n < 8, (t.ctx n).s = (s.ctx n).s ∧
        (t.ctx n).pc = (s.ctx n).pc ∧ (t.ctx n).status = (s.ctx n).status) ∧
    (∀ r, s.pkg.dumping = true → s.pkg.fatal = some r → ∃ d : Dump,
      exec .dumpComplete s = .next { s with pkg := { s.pkg with dumping := false, ferr := true, dump := some d } } ∧
      d.first = r ∧ d.gtc = s.gtc ∧ d.log = s.pkg.logRing.drop (s.pkg.logRing.length - 65536) ∧
      (s.part.stopped = true → d.pad = s.core.pad ∧ d.notFull = s.core.notFull ∧ d.cmds = s.core.cmds ∧ d.qslots = s.die.qslots ∧
        ∀ n < 8, d.images[n]? = some (if (s.ctx n).status = .empty then []
          else { s.ctx n with pc := s.resumePc (s.ctx n) }.pieces))) ∧
    (s.pkg.dumping = false ∨ s.pkg.fatal = none → exec .dumpComplete s = .next s) ∧
    (∀ u, ∃ t, exec (.softErrorCorrect u) s = .next t ∧ t = { s with pkg := { s.pkg with soft := t.pkg.soft } } ∧
      Map.get 0 t.pkg.soft u = Map.get 0 s.pkg.soft u + 1 ∧ ∀ j, j ≠ u → Map.get 0 t.pkg.soft j = Map.get 0 s.pkg.soft j) ∧
    ∃ t, exec .thermalThrottle s = .next t ∧ t = { s with pkg := { s.pkg with clock := t.pkg.clock } } ∧ s.pkg.clock < t.pkg.clock) ∧
  (∀ (s : State),
    (s.part.present = true → s.part.swapped = false → s.part.swapping = false → s.core.cmds = [] → exec .partitionSwapOut s = .next
      { s with
        part := { s.part with swapping := true }
        x := if s.run = true ∧ s.x.req = none then { s.x with req := some 0 } else s.x }) ∧
    (s.part.present = true → s.part.swapped = false → s.part.swapping = true → s.run = false → s.core.cmds = [] →
      s.matrixDue = none → s.tileDue = none → (∀ n < 8, (s.ctx n).out = []) → ∃ t, exec .partitionSwapOut s = .next t ∧
      t.part = { s.part with swapping := false, swapped := true } ∧ (∀ n < 8, t.ctx n = s.ctx n) ∧ t.core = { s.core with utlb := [] } ∧ t.pkg = s.pkg) ∧
    (s.part.present = false ∨ s.part.swapped = true → exec .partitionSwapOut s = .next s) ∧
    (s.part.swapped = true → s.part.stopped = false → (∀ k, s.admits (.dispatchPlace k) = false) ∧
      (s.pkg.filling = [] → s.admits .streamLaunch = true ∧ s.admits .msgArrival = true) ∧ s.admits .wakeRegisterWrite = true ∧ State.cycle exec s = .next s.tick) ∧
    (s.part.swapped = false → exec .partitionSwapRestore s = .next s) ∧
    (s.part.swapped = true → ∃ t, exec .partitionSwapRestore s = .next t ∧ t.part.swapped = false ∧
      (∀ w ∈ t.core.watch, w.fired = true) ∧
      ∀ n < 8, ∀ u d, (s.ctx n).status = .sleeping u d → (t.ctx n).status = .ready ∧
        ∀ i, (t.ctx n).sreg i = if i = d ∧ i ≠ 0 then 3#64 else (s.ctx n).sreg i))

/-! ## Encodings, bundles, the step and the invariants (03, 18 R377, 25 R447) -/

/-- 03 R51 to R53, R55 to R67: an instruction whose fields are those of the variant it names (every well-formed one) is encoded
as a bundle of two words, and the decoder reads that bundle as one slot of its kind, on cluster 0 and without literals, whose
word decodes to the instruction with every field as it was; a vector op decodes so in both A and B. -/
def Obligations.EncodedInstructionsDecode : Prop :=
  ∀ (i : Instr) (k : Kind), i.kind? = some k → variantOk i = true →
    ∃ w, encodeOp i = some w ∧ encode i = [headerFor k, w] ∧ decodeBundle (encode i) = .bundle 2 [⟨0, k, 0, w, []⟩] ∧
      decodeOp k w = some i ∧ (k = .A → decodeOp .B w = some i)

/-- 03 R55 to R67: what the decoder reads from an op word of a kind is encoded as that word again: no bit of a word is dropped.
-/
def Obligations.DecodedWordsEncodeBack : Prop :=
  ∀ (k : Kind) (w : Word) (i : Instr), decodeOp k w = some i →
    encodeOp i = some w ∧ variantOk i = true ∧ i.kind? = some (if k = .B then .A else k)

/-- A selection of the words that the entries of 04 to 06, 08 to 13 and 15 to 18 give as examples, at least one of each of these
files: each decodes to the instruction it stands for. -/
def Obligations.SpecExampleWordsDecode : Prop :=
  decodeOp .S 0x28322C08#32 = some (.bfx ⟨3#5, 4#5, 11#5, 0#3, 8#7⟩) ∧
  decodeOp .S 0x40221402#32 = some (.cmp ⟨2#5, 4#5, 5#5, 0#3, 2#7⟩) ∧
  decodeOp .S 0x3E107FFF#32 = some (.li ⟨1#5, 0#5, 0x7FFF#15⟩) ∧
  decodeOp .S 0x60FFFFFC#32 = some (.br ⟨3#3, true, 0x1FFFFC#21⟩) ∧
  decodeOp .S 0xA8000001#32 = some (.tlbinvAll ⟨0#5, 0#5, 0#5, 0#3, 1#7⟩) ∧
  decodeOp .G 0x00322702#32 = some (.ldg ⟨3#5, 4#5, 2#3, 1#2, 0x302#10⟩) ∧
  decodeOp .G 0x04743820#32 = some (.amo ⟨7#5, 8#5, 3#3, 2#2, 0x020#10⟩) ∧
  decodeOp .G 0x0A003000#32 = some (.drain ⟨0#5, 0#5, 3#3, 0#2, 0#10⟩) ∧
  decodeOp .E 0x00429800#32 = some (.cqLvl ⟨4#5, 5#5, 6#5, 0#10⟩) ∧
  decodeOp .E 0x10000041#32 = some (.mxCall ⟨0#5, 0#5, 0#5, 0x41#10⟩) ∧
  decodeOp .E 0x2E401801#32 = some (.kvClassAll ⟨4#5, 0#5, 6#5, 1#10⟩) ∧
  decodeOp .E 0x50429801#32 = some (.tlDefR ⟨4#5, 5#5, 6#5, 1#10⟩) ∧
  decodeOp .E 0x66900001#32 = some (.ruGenW ⟨9#5, 0#5, 0#5, 1#10⟩) ∧
  decodeOp .E 0x78428003#32 = some (.msgHnd ⟨4#5, 5#5, 0#5, 3#10⟩) ∧
  decodeOp .E 0x86401802#32 = some (.sctRead ⟨4#5, 0#5, 6#5, 2#10⟩) ∧
  decodeOp .A 0x02205185#32 = some (.vadd ⟨4#6, false, 5#6, 6#6, false, false, 1#2, 1#2⟩) ∧
  decodeOp .B 0x843061C5#32 = some (.vfmul ⟨6#6, false, 6#6, 7#6, false, false, 1#2, 1#2⟩) ∧
  decodeOp .M 0x062820C0#32 = some (.vsts ⟨5#6, false, 2#6, 3#6, false, false, 0#2, 0#2⟩) ∧
  decodeOp .M 0x1C000004#32 = some (.efenceRd ⟨0#6, false, 0#6, 0#6, false, false, 1#2, 0#2⟩) ∧
  decodeOp .X 0x02103A00#32 = some (.xbc ⟨2#6, false, 3#6, 0x28#6, false, false, 0#2, 0#2⟩)

/-- 03 R51 to R54, R68: a header of line padding and the empty bundle; the checks of a header in their order with their codes; a
packet that ends its bundle gives exactly the slots that its header names, each with its cluster, its word in the order of R52
and the literals of the packet; a further packet follows the words of the one before, and a pair named twice is illegal-bundle
5. R68 does not rank the codes: the order in which they are tested is the model's (log 53), and so is which header is reported
(log 25). -/
def Obligations.BundlesDecodeByTheirHeaders : Prop :=
  (∀ ws, decodeBundle (0#32 :: ws) = .padding ∧ decodeBundle (0x00020000#32 :: ws) = .empty) ∧
  (∀ (h : Word) (ws : List Word), h ≠ 0#32 → h ≠ 0x00020000#32 →
    let k := h.toNat % 2 ^ 8
    let c := h.toNat / 2 ^ 8 % 2 ^ 8
    let lits := h.toNat / 2 ^ 18 % 8
    let ones (n lo hi : Nat) : Nat := ((List.range hi).filter fun i => decide (lo ≤ i) && n.testBit i).length
    let per := if h.getLsbD 16 then 1 else ones c 0 8
    let size := ones k 0 3 + ones k 3 8 * per + lits
    (2 ^ 21 ≤ h.toNat → decodeBundle (h :: ws) = .bad 0x00 h) ∧
    (h.toNat < 2 ^ 21 →
      (k = 0 → decodeBundle (h :: ws) = .bad 0x06 h) ∧
      (8 ≤ k → c = 0 → decodeBundle (h :: ws) = .bad 0x01 h) ∧
      (0 < k → k < 8 → c ≠ 0 → decodeBundle (h :: ws) = .bad 0x02 h) ∧
      (0 < k → (8 ≤ k ↔ c ≠ 0) → ws.length < size → decodeBundle (h :: ws) = .bad 0x03 h) ∧
      (0 < k → (8 ≤ k ↔ c ≠ 0) → size ≤ ws.length → h.getLsbD 17 = true → ∃ sl, decodeBundle (h :: ws) = .bundle (1 + size) sl ∧
        ∀ x, x ∈ sl ↔ k.testBit x.kind.num = true ∧ (if x.kind.num < 3 then x.cluster = 0 else x.cluster < 8 ∧ c.testBit x.cluster = true) ∧
          x.lits = (ws.drop (size - lits)).take lits ∧ x.word = ws.getD x.idx 0#32 ∧
          x.idx = if x.kind.num < 3 then ones k 0 x.kind.num
            else ones k 0 3 + ones k 3 x.kind.num * per + if h.getLsbD 16 then 0 else ones c 0 x.cluster))) ∧
  ∀ (h g : Word) (ws vs : List Word) (n : Nat) (sl tl : List Slot), h.getLsbD 17 = false → g.getLsbD 17 = true →
    decodeBundle ((h ||| 0x00020000#32) :: ws) = .bundle (1 + ws.length) sl → decodeBundle (g :: vs) = .bundle n tl →
    decodeBundle (h :: ws ++ g :: vs) =
      if ∃ x ∈ sl, ∃ y ∈ tl, x.kind = y.kind ∧ x.cluster = y.cluster then .bad 0x05 g
      else .bundle (1 + ws.length + n) (sl ++ tl.map fun y => { y with idx := y.idx + (ws.length - h.toNat / 2 ^ 18 % 8) })

/-- 03 R56 to R60, R68, R69: an op word that its kind's map does not have is illegal-op of that kind, one with an operand its
entry forbids illegal-operand, each with the word, and the cluster; and the operand limits of sext, bfx, bfi, cmp, plog, the
immediate forms, loop, loopi, iwin, park, wait, vadd, ldg, stg, amo, bar.init, cq.lvl and kv.fork. 03 R74: every slot that
shares a destination with another one, on its encoding alone, has duplicate-write, 0x18 of class 5; s0 and p0 take no part; two
vector moves into one register trap so and write nothing. 03 R69, 08 R172, 18 R377: of the causes that a bundle meets, one of
the first class is reported (privilege, of class 4, before duplicate-write), of the lowest-numbered op word in it; and a bundle
that meets a cause and does not wait commits none of its slots: the trap is taken on the state before it, with a fault mask of
the op words that meet a cause of that class. The positions of an illegal operand, and the order within one word, are log 17. -/
def Obligations.IllegalOpsAndCauseOrder : Prop :=
  ((∀ (n : Nat) (x : Slot),
    let info (c : CauseRec) : Prop := c.slot = x.idx ∧ c.cluster = x.cluster ∧
      c.info.toNat % 2 ^ 35 = x.word.toNat + x.cluster % 8 * 2 ^ 32
    (decodeOp x.kind x.word = none → ∃ c, decodeCauses n x = [c] ∧ c.rank = 2 ∧ c.code = 0x08 + x.kind.num ∧ info c) ∧
    ∀ i, decodeOp x.kind x.word = some i →
      (operandFault x.lits.length n i = none → decodeCauses n x = []) ∧
      ∀ pos, operandFault x.lits.length n i = some pos →
        ∃ c, decodeCauses n x = [c] ∧ c.rank = 3 ∧ c.code = 0x10 + x.kind.num ∧ info c ∧ c.info.toNat / 2 ^ 35 = pos % 2 ^ 29) ∧
  ∀ (L n : Nat),
    let ok (i : Instr) : Prop := operandFault L n i = none
    (∀ f : SR, let m := f.f.toNat
      (ok (.sext f) ↔ 1 ≤ m ∧ m ≤ 64) ∧ (ok (.bfx f) ↔ m + f.b.toNat + 1 ≤ 64) ∧ (ok (.bfi f) ↔ m + f.b.toNat + 1 ≤ 64) ∧
      (ok (.cmp f) ↔ f.d.toNat < 8 ∧ m % 8 ≤ 5) ∧
      (ok (.plog f) ↔ f.d.toNat < 8 ∧ f.a.toNat < 8 ∧ f.b.toNat < 8 ∧ m < 16) ∧
      (ok (.loop f) ↔ f.d.toNat % 16 = 0 ∧ n ≤ f.b.toNat * 128 + m) ∧ (ok (.park f) ↔ m = 127 → 0 < L) ∧ (ok (.wait f) ↔ m = 127 → 0 < L)) ∧
    (∀ f : SI, let lit : Prop := f.i = 0x4000#15 → 0 < L
      (∀ i ∈ [Instr.addi f, .andi f, .ori f, .xori f, .shli f, .shri f, .sari f, .li f, .cmpi f, .yield f, .csrr f, .csrw f, .trap f],
        ok i ↔ lit) ∧
      (ok (.loopi f) ↔ lit ∧ n ≤ f.d.toNat % 16 * 32 + f.a.toNat) ∧ (ok (.iwin f) ↔ f.d.toNat < 2)) ∧
    (∀ f : VR, let src (c : Nat) : Prop := c < 38 ∨ (40 ≤ c ∧ c < 40 + L) ∨ 48 ≤ c
      let dest : Prop := f.w = true ∨ f.d.toNat < 32 ∨ 48 ≤ f.d.toNat
      (L < 8 → (ok (.vadd f) ↔ src f.a.toNat ∧ src f.b.toNat ∧ dest ∧ f.t ≠ 3#2) ∧ (ok (.vmov f) ↔ src f.a.toNat ∧ dest) ∧
        (ok (.vst f) ↔ src f.a.toNat ∧ src f.b.toNat ∧ src f.d.toNat))) ∧
    (∀ f : GF, let s := f.s.toNat
      let r := f.r.toNat
      let o := f.o.toNat
      (ok (.ldg f) ↔ (r = 0 ∧ s = 0) ∨ ((r = 1 ∨ r = 3) ∧ 1 ≤ s ∧ s ≤ 4)) ∧
      (ok (.stg f) ↔ (r = 0 ∧ s = 0) ∨ (2 ≤ r ∧ 1 ≤ s ∧ s ≤ 4)) ∧
      (ok (.amo f) ↔ ((r = 0 ∧ s = 0) ∨ (1 ≤ r ∧ 1 ≤ s ∧ s ≤ 4)) ∧ o / 64 ≤ 8) ∧
      (ok (.barInit f) ↔ r = 0 ∧ 1 ≤ s ∧ s ≤ 4 ∧ (512 ≤ o → s = 1))) ∧
    ∀ f : EF, (ok (.cqLvl f) ↔ f.i.toNat ≤ 5) ∧ (ok (.kvFork f) ↔ f.i = 0#10)) ∧
  ((∀ sl : List Slot,
      let other (x y : Slot) : Prop := x.kind ≠ y.kind ∨ x.cluster ≠ y.cluster
      (∀ x ∈ sl, ∀ y ∈ sl, ∀ r, other x y → r ∈ slotDests x → r ∈ slotDests y → slotCause x 5 0x18 0 ∈ dupCauses sl) ∧
      ∀ c ∈ dupCauses sl, ∃ x ∈ sl, ∃ y ∈ sl, ∃ r, other x y ∧ r ∈ slotDests x ∧ r ∈ slotDests y ∧ c = slotCause x 5 0x18 0) ∧
    ((∀ f : SR, writesOf .S 0 (.add f) = (if f.d = 0#5 then [] else [f.d.toNat]) ∧
        writesOf .S 0 (.cmp f) = (if f.d.toNat % 8 = 0 then [] else [32 + f.d.toNat % 8]) ∧ writesOf .S 0 (.halt f) = []) ∧
      (∀ f, writesOf .S 0 (.call f) = [31]) ∧
      (∀ f : GF, writesOf .G 0 (.ldg f) = (if f.d = 0#5 then [] else [f.d.toNat]) ∧ writesOf .G 0 (.stg f) = []) ∧
      (∀ f : EF, writesOf .E 0 (.kvLen f) = (if f.c = 0#5 then [] else [f.c.toNat]) ∧ writesOf .E 0 (.cqGo f) = []) ∧
      ∀ (f : VR) (cl r : Nat),
        let vr : Prop := f.w = false ∧ f.d.toNat < 32 ∧ r = 64 + 32 * cl + f.d.toNat
        let held : Prop := (f.h = true ∧ r = 600 + 2 * cl) ∨ (f.k = true ∧ r = 601 + 2 * cl)
        (r ∈ writesOf .A cl (.vadd f) ↔ vr ∨ r = 500 + 4 * cl ∨ held) ∧ (r ∈ writesOf .B cl (.vadd f) ↔ vr ∨ r = 501 + 4 * cl ∨ held) ∧
        (r ∈ writesOf .F cl (.rcp f) ↔ vr ∨ r = 503 + 4 * cl ∨ (f.h = true ∧ r = 600 + 2 * cl))) ∧
    (∀ (s : State) (a : Addr) (w v : Word) (f g : VR) (cl n : Nat), s.x.h = false → cl < 8 →
      decodeOp .A w = some (.vmov f) → decodeOp .B v = some (.vmov g) →
      f.a.toNat < 32 → g.a.toNat < 32 → f.d.toNat < 32 → f.d = g.d → f.w = false → g.w = false → f.h = false → g.h = false →
      ∃ u, s.issueAt exec a n [⟨0, .A, cl, w, []⟩, ⟨1, .B, cl, v, []⟩] false = .next u ∧ u.x.cause = 0x18#8 ∧ u.x.fmask = 3#16 ∧
        u.x.tinfo.toNat = w.toNat + cl * 2 ^ 32 ∧ u.x.tpc = codeAddr a.toNat ∧ u.x.h = true ∧ u.x.v = s.x.v) ∧
    (∀ l : List CauseRec, (reported l = none ↔ l = []) ∧ ∀ c, reported l = some c → c ∈ l ∧
    ∀ d ∈ l, c.rank < d.rank ∨ (c.rank = d.rank ∧ c.slot ≤ d.slot)) ∧
  ∀ (s t : State) (c : CauseRec), reported t.cur.causes = some c → t.cur.waits = [] → s.roomFor t.cur = true → c.code ≠ 0x82 →
    s.x.h = false → ∃ u, s.settle exec t = .next u ∧
      u.x.cause = BitVec.ofNat 8 c.code ∧ u.x.tpc = codeAddr t.cur.addr.toNat ∧ u.x.h = true ∧ u.x.pc = s.x.tvec ∧
      (∀ n < 16, u.x.fmask.getLsbD n = decide (∃ d ∈ t.cur.causes, d.rank = c.rank ∧ d.slot % 16 = n)) ∧
      (∀ b, u.x.tinfo.getLsbD b = true ↔ ∃ d ∈ t.cur.causes,
        (d = c ∨ (c.rank = 7 ∧ d.slot = c.slot ∧ d.code = c.code ∧ d.cluster = c.cluster)) ∧ d.info.getLsbD b = true) ∧
      u.x.s = s.x.s ∧ u.x.p = s.x.p ∧ u.x.v = s.x.v ∧ u.core.pad = s.core.pad ∧ u.core.cmds = s.core.cmds ∧ u.pkg.mem = s.pkg.mem)

/-- The step runs what it decodes: where the context issues and nothing else is due, and a one-slot bundle stands at the pc
whose word decodes to an instruction without an operand fault, the step is exec of that instruction on the state with the
bundle's frame, and then what the bundle's frame asks for: the commit, the trap or the wait, with the code of the first thing it
waits for, 6 before 7 (03 R53, R69, R72, R75, 18 R380; the one order of steps is the model's, log 5). The words are those that a
fetch finds: what stands in the instruction store, but for a word that a copy not yet complete has written (04 R97, log 53). A
wait in which ctxsv stops the long commands of a context stops them at once (18 R381). -/
def Obligations.StepRunsDecodedInstruction : Prop :=
  ∀ (s t : State) (k : Kind) (w : Word) (i : Instr) (n : Nat),
    s.agenda = [] → s.nextEvent = none → s.run = true → s.part.stopped = false → s.part.swapped = false → s.part.swapping = false →
    (s.x.sk = false ∨ s.x.h = true) → (s.x.ef = none ∨ s.x.efNow = false ∨ s.x.h = true) →
    s.freezeDue = false → s.core.codeIdx s.x.pc = some n → s.x.pc.toNat / 4 % 16 ≤ 14 →
    s.core.codeWord n = headerFor k → s.core.codeWord (n + 1) = w →
    decodeOp k w = some i → operandFault 0 2 i = none → (∀ r ∈ scalarNames i, s.x.held r = false) →
    let before := { s with x := (s.x.fetchedAt s.x.pc false).landLink (s.x.pc + 8#56) }
    exec i { before with cur := { emptyFrame with
      addr := s.x.pc, seq := s.core.seqAddr 1025 (s.x.pc + 8#56), words := 2, kind := k, word := w } } = .next t →
    before.roomFor t.cur = true →
    let held := t.cur.stops.foldl State.stopSteps before
    (t.cur.causes = [] → t.cur.waits = [] → bankWait t.cur.lines ≤ before.x.bankw →
      step s = if held.wdogOver then exec .watchdog held else .next t.commit) ∧
    (∀ c, t.cur.waits = [] → reported t.cur.causes = some c → step s = .next (before.report c t.cur.causes t.cur.addr)) ∧
    (∀ q l, t.cur.causes = [] → t.cur.waits = q :: l →
      step s = held.hold exec (if q = 7 ∧ 6 ∈ l then 6 else q) t.cur.empties) ∧
    ∀ m, s.core.codeOld = [] → s.core.codeWord m = Map.get 0 s.core.istore m

/-- Every step answers a next state: a program ends in no fault and no refusal of the model's (00 R1, 18 R376: every condition
is a trap, a record or a stopped partition). -/
def Obligations.EveryStepAnswersNext : Prop := (∀ (i : Instr) (s : State), ∃ t, exec i s = .next t) ∧ ∀ s : State, s.Goes

/-- 25 R447, R438, 05 R117, R122, 15 R328, 18 R380, 09 R193, 10 R227: after reset the core and time registers hold the values
that their tables give; every line is full, no liveness bit is set, no context is occupied, no partition exists; memory is in
canonical form. Values that no table gives are log 3 and log 4. -/
def Obligations.ResetState : Prop :=
  let s := State.reset
  s.csrRead 0x100 = 8192#64 ∧ s.csrRead 0x101 = 16384#64 ∧ s.csrRead 0x102 = 4096#64 ∧
  s.csrRead 0x103 = 0x10000000#64 ∧ s.csrRead 0x150 = 4#64 ∧ s.die.dslice = 50000 ∧
  (∀ n, s.full n = true) ∧ (∀ r, Map.get false s.pkg.live r = false) ∧ (∀ n < 8, (s.ctx n).status = .empty) ∧ s.run = false ∧
  s.part.present = false ∧ s.regRead 0x300008 = 0#64 ∧ (∀ k < 6, s.regRead (0x400000 + 0x100 * k) = 0#64) ∧
  s.core.iwA = none ∧ s.core.iwB = none ∧ s.core.utlb = [] ∧ s.pkg.recovery = false ∧ s.Canonical ∧ s.IdsFresh

/-- Every step keeps global memory, the scratchpad, the table RAM and the instruction store in canonical form, so that equal
contents stay equal data (the form is the model's, log 4). -/
def Obligations.StepsKeepCanonicalForm : Prop := ∀ s t : State, s.Canonical → step s = .next t → t.Canonical

/-- Every step keeps the numbers of engine commands below the next one (11 R244: a command is accepted once; the numbers are the
model's). The numbers are the model's (log 5). -/
def Obligations.StepsKeepCommandNumbersFresh : Prop := ∀ s t : State, s.IdsFresh → step s = .next t → t.IdsFresh
end

