-- ==== Sys2Proof/Laws/Dispatch.lean ====
section
/-! SUPPORT. The dispatcher arm by arm: what exec is for each instruction. -/

namespace Sys2Proof.Machine

@[simp] theorem exec_nop (f : SR) (s : State) : exec (.nop f) s = execNop f s := rfl
@[simp] theorem exec_add (f : SR) (s : State) : exec (.add f) s = execAdd f s := rfl
@[simp] theorem exec_sub (f : SR) (s : State) : exec (.sub f) s = execSub f s := rfl
@[simp] theorem exec_mul (f : SR) (s : State) : exec (.mul f) s = execMul f s := rfl
@[simp] theorem exec_mulh (f : SR) (s : State) : exec (.mulh f) s = execMulh f s := rfl
@[simp] theorem exec_mulhu (f : SR) (s : State) : exec (.mulhu f) s = execMulhu f s := rfl
@[simp] theorem exec_and (f : SR) (s : State) : exec (.and f) s = execAnd f s := rfl
@[simp] theorem exec_or (f : SR) (s : State) : exec (.or f) s = execOr f s := rfl
@[simp] theorem exec_xor (f : SR) (s : State) : exec (.xor f) s = execXor f s := rfl
@[simp] theorem exec_andn (f : SR) (s : State) : exec (.andn f) s = execAndn f s := rfl
@[simp] theorem exec_shl (f : SR) (s : State) : exec (.shl f) s = execShl f s := rfl
@[simp] theorem exec_shr (f : SR) (s : State) : exec (.shr f) s = execShr f s := rfl
@[simp] theorem exec_sar (f : SR) (s : State) : exec (.sar f) s = execSar f s := rfl
@[simp] theorem exec_min (f : SR) (s : State) : exec (.min f) s = execMin f s := rfl
@[simp] theorem exec_max (f : SR) (s : State) : exec (.max f) s = execMax f s := rfl
@[simp] theorem exec_minu (f : SR) (s : State) : exec (.minu f) s = execMinu f s := rfl
@[simp] theorem exec_maxu (f : SR) (s : State) : exec (.maxu f) s = execMaxu f s := rfl
@[simp] theorem exec_clz (f : SR) (s : State) : exec (.clz f) s = execClz f s := rfl
@[simp] theorem exec_popc (f : SR) (s : State) : exec (.popc f) s = execPopc f s := rfl
@[simp] theorem exec_sext (f : SR) (s : State) : exec (.sext f) s = execSext f s := rfl
@[simp] theorem exec_bfx (f : SR) (s : State) : exec (.bfx f) s = execBfx f s := rfl
@[simp] theorem exec_bfi (f : SR) (s : State) : exec (.bfi f) s = execBfi f s := rfl
@[simp] theorem exec_addi (f : SI) (s : State) : exec (.addi f) s = execAddi f s := rfl
@[simp] theorem exec_andi (f : SI) (s : State) : exec (.andi f) s = execAndi f s := rfl
@[simp] theorem exec_ori (f : SI) (s : State) : exec (.ori f) s = execOri f s := rfl
@[simp] theorem exec_xori (f : SI) (s : State) : exec (.xori f) s = execXori f s := rfl
@[simp] theorem exec_shli (f : SI) (s : State) : exec (.shli f) s = execShli f s := rfl
@[simp] theorem exec_shri (f : SI) (s : State) : exec (.shri f) s = execShri f s := rfl
@[simp] theorem exec_sari (f : SI) (s : State) : exec (.sari f) s = execSari f s := rfl
@[simp] theorem exec_li (f : SI) (s : State) : exec (.li f) s = execLi f s := rfl
@[simp] theorem exec_cmp (f : SR) (s : State) : exec (.cmp f) s = execCmp f s := rfl
@[simp] theorem exec_cmpi (f : SI) (s : State) : exec (.cmpi f) s = execCmpi f s := rfl
@[simp] theorem exec_sel (f : SR) (s : State) : exec (.sel f) s = execSel f s := rfl
@[simp] theorem exec_plog (f : SR) (s : State) : exec (.plog f) s = execPlog f s := rfl
@[simp] theorem exec_br (f : SB) (s : State) : exec (.br f) s = execBr f s := rfl
@[simp] theorem exec_jmp (f : SB) (s : State) : exec (.jmp f) s = execJmp f s := rfl
@[simp] theorem exec_call (f : SB) (s : State) : exec (.call f) s = execCall f s := rfl
@[simp] theorem exec_jr (f : SR) (s : State) : exec (.jr f) s = execJr f s := rfl
@[simp] theorem exec_ret (f : SR) (s : State) : exec (.ret f) s = execRet f s := rfl
@[simp] theorem exec_loop (f : SR) (s : State) : exec (.loop f) s = execLoop f s := rfl
@[simp] theorem exec_loopi (f : SI) (s : State) : exec (.loopi f) s = execLoopi f s := rfl
@[simp] theorem exec_lbrk (f : SB) (s : State) : exec (.lbrk f) s = execLbrk f s := rfl
@[simp] theorem exec_yield (f : SI) (s : State) : exec (.yield f) s = execYield f s := rfl
@[simp] theorem exec_park (f : SR) (s : State) : exec (.park f) s = execPark f s := rfl
@[simp] theorem exec_halt (f : SR) (s : State) : exec (.halt f) s = execHalt f s := rfl
@[simp] theorem exec_wait (f : SR) (s : State) : exec (.wait f) s = execWait f s := rfl
@[simp] theorem exec_iwin (f : SI) (s : State) : exec (.iwin f) s = execIwin f s := rfl
@[simp] theorem exec_ifence (f : SR) (s : State) : exec (.ifence f) s = execIfence f s := rfl
@[simp] theorem exec_swapb (f : SB) (s : State) : exec (.swapb f) s = execSwapb f s := rfl
@[simp] theorem exec_spawn (f : SR) (s : State) : exec (.spawn f) s = execSpawn f s := rfl
@[simp] theorem exec_csrr (f : SI) (s : State) : exec (.csrr f) s = execCsrr f s := rfl
@[simp] theorem exec_csrw (f : SI) (s : State) : exec (.csrw f) s = execCsrw f s := rfl
@[simp] theorem exec_gtc (f : SR) (s : State) : exec (.gtc f) s = execGtc f s := rfl
@[simp] theorem exec_trap (f : SI) (s : State) : exec (.trap f) s = execTrap f s := rfl
@[simp] theorem exec_tret (f : SR) (s : State) : exec (.tret f) s = execTret f s := rfl
@[simp] theorem exec_ctxsv (f : SR) (s : State) : exec (.ctxsv f) s = execCtxsv f s := rfl
@[simp] theorem exec_ctxld (f : SR) (s : State) : exec (.ctxld f) s = execCtxld f s := rfl
@[simp] theorem exec_tlbinv (f : SR) (s : State) : exec (.tlbinv f) s = execTlbinv f s := rfl
@[simp] theorem exec_tlbinvAll (f : SR) (s : State) : exec (.tlbinvAll f) s = execTlbinvAll f s := rfl
@[simp] theorem exec_tlbsync (f : SR) (s : State) : exec (.tlbsync f) s = execTlbsync f s := rfl
@[simp] theorem exec_ldg (f : GF) (s : State) : exec (.ldg f) s = execLdg f s := rfl
@[simp] theorem exec_stg (f : GF) (s : State) : exec (.stg f) s = execStg f s := rfl
@[simp] theorem exec_amo (f : GF) (s : State) : exec (.amo f) s = execAmo f s := rfl
@[simp] theorem exec_cas (f : GF) (s : State) : exec (.cas f) s = execCas f s := rfl
@[simp] theorem exec_fence (f : GF) (s : State) : exec (.fence f) s = execFence f s := rfl
@[simp] theorem exec_drain (f : GF) (s : State) : exec (.drain f) s = execDrain f s := rfl
@[simp] theorem exec_drainE (f : GF) (s : State) : exec (.drainE f) s = execDrainE f s := rfl
@[simp] theorem exec_mon (f : GF) (s : State) : exec (.mon f) s = execMon f s := rfl
@[simp] theorem exec_mwait (f : GF) (s : State) : exec (.mwait f) s = execMwait f s := rfl
@[simp] theorem exec_barInit (f : GF) (s : State) : exec (.barInit f) s = execBarInit f s := rfl
@[simp] theorem exec_barArrive (f : GF) (s : State) : exec (.barArrive f) s = execBarArrive f s := rfl
@[simp] theorem exec_barExpect (f : GF) (s : State) : exec (.barExpect f) s = execBarExpect f s := rfl
@[simp] theorem exec_barWait (f : GF) (s : State) : exec (.barWait f) s = execBarWait f s := rfl
@[simp] theorem exec_cmpl (f : GF) (s : State) : exec (.cmpl f) s = execCmpl f s := rfl
@[simp] theorem exec_pfg (f : GF) (s : State) : exec (.pfg f) s = execPfg f s := rfl
@[simp] theorem exec_amof (f : GF) (s : State) : exec (.amof f) s = execAmof f s := rfl
@[simp] theorem exec_cqLvl (f : EF) (s : State) : exec (.cqLvl f) s = execCqLvl f s := rfl
@[simp] theorem exec_cqGo (f : EF) (s : State) : exec (.cqGo f) s = execCqGo f s := rfl
@[simp] theorem exec_cqCfg (f : EF) (s : State) : exec (.cqCfg f) s = execCqCfg f s := rfl
@[simp] theorem exec_cqBar (f : EF) (s : State) : exec (.cqBar f) s = execCqBar f s := rfl
@[simp] theorem exec_mxCall (f : EF) (s : State) : exec (.mxCall f) s = execMxCall f s := rfl
@[simp] theorem exec_mxSetp (f : EF) (s : State) : exec (.mxSetp f) s = execMxSetp f s := rfl
@[simp] theorem exec_mxGetp (f : EF) (s : State) : exec (.mxGetp f) s = execMxGetp f s := rfl
@[simp] theorem exec_mxLd (f : EF) (s : State) : exec (.mxLd f) s = execMxLd f s := rfl
@[simp] theorem exec_mxDrain (f : EF) (s : State) : exec (.mxDrain f) s = execMxDrain f s := rfl
@[simp] theorem exec_mxZero (f : EF) (s : State) : exec (.mxZero f) s = execMxZero f s := rfl
@[simp] theorem exec_kvAttn (f : EF) (s : State) : exec (.kvAttn f) s = execKvAttn f s := rfl
@[simp] theorem exec_kvApp (f : EF) (s : State) : exec (.kvApp f) s = execKvApp f s := rfl
@[simp] theorem exec_kvFork (f : EF) (s : State) : exec (.kvFork f) s = execKvFork f s := rfl
@[simp] theorem exec_kvFree (f : EF) (s : State) : exec (.kvFree f) s = execKvFree f s := rfl
@[simp] theorem exec_kvSeal (f : EF) (s : State) : exec (.kvSeal f) s = execKvSeal f s := rfl
@[simp] theorem exec_kvUndo (f : EF) (s : State) : exec (.kvUndo f) s = execKvUndo f s := rfl
@[simp] theorem exec_kvTrim (f : EF) (s : State) : exec (.kvTrim f) s = execKvTrim f s := rfl
@[simp] theorem exec_kvClass (f : EF) (s : State) : exec (.kvClass f) s = execKvClass f s := rfl
@[simp] theorem exec_kvClassAll (f : EF) (s : State) : exec (.kvClassAll f) s = execKvClassAll f s := rfl
@[simp] theorem exec_kvDemote (f : EF) (s : State) : exec (.kvDemote f) s = execKvDemote f s := rfl
@[simp] theorem exec_kvPromote (f : EF) (s : State) : exec (.kvPromote f) s = execKvPromote f s := rfl
@[simp] theorem exec_kvPin (f : EF) (s : State) : exec (.kvPin f) s = execKvPin f s := rfl
@[simp] theorem exec_kvUnpin (f : EF) (s : State) : exec (.kvUnpin f) s = execKvUnpin f s := rfl
@[simp] theorem exec_kvLend (f : EF) (s : State) : exec (.kvLend f) s = execKvLend f s := rfl
@[simp] theorem exec_kvRet (f : EF) (s : State) : exec (.kvRet f) s = execKvRet f s := rfl
@[simp] theorem exec_kvLen (f : EF) (s : State) : exec (.kvLen f) s = execKvLen f s := rfl
@[simp] theorem exec_kvLenT (f : EF) (s : State) : exec (.kvLenT f) s = execKvLenT f s := rfl
@[simp] theorem exec_kvPos (f : EF) (s : State) : exec (.kvPos f) s = execKvPos f s := rfl
@[simp] theorem exec_kvMerge (f : EF) (s : State) : exec (.kvMerge f) s = execKvMerge f s := rfl
@[simp] theorem exec_kvGrant (f : EF) (s : State) : exec (.kvGrant f) s = execKvGrant f s := rfl
@[simp] theorem exec_tlDef (f : EF) (s : State) : exec (.tlDef f) s = execTlDef f s := rfl
@[simp] theorem exec_tlDefR (f : EF) (s : State) : exec (.tlDefR f) s = execTlDefR f s := rfl
@[simp] theorem exec_tlGet (f : EF) (s : State) : exec (.tlGet f) s = execTlGet f s := rfl
@[simp] theorem exec_tlPut (f : EF) (s : State) : exec (.tlPut f) s = execTlPut f s := rfl
@[simp] theorem exec_tlDrop (f : EF) (s : State) : exec (.tlDrop f) s = execTlDrop f s := rfl
@[simp] theorem exec_tlDropF (f : EF) (s : State) : exec (.tlDropF f) s = execTlDropF f s := rfl
@[simp] theorem exec_tlPin (f : EF) (s : State) : exec (.tlPin f) s = execTlPin f s := rfl
@[simp] theorem exec_tlUnpin (f : EF) (s : State) : exec (.tlUnpin f) s = execTlUnpin f s := rfl
@[simp] theorem exec_tlDone (f : EF) (s : State) : exec (.tlDone f) s = execTlDone f s := rfl
@[simp] theorem exec_ruTab (f : EF) (s : State) : exec (.ruTab f) s = execRuTab f s := rfl
@[simp] theorem exec_ruCfg (f : EF) (s : State) : exec (.ruCfg f) s = execRuCfg f s := rfl
@[simp] theorem exec_ruStep (f : EF) (s : State) : exec (.ruStep f) s = execRuStep f s := rfl
@[simp] theorem exec_ruGen (f : EF) (s : State) : exec (.ruGen f) s = execRuGen f s := rfl
@[simp] theorem exec_ruGenW (f : EF) (s : State) : exec (.ruGenW f) s = execRuGenW f s := rfl
@[simp] theorem exec_msgSend (f : EF) (s : State) : exec (.msgSend f) s = execMsgSend f s := rfl
@[simp] theorem exec_msgPost (f : EF) (s : State) : exec (.msgPost f) s = execMsgPost f s := rfl
@[simp] theorem exec_msgCancel (f : EF) (s : State) : exec (.msgCancel f) s = execMsgCancel f s := rfl
@[simp] theorem exec_msgProbe (f : EF) (s : State) : exec (.msgProbe f) s = execMsgProbe f s := rfl
@[simp] theorem exec_msgHnd (f : EF) (s : State) : exec (.msgHnd f) s = execMsgHnd f s := rfl
@[simp] theorem exec_sctArm (f : EF) (s : State) : exec (.sctArm f) s = execSctArm f s := rfl
@[simp] theorem exec_sctDisarm (f : EF) (s : State) : exec (.sctDisarm f) s = execSctDisarm f s := rfl
@[simp] theorem exec_sctTouch (f : EF) (s : State) : exec (.sctTouch f) s = execSctTouch f s := rfl
@[simp] theorem exec_sctDone (f : EF) (s : State) : exec (.sctDone f) s = execSctDone f s := rfl
@[simp] theorem exec_sctEvict (f : EF) (s : State) : exec (.sctEvict f) s = execSctEvict f s := rfl
@[simp] theorem exec_sctRead (f : EF) (s : State) : exec (.sctRead f) s = execSctRead f s := rfl
@[simp] theorem exec_vmov (f : VR) (s : State) : exec (.vmov f) s = execVmov f s := rfl
@[simp] theorem exec_vadd (f : VR) (s : State) : exec (.vadd f) s = execVadd f s := rfl
@[simp] theorem exec_vsub (f : VR) (s : State) : exec (.vsub f) s = execVsub f s := rfl
@[simp] theorem exec_vaddsat (f : VR) (s : State) : exec (.vaddsat f) s = execVaddsat f s := rfl
@[simp] theorem exec_vsubsat (f : VR) (s : State) : exec (.vsubsat f) s = execVsubsat f s := rfl
@[simp] theorem exec_vmul (f : VR) (s : State) : exec (.vmul f) s = execVmul f s := rfl
@[simp] theorem exec_vmulh (f : VR) (s : State) : exec (.vmulh f) s = execVmulh f s := rfl
@[simp] theorem exec_vmac (f : VR) (s : State) : exec (.vmac f) s = execVmac f s := rfl
@[simp] theorem exec_vdot4 (f : VR) (s : State) : exec (.vdot4 f) s = execVdot4 f s := rfl
@[simp] theorem exec_vdot2 (f : VR) (s : State) : exec (.vdot2 f) s = execVdot2 f s := rfl
@[simp] theorem exec_vabs (f : VR) (s : State) : exec (.vabs f) s = execVabs f s := rfl
@[simp] theorem exec_vneg (f : VR) (s : State) : exec (.vneg f) s = execVneg f s := rfl
@[simp] theorem exec_vmin (f : VR) (s : State) : exec (.vmin f) s = execVmin f s := rfl
@[simp] theorem exec_vmax (f : VR) (s : State) : exec (.vmax f) s = execVmax f s := rfl
@[simp] theorem exec_vminu (f : VR) (s : State) : exec (.vminu f) s = execVminu f s := rfl
@[simp] theorem exec_vmaxu (f : VR) (s : State) : exec (.vmaxu f) s = execVmaxu f s := rfl
@[simp] theorem exec_vand (f : VR) (s : State) : exec (.vand f) s = execVand f s := rfl
@[simp] theorem exec_vor (f : VR) (s : State) : exec (.vor f) s = execVor f s := rfl
@[simp] theorem exec_vxor (f : VR) (s : State) : exec (.vxor f) s = execVxor f s := rfl
@[simp] theorem exec_vandn (f : VR) (s : State) : exec (.vandn f) s = execVandn f s := rfl
@[simp] theorem exec_vshl (f : VR) (s : State) : exec (.vshl f) s = execVshl f s := rfl
@[simp] theorem exec_vshr (f : VR) (s : State) : exec (.vshr f) s = execVshr f s := rfl
@[simp] theorem exec_vsar (f : VR) (s : State) : exec (.vsar f) s = execVsar f s := rfl
@[simp] theorem exec_vrshr (f : VR) (s : State) : exec (.vrshr f) s = execVrshr f s := rfl
@[simp] theorem exec_vclz (f : VR) (s : State) : exec (.vclz f) s = execVclz f s := rfl
@[simp] theorem exec_vpopc (f : VR) (s : State) : exec (.vpopc f) s = execVpopc f s := rfl
@[simp] theorem exec_vcmp (f : VR) (s : State) : exec (.vcmp f) s = execVcmp f s := rfl
@[simp] theorem exec_vsel (f : VR) (s : State) : exec (.vsel f) s = execVsel f s := rfl
@[simp] theorem exec_vbcast (f : VR) (s : State) : exec (.vbcast f) s = execVbcast f s := rfl
@[simp] theorem exec_vlane (f : VR) (s : State) : exec (.vlane f) s = execVlane f s := rfl
@[simp] theorem exec_vpack (f : VR) (s : State) : exec (.vpack f) s = execVpack f s := rfl
@[simp] theorem exec_vunpk (f : VR) (s : State) : exec (.vunpk f) s = execVunpk f s := rfl
@[simp] theorem exec_vmskl (f : VR) (s : State) : exec (.vmskl f) s = execVmskl f s := rfl
@[simp] theorem exec_vext (f : VR) (s : State) : exec (.vext f) s = execVext f s := rfl
@[simp] theorem exec_vins (f : VR) (s : State) : exec (.vins f) s = execVins f s := rfl
@[simp] theorem exec_vfadd (f : VR) (s : State) : exec (.vfadd f) s = execVfadd f s := rfl
@[simp] theorem exec_vfsub (f : VR) (s : State) : exec (.vfsub f) s = execVfsub f s := rfl
@[simp] theorem exec_vfmul (f : VR) (s : State) : exec (.vfmul f) s = execVfmul f s := rfl
@[simp] theorem exec_vfma (f : VR) (s : State) : exec (.vfma f) s = execVfma f s := rfl
@[simp] theorem exec_vfms (f : VR) (s : State) : exec (.vfms f) s = execVfms f s := rfl
@[simp] theorem exec_vfmin (f : VR) (s : State) : exec (.vfmin f) s = execVfmin f s := rfl
@[simp] theorem exec_vfmax (f : VR) (s : State) : exec (.vfmax f) s = execVfmax f s := rfl
@[simp] theorem exec_vfabs (f : VR) (s : State) : exec (.vfabs f) s = execVfabs f s := rfl
@[simp] theorem exec_vfneg (f : VR) (s : State) : exec (.vfneg f) s = execVfneg f s := rfl
@[simp] theorem exec_vfcmp (f : VR) (s : State) : exec (.vfcmp f) s = execVfcmp f s := rfl
@[simp] theorem exec_vfcls (f : VR) (s : State) : exec (.vfcls f) s = execVfcls f s := rfl
@[simp] theorem exec_vfscl (f : VR) (s : State) : exec (.vfscl f) s = execVfscl f s := rfl
@[simp] theorem exec_vfrnd (f : VR) (s : State) : exec (.vfrnd f) s = execVfrnd f s := rfl
@[simp] theorem exec_vcvt (f : VR) (s : State) : exec (.vcvt f) s = execVcvt f s := rfl
@[simp] theorem exec_vfcvti (f : VR) (s : State) : exec (.vfcvti f) s = execVfcvti f s := rfl
@[simp] theorem exec_vicvtf (f : VR) (s : State) : exec (.vicvtf f) s = execVicvtf f s := rfl
@[simp] theorem exec_vqmx (f : VR) (s : State) : exec (.vqmx f) s = execVqmx f s := rfl
@[simp] theorem exec_vdqmx (f : VR) (s : State) : exec (.vdqmx f) s = execVdqmx f s := rfl
@[simp] theorem exec_vrsum (f : VR) (s : State) : exec (.vrsum f) s = execVrsum f s := rfl
@[simp] theorem exec_vrmax (f : VR) (s : State) : exec (.vrmax f) s = execVrmax f s := rfl
@[simp] theorem exec_vrmin (f : VR) (s : State) : exec (.vrmin f) s = execVrmin f s := rfl
@[simp] theorem exec_exp2 (f : VR) (s : State) : exec (.exp2 f) s = execExp2 f s := rfl
@[simp] theorem exec_log2 (f : VR) (s : State) : exec (.log2 f) s = execLog2 f s := rfl
@[simp] theorem exec_rcp (f : VR) (s : State) : exec (.rcp f) s = execRcp f s := rfl
@[simp] theorem exec_rsq (f : VR) (s : State) : exec (.rsq f) s = execRsq f s := rfl
@[simp] theorem exec_sqrt (f : VR) (s : State) : exec (.sqrt f) s = execSqrt f s := rfl
@[simp] theorem exec_sin (f : VR) (s : State) : exec (.sin f) s = execSin f s := rfl
@[simp] theorem exec_cos (f : VR) (s : State) : exec (.cos f) s = execCos f s := rfl
@[simp] theorem exec_tanh (f : VR) (s : State) : exec (.tanh f) s = execTanh f s := rfl
@[simp] theorem exec_sigm (f : VR) (s : State) : exec (.sigm f) s = execSigm f s := rfl
@[simp] theorem exec_vld (f : VR) (s : State) : exec (.vld f) s = execVld f s := rfl
@[simp] theorem exec_vst (f : VR) (s : State) : exec (.vst f) s = execVst f s := rfl
@[simp] theorem exec_vlds (f : VR) (s : State) : exec (.vlds f) s = execVlds f s := rfl
@[simp] theorem exec_vsts (f : VR) (s : State) : exec (.vsts f) s = execVsts f s := rfl
@[simp] theorem exec_vldx (f : VR) (s : State) : exec (.vldx f) s = execVldx f s := rfl
@[simp] theorem exec_vstx (f : VR) (s : State) : exec (.vstx f) s = execVstx f s := rfl
@[simp] theorem exec_vldb (f : VR) (s : State) : exec (.vldb f) s = execVldb f s := rfl
@[simp] theorem exec_vldt (f : VR) (s : State) : exec (.vldt f) s = execVldt f s := rfl
@[simp] theorem exec_fefill (f : VR) (s : State) : exec (.fefill f) s = execFefill f s := rfl
@[simp] theorem exec_feempty (f : VR) (s : State) : exec (.feempty f) s = execFeempty f s := rfl
@[simp] theorem exec_fetest (f : VR) (s : State) : exec (.fetest f) s = execFetest f s := rfl
@[simp] theorem exec_sbind (f : VR) (s : State) : exec (.sbind f) s = execSbind f s := rfl
@[simp] theorem exec_sfmt (f : VR) (s : State) : exec (.sfmt f) s = execSfmt f s := rfl
@[simp] theorem exec_sadv (f : VR) (s : State) : exec (.sadv f) s = execSadv f s := rfl
@[simp] theorem exec_efence (f : VR) (s : State) : exec (.efence f) s = execEfence f s := rfl
@[simp] theorem exec_efenceRd (f : VR) (s : State) : exec (.efenceRd f) s = execEfenceRd f s := rfl
@[simp] theorem exec_xcp (f : VR) (s : State) : exec (.xcp f) s = execXcp f s := rfl
@[simp] theorem exec_xbc (f : VR) (s : State) : exec (.xbc f) s = execXbc f s := rfl
@[simp] theorem exec_xrot (f : VR) (s : State) : exec (.xrot f) s = execXrot f s := rfl
@[simp] theorem exec_xshf (f : VR) (s : State) : exec (.xshf f) s = execXshf f s := rfl
@[simp] theorem exec_trpi (f : VR) (s : State) : exec (.trpi f) s = execTrpi f s := rfl
@[simp] theorem exec_trpo (f : VR) (s : State) : exec (.trpo f) s = execTrpo f s := rfl
@[simp] theorem exec_xred (f : VR) (s : State) : exec (.xred f) s = execXred f s := rfl
@[simp] theorem exec_gloadReturn (c : Nat) (r : Nat) (s : State) : exec (.gloadReturn c r) s = execGloadReturn c r s := rfl
@[simp] theorem exec_dispatchPlace (slot : Nat) (s : State) : exec (.dispatchPlace slot) s = execDispatchPlace slot s := rfl
@[simp] theorem exec_streamRestoreDone (n : Nat) (s : State) : exec (.streamRestoreDone n) s = execStreamRestoreDone n s := rfl
@[simp] theorem exec_streamEvictDone (n : Nat) (s : State) : exec (.streamEvictDone n) s = execStreamEvictDone n s := rfl
@[simp] theorem exec_copyLineLand (id : Nat) (line : Nat) (s : State) : exec (.copyLineLand id line) s = execCopyLineLand id line s := rfl
@[simp] theorem exec_attnPageStaged (id : Nat) (blk : Nat) (s : State) : exec (.attnPageStaged id blk) s = execAttnPageStaged id blk s := rfl
@[simp] theorem exec_attnUnitFold (id : Nat) (s : State) : exec (.attnUnitFold id) s = execAttnUnitFold id s := rfl
@[simp] theorem exec_kvTransitEnd (id : Nat) (s : State) : exec (.kvTransitEnd id) s = execKvTransitEnd id s := rfl
@[simp] theorem exec_kvFrameFree (fid : Nat) (s : State) : exec (.kvFrameFree fid) s = execKvFrameFree fid s := rfl
@[simp] theorem exec_lenderUnreachable (id : Nat) (s : State) : exec (.lenderUnreachable id) s = execLenderUnreachable id s := rfl
@[simp] theorem exec_kvLendTimeout (id : Nat) (s : State) : exec (.kvLendTimeout id) s = execKvLendTimeout id s := rfl
@[simp] theorem exec_kvReturnRelease (dev : Nat) (s : State) : exec (.kvReturnRelease dev) s = execKvReturnRelease dev s := rfl
@[simp] theorem exec_msgLandingComplete (k : Nat) (s : State) : exec (.msgLandingComplete k) s = execMsgLandingComplete k s := rfl
@[simp] theorem exec_msgSendComplete (id : Nat) (s : State) : exec (.msgSendComplete id) s = execMsgSendComplete id s := rfl
@[simp] theorem exec_tileCopyLand (id : Nat) (line : Nat) (s : State) : exec (.tileCopyLand id line) s = execTileCopyLand id line s := rfl
@[simp] theorem exec_fatalError (e : FatalEvent) (s : State) : exec (.fatalError e) s = execFatalError e s := rfl
@[simp] theorem exec_softErrorCorrect (unit : Nat) (s : State) : exec (.softErrorCorrect unit) s = execSoftErrorCorrect unit s := rfl
@[simp] theorem exec_deviceReset (rotOk : Bool) (ccOk : Bool) (s : State) : exec (.deviceReset rotOk ccOk) s = execDeviceReset rotOk ccOk s := rfl
@[simp] theorem exec_imageLoad (img : Image) (s : State) : exec (.imageLoad img) s = execImageLoad img s := rfl
@[simp] theorem exec_partitionCreate (p : PartSetup) (s : State) : exec (.partitionCreate p) s = execPartitionCreate p s := rfl
@[simp] theorem exec_livenessFillDone (region : Nat) (s : State) : exec (.livenessFillDone region) s = execLivenessFillDone region s := rfl
@[simp] theorem exec_ltlTimeMeasure (k : Nat) (off : BitVec 64) (s : State) : exec (.ltlTimeMeasure k off) s = execLtlTimeMeasure k off s := rfl
@[simp] theorem exec_ltlAttest (k : Nat) (ok : Bool) (s : State) : exec (.ltlAttest k ok) s = execLtlAttest k ok s := rfl
@[simp] theorem exec_ltlLinkDown (k : Nat) (s : State) : exec (.ltlLinkDown k) s = execLtlLinkDown k s := rfl
@[simp] theorem exec_cxlPortDown (k : Nat) (s : State) : exec (.cxlPortDown k) s = execCxlPortDown k s := rfl
@[simp] theorem exec_emptyBundle (s : State) : exec .emptyBundle s = execEmptyBundle s := rfl
@[simp] theorem exec_sliceExpiry (s : State) : exec .sliceExpiry s = execSliceExpiry s := rfl
@[simp] theorem exec_freeze (s : State) : exec .freeze s = execFreeze s := rfl
@[simp] theorem exec_watchdog (s : State) : exec .watchdog s = execWatchdog s := rfl
@[simp] theorem exec_waitExpiry (s : State) : exec .waitExpiry s = execWaitExpiry s := rfl
@[simp] theorem exec_mwaitTimeout (s : State) : exec .mwaitTimeout s = execMwaitTimeout s := rfl
@[simp] theorem exec_readyListPlace (s : State) : exec .readyListPlace s = execReadyListPlace s := rfl
@[simp] theorem exec_dieSliceRemap (s : State) : exec .dieSliceRemap s = execDieSliceRemap s := rfl
@[simp] theorem exec_wakeRegisterWrite (s : State) : exec .wakeRegisterWrite s = execWakeRegisterWrite s := rfl
@[simp] theorem exec_streamLaunch (s : State) : exec .streamLaunch s = execStreamLaunch s := rfl
@[simp] theorem exec_streamSlotRetry (s : State) : exec .streamSlotRetry s = execStreamSlotRetry s := rfl
@[simp] theorem exec_streamQuietEvict (s : State) : exec .streamQuietEvict s = execStreamQuietEvict s := rfl
@[simp] theorem exec_mxKblock (s : State) : exec .mxKblock s = execMxKblock s := rfl
@[simp] theorem exec_mxDrainRun (s : State) : exec .mxDrainRun s = execMxDrainRun s := rfl
@[simp] theorem exec_mxZeroRun (s : State) : exec .mxZeroRun s = execMxZeroRun s := rfl
@[simp] theorem exec_pweAssign (s : State) : exec .pweAssign s = execPweAssign s := rfl
@[simp] theorem exec_lendRequestReceive (s : State) : exec .lendRequestReceive s = execLendRequestReceive s := rfl
@[simp] theorem exec_lendReplyReceive (s : State) : exec .lendReplyReceive s = execLendReplyReceive s := rfl
@[simp] theorem exec_kvReadReceive (s : State) : exec .kvReadReceive s = execKvReadReceive s := rfl
@[simp] theorem exec_kvReadReplyReceive (s : State) : exec .kvReadReplyReceive s = execKvReadReplyReceive s := rfl
@[simp] theorem exec_kvWriteReceive (s : State) : exec .kvWriteReceive s = execKvWriteReceive s := rfl
@[simp] theorem exec_kvWriteAckReceive (s : State) : exec .kvWriteAckReceive s = execKvWriteAckReceive s := rfl
@[simp] theorem exec_kvReturnReceive (s : State) : exec .kvReturnReceive s = execKvReturnReceive s := rfl
@[simp] theorem exec_msgArrival (s : State) : exec .msgArrival s = execMsgArrival s := rfl
@[simp] theorem exec_ctsReceive (s : State) : exec .ctsReceive s = execCtsReceive s := rfl
@[simp] theorem exec_recipeSpawnRetry (s : State) : exec .recipeSpawnRetry s = execRecipeSpawnRetry s := rfl
@[simp] theorem exec_tileRoomFreed (s : State) : exec .tileRoomFreed s = execTileRoomFreed s := rfl
@[simp] theorem exec_ruStepRun (s : State) : exec .ruStepRun s = execRuStepRun s := rfl
@[simp] theorem exec_ruStepComplete (s : State) : exec .ruStepComplete s = execRuStepComplete s := rfl
@[simp] theorem exec_partitionSwapOut (s : State) : exec .partitionSwapOut s = execPartitionSwapOut s := rfl
@[simp] theorem exec_partitionSwapRestore (s : State) : exec .partitionSwapRestore s = execPartitionSwapRestore s := rfl
@[simp] theorem exec_dumpComplete (s : State) : exec .dumpComplete s = execDumpComplete s := rfl
@[simp] theorem exec_thermalThrottle (s : State) : exec .thermalThrottle s = execThermalThrottle s := rfl
@[simp] theorem exec_thermalShutdown (s : State) : exec .thermalShutdown s = execThermalShutdown s := rfl
@[simp] theorem exec_partitionDestroy (s : State) : exec .partitionDestroy s = execPartitionDestroy s := rfl
@[simp] theorem exec_mailboxRing (s : State) : exec .mailboxRing s = execMailboxRing s := rfl
@[simp] theorem exec_gtcCtlWrite (s : State) : exec .gtcCtlWrite s = execGtcCtlWrite s := rfl
@[simp] theorem exec_gtcRateWrite (s : State) : exec .gtcRateWrite s = execGtcRateWrite s := rfl
@[simp] theorem exec_gtcStepWrite (s : State) : exec .gtcStepWrite s = execGtcStepWrite s := rfl
@[simp] theorem exec_ppsEdge (s : State) : exec .ppsEdge s = execPpsEdge s := rfl
@[simp] theorem exec_registerWrite (s : State) : exec .registerWrite s = execRegisterWrite s := rfl
@[simp] theorem exec_partitionWideWakeBroadcast (s : State) : exec .partitionWideWakeBroadcast s = execPartitionWideWakeBroadcast s := rfl
@[simp] theorem exec_linkBringUp (s : State) : exec .linkBringUp s = execLinkBringUp s := rfl
@[simp] theorem exec_stepAbsorbedBySlewing (s : State) : exec .stepAbsorbedBySlewing s = execStepAbsorbedBySlewing s := rfl

end Sys2Proof.Machine
end

