-- ==== Sys2Proof/Laws/Encode.lean ====
section
/-! SUPPORT. The word formats of op words: their fields and their opcode read back what the encoder wrote, and a word is
what its opcode and fields say (03 R55, R59 to R61). -/

namespace Sys2Proof

theorem VR.opOf_word (o : BitVec 7) (f : VR) : opOf (VR.word o f) = o := by
  apply BitVec.eq_of_getLsbD_eq
  intro i hi
  simp only [opOf, VR.word, BitVec.getLsbD_extractLsb', BitVec.getLsbD_cast, BitVec.getLsbD_append]
  split_ifs <;> first | omega | (simp only [hi, decide_true, Bool.true_and]; congr 1; omega)
theorem VR.d_word (o : BitVec 7) (f : VR) : (VR.word o f).extractLsb' 19 6 = f.d := by
  apply BitVec.eq_of_getLsbD_eq
  intro i hi
  simp only [VR.word, BitVec.getLsbD_extractLsb', BitVec.getLsbD_cast, BitVec.getLsbD_append]
  split_ifs <;> first | omega | (simp only [hi, decide_true, Bool.true_and]; congr 1; omega)
theorem VR.w_word (o : BitVec 7) (f : VR) : (VR.word o f).getLsbD 18 = f.w := by
  simp only [VR.word, BitVec.getLsbD_cast, BitVec.getLsbD_append, BitVec.getLsbD_ofBool]
  rfl
theorem VR.a_word (o : BitVec 7) (f : VR) : (VR.word o f).extractLsb' 12 6 = f.a := by
  apply BitVec.eq_of_getLsbD_eq
  intro i hi
  simp only [VR.word, BitVec.getLsbD_extractLsb', BitVec.getLsbD_cast, BitVec.getLsbD_append]
  split_ifs <;> first | omega | (simp only [hi, decide_true, Bool.true_and]; congr 1; omega)
theorem VR.b_word (o : BitVec 7) (f : VR) : (VR.word o f).extractLsb' 6 6 = f.b := by
  apply BitVec.eq_of_getLsbD_eq
  intro i hi
  simp only [VR.word, BitVec.getLsbD_extractLsb', BitVec.getLsbD_cast, BitVec.getLsbD_append]
  split_ifs <;> first | omega | (simp only [hi, decide_true, Bool.true_and]; congr 1; omega)
theorem VR.h_word (o : BitVec 7) (f : VR) : (VR.word o f).getLsbD 5 = f.h := by
  simp only [VR.word, BitVec.getLsbD_cast, BitVec.getLsbD_append, BitVec.getLsbD_ofBool]
  rfl
theorem VR.k_word (o : BitVec 7) (f : VR) : (VR.word o f).getLsbD 4 = f.k := by
  simp only [VR.word, BitVec.getLsbD_cast, BitVec.getLsbD_append, BitVec.getLsbD_ofBool]
  rfl
theorem VR.t_word (o : BitVec 7) (f : VR) : (VR.word o f).extractLsb' 2 2 = f.t := by
  apply BitVec.eq_of_getLsbD_eq
  intro i hi
  simp only [VR.word, BitVec.getLsbD_extractLsb', BitVec.getLsbD_cast, BitVec.getLsbD_append]
  split_ifs <;> first | omega | (simp only [hi, decide_true, Bool.true_and]; congr 1; omega)
theorem VR.m_word (o : BitVec 7) (f : VR) : (VR.word o f).extractLsb' 0 2 = f.m := by
  apply BitVec.eq_of_getLsbD_eq
  intro i hi
  simp only [VR.word, BitVec.getLsbD_extractLsb', BitVec.getLsbD_cast, BitVec.getLsbD_append]
  split_ifs <;> first | omega | (simp only [hi, decide_true, Bool.true_and]; congr 1; omega)
theorem VR.ofWord_word (o : BitVec 7) (f : VR) : VR.ofWord (VR.word o f) = f := by
  simp only [VR.ofWord, VR.d_word, VR.w_word, VR.a_word, VR.b_word, VR.h_word, VR.k_word, VR.t_word, VR.m_word]
theorem VR.word_ofWord (w : Word) : VR.word (opOf w) (VR.ofWord w) = w := by
  apply BitVec.eq_of_getLsbD_eq
  intro i hi
  simp only [opOf, VR.word, VR.ofWord, BitVec.getLsbD_extractLsb', BitVec.getLsbD_cast, BitVec.getLsbD_append,
    BitVec.getLsbD_ofBool]
  split_ifs <;> (rw [decide_eq_true (by omega), Bool.true_and]; congr 1; omega)

theorem SR.opOf_word (o : BitVec 7) (f : SR) : opOf (SR.word o f) = o := by
  apply BitVec.eq_of_getLsbD_eq
  intro i hi
  simp only [opOf, SR.word, BitVec.getLsbD_extractLsb', BitVec.getLsbD_cast, BitVec.getLsbD_append]
  split_ifs <;> first | omega | (simp only [hi, decide_true, Bool.true_and]; congr 1; omega)
theorem SR.d_word (o : BitVec 7) (f : SR) : (SR.word o f).extractLsb' 20 5 = f.d := by
  apply BitVec.eq_of_getLsbD_eq
  intro i hi
  simp only [SR.word, BitVec.getLsbD_extractLsb', BitVec.getLsbD_cast, BitVec.getLsbD_append]
  split_ifs <;> first | omega | (simp only [hi, decide_true, Bool.true_and]; congr 1; omega)
theorem SR.a_word (o : BitVec 7) (f : SR) : (SR.word o f).extractLsb' 15 5 = f.a := by
  apply BitVec.eq_of_getLsbD_eq
  intro i hi
  simp only [SR.word, BitVec.getLsbD_extractLsb', BitVec.getLsbD_cast, BitVec.getLsbD_append]
  split_ifs <;> first | omega | (simp only [hi, decide_true, Bool.true_and]; congr 1; omega)
theorem SR.b_word (o : BitVec 7) (f : SR) : (SR.word o f).extractLsb' 10 5 = f.b := by
  apply BitVec.eq_of_getLsbD_eq
  intro i hi
  simp only [SR.word, BitVec.getLsbD_extractLsb', BitVec.getLsbD_cast, BitVec.getLsbD_append]
  split_ifs <;> first | omega | (simp only [hi, decide_true, Bool.true_and]; congr 1; omega)
theorem SR.p_word (o : BitVec 7) (f : SR) : (SR.word o f).extractLsb' 7 3 = f.p := by
  apply BitVec.eq_of_getLsbD_eq
  intro i hi
  simp only [SR.word, BitVec.getLsbD_extractLsb', BitVec.getLsbD_cast, BitVec.getLsbD_append]
  split_ifs <;> first | omega | (simp only [hi, decide_true, Bool.true_and]; congr 1; omega)
theorem SR.f_word (o : BitVec 7) (f : SR) : (SR.word o f).extractLsb' 0 7 = f.f := by
  apply BitVec.eq_of_getLsbD_eq
  intro i hi
  simp only [SR.word, BitVec.getLsbD_extractLsb', BitVec.getLsbD_cast, BitVec.getLsbD_append]
  split_ifs <;> first | omega | (simp only [hi, decide_true, Bool.true_and]; congr 1; omega)
theorem SR.ofWord_word (o : BitVec 7) (f : SR) : SR.ofWord (SR.word o f) = f := by
  simp only [SR.ofWord, SR.d_word, SR.a_word, SR.b_word, SR.p_word, SR.f_word]
theorem SR.word_ofWord (w : Word) : SR.word (opOf w) (SR.ofWord w) = w := by
  apply BitVec.eq_of_getLsbD_eq
  intro i hi
  simp only [opOf, SR.word, SR.ofWord, BitVec.getLsbD_extractLsb', BitVec.getLsbD_cast, BitVec.getLsbD_append]
  split_ifs <;> (rw [decide_eq_true (by omega), Bool.true_and]; congr 1; omega)

theorem SI.opOf_word (o : BitVec 7) (f : SI) : opOf (SI.word o f) = o := by
  apply BitVec.eq_of_getLsbD_eq
  intro i hi
  simp only [opOf, SI.word, BitVec.getLsbD_extractLsb', BitVec.getLsbD_cast, BitVec.getLsbD_append]
  split_ifs <;> first | omega | (simp only [hi, decide_true, Bool.true_and]; congr 1; omega)
theorem SI.d_word (o : BitVec 7) (f : SI) : (SI.word o f).extractLsb' 20 5 = f.d := by
  apply BitVec.eq_of_getLsbD_eq
  intro i hi
  simp only [SI.word, BitVec.getLsbD_extractLsb', BitVec.getLsbD_cast, BitVec.getLsbD_append]
  split_ifs <;> first | omega | (simp only [hi, decide_true, Bool.true_and]; congr 1; omega)
theorem SI.a_word (o : BitVec 7) (f : SI) : (SI.word o f).extractLsb' 15 5 = f.a := by
  apply BitVec.eq_of_getLsbD_eq
  intro i hi
  simp only [SI.word, BitVec.getLsbD_extractLsb', BitVec.getLsbD_cast, BitVec.getLsbD_append]
  split_ifs <;> first | omega | (simp only [hi, decide_true, Bool.true_and]; congr 1; omega)
theorem SI.i_word (o : BitVec 7) (f : SI) : (SI.word o f).extractLsb' 0 15 = f.i := by
  apply BitVec.eq_of_getLsbD_eq
  intro i hi
  simp only [SI.word, BitVec.getLsbD_extractLsb', BitVec.getLsbD_cast, BitVec.getLsbD_append]
  split_ifs <;> first | omega | (simp only [hi, decide_true, Bool.true_and]; congr 1; omega)
theorem SI.ofWord_word (o : BitVec 7) (f : SI) : SI.ofWord (SI.word o f) = f := by
  simp only [SI.ofWord, SI.d_word, SI.a_word, SI.i_word]
theorem SI.word_ofWord (w : Word) : SI.word (opOf w) (SI.ofWord w) = w := by
  apply BitVec.eq_of_getLsbD_eq
  intro i hi
  simp only [opOf, SI.word, SI.ofWord, BitVec.getLsbD_extractLsb', BitVec.getLsbD_cast, BitVec.getLsbD_append]
  split_ifs <;> (rw [decide_eq_true (by omega), Bool.true_and]; congr 1; omega)

theorem SB.opOf_word (o : BitVec 7) (f : SB) : opOf (SB.word o f) = o := by
  apply BitVec.eq_of_getLsbD_eq
  intro i hi
  simp only [opOf, SB.word, BitVec.getLsbD_extractLsb', BitVec.getLsbD_cast, BitVec.getLsbD_append]
  split_ifs <;> first | omega | (simp only [hi, decide_true, Bool.true_and]; congr 1; omega)
theorem SB.p_word (o : BitVec 7) (f : SB) : (SB.word o f).extractLsb' 22 3 = f.p := by
  apply BitVec.eq_of_getLsbD_eq
  intro i hi
  simp only [SB.word, BitVec.getLsbD_extractLsb', BitVec.getLsbD_cast, BitVec.getLsbD_append]
  split_ifs <;> first | omega | (simp only [hi, decide_true, Bool.true_and]; congr 1; omega)
theorem SB.n_word (o : BitVec 7) (f : SB) : (SB.word o f).getLsbD 21 = f.n := by
  simp only [SB.word, BitVec.getLsbD_cast, BitVec.getLsbD_append, BitVec.getLsbD_ofBool]
  rfl
theorem SB.o_word (o : BitVec 7) (f : SB) : (SB.word o f).extractLsb' 0 21 = f.o := by
  apply BitVec.eq_of_getLsbD_eq
  intro i hi
  simp only [SB.word, BitVec.getLsbD_extractLsb', BitVec.getLsbD_cast, BitVec.getLsbD_append]
  split_ifs <;> first | omega | (simp only [hi, decide_true, Bool.true_and]; congr 1; omega)
theorem SB.ofWord_word (o : BitVec 7) (f : SB) : SB.ofWord (SB.word o f) = f := by
  simp only [SB.ofWord, SB.p_word, SB.n_word, SB.o_word]
theorem SB.word_ofWord (w : Word) : SB.word (opOf w) (SB.ofWord w) = w := by
  apply BitVec.eq_of_getLsbD_eq
  intro i hi
  simp only [opOf, SB.word, SB.ofWord, BitVec.getLsbD_extractLsb', BitVec.getLsbD_cast, BitVec.getLsbD_append,
    BitVec.getLsbD_ofBool]
  split_ifs <;> (rw [decide_eq_true (by omega), Bool.true_and]; congr 1; omega)

theorem GF.opOf_word (o : BitVec 7) (f : GF) : opOf (GF.word o f) = o := by
  apply BitVec.eq_of_getLsbD_eq
  intro i hi
  simp only [opOf, GF.word, BitVec.getLsbD_extractLsb', BitVec.getLsbD_cast, BitVec.getLsbD_append]
  split_ifs <;> first | omega | (simp only [hi, decide_true, Bool.true_and]; congr 1; omega)
theorem GF.d_word (o : BitVec 7) (f : GF) : (GF.word o f).extractLsb' 20 5 = f.d := by
  apply BitVec.eq_of_getLsbD_eq
  intro i hi
  simp only [GF.word, BitVec.getLsbD_extractLsb', BitVec.getLsbD_cast, BitVec.getLsbD_append]
  split_ifs <;> first | omega | (simp only [hi, decide_true, Bool.true_and]; congr 1; omega)
theorem GF.b_word (o : BitVec 7) (f : GF) : (GF.word o f).extractLsb' 15 5 = f.b := by
  apply BitVec.eq_of_getLsbD_eq
  intro i hi
  simp only [GF.word, BitVec.getLsbD_extractLsb', BitVec.getLsbD_cast, BitVec.getLsbD_append]
  split_ifs <;> first | omega | (simp only [hi, decide_true, Bool.true_and]; congr 1; omega)
theorem GF.s_word (o : BitVec 7) (f : GF) : (GF.word o f).extractLsb' 12 3 = f.s := by
  apply BitVec.eq_of_getLsbD_eq
  intro i hi
  simp only [GF.word, BitVec.getLsbD_extractLsb', BitVec.getLsbD_cast, BitVec.getLsbD_append]
  split_ifs <;> first | omega | (simp only [hi, decide_true, Bool.true_and]; congr 1; omega)
theorem GF.r_word (o : BitVec 7) (f : GF) : (GF.word o f).extractLsb' 10 2 = f.r := by
  apply BitVec.eq_of_getLsbD_eq
  intro i hi
  simp only [GF.word, BitVec.getLsbD_extractLsb', BitVec.getLsbD_cast, BitVec.getLsbD_append]
  split_ifs <;> first | omega | (simp only [hi, decide_true, Bool.true_and]; congr 1; omega)
theorem GF.o_word (o : BitVec 7) (f : GF) : (GF.word o f).extractLsb' 0 10 = f.o := by
  apply BitVec.eq_of_getLsbD_eq
  intro i hi
  simp only [GF.word, BitVec.getLsbD_extractLsb', BitVec.getLsbD_cast, BitVec.getLsbD_append]
  split_ifs <;> first | omega | (simp only [hi, decide_true, Bool.true_and]; congr 1; omega)
theorem GF.ofWord_word (o : BitVec 7) (f : GF) : GF.ofWord (GF.word o f) = f := by
  simp only [GF.ofWord, GF.d_word, GF.b_word, GF.s_word, GF.r_word, GF.o_word]
theorem GF.word_ofWord (w : Word) : GF.word (opOf w) (GF.ofWord w) = w := by
  apply BitVec.eq_of_getLsbD_eq
  intro i hi
  simp only [opOf, GF.word, GF.ofWord, BitVec.getLsbD_extractLsb', BitVec.getLsbD_cast, BitVec.getLsbD_append]
  split_ifs <;> (rw [decide_eq_true (by omega), Bool.true_and]; congr 1; omega)

theorem EF.opOf_word (o : BitVec 7) (f : EF) : opOf (EF.word o f) = o := by
  apply BitVec.eq_of_getLsbD_eq
  intro i hi
  simp only [opOf, EF.word, BitVec.getLsbD_extractLsb', BitVec.getLsbD_cast, BitVec.getLsbD_append]
  split_ifs <;> first | omega | (simp only [hi, decide_true, Bool.true_and]; congr 1; omega)
theorem EF.a_word (o : BitVec 7) (f : EF) : (EF.word o f).extractLsb' 20 5 = f.a := by
  apply BitVec.eq_of_getLsbD_eq
  intro i hi
  simp only [EF.word, BitVec.getLsbD_extractLsb', BitVec.getLsbD_cast, BitVec.getLsbD_append]
  split_ifs <;> first | omega | (simp only [hi, decide_true, Bool.true_and]; congr 1; omega)
theorem EF.b_word (o : BitVec 7) (f : EF) : (EF.word o f).extractLsb' 15 5 = f.b := by
  apply BitVec.eq_of_getLsbD_eq
  intro i hi
  simp only [EF.word, BitVec.getLsbD_extractLsb', BitVec.getLsbD_cast, BitVec.getLsbD_append]
  split_ifs <;> first | omega | (simp only [hi, decide_true, Bool.true_and]; congr 1; omega)
theorem EF.c_word (o : BitVec 7) (f : EF) : (EF.word o f).extractLsb' 10 5 = f.c := by
  apply BitVec.eq_of_getLsbD_eq
  intro i hi
  simp only [EF.word, BitVec.getLsbD_extractLsb', BitVec.getLsbD_cast, BitVec.getLsbD_append]
  split_ifs <;> first | omega | (simp only [hi, decide_true, Bool.true_and]; congr 1; omega)
theorem EF.i_word (o : BitVec 7) (f : EF) : (EF.word o f).extractLsb' 0 10 = f.i := by
  apply BitVec.eq_of_getLsbD_eq
  intro i hi
  simp only [EF.word, BitVec.getLsbD_extractLsb', BitVec.getLsbD_cast, BitVec.getLsbD_append]
  split_ifs <;> first | omega | (simp only [hi, decide_true, Bool.true_and]; congr 1; omega)
theorem EF.ofWord_word (o : BitVec 7) (f : EF) : EF.ofWord (EF.word o f) = f := by
  simp only [EF.ofWord, EF.a_word, EF.b_word, EF.c_word, EF.i_word]
theorem EF.word_ofWord (w : Word) : EF.word (opOf w) (EF.ofWord w) = w := by
  apply BitVec.eq_of_getLsbD_eq
  intro i hi
  simp only [opOf, EF.word, EF.ofWord, BitVec.getLsbD_extractLsb', BitVec.getLsbD_cast, BitVec.getLsbD_append]
  split_ifs <;> (rw [decide_eq_true (by omega), Bool.true_and]; congr 1; omega)

end Sys2Proof
end

