-- ==== Sys2Proof/Laws/Map.lean ====
section
/-! SUPPORT. Sparse maps: reading after writing, and that every operation keeps the canonical form. -/

namespace Sys2Proof.Machine

variable {α : Type} [DecidableEq α] (d : α)

omit [DecidableEq α] in
@[simp] theorem Map.get_nil (k : Nat) : Map.get d [] k = d := rfl
omit [DecidableEq α] in
theorem Map.get_cons (j : Nat) (w : α) (m : List (Nat × α)) (k : Nat) :
    Map.get d ((j, w) :: m) k = if k = j then w else Map.get d m k := rfl

omit [DecidableEq α] in
/-- Without a key: that key reads as unlisted, and every other as before. -/
theorem Map.get_without (m : List (Nat × α)) (k j : Nat) :
    Map.get d (Map.without m k) j = if j = k then d else Map.get d m j := by
  induction m with
  | nil => simp [Map.without]
  | cons x m ih =>
    obtain ⟨i, w⟩ := x
    rw [Map.without, List.filter_cons, Map.get_cons]
    by_cases h : i = k
    · rw [if_neg (by simp [h]), show List.filter _ m = Map.without m k from rfl, ih, h]
      by_cases hj : j = k <;> simp [hj]
    · rw [if_pos (by simp [h]), Map.get_cons, show List.filter _ m = Map.without m k from rfl, ih]
      by_cases hj : j = i
      · subst hj; simp [h]
      · simp [hj]

omit [DecidableEq α] in
/-- An entry put into a map that lists the key nowhere: that key reads the value, every other as before. -/
theorem Map.get_put (m : List (Nat × α)) (k : Nat) (v : α) (h : ∀ x ∈ m, x.1 ≠ k) (j : Nat) :
    Map.get d (Map.put m k v) j = if j = k then v else Map.get d m j := by
  induction m with
  | nil => simp [Map.put, Map.get_cons]
  | cons x m ih =>
    obtain ⟨i, w⟩ := x
    have hi : i ≠ k := h (i, w) (by simp)
    have ih := ih fun x hx => h x (by simp [hx])
    rw [Map.put]
    split
    · rw [Map.get_cons]
    · rw [Map.get_cons, ih, Map.get_cons]
      by_cases hj : j = i <;> simp [hj, hi]

/-- Reading after writing: the key reads the value, every other key as before. -/
@[simp] theorem Map.get_set (m : List (Nat × α)) (k : Nat) (v : α) (j : Nat) :
    Map.get d (Map.set d m k v) j = if j = k then v else Map.get d m j := by
  rw [Map.set]
  split
  · next h => rw [Map.get_without, h]
  · rw [Map.get_put d _ _ _ (by simp [Map.without]), Map.get_without]
    split <;> rfl

/-! ## The canonical form -/

/-- A lower bound may be weakened. -/
theorem Map.wfFrom_mono {m : List (Nat × α)} {lo lo' : Nat} (h : Map.wfFrom d lo m = true) (hl : lo' ≤ lo) :
    Map.wfFrom d lo' m = true := by
  cases m with
  | nil => rfl
  | cons x m =>
    simp only [Map.wfFrom, Bool.and_eq_true, decide_eq_true_eq] at h ⊢
    exact ⟨⟨by omega, h.1.2⟩, h.2⟩

/-- Leaving out entries keeps the canonical form. -/
theorem Map.wfFrom_filter {m : List (Nat × α)} {lo : Nat} (t : Nat × α → Bool) (h : Map.wfFrom d lo m = true) :
    Map.wfFrom d lo (m.filter t) = true := by
  induction m generalizing lo with
  | nil => rfl
  | cons x m ih =>
    simp only [Map.wfFrom, Bool.and_eq_true, decide_eq_true_eq] at h
    rw [List.filter_cons]
    split
    · simp only [Map.wfFrom, Bool.and_eq_true, decide_eq_true_eq]
      exact ⟨h.1, ih h.2⟩
    · exact ih (Map.wfFrom_mono d h.2 (by omega))

/-- Putting an entry of a new key whose value is not the unlisted one keeps the canonical form. -/
theorem Map.wfFrom_put {m : List (Nat × α)} {lo k : Nat} {v : α} (h : Map.wfFrom d lo m = true) (hk : lo ≤ k)
    (hn : ∀ x ∈ m, x.1 ≠ k) (hv : v ≠ d) : Map.wfFrom d lo (Map.put m k v) = true := by
  induction m generalizing lo with
  | nil => simp [Map.put, Map.wfFrom, hk, hv]
  | cons x m ih =>
    obtain ⟨i, w⟩ := x
    have hi : i ≠ k := hn (i, w) (by simp)
    simp only [Map.wfFrom, Bool.and_eq_true, decide_eq_true_eq] at h
    rw [Map.put]
    split
    · simp only [Map.wfFrom, Bool.and_eq_true, decide_eq_true_eq, Bool.not_eq_true', decide_eq_false_iff_not]
      exact ⟨⟨hk, hv⟩, ⟨by omega, by simpa using h.1.2⟩, h.2⟩
    · simp only [Map.wfFrom, Bool.and_eq_true, decide_eq_true_eq]
      exact ⟨h.1, ih h.2 (by omega) fun x hx => hn x (by simp [hx])⟩

/-- A write keeps the canonical form. -/
theorem Map.wf_set {m : List (Nat × α)} (k : Nat) (v : α) (h : Map.wf d m = true) : Map.wf d (Map.set d m k v) = true := by
  have hw : Map.wf d (Map.without m k) = true := Map.wfFrom_filter d _ h
  rw [Map.set]
  split
  · exact hw
  · next hv => exact Map.wfFrom_put d hw (Nat.zero_le _) (by simp [Map.without]) hv
/-- Leaving out entries keeps the canonical form. -/
theorem Map.wf_filter {m : List (Nat × α)} (t : Nat × α → Bool) (h : Map.wf d m = true) : Map.wf d (m.filter t) = true :=
  Map.wfFrom_filter d t h
@[simp] theorem Map.wf_nil : Map.wf d ([] : List (Nat × α)) = true := rfl

/-! ## Bytes -/

/-- Bytes written keep the canonical form. -/
theorem Map.wf_setBytes {m : List (Nat × Byte)} (a : Nat) (b : List Byte) (h : Memory.wf m = true) :
    Memory.wf (Map.setBytes m a b) = true := by
  induction b generalizing m a with
  | nil => exact h
  | cons x b ih => exact ih (a + 1) (Map.wf_set 0 a x h)

/-- A byte after bytes were written upward from an address: one of them inside the range, as before outside. -/
theorem Map.get_setBytes (m : List (Nat × Byte)) (a : Nat) (b : List Byte) (j : Nat) :
    Map.get 0 (Map.setBytes m a b) j = if a ≤ j ∧ j < a + b.length then b.getD (j - a) 0 else Map.get 0 m j := by
  induction b generalizing m a with
  | nil => rw [if_neg (by simp)]; rfl
  | cons x b ih =>
    rw [Map.setBytes, ih, Map.get_set]
    by_cases h : j = a
    · subst h; rw [if_neg (by omega), if_pos rfl, if_pos (by simp)]; simp
    · by_cases h2 : a + 1 ≤ j ∧ j < a + 1 + b.length
      · rw [if_pos h2, if_pos (by simp; omega), show j - a = (j - (a + 1)) + 1 by omega]; simp
      · rw [if_neg h2, if_neg h, if_neg (by simp; omega)]

@[simp] theorem Map.bytes_length (m : List (Nat × Byte)) (a n : Nat) : (Map.bytes m a n).length = n := by
  induction n generalizing a with
  | zero => rfl
  | succ n ih => simp [Map.bytes, ih]

/-- A number is its bytes (little-endian). -/
theorem leNat_natBytes (n v : Nat) : leNat (natBytes n v) = v % 256 ^ n := by
  induction n generalizing v with
  | zero => simp [natBytes, leNat, Nat.mod_one]
  | succ n ih =>
    rw [natBytes, leNat, ih, BitVec.toNat_ofNat, Nat.pow_succ 256, Nat.mul_comm _ 256]
    exact (Nat.mod_mul (x := v) (a := 256)).symm
@[simp] theorem natBytes_length (n v : Nat) : (natBytes n v).length = n := by
  induction n generalizing v with
  | zero => rfl
  | succ n ih => simp [natBytes, ih]

end Sys2Proof.Machine
end

