-- ==== Sys2Proof/Laws/State.lean ====
section
/-! SUPPORT. One lemma per field for each replacement of a part of the state, so that no proof unfolds a record update, and
what the accessors of a context change. -/

namespace Sys2Proof.Machine

/-! ## Replacing a part of the state -/

@[simp] theorem State.setX_x (s : State) (c : Ctx) : (s.setX c).x = c := rfl
@[simp] theorem State.setX_xn (s : State) (c : Ctx) : (s.setX c).xn = s.xn := rfl
@[simp] theorem State.setX_run (s : State) (c : Ctx) : (s.setX c).run = s.run := rfl
@[simp] theorem State.setX_rest (s : State) (c : Ctx) : (s.setX c).rest = s.rest := rfl
@[simp] theorem State.setX_core (s : State) (c : Ctx) : (s.setX c).core = s.core := rfl
@[simp] theorem State.setX_die (s : State) (c : Ctx) : (s.setX c).die = s.die := rfl
@[simp] theorem State.setX_part (s : State) (c : Ctx) : (s.setX c).part = s.part := rfl
@[simp] theorem State.setX_pkg (s : State) (c : Ctx) : (s.setX c).pkg = s.pkg := rfl
@[simp] theorem State.setX_agenda (s : State) (c : Ctx) : (s.setX c).agenda = s.agenda := rfl
@[simp] theorem State.setX_cur (s : State) (c : Ctx) : (s.setX c).cur = s.cur := rfl
@[simp] theorem State.setX_gtc (s : State) (c : Ctx) : (s.setX c).gtc = s.gtc := rfl
@[simp] theorem State.setX_free (s : State) (c : Ctx) : (s.setX c).free = s.free := rfl
@[simp] theorem State.setX_self (s : State) : s.setX s.x = s := rfl
@[simp] theorem State.setX_setX (s : State) (a b : Ctx) : (s.setX a).setX b = s.setX b := rfl

@[simp] theorem State.setCore_x (s : State) (c : CoreSt) : (s.setCore c).x = s.x := rfl
@[simp] theorem State.setCore_xn (s : State) (c : CoreSt) : (s.setCore c).xn = s.xn := rfl
@[simp] theorem State.setCore_run (s : State) (c : CoreSt) : (s.setCore c).run = s.run := rfl
@[simp] theorem State.setCore_rest (s : State) (c : CoreSt) : (s.setCore c).rest = s.rest := rfl
@[simp] theorem State.setCore_core (s : State) (c : CoreSt) : (s.setCore c).core = c := rfl
@[simp] theorem State.setCore_die (s : State) (c : CoreSt) : (s.setCore c).die = s.die := rfl
@[simp] theorem State.setCore_part (s : State) (c : CoreSt) : (s.setCore c).part = s.part := rfl
@[simp] theorem State.setCore_pkg (s : State) (c : CoreSt) : (s.setCore c).pkg = s.pkg := rfl
@[simp] theorem State.setCore_agenda (s : State) (c : CoreSt) : (s.setCore c).agenda = s.agenda := rfl
@[simp] theorem State.setCore_cur (s : State) (c : CoreSt) : (s.setCore c).cur = s.cur := rfl
@[simp] theorem State.setCore_gtc (s : State) (c : CoreSt) : (s.setCore c).gtc = s.gtc := rfl
@[simp] theorem State.setCore_free (s : State) (c : CoreSt) : (s.setCore c).free = s.free := rfl
@[simp] theorem State.setCore_self (s : State) : s.setCore s.core = s := rfl
@[simp] theorem State.setCore_setCore (s : State) (a b : CoreSt) : (s.setCore a).setCore b = s.setCore b := rfl

@[simp] theorem State.setPkg_x (s : State) (p : Pkg) : (s.setPkg p).x = s.x := rfl
@[simp] theorem State.setPkg_xn (s : State) (p : Pkg) : (s.setPkg p).xn = s.xn := rfl
@[simp] theorem State.setPkg_run (s : State) (p : Pkg) : (s.setPkg p).run = s.run := rfl
@[simp] theorem State.setPkg_rest (s : State) (p : Pkg) : (s.setPkg p).rest = s.rest := rfl
@[simp] theorem State.setPkg_core (s : State) (p : Pkg) : (s.setPkg p).core = s.core := rfl
@[simp] theorem State.setPkg_die (s : State) (p : Pkg) : (s.setPkg p).die = s.die := rfl
@[simp] theorem State.setPkg_part (s : State) (p : Pkg) : (s.setPkg p).part = s.part := rfl
@[simp] theorem State.setPkg_pkg (s : State) (p : Pkg) : (s.setPkg p).pkg = p := rfl
@[simp] theorem State.setPkg_agenda (s : State) (p : Pkg) : (s.setPkg p).agenda = s.agenda := rfl
@[simp] theorem State.setPkg_cur (s : State) (p : Pkg) : (s.setPkg p).cur = s.cur := rfl
@[simp] theorem State.setPkg_gtc (s : State) (p : Pkg) : (s.setPkg p).gtc = s.gtc := rfl
@[simp] theorem State.setPkg_free (s : State) (p : Pkg) : (s.setPkg p).free = s.free := rfl
@[simp] theorem State.setPkg_self (s : State) : s.setPkg s.pkg = s := rfl
@[simp] theorem State.setPkg_setPkg (s : State) (a b : Pkg) : (s.setPkg a).setPkg b = s.setPkg b := rfl

@[simp] theorem State.setCur_x (s : State) (f : Frame) : (s.setCur f).x = s.x := rfl
@[simp] theorem State.setCur_xn (s : State) (f : Frame) : (s.setCur f).xn = s.xn := rfl
@[simp] theorem State.setCur_run (s : State) (f : Frame) : (s.setCur f).run = s.run := rfl
@[simp] theorem State.setCur_rest (s : State) (f : Frame) : (s.setCur f).rest = s.rest := rfl
@[simp] theorem State.setCur_core (s : State) (f : Frame) : (s.setCur f).core = s.core := rfl
@[simp] theorem State.setCur_die (s : State) (f : Frame) : (s.setCur f).die = s.die := rfl
@[simp] theorem State.setCur_part (s : State) (f : Frame) : (s.setCur f).part = s.part := rfl
@[simp] theorem State.setCur_pkg (s : State) (f : Frame) : (s.setCur f).pkg = s.pkg := rfl
@[simp] theorem State.setCur_agenda (s : State) (f : Frame) : (s.setCur f).agenda = s.agenda := rfl
@[simp] theorem State.setCur_cur (s : State) (f : Frame) : (s.setCur f).cur = f := rfl
@[simp] theorem State.setCur_gtc (s : State) (f : Frame) : (s.setCur f).gtc = s.gtc := rfl
@[simp] theorem State.setCur_free (s : State) (f : Frame) : (s.setCur f).free = s.free := rfl
@[simp] theorem State.setCur_self (s : State) : s.setCur s.cur = s := rfl
@[simp] theorem State.setCur_setCur (s : State) (a b : Frame) : (s.setCur a).setCur b = s.setCur b := rfl

@[simp] theorem State.setDie_x (s : State) (d : DieSt) : (s.setDie d).x = s.x := rfl
@[simp] theorem State.setDie_xn (s : State) (d : DieSt) : (s.setDie d).xn = s.xn := rfl
@[simp] theorem State.setDie_run (s : State) (d : DieSt) : (s.setDie d).run = s.run := rfl
@[simp] theorem State.setDie_rest (s : State) (d : DieSt) : (s.setDie d).rest = s.rest := rfl
@[simp] theorem State.setDie_core (s : State) (d : DieSt) : (s.setDie d).core = s.core := rfl
@[simp] theorem State.setDie_die (s : State) (d : DieSt) : (s.setDie d).die = d := rfl
@[simp] theorem State.setDie_part (s : State) (d : DieSt) : (s.setDie d).part = s.part := rfl
@[simp] theorem State.setDie_pkg (s : State) (d : DieSt) : (s.setDie d).pkg = s.pkg := rfl
@[simp] theorem State.setDie_agenda (s : State) (d : DieSt) : (s.setDie d).agenda = s.agenda := rfl
@[simp] theorem State.setDie_cur (s : State) (d : DieSt) : (s.setDie d).cur = s.cur := rfl
@[simp] theorem State.setDie_gtc (s : State) (d : DieSt) : (s.setDie d).gtc = s.gtc := rfl
@[simp] theorem State.setDie_free (s : State) (d : DieSt) : (s.setDie d).free = s.free := rfl
@[simp] theorem State.setDie_self (s : State) : s.setDie s.die = s := rfl
@[simp] theorem State.setDie_setDie (s : State) (a b : DieSt) : (s.setDie a).setDie b = s.setDie b := rfl

@[simp] theorem State.setPart_x (s : State) (p : Part) : (s.setPart p).x = s.x := rfl
@[simp] theorem State.setPart_xn (s : State) (p : Part) : (s.setPart p).xn = s.xn := rfl
@[simp] theorem State.setPart_run (s : State) (p : Part) : (s.setPart p).run = s.run := rfl
@[simp] theorem State.setPart_rest (s : State) (p : Part) : (s.setPart p).rest = s.rest := rfl
@[simp] theorem State.setPart_core (s : State) (p : Part) : (s.setPart p).core = s.core := rfl
@[simp] theorem State.setPart_die (s : State) (p : Part) : (s.setPart p).die = s.die := rfl
@[simp] theorem State.setPart_part (s : State) (p : Part) : (s.setPart p).part = p := rfl
@[simp] theorem State.setPart_pkg (s : State) (p : Part) : (s.setPart p).pkg = s.pkg := rfl
@[simp] theorem State.setPart_agenda (s : State) (p : Part) : (s.setPart p).agenda = s.agenda := rfl
@[simp] theorem State.setPart_cur (s : State) (p : Part) : (s.setPart p).cur = s.cur := rfl
@[simp] theorem State.setPart_gtc (s : State) (p : Part) : (s.setPart p).gtc = s.gtc := rfl
@[simp] theorem State.setPart_free (s : State) (p : Part) : (s.setPart p).free = s.free := rfl
@[simp] theorem State.setPart_self (s : State) : s.setPart s.part = s := rfl
@[simp] theorem State.setPart_setPart (s : State) (a b : Part) : (s.setPart a).setPart b = s.setPart b := rfl

/-! ## Contexts -/

/-- The context on the issue path is the one of its number. -/
@[simp] theorem State.ctx_xn (s : State) : s.ctx s.xn = s.x := by simp [State.ctx]

/-- Replacing the context on the issue path leaves the others. -/
theorem State.setX_ctx (s : State) (c : Ctx) (n : Nat) : (s.setX c).ctx n = if n = s.xn then c else s.ctx n := by
  by_cases h : n = s.xn <;> simp [State.ctx, h]

/-- Writing a scalar register changes the scalar registers alone. -/
theorem Ctx.setS_eq (c : Ctx) (n : Nat) (v : Dword) : c.setS n v = { c with s := (c.setS n v).s } := by
  unfold Ctx.setS; split <;> rfl
/-- Writing a predicate changes the predicates alone. -/
theorem Ctx.setP_eq (c : Ctx) (n : Nat) (b : Bool) : c.setP n b = { c with p := (c.setP n b).p } := by
  unfold Ctx.setP; split <;> rfl
/-- s0 reads zero (01 R20). -/
@[simp] theorem Ctx.sreg_zero (c : Ctx) : c.sreg 0 = 0 := rfl
/-- p0 reads true (01 R20). -/
@[simp] theorem Ctx.preg_zero (c : Ctx) : c.preg 0 = true := rfl
/-- l0 is all ones (06 R130). -/
@[simp] theorem Ctx.lmask_zero (c : Ctx) (cl : Nat) : c.lmask cl 0 = BitVec.allOnes 16 := rfl

end Sys2Proof.Machine
end

