-- ==== Sys2Proof/Laws/Memory.lean ====
section
/-! SUPPORT. Memory: what a byte reads after a write under a key, and that every memory operation keeps the canonical form
(10 R225 to R227, log 4). -/

namespace Sys2Proof.Machine

/-- Entries of a range of keys are gone, the others read as before. -/
@[simp] theorem Map.get_drop {α : Type} (d : α) (m : List (Nat × α)) (lo n k : Nat) :
    Map.get d (Map.drop m lo n) k = if lo ≤ k ∧ k < lo + n then d else Map.get d m k := by
  induction m with
  | nil => simp [Map.drop, Map.get]
  | cons x m ih =>
    obtain ⟨j, v⟩ := x
    simp only [Map.drop, List.filter_cons] at ih ⊢
    by_cases h : j < lo ∨ lo + n ≤ j
    · have h' : (decide (j < lo) || decide (lo + n ≤ j)) = true := by simpa using h
      simp only [h', if_true, Map.get]
      split
      · subst_vars; rw [if_neg]; omega
      · exact ih
    · have h' : (decide (j < lo) || decide (lo + n ≤ j)) = false := by simpa using h
      simp only [h', Map.get]
      rw [if_neg (by simp), ih]
      split
      · rfl
      · rw [if_neg]; rintro rfl; omega

/-! ## The canonical form -/

theorem Map.wf_drop {α : Type} [DecidableEq α] (d : α) {m : List (Nat × α)} (lo n : Nat) (h : Map.wf d m = true) :
    Map.wf d (Map.drop m lo n) = true := Map.wf_filter d _ h
theorem Pkg.wf_goLive {p : Pkg} (pa : Nat) (h : Memory.wf p.mem = true) : Memory.wf (p.goLive pa).mem = true := by
  unfold Pkg.goLive
  split
  · exact h
  · exact Map.wf_drop 0 _ _ h
theorem Pkg.wf_claim {p : Pkg} (k pa : Nat) (h : Memory.wf p.mem = true) : Memory.wf (p.claim k pa).mem = true := by
  unfold Pkg.claim
  split
  · exact h
  · exact Map.wf_drop 0 _ _ h
theorem Pkg.wf_write {p : Pkg} (k pa : Nat) (b : Byte) (h : Memory.wf p.mem = true) :
    Memory.wf (p.write k pa b).mem = true :=
  Map.wf_set 0 pa b (Pkg.wf_claim k pa (Pkg.wf_goLive pa h))
theorem Pkg.wf_writes {p : Pkg} (k pa : Nat) (b : List Byte) (h : Memory.wf p.mem = true) :
    Memory.wf (p.writes k pa b).mem = true := by
  induction b generalizing p pa with
  | nil => exact h
  | cons x b ih => exact ih (pa + 1) (Pkg.wf_write k pa x h)
theorem State.wf_padWrite {s : State} (a : Nat) (b : List Byte) (h : Memory.wf s.core.pad = true) :
    Memory.wf (s.padWrite a b).core.pad = true := Map.wf_setBytes a b h
/-- Memory after reset has the form. -/
theorem State.reset_mem_wf : Memory.wf State.reset.pkg.mem = true := rfl

/-! ## Reading after writing -/

/-- The lines of a 2 MiB region. -/
theorem line_in_region (a pa : Nat) :
    (pa / 2097152 * 16384 ≤ a / 128 ∧ a / 128 < pa / 2097152 * 16384 + 16384) ↔ a / 2097152 = pa / 2097152 := by
  rw [show a / 2097152 = a / 128 / 16384 from (Nat.div_div_eq_div_mul a 128 16384).symm]
  generalize a / 128 = q
  generalize pa / 2097152 = r
  omega

theorem Pkg.read_goLive (p : Pkg) (k pa a : Nat) (hk : k ≠ 0) : (p.goLive pa).read k a = p.read k a := by
  unfold Pkg.goLive
  split
  · rfl
  · next h =>
    have h1 : ¬ 0x00C000000000 ≤ pa := by intro hh; simp [Pkg.liveAt, hh] at h
    have h2 : Map.get false p.live (pa / 2097152) = false := by simpa [Pkg.liveAt, h1] using h
    simp only [Pkg.read, Pkg.liveAt, Pkg.keyAt, Map.get_set, Map.get_drop, Nat.reducePow]
    have hq := line_in_region a pa
    by_cases hr : a / 2097152 = pa / 2097152
    · have hlo : pa / 2097152 * 2097152 ≤ a ∧ a < pa / 2097152 * 2097152 + 2097152 := by omega
      have hke := hq.mpr hr
      have hna : ¬ 0x00C000000000 ≤ a := by omega
      have hh : isHost a = false := by simp only [isHost, Bool.and_eq_false_iff, decide_eq_false_iff_not]; omega
      rw [if_pos hr, if_pos hlo, if_pos hke]
      have hl : Map.get false p.live (a / 2097152) = false := by rw [hr]; exact h2
      simp [hh, hna, hl, hk.symm]
    · have hlo : ¬ (pa / 2097152 * 2097152 ≤ a ∧ a < pa / 2097152 * 2097152 + 2097152) := by omega
      have hke := mt hq.mp hr
      rw [if_neg hr, if_neg hlo, if_neg hke]; rfl

theorem Pkg.liveAt_goLive (p : Pkg) (pa : Nat) : (p.goLive pa).liveAt pa = true := by
  unfold Pkg.goLive
  split
  · assumption
  · simp [Pkg.liveAt, Map.get_set]

theorem Pkg.read_claim (p : Pkg) (k pa a : Nat) : (p.claim k pa).read k a = p.read k a := by
  unfold Pkg.claim
  split
  · rfl
  · next h =>
    simp only [Bool.or_eq_true, decide_eq_true_eq, not_or, Bool.not_eq_true] at h
    obtain ⟨h1, h2⟩ := h
    simp only [Pkg.read, Pkg.liveAt, Pkg.keyAt, Map.get_set, Map.get_drop]
    by_cases hr : a / 128 = pa / 128
    · have hlo : pa / 128 * 128 ≤ a ∧ a < pa / 128 * 128 + 128 := by omega
      have hh : isHost a = false := by
        simp only [isHost, Bool.and_eq_false_iff, decide_eq_false_iff_not] at h1 ⊢; omega
      have h3 : Map.get 0 p.key (pa / 128) ≠ k := h2
      rw [if_pos hr, if_pos hlo]
      simp [hh, hr, h3]
    · have hlo : ¬ (pa / 128 * 128 ≤ a ∧ a < pa / 128 * 128 + 128) := by omega
      rw [if_neg hr, if_neg hlo]; rfl

/-- A byte after a write under a key id that is not 0: the byte written where it was written, every other as before (10 R225
to R227). -/
theorem Pkg.read_write (p : Pkg) (k pa : Nat) (b : Byte) (a : Nat) (hk : k ≠ 0) :
    (p.write k pa b).read k a = if a = pa then b else p.read k a := by
  have h0 : ((p.goLive pa).claim k pa).read k a = p.read k a := by rw [Pkg.read_claim, Pkg.read_goLive _ _ _ _ hk]
  by_cases h : a = pa
  · subst h
    rw [if_pos rfl]
    have hl : (p.write k a b).liveAt a = true := by
      show ((p.goLive a).claim k a).liveAt a = true
      unfold Pkg.claim; split
      · exact p.liveAt_goLive a
      · exact p.liveAt_goLive a
    have hkey : isHost a = true ∨ (p.write k a b).keyAt a = k := by
      show isHost a = true ∨ ((p.goLive a).claim k a).keyAt a = k
      unfold Pkg.claim; split
      · next h => simpa using h
      · right; simp [Pkg.keyAt, Map.get_set]
    have hm : Map.get 0 (p.write k a b).mem a = b := by rw [Pkg.write, Map.get_set, if_pos rfl]
    rw [Pkg.read, hl, hm]
    rcases hkey with hk' | hk' <;> simp [hk', hk]
  · rw [if_neg h, ← h0]
    simp only [Pkg.write, Pkg.read, Map.get_set, if_neg h]
    rfl

/-- Bytes written upward: the byte of the range, every other as before. -/
theorem Pkg.read_writes (p : Pkg) (k pa : Nat) (b : List Byte) (a : Nat) (hk : k ≠ 0) :
    (p.writes k pa b).read k a = if pa ≤ a ∧ a < pa + b.length then b.getD (a - pa) 0 else p.read k a := by
  induction b generalizing p pa with
  | nil => rw [if_neg (by simp)]; rfl
  | cons x b ih =>
    rw [Pkg.writes, ih, Pkg.read_write _ _ _ _ _ hk]
    by_cases h : a = pa
    · subst h; rw [if_neg (by omega), if_pos rfl, if_pos (by simp)]; simp
    · by_cases h2 : pa + 1 ≤ a ∧ a < pa + 1 + b.length
      · rw [if_pos h2, if_pos (by simp; omega), show a - pa = (a - (pa + 1)) + 1 by omega]; simp
      · rw [if_neg h2, if_neg h, if_neg (by simp; omega)]

/-- Bytes written change nothing but what memory holds. -/
theorem Pkg.writes_eq (p : Pkg) (k pa : Nat) (b : List Byte) : p.writes k pa b = { p with
    mem := (p.writes k pa b).mem, key := (p.writes k pa b).key, live := (p.writes k pa b).live,
    filling := (p.writes k pa b).filling, corrupt := (p.writes k pa b).corrupt } := by
  induction b generalizing p pa with
  | nil => rfl
  | cons x b ih =>
    rw [Pkg.writes, ih]
    unfold Pkg.write Pkg.claim Pkg.goLive
    simp only
    repeat' split
    all_goals rfl

theorem Pkg.reads_length (p : Pkg) (k pa n : Nat) : (p.reads k pa n).length = n := by
  induction n generalizing pa with
  | zero => rfl
  | succ n ih => simp [Pkg.reads, ih]
/-- Byte i of bytes read upward. -/
theorem Pkg.reads_getD (p : Pkg) (k pa n i : Nat) (h : i < n) : (p.reads k pa n).getD i 0 = p.read k (pa + i) := by
  induction n generalizing pa i with
  | zero => omega
  | succ n ih =>
    cases i with
    | zero => simp [Pkg.reads]
    | succ i => simp only [Pkg.reads, List.getD_cons_succ]; rw [ih (pa + 1) i (by omega)]; congr 1; omega

end Sys2Proof.Machine
end

