-- ==== Sys2Proof/Laws/Ops.lean ====
section
/-! SUPPORT. What each shared operation can do, said once: causes, waits, results in flight, operands and destinations of
the vector kinds, translation, accepted commands, and replacing a context. -/

namespace Sys2Proof.Machine

/-! ## Causes and waits -/

/-- The information of a cause of the slot in execution as a number (03 R69). -/
theorem State.slotInfo_eq (s : State) (pos : Nat) (h : pos < 2 ^ 29) : s.slotInfo pos = s.defaultInfo pos := by
  have hw := s.cur.word.isLt
  have hc : s.cur.cluster % 8 < 8 := Nat.mod_lt _ (by decide)
  have h1 : s.cur.word.toNat ||| (s.cur.cluster % 8) <<< 32 = (s.cur.cluster % 8) <<< 32 + s.cur.word.toNat := by
    rw [Nat.or_comm]; exact (Nat.shiftLeft_add_eq_or_of_lt hw _).symm
  have h2 : (s.cur.cluster % 8) <<< 32 + s.cur.word.toNat < 2 ^ 35 := by rw [Nat.shiftLeft_eq]; omega
  apply BitVec.eq_of_toNat_eq
  have e1 : s.cur.word.toNat % 2 ^ 64 = s.cur.word.toNat := Nat.mod_eq_of_lt (by omega)
  have e2 : (s.cur.cluster % 8 % 2 ^ 64) <<< 32 % 2 ^ 64 = (s.cur.cluster % 8) <<< 32 := by
    rw [Nat.mod_eq_of_lt (by omega : s.cur.cluster % 8 < 2 ^ 64), Nat.shiftLeft_eq]; omega
  have e3 : (pos % 2 ^ 64) <<< 35 % 2 ^ 64 = pos <<< 35 := by
    rw [Nat.mod_eq_of_lt (by omega : pos < 2 ^ 64), Nat.shiftLeft_eq]; omega
  simp only [State.slotInfo, State.defaultInfo, BitVec.toNat_or, BitVec.toNat_setWidth, BitVec.toNat_shiftLeft,
    BitVec.toNat_ofNat, e1, e2, e3, h1]
  rw [Nat.or_comm, ← Nat.shiftLeft_add_eq_or_of_lt h2, Nat.shiftLeft_eq, Nat.shiftLeft_eq]
  omega

theorem State.causeI_eq (s : State) (rank code : Nat) (info : Dword) : s.causeI rank code info = s.withCause rank code info :=
  rfl
/-- A cause of execution. -/
theorem State.cause_eq (s : State) (code : Nat) : s.cause code = s.withCause 8 code (s.defaultInfo 0) := by
  rw [State.cause, s.slotInfo_eq 0 (by decide)]; rfl
/-- illegal-operand of a kind at a bit position. -/
theorem State.illOperand_eq (s : State) (k : Kind) (pos : Nat) (h : pos < 2 ^ 29) :
    s.illOperand k pos = s.withCause 3 (0x10 + k.num) (s.defaultInfo pos) := by
  rw [State.illOperand, s.slotInfo_eq pos h]; rfl
/-- illegal-op of a kind. -/
theorem State.illOp_eq (s : State) (k : Kind) : s.illOp k = s.withCause 2 (0x08 + k.num) (s.defaultInfo 0) := by
  rw [State.illOp, s.slotInfo_eq 0 (by decide)]; rfl
/-- privilege. -/
theorem State.privilege_eq (s : State) : s.privilege = s.withCause 4 0xA0 (s.defaultInfo 0) := by
  rw [State.privilege, s.slotInfo_eq 0 (by decide)]; rfl
theorem State.wait_eq (s : State) (code : Nat) : s.wait code = s.withWait code := rfl
theorem State.post_eq (s : State) (p : Post) : s.post p = s.withPosts [p] := rfl
theorem State.whenP_eq (s : State) (p : BitVec 3) (k : State → State) :
    s.whenP p k = if s.x.preg p.toNat then k s else s := rfl
/-- What runs under privilege. -/
theorem State.needPriv_eq (s : State) (k : State → State) :
    s.needPriv k = if s.x.sp || s.x.h then k s else s.withCause 4 0xA0 (s.defaultInfo 0) := by
  rw [State.needPriv, Ctx.priv, s.privilege_eq]

/-! ## Results in flight, operands and destinations -/

/-- A result put in flight. -/
theorem State.land_eq (s : State) (lat unit cluster dest what : Nat) (lanes : BitVec 16) (val : Lanes) :
    s.land lat unit cluster dest what lanes val = s.withFlight [⟨s.x.bno + lat, unit, cluster, dest, what, lanes, val⟩] := rfl

/-- Raising flags changes the frame alone (08 R170, R172). -/
theorem State.raise_eq (s : State) (cl unit : Nat) (fl : Nat → Nat) :
    s.raise cl unit fl = { s with cur := (s.raise cl unit fl).cur } := by
  have key (l : List Nat) (g : Nat → Bool) (code : Nat → Nat) (info : State → Nat → Dword) (t : State) :
      l.foldl (fun s n => if g n then s.causeI 7 (code n) (info s n) else s) t =
        { t with cur := (l.foldl (fun s n => if g n then s.causeI 7 (code n) (info s n) else s) t).cur } := by
    induction l generalizing t with
    | nil => rfl
    | cons n l ih =>
      rw [List.foldl_cons, ih]
      split <;> rfl
  unfold State.raise
  simp only
  split
  · rfl
  · exact (key _ _ _ _ _).trans rfl

/-- A popped chunk changes the frame alone: the head moves as the bundle commits (09 R201). -/
theorem State.popChunk_eq (s : State) (k : Kind) (cl q : Nat) (m : BitVec 16) :
    (s.popChunk k cl q m).1 = { s with cur := (s.popChunk k cl q m).1.cur } := by
  unfold State.popChunk
  simp only
  split
  · rfl
  · split
    · rfl
    · exact (State.raise_eq _ _ _ _).trans rfl

/-- Reading a source changes the frame alone (03 R56). -/
theorem State.src_eq (s : State) (k : Kind) (cl : Nat) (code : BitVec 6) (m : BitVec 16) :
    (s.src k cl code m).1 = { s with cur := (s.src k cl code m).1.cur } := by
  unfold State.src
  simp only
  split
  · rfl
  split
  · split
    · rfl
    · split <;> rfl
  split
  · split
    · split
      · rfl
      · split <;> rfl
    · split <;> rfl
  split
  · rfl
  split
  · rfl
  · exact s.popChunk_eq k cl _ m

/-- Capturing a source changes the frame alone (03 R58). -/
theorem State.capture_eq (s : State) (h : Bool) (k : Kind) (cl side : Nat) (v : Lanes) :
    s.capture h k cl side v = { s with cur := (s.capture h k cl side v).cur } := by
  unfold State.capture; split <;> rfl

/-- Reading source a, source b, and both changes the frame alone. -/
theorem State.srcA_eq (s : State) (k : Kind) (f : VR) (m : BitVec 16) :
    (s.srcA k f m).1 = { s with cur := (s.srcA k f m).1.cur } := by
  unfold State.srcA
  simp only
  rw [State.capture_eq, State.src_eq]
theorem State.srcB_eq (s : State) (k : Kind) (f : VR) (m : BitVec 16) :
    (s.srcB k f m).1 = { s with cur := (s.srcB k f m).1.cur } := by
  unfold State.srcB
  simp only
  rw [State.capture_eq, State.src_eq]
theorem State.srcAB_eq (s : State) (k : Kind) (f : VR) (m : BitVec 16) :
    (s.srcAB k f m).1 = { s with cur := (s.srcAB k f m).1.cur } := by
  unfold State.srcAB
  simp only
  rw [State.srcB_eq, State.srcA_eq]

/-- A vector result changes what is in flight and the frame alone (03 R57). -/
theorem State.landV_eq (s : State) (k : Kind) (f : VR) (lat : Nat) (m : BitVec 16) (val : Lanes) :
    s.landV k f lat m val = { s with
      x := { s.x with flight := (s.landV k f lat m val).x.flight }, cur := (s.landV k f lat m val).cur } := by
  unfold State.landV
  simp only
  split
  · split <;> rfl
  split
  · rfl
  split
  · rfl
  · rw [State.raise_eq]
    split <;> rfl

/-! ## Traps -/

/-- Taking a trap outside handler mode changes the context alone (18 R374). -/
theorem State.takeTrap_eq (s : State) (cause : Nat) (fmask : BitVec 16) (tinfo : Dword) (tpc : Addr) (h : s.x.h = false) :
    s.takeTrap cause fmask tinfo tpc = { s with x := (s.takeTrap cause fmask tinfo tpc).x } := by
  simp [State.takeTrap, h, State.setX]

/-! ## Translation and engines -/

/-- A look-up in the TLBs changes them alone (10 R216). -/
theorem State.tlbFind_eq (s : State) (va : Nat) : (s.tlbFind va).1 = { s with
    core := { s.core with utlb := (s.tlbFind va).1.core.utlb }, die := { s.die with tlb := (s.tlbFind va).1.die.tlb } } := by
  unfold State.tlbFind
  simp only
  repeat' split
  all_goals rfl
/-- A translation changes the TLBs alone. -/
theorem State.translate_eq (s : State) (va : Dword) (write priv : Bool) : (s.translate va write priv).1 = { s with
    core := { s.core with utlb := (s.translate va write priv).1.core.utlb },
    die := { s.die with tlb := (s.translate va write priv).1.die.tlb } } := by
  have h : (s.translate va write priv).1 = (s.tlbFind (va56 va)).1 := by
    unfold State.translate
    simp only
    repeat' split
    all_goals rfl
  rw [h]; exact s.tlbFind_eq _

/-- Setting the full bits of lines changes them alone (09 R193). -/
theorem State.setFulls_eq (s : State) (line : Nat) (f : Bool) (n : Nat) :
    s.setFulls line f n = { s with core := { s.core with notFull := (s.setFulls line f n).core.notFull } } := by
  induction n generalizing s line with
  | zero => rfl
  | succ n ih =>
    rw [State.setFulls, ih]; rfl
/-- The full bits after setting those of lines. -/
theorem State.full_setFulls (s : State) (line : Nat) (f : Bool) (n m : Nat) :
    (s.setFulls line f n).full m = if line ≤ m ∧ m < line + n then f else s.full m := by
  induction n generalizing s line with
  | zero => rw [State.setFulls, if_neg (by omega)]
  | succ n ih =>
    rw [State.setFulls, ih]
    by_cases h : line + 1 ≤ m ∧ m < line + 1 + n
    · rw [if_pos h, if_pos (by omega)]
    · rw [if_neg h]
      simp only [State.full, State.setFull, State.setCore_core, Map.get_set]
      by_cases h2 : m = line
      · rw [if_pos h2, if_pos (by omega)]; cases f <;> rfl
      · rw [if_neg h2, if_neg (by omega)]

/-- An accepted command with an entry free: one more command, and the lines of a marked write region empty (11 R244). -/
theorem State.accept_eq (s : State) (op : Instr) (args : List Dword) (req : List Byte) (rd wr : Option (Nat × Nat))
    (mark : Bool) (st : List Nat) (h : (rd.isSome || wr.isSome) = true → s.BoardFree) :
    ∃ c : Cmd, c.id = s.core.nextId ∧ c.op = op ∧ c.args = args ∧ c.rd = rd ∧ c.wr = wr ∧ c.strand = s.x.brec ∧
      s.accept op args req rd wr mark st =
        (let t := s.setCore { s.core with cmds := s.core.cmds ++ [c], nextId := s.core.nextId + 1 }
         if mark then t.regionFull wr false else t) := by
  refine ⟨{ id := s.core.nextId, ctx := s.xn, strand := s.x.brec, pitch := s.x.pitch, op := op, priv := s.x.priv,
            args := args, req := req, rd := rd, wr := wr, rdDone := rd.isNone, wrDone := wr.isNone, stop := false, orphan := false, st := st,
            att := none, old := (s.x.unseen.filter fun u => regionsMeet (some (u.addr, 16)) rd).map fun u => (u.addr, u.old) },
          rfl, rfl, rfl, rfl, rfl, rfl, ?_⟩
  unfold State.accept
  have : ((rd.isSome || wr.isSome) && decide (32 ≤ s.core.entries.length)) = false := by
    rw [Bool.and_eq_false_imp]; intro hb; have := h hb; simp [State.BoardFree] at this; simpa using this
  rw [this]; rfl

/-! ## Contexts -/

/-- A context replaced: it reads so, and the others as before. -/
theorem State.ctx_setCtx (s : State) (n : Nat) (c : Ctx) (m : Nat) :
    (s.setCtx n c).ctx m = if m = n then c else s.ctx m := by
  unfold State.setCtx
  split
  · next h => subst h; rw [State.setX_ctx]
  · next h =>
    simp only [State.ctx, Map.get_set]
    by_cases hm : m = s.xn
    · rw [if_pos hm, if_pos hm, if_neg (by rw [hm]; exact fun e => h e.symm)]
    · rw [if_neg hm, if_neg hm]

/-! ## The event log (18 R384) -/

theorem logInsert_length (r : LogRec) (l : List LogRec) : (logInsert r l).length = l.length + 1 := by
  induction l with
  | nil => rfl
  | cons x xs ih => simp only [logInsert]; split <;> simp [ih]

/-- No record is dropped or made by ordering them. -/
theorem Pkg.logOrdered_length (p : Pkg) : p.logOrdered.length = p.log.length := by
  have h : ∀ l acc : List LogRec, (l.foldl (fun l r => logInsert r l) acc).length = acc.length + l.length := by
    intro l
    induction l with
    | nil => simp
    | cons x xs ih => intro acc; simp [ih, logInsert_length]; omega
  simpa [Pkg.logOrdered] using h p.log []

/-- The ring never holds more records than its size. -/
theorem Pkg.logRing_length (p : Pkg) : p.logRing.length ≤ p.logSize := by
  simp [Pkg.logRing, Pkg.logOrdered_length]; omega

end Sys2Proof.Machine
end

