-- ==== Sys2Proof/Laws/PerInstr.lean ====
section
/-! SUPPORT. Per instruction: the op word that the encoder writes decodes, in the instruction's kind, to the instruction. -/

namespace Sys2Proof.Laws.EncodeDecode

/-- The op word of the instruction decodes to it, where its fields are those of the variant it names. -/
def Statement (i : Instr) : Prop :=
  ∀ k w, i.kind? = some k → encodeOp i = some w → variantOk i = true → decodeOp k w = some i

theorem not_of_notDecide {p : Prop} [Decidable p] (h : (!decide p) = true) : ¬ p := by simpa using h

theorem decodeS_word (o : BitVec 7) (w : Word) (i : Instr) (ho : opOf w = o) (h : decodeSAt o.toNat w = some i) :
    decodeS w = some i := by
  subst ho; exact h

theorem decodeG_word (o : BitVec 7) (w : Word) (i : Instr) (ho : opOf w = o) (h : decodeGAt o.toNat w = some i) :
    decodeG w = some i := by
  subst ho; exact h

theorem decodeE_word (o : BitVec 7) (w : Word) (i : Instr) (ho : opOf w = o) (h : decodeEAt o.toNat w = some i) :
    decodeE w = some i := by
  subst ho; exact h

theorem decodeAB_word (o : BitVec 7) (w : Word) (i : Instr) (ho : opOf w = o) (h : decodeABAt o.toNat w = some i) :
    decodeAB w = some i := by
  subst ho; exact h

theorem decodeM_word (o : BitVec 7) (w : Word) (i : Instr) (ho : opOf w = o) (h : decodeMAt o.toNat w = some i) :
    decodeM w = some i := by
  subst ho; exact h

theorem decodeF_word (o : BitVec 7) (w : Word) (i : Instr) (ho : opOf w = o) (h : decodeFAt o.toNat w = some i) :
    decodeF w = some i := by
  subst ho; exact h

theorem decodeX_word (o : BitVec 7) (w : Word) (i : Instr) (ho : opOf w = o) (h : decodeXAt o.toNat w = some i) :
    decodeX w = some i := by
  subst ho; exact h

theorem nop (f : SR) : Statement (.nop f) := by
  rintro k w ⟨⟩ ⟨⟩ _
  exact decodeS_word _ _ (.nop f) (SR.opOf_word 0x00#7 f) (congrArg (fun g => some (Instr.nop g)) (SR.ofWord_word 0x00#7 f))
theorem add (f : SR) : Statement (.add f) := by
  rintro k w ⟨⟩ ⟨⟩ _
  exact decodeS_word _ _ (.add f) (SR.opOf_word 0x01#7 f) (congrArg (fun g => some (Instr.add g)) (SR.ofWord_word 0x01#7 f))
theorem sub (f : SR) : Statement (.sub f) := by
  rintro k w ⟨⟩ ⟨⟩ _
  exact decodeS_word _ _ (.sub f) (SR.opOf_word 0x02#7 f) (congrArg (fun g => some (Instr.sub g)) (SR.ofWord_word 0x02#7 f))
theorem mul (f : SR) : Statement (.mul f) := by
  rintro k w ⟨⟩ ⟨⟩ _
  exact decodeS_word _ _ (.mul f) (SR.opOf_word 0x03#7 f) (congrArg (fun g => some (Instr.mul g)) (SR.ofWord_word 0x03#7 f))
theorem mulh (f : SR) : Statement (.mulh f) := by
  rintro k w ⟨⟩ ⟨⟩ _
  exact decodeS_word _ _ (.mulh f) (SR.opOf_word 0x04#7 f) (congrArg (fun g => some (Instr.mulh g)) (SR.ofWord_word 0x04#7 f))
theorem mulhu (f : SR) : Statement (.mulhu f) := by
  rintro k w ⟨⟩ ⟨⟩ _
  exact decodeS_word _ _ (.mulhu f) (SR.opOf_word 0x05#7 f) (congrArg (fun g => some (Instr.mulhu g)) (SR.ofWord_word 0x05#7 f))
theorem and (f : SR) : Statement (.and f) := by
  rintro k w ⟨⟩ ⟨⟩ _
  exact decodeS_word _ _ (.and f) (SR.opOf_word 0x06#7 f) (congrArg (fun g => some (Instr.and g)) (SR.ofWord_word 0x06#7 f))
theorem or (f : SR) : Statement (.or f) := by
  rintro k w ⟨⟩ ⟨⟩ _
  exact decodeS_word _ _ (.or f) (SR.opOf_word 0x07#7 f) (congrArg (fun g => some (Instr.or g)) (SR.ofWord_word 0x07#7 f))
theorem xor (f : SR) : Statement (.xor f) := by
  rintro k w ⟨⟩ ⟨⟩ _
  exact decodeS_word _ _ (.xor f) (SR.opOf_word 0x08#7 f) (congrArg (fun g => some (Instr.xor g)) (SR.ofWord_word 0x08#7 f))
theorem andn (f : SR) : Statement (.andn f) := by
  rintro k w ⟨⟩ ⟨⟩ _
  exact decodeS_word _ _ (.andn f) (SR.opOf_word 0x09#7 f) (congrArg (fun g => some (Instr.andn g)) (SR.ofWord_word 0x09#7 f))
theorem shl (f : SR) : Statement (.shl f) := by
  rintro k w ⟨⟩ ⟨⟩ _
  exact decodeS_word _ _ (.shl f) (SR.opOf_word 0x0A#7 f) (congrArg (fun g => some (Instr.shl g)) (SR.ofWord_word 0x0A#7 f))
theorem shr (f : SR) : Statement (.shr f) := by
  rintro k w ⟨⟩ ⟨⟩ _
  exact decodeS_word _ _ (.shr f) (SR.opOf_word 0x0B#7 f) (congrArg (fun g => some (Instr.shr g)) (SR.ofWord_word 0x0B#7 f))
theorem sar (f : SR) : Statement (.sar f) := by
  rintro k w ⟨⟩ ⟨⟩ _
  exact decodeS_word _ _ (.sar f) (SR.opOf_word 0x0C#7 f) (congrArg (fun g => some (Instr.sar g)) (SR.ofWord_word 0x0C#7 f))
theorem min (f : SR) : Statement (.min f) := by
  rintro k w ⟨⟩ ⟨⟩ _
  exact decodeS_word _ _ (.min f) (SR.opOf_word 0x0D#7 f) (congrArg (fun g => some (Instr.min g)) (SR.ofWord_word 0x0D#7 f))
theorem max (f : SR) : Statement (.max f) := by
  rintro k w ⟨⟩ ⟨⟩ _
  exact decodeS_word _ _ (.max f) (SR.opOf_word 0x0E#7 f) (congrArg (fun g => some (Instr.max g)) (SR.ofWord_word 0x0E#7 f))
theorem minu (f : SR) : Statement (.minu f) := by
  rintro k w ⟨⟩ ⟨⟩ _
  exact decodeS_word _ _ (.minu f) (SR.opOf_word 0x0F#7 f) (congrArg (fun g => some (Instr.minu g)) (SR.ofWord_word 0x0F#7 f))
theorem maxu (f : SR) : Statement (.maxu f) := by
  rintro k w ⟨⟩ ⟨⟩ _
  exact decodeS_word _ _ (.maxu f) (SR.opOf_word 0x10#7 f) (congrArg (fun g => some (Instr.maxu g)) (SR.ofWord_word 0x10#7 f))
theorem clz (f : SR) : Statement (.clz f) := by
  rintro k w ⟨⟩ ⟨⟩ _
  exact decodeS_word _ _ (.clz f) (SR.opOf_word 0x11#7 f) (congrArg (fun g => some (Instr.clz g)) (SR.ofWord_word 0x11#7 f))
theorem popc (f : SR) : Statement (.popc f) := by
  rintro k w ⟨⟩ ⟨⟩ _
  exact decodeS_word _ _ (.popc f) (SR.opOf_word 0x12#7 f) (congrArg (fun g => some (Instr.popc g)) (SR.ofWord_word 0x12#7 f))
theorem sext (f : SR) : Statement (.sext f) := by
  rintro k w ⟨⟩ ⟨⟩ _
  exact decodeS_word _ _ (.sext f) (SR.opOf_word 0x13#7 f) (congrArg (fun g => some (Instr.sext g)) (SR.ofWord_word 0x13#7 f))
theorem bfx (f : SR) : Statement (.bfx f) := by
  rintro k w ⟨⟩ ⟨⟩ _
  exact decodeS_word _ _ (.bfx f) (SR.opOf_word 0x14#7 f) (congrArg (fun g => some (Instr.bfx g)) (SR.ofWord_word 0x14#7 f))
theorem bfi (f : SR) : Statement (.bfi f) := by
  rintro k w ⟨⟩ ⟨⟩ _
  exact decodeS_word _ _ (.bfi f) (SR.opOf_word 0x15#7 f) (congrArg (fun g => some (Instr.bfi g)) (SR.ofWord_word 0x15#7 f))
theorem addi (f : SI) : Statement (.addi f) := by
  rintro k w ⟨⟩ ⟨⟩ _
  exact decodeS_word _ _ (.addi f) (SI.opOf_word 0x18#7 f) (congrArg (fun g => some (Instr.addi g)) (SI.ofWord_word 0x18#7 f))
theorem andi (f : SI) : Statement (.andi f) := by
  rintro k w ⟨⟩ ⟨⟩ _
  exact decodeS_word _ _ (.andi f) (SI.opOf_word 0x19#7 f) (congrArg (fun g => some (Instr.andi g)) (SI.ofWord_word 0x19#7 f))
theorem ori (f : SI) : Statement (.ori f) := by
  rintro k w ⟨⟩ ⟨⟩ _
  exact decodeS_word _ _ (.ori f) (SI.opOf_word 0x1A#7 f) (congrArg (fun g => some (Instr.ori g)) (SI.ofWord_word 0x1A#7 f))
theorem xori (f : SI) : Statement (.xori f) := by
  rintro k w ⟨⟩ ⟨⟩ _
  exact decodeS_word _ _ (.xori f) (SI.opOf_word 0x1B#7 f) (congrArg (fun g => some (Instr.xori g)) (SI.ofWord_word 0x1B#7 f))
theorem shli (f : SI) : Statement (.shli f) := by
  rintro k w ⟨⟩ ⟨⟩ _
  exact decodeS_word _ _ (.shli f) (SI.opOf_word 0x1C#7 f) (congrArg (fun g => some (Instr.shli g)) (SI.ofWord_word 0x1C#7 f))
theorem shri (f : SI) : Statement (.shri f) := by
  rintro k w ⟨⟩ ⟨⟩ _
  exact decodeS_word _ _ (.shri f) (SI.opOf_word 0x1D#7 f) (congrArg (fun g => some (Instr.shri g)) (SI.ofWord_word 0x1D#7 f))
theorem sari (f : SI) : Statement (.sari f) := by
  rintro k w ⟨⟩ ⟨⟩ _
  exact decodeS_word _ _ (.sari f) (SI.opOf_word 0x1E#7 f) (congrArg (fun g => some (Instr.sari g)) (SI.ofWord_word 0x1E#7 f))
theorem li (f : SI) : Statement (.li f) := by
  rintro k w ⟨⟩ ⟨⟩ _
  exact decodeS_word _ _ (.li f) (SI.opOf_word 0x1F#7 f) (congrArg (fun g => some (Instr.li g)) (SI.ofWord_word 0x1F#7 f))
theorem cmp (f : SR) : Statement (.cmp f) := by
  rintro k w ⟨⟩ ⟨⟩ _
  exact decodeS_word _ _ (.cmp f) (SR.opOf_word 0x20#7 f) (congrArg (fun g => some (Instr.cmp g)) (SR.ofWord_word 0x20#7 f))
theorem cmpi (f : SI) : Statement (.cmpi f) := by
  rintro k w ⟨⟩ ⟨⟩ _
  exact decodeS_word _ _ (.cmpi f) (SI.opOf_word 0x21#7 f) (congrArg (fun g => some (Instr.cmpi g)) (SI.ofWord_word 0x21#7 f))
theorem sel (f : SR) : Statement (.sel f) := by
  rintro k w ⟨⟩ ⟨⟩ _
  exact decodeS_word _ _ (.sel f) (SR.opOf_word 0x22#7 f) (congrArg (fun g => some (Instr.sel g)) (SR.ofWord_word 0x22#7 f))
theorem plog (f : SR) : Statement (.plog f) := by
  rintro k w ⟨⟩ ⟨⟩ _
  exact decodeS_word _ _ (.plog f) (SR.opOf_word 0x23#7 f) (congrArg (fun g => some (Instr.plog g)) (SR.ofWord_word 0x23#7 f))
theorem br (f : SB) : Statement (.br f) := by
  rintro k w ⟨⟩ ⟨⟩ _
  exact decodeS_word _ _ (.br f) (SB.opOf_word 0x30#7 f) (congrArg (fun g => some (Instr.br g)) (SB.ofWord_word 0x30#7 f))
theorem jmp (f : SB) : Statement (.jmp f) := by
  rintro k w ⟨⟩ ⟨⟩ _
  exact decodeS_word _ _ (.jmp f) (SB.opOf_word 0x31#7 f) (congrArg (fun g => some (Instr.jmp g)) (SB.ofWord_word 0x31#7 f))
theorem call (f : SB) : Statement (.call f) := by
  rintro k w ⟨⟩ ⟨⟩ _
  exact decodeS_word _ _ (.call f) (SB.opOf_word 0x32#7 f) (congrArg (fun g => some (Instr.call g)) (SB.ofWord_word 0x32#7 f))
theorem jr (f : SR) : Statement (.jr f) := by
  rintro k w ⟨⟩ ⟨⟩ _
  exact decodeS_word _ _ (.jr f) (SR.opOf_word 0x33#7 f) (congrArg (fun g => some (Instr.jr g)) (SR.ofWord_word 0x33#7 f))
theorem ret (f : SR) : Statement (.ret f) := by
  rintro k w ⟨⟩ ⟨⟩ _
  exact decodeS_word _ _ (.ret f) (SR.opOf_word 0x34#7 f) (congrArg (fun g => some (Instr.ret g)) (SR.ofWord_word 0x34#7 f))
theorem loop (f : SR) : Statement (.loop f) := by
  rintro k w ⟨⟩ ⟨⟩ _
  exact decodeS_word _ _ (.loop f) (SR.opOf_word 0x35#7 f) (congrArg (fun g => some (Instr.loop g)) (SR.ofWord_word 0x35#7 f))
theorem loopi (f : SI) : Statement (.loopi f) := by
  rintro k w ⟨⟩ ⟨⟩ _
  exact decodeS_word _ _ (.loopi f) (SI.opOf_word 0x36#7 f) (congrArg (fun g => some (Instr.loopi g)) (SI.ofWord_word 0x36#7 f))
theorem lbrk (f : SB) : Statement (.lbrk f) := by
  rintro k w ⟨⟩ ⟨⟩ _
  exact decodeS_word _ _ (.lbrk f) (SB.opOf_word 0x37#7 f) (congrArg (fun g => some (Instr.lbrk g)) (SB.ofWord_word 0x37#7 f))
theorem yield (f : SI) : Statement (.yield f) := by
  rintro k w ⟨⟩ ⟨⟩ _
  exact decodeS_word _ _ (.yield f) (SI.opOf_word 0x38#7 f) (congrArg (fun g => some (Instr.yield g)) (SI.ofWord_word 0x38#7 f))
theorem park (f : SR) : Statement (.park f) := by
  rintro k w ⟨⟩ ⟨⟩ _
  exact decodeS_word _ _ (.park f) (SR.opOf_word 0x39#7 f) (congrArg (fun g => some (Instr.park g)) (SR.ofWord_word 0x39#7 f))
theorem halt (f : SR) : Statement (.halt f) := by
  rintro k w ⟨⟩ ⟨⟩ _
  exact decodeS_word _ _ (.halt f) (SR.opOf_word 0x3A#7 f) (congrArg (fun g => some (Instr.halt g)) (SR.ofWord_word 0x3A#7 f))
theorem wait (f : SR) : Statement (.wait f) := by
  rintro k w ⟨⟩ ⟨⟩ _
  exact decodeS_word _ _ (.wait f) (SR.opOf_word 0x3B#7 f) (congrArg (fun g => some (Instr.wait g)) (SR.ofWord_word 0x3B#7 f))
theorem iwin (f : SI) : Statement (.iwin f) := by
  rintro k w ⟨⟩ ⟨⟩ _
  exact decodeS_word _ _ (.iwin f) (SI.opOf_word 0x3C#7 f) (congrArg (fun g => some (Instr.iwin g)) (SI.ofWord_word 0x3C#7 f))
theorem ifence (f : SR) : Statement (.ifence f) := by
  rintro k w ⟨⟩ ⟨⟩ _
  exact decodeS_word _ _ (.ifence f) (SR.opOf_word 0x3D#7 f) (congrArg (fun g => some (Instr.ifence g)) (SR.ofWord_word 0x3D#7 f))
theorem swapb (f : SB) : Statement (.swapb f) := by
  rintro k w ⟨⟩ ⟨⟩ _
  exact decodeS_word _ _ (.swapb f) (SB.opOf_word 0x3E#7 f) (congrArg (fun g => some (Instr.swapb g)) (SB.ofWord_word 0x3E#7 f))
theorem spawn (f : SR) : Statement (.spawn f) := by
  rintro k w ⟨⟩ ⟨⟩ _
  exact decodeS_word _ _ (.spawn f) (SR.opOf_word 0x3F#7 f) (congrArg (fun g => some (Instr.spawn g)) (SR.ofWord_word 0x3F#7 f))
theorem csrr (f : SI) : Statement (.csrr f) := by
  rintro k w ⟨⟩ ⟨⟩ _
  exact decodeS_word _ _ (.csrr f) (SI.opOf_word 0x40#7 f) (congrArg (fun g => some (Instr.csrr g)) (SI.ofWord_word 0x40#7 f))
theorem csrw (f : SI) : Statement (.csrw f) := by
  rintro k w ⟨⟩ ⟨⟩ _
  exact decodeS_word _ _ (.csrw f) (SI.opOf_word 0x41#7 f) (congrArg (fun g => some (Instr.csrw g)) (SI.ofWord_word 0x41#7 f))
theorem gtc (f : SR) : Statement (.gtc f) := by
  rintro k w ⟨⟩ ⟨⟩ _
  exact decodeS_word _ _ (.gtc f) (SR.opOf_word 0x42#7 f) (congrArg (fun g => some (Instr.gtc g)) (SR.ofWord_word 0x42#7 f))
theorem trap (f : SI) : Statement (.trap f) := by
  rintro k w ⟨⟩ ⟨⟩ _
  exact decodeS_word _ _ (.trap f) (SI.opOf_word 0x50#7 f) (congrArg (fun g => some (Instr.trap g)) (SI.ofWord_word 0x50#7 f))
theorem tret (f : SR) : Statement (.tret f) := by
  rintro k w ⟨⟩ ⟨⟩ _
  exact decodeS_word _ _ (.tret f) (SR.opOf_word 0x51#7 f) (congrArg (fun g => some (Instr.tret g)) (SR.ofWord_word 0x51#7 f))
theorem ctxsv (f : SR) : Statement (.ctxsv f) := by
  rintro k w ⟨⟩ ⟨⟩ _
  exact decodeS_word _ _ (.ctxsv f) (SR.opOf_word 0x52#7 f) (congrArg (fun g => some (Instr.ctxsv g)) (SR.ofWord_word 0x52#7 f))
theorem ctxld (f : SR) : Statement (.ctxld f) := by
  rintro k w ⟨⟩ ⟨⟩ _
  exact decodeS_word _ _ (.ctxld f) (SR.opOf_word 0x53#7 f) (congrArg (fun g => some (Instr.ctxld g)) (SR.ofWord_word 0x53#7 f))
theorem tlbinv (f : SR) : Statement (.tlbinv f) := by
  rintro k w ⟨⟩ ⟨⟩ h
  refine decodeS_word _ _ (.tlbinv f) (SR.opOf_word 0x54#7 f) ?_
  exact (congrArg (fun f : SR => some (if f.f = 1#7 then Instr.tlbinvAll f else .tlbinv f)) (SR.ofWord_word 0x54#7 f)).trans (congrArg some (if_neg (not_of_notDecide h)))
theorem tlbinvAll (f : SR) : Statement (.tlbinvAll f) := by
  rintro k w ⟨⟩ ⟨⟩ h
  refine decodeS_word _ _ (.tlbinvAll f) (SR.opOf_word 0x54#7 f) ?_
  exact (congrArg (fun f : SR => some (if f.f = 1#7 then Instr.tlbinvAll f else .tlbinv f)) (SR.ofWord_word 0x54#7 f)).trans (congrArg some (if_pos (of_decide_eq_true h)))
theorem tlbsync (f : SR) : Statement (.tlbsync f) := by
  rintro k w ⟨⟩ ⟨⟩ _
  exact decodeS_word _ _ (.tlbsync f) (SR.opOf_word 0x55#7 f) (congrArg (fun g => some (Instr.tlbsync g)) (SR.ofWord_word 0x55#7 f))
theorem ldg (f : GF) : Statement (.ldg f) := by
  rintro k w ⟨⟩ ⟨⟩ _
  exact decodeG_word _ _ (.ldg f) (GF.opOf_word 0x00#7 f) (congrArg (fun g => some (Instr.ldg g)) (GF.ofWord_word 0x00#7 f))
theorem stg (f : GF) : Statement (.stg f) := by
  rintro k w ⟨⟩ ⟨⟩ _
  exact decodeG_word _ _ (.stg f) (GF.opOf_word 0x01#7 f) (congrArg (fun g => some (Instr.stg g)) (GF.ofWord_word 0x01#7 f))
theorem amo (f : GF) : Statement (.amo f) := by
  rintro k w ⟨⟩ ⟨⟩ _
  exact decodeG_word _ _ (.amo f) (GF.opOf_word 0x02#7 f) (congrArg (fun g => some (Instr.amo g)) (GF.ofWord_word 0x02#7 f))
theorem cas (f : GF) : Statement (.cas f) := by
  rintro k w ⟨⟩ ⟨⟩ _
  exact decodeG_word _ _ (.cas f) (GF.opOf_word 0x03#7 f) (congrArg (fun g => some (Instr.cas g)) (GF.ofWord_word 0x03#7 f))
theorem fence (f : GF) : Statement (.fence f) := by
  rintro k w ⟨⟩ ⟨⟩ _
  exact decodeG_word _ _ (.fence f) (GF.opOf_word 0x04#7 f) (congrArg (fun g => some (Instr.fence g)) (GF.ofWord_word 0x04#7 f))
theorem drain (f : GF) : Statement (.drain f) := by
  rintro k w ⟨⟩ ⟨⟩ h
  refine decodeG_word _ _ (.drain f) (GF.opOf_word 0x05#7 f) ?_
  exact (congrArg (fun f : GF => some (if f.o.getLsbD 0 = true then Instr.drainE f else .drain f)) (GF.ofWord_word 0x05#7 f)).trans (congrArg some (if_neg (not_of_notDecide h)))
theorem drainE (f : GF) : Statement (.drainE f) := by
  rintro k w ⟨⟩ ⟨⟩ h
  refine decodeG_word _ _ (.drainE f) (GF.opOf_word 0x05#7 f) ?_
  exact (congrArg (fun f : GF => some (if f.o.getLsbD 0 = true then Instr.drainE f else .drain f)) (GF.ofWord_word 0x05#7 f)).trans (congrArg some (if_pos (of_decide_eq_true h)))
theorem mon (f : GF) : Statement (.mon f) := by
  rintro k w ⟨⟩ ⟨⟩ _
  exact decodeG_word _ _ (.mon f) (GF.opOf_word 0x06#7 f) (congrArg (fun g => some (Instr.mon g)) (GF.ofWord_word 0x06#7 f))
theorem mwait (f : GF) : Statement (.mwait f) := by
  rintro k w ⟨⟩ ⟨⟩ _
  exact decodeG_word _ _ (.mwait f) (GF.opOf_word 0x07#7 f) (congrArg (fun g => some (Instr.mwait g)) (GF.ofWord_word 0x07#7 f))
theorem barInit (f : GF) : Statement (.barInit f) := by
  rintro k w ⟨⟩ ⟨⟩ _
  exact decodeG_word _ _ (.barInit f) (GF.opOf_word 0x08#7 f) (congrArg (fun g => some (Instr.barInit g)) (GF.ofWord_word 0x08#7 f))
theorem barArrive (f : GF) : Statement (.barArrive f) := by
  rintro k w ⟨⟩ ⟨⟩ _
  exact decodeG_word _ _ (.barArrive f) (GF.opOf_word 0x09#7 f) (congrArg (fun g => some (Instr.barArrive g)) (GF.ofWord_word 0x09#7 f))
theorem barExpect (f : GF) : Statement (.barExpect f) := by
  rintro k w ⟨⟩ ⟨⟩ _
  exact decodeG_word _ _ (.barExpect f) (GF.opOf_word 0x0A#7 f) (congrArg (fun g => some (Instr.barExpect g)) (GF.ofWord_word 0x0A#7 f))
theorem barWait (f : GF) : Statement (.barWait f) := by
  rintro k w ⟨⟩ ⟨⟩ _
  exact decodeG_word _ _ (.barWait f) (GF.opOf_word 0x0B#7 f) (congrArg (fun g => some (Instr.barWait g)) (GF.ofWord_word 0x0B#7 f))
theorem cmpl (f : GF) : Statement (.cmpl f) := by
  rintro k w ⟨⟩ ⟨⟩ _
  exact decodeG_word _ _ (.cmpl f) (GF.opOf_word 0x0C#7 f) (congrArg (fun g => some (Instr.cmpl g)) (GF.ofWord_word 0x0C#7 f))
theorem pfg (f : GF) : Statement (.pfg f) := by
  rintro k w ⟨⟩ ⟨⟩ _
  exact decodeG_word _ _ (.pfg f) (GF.opOf_word 0x0D#7 f) (congrArg (fun g => some (Instr.pfg g)) (GF.ofWord_word 0x0D#7 f))
theorem amof (f : GF) : Statement (.amof f) := by
  rintro k w ⟨⟩ ⟨⟩ _
  exact decodeG_word _ _ (.amof f) (GF.opOf_word 0x0E#7 f) (congrArg (fun g => some (Instr.amof g)) (GF.ofWord_word 0x0E#7 f))
theorem cqLvl (f : EF) : Statement (.cqLvl f) := by
  rintro k w ⟨⟩ ⟨⟩ _
  exact decodeE_word _ _ (.cqLvl f) (EF.opOf_word 0x00#7 f) (congrArg (fun g => some (Instr.cqLvl g)) (EF.ofWord_word 0x00#7 f))
theorem cqGo (f : EF) : Statement (.cqGo f) := by
  rintro k w ⟨⟩ ⟨⟩ _
  exact decodeE_word _ _ (.cqGo f) (EF.opOf_word 0x01#7 f) (congrArg (fun g => some (Instr.cqGo g)) (EF.ofWord_word 0x01#7 f))
theorem cqCfg (f : EF) : Statement (.cqCfg f) := by
  rintro k w ⟨⟩ ⟨⟩ _
  exact decodeE_word _ _ (.cqCfg f) (EF.opOf_word 0x02#7 f) (congrArg (fun g => some (Instr.cqCfg g)) (EF.ofWord_word 0x02#7 f))
theorem cqBar (f : EF) : Statement (.cqBar f) := by
  rintro k w ⟨⟩ ⟨⟩ _
  exact decodeE_word _ _ (.cqBar f) (EF.opOf_word 0x03#7 f) (congrArg (fun g => some (Instr.cqBar g)) (EF.ofWord_word 0x03#7 f))
theorem mxCall (f : EF) : Statement (.mxCall f) := by
  rintro k w ⟨⟩ ⟨⟩ _
  exact decodeE_word _ _ (.mxCall f) (EF.opOf_word 0x08#7 f) (congrArg (fun g => some (Instr.mxCall g)) (EF.ofWord_word 0x08#7 f))
theorem mxSetp (f : EF) : Statement (.mxSetp f) := by
  rintro k w ⟨⟩ ⟨⟩ h
  refine decodeE_word _ _ (.mxSetp f) (EF.opOf_word 0x09#7 f) ?_
  exact (congrArg (fun f : EF => some (if f.i.getLsbD 3 = true then Instr.mxGetp f else .mxSetp f)) (EF.ofWord_word 0x09#7 f)).trans (congrArg some (if_neg (not_of_notDecide h)))
theorem mxGetp (f : EF) : Statement (.mxGetp f) := by
  rintro k w ⟨⟩ ⟨⟩ h
  refine decodeE_word _ _ (.mxGetp f) (EF.opOf_word 0x09#7 f) ?_
  exact (congrArg (fun f : EF => some (if f.i.getLsbD 3 = true then Instr.mxGetp f else .mxSetp f)) (EF.ofWord_word 0x09#7 f)).trans (congrArg some (if_pos (of_decide_eq_true h)))
theorem mxLd (f : EF) : Statement (.mxLd f) := by
  rintro k w ⟨⟩ ⟨⟩ _
  exact decodeE_word _ _ (.mxLd f) (EF.opOf_word 0x0A#7 f) (congrArg (fun g => some (Instr.mxLd g)) (EF.ofWord_word 0x0A#7 f))
theorem mxDrain (f : EF) : Statement (.mxDrain f) := by
  rintro k w ⟨⟩ ⟨⟩ _
  exact decodeE_word _ _ (.mxDrain f) (EF.opOf_word 0x0B#7 f) (congrArg (fun g => some (Instr.mxDrain g)) (EF.ofWord_word 0x0B#7 f))
theorem mxZero (f : EF) : Statement (.mxZero f) := by
  rintro k w ⟨⟩ ⟨⟩ _
  exact decodeE_word _ _ (.mxZero f) (EF.opOf_word 0x0C#7 f) (congrArg (fun g => some (Instr.mxZero g)) (EF.ofWord_word 0x0C#7 f))
theorem kvAttn (f : EF) : Statement (.kvAttn f) := by
  rintro k w ⟨⟩ ⟨⟩ _
  exact decodeE_word _ _ (.kvAttn f) (EF.opOf_word 0x10#7 f) (congrArg (fun g => some (Instr.kvAttn g)) (EF.ofWord_word 0x10#7 f))
theorem kvApp (f : EF) : Statement (.kvApp f) := by
  rintro k w ⟨⟩ ⟨⟩ _
  exact decodeE_word _ _ (.kvApp f) (EF.opOf_word 0x11#7 f) (congrArg (fun g => some (Instr.kvApp g)) (EF.ofWord_word 0x11#7 f))
theorem kvFork (f : EF) : Statement (.kvFork f) := by
  rintro k w ⟨⟩ ⟨⟩ _
  exact decodeE_word _ _ (.kvFork f) (EF.opOf_word 0x12#7 f) (congrArg (fun g => some (Instr.kvFork g)) (EF.ofWord_word 0x12#7 f))
theorem kvFree (f : EF) : Statement (.kvFree f) := by
  rintro k w ⟨⟩ ⟨⟩ _
  exact decodeE_word _ _ (.kvFree f) (EF.opOf_word 0x13#7 f) (congrArg (fun g => some (Instr.kvFree g)) (EF.ofWord_word 0x13#7 f))
theorem kvSeal (f : EF) : Statement (.kvSeal f) := by
  rintro k w ⟨⟩ ⟨⟩ _
  exact decodeE_word _ _ (.kvSeal f) (EF.opOf_word 0x14#7 f) (congrArg (fun g => some (Instr.kvSeal g)) (EF.ofWord_word 0x14#7 f))
theorem kvUndo (f : EF) : Statement (.kvUndo f) := by
  rintro k w ⟨⟩ ⟨⟩ _
  exact decodeE_word _ _ (.kvUndo f) (EF.opOf_word 0x15#7 f) (congrArg (fun g => some (Instr.kvUndo g)) (EF.ofWord_word 0x15#7 f))
theorem kvTrim (f : EF) : Statement (.kvTrim f) := by
  rintro k w ⟨⟩ ⟨⟩ _
  exact decodeE_word _ _ (.kvTrim f) (EF.opOf_word 0x16#7 f) (congrArg (fun g => some (Instr.kvTrim g)) (EF.ofWord_word 0x16#7 f))
theorem kvClass (f : EF) : Statement (.kvClass f) := by
  rintro k w ⟨⟩ ⟨⟩ h
  refine decodeE_word _ _ (.kvClass f) (EF.opOf_word 0x17#7 f) ?_
  exact (congrArg (fun f : EF => some (if f.i.getLsbD 0 = true then Instr.kvClassAll f else .kvClass f)) (EF.ofWord_word 0x17#7 f)).trans (congrArg some (if_neg (not_of_notDecide h)))
theorem kvClassAll (f : EF) : Statement (.kvClassAll f) := by
  rintro k w ⟨⟩ ⟨⟩ h
  refine decodeE_word _ _ (.kvClassAll f) (EF.opOf_word 0x17#7 f) ?_
  exact (congrArg (fun f : EF => some (if f.i.getLsbD 0 = true then Instr.kvClassAll f else .kvClass f)) (EF.ofWord_word 0x17#7 f)).trans (congrArg some (if_pos (of_decide_eq_true h)))
theorem kvDemote (f : EF) : Statement (.kvDemote f) := by
  rintro k w ⟨⟩ ⟨⟩ _
  exact decodeE_word _ _ (.kvDemote f) (EF.opOf_word 0x18#7 f) (congrArg (fun g => some (Instr.kvDemote g)) (EF.ofWord_word 0x18#7 f))
theorem kvPromote (f : EF) : Statement (.kvPromote f) := by
  rintro k w ⟨⟩ ⟨⟩ _
  exact decodeE_word _ _ (.kvPromote f) (EF.opOf_word 0x19#7 f) (congrArg (fun g => some (Instr.kvPromote g)) (EF.ofWord_word 0x19#7 f))
theorem kvPin (f : EF) : Statement (.kvPin f) := by
  rintro k w ⟨⟩ ⟨⟩ _
  exact decodeE_word _ _ (.kvPin f) (EF.opOf_word 0x1A#7 f) (congrArg (fun g => some (Instr.kvPin g)) (EF.ofWord_word 0x1A#7 f))
theorem kvUnpin (f : EF) : Statement (.kvUnpin f) := by
  rintro k w ⟨⟩ ⟨⟩ _
  exact decodeE_word _ _ (.kvUnpin f) (EF.opOf_word 0x1B#7 f) (congrArg (fun g => some (Instr.kvUnpin g)) (EF.ofWord_word 0x1B#7 f))
theorem kvLend (f : EF) : Statement (.kvLend f) := by
  rintro k w ⟨⟩ ⟨⟩ _
  exact decodeE_word _ _ (.kvLend f) (EF.opOf_word 0x1C#7 f) (congrArg (fun g => some (Instr.kvLend g)) (EF.ofWord_word 0x1C#7 f))
theorem kvRet (f : EF) : Statement (.kvRet f) := by
  rintro k w ⟨⟩ ⟨⟩ _
  exact decodeE_word _ _ (.kvRet f) (EF.opOf_word 0x1D#7 f) (congrArg (fun g => some (Instr.kvRet g)) (EF.ofWord_word 0x1D#7 f))
theorem kvLen (f : EF) : Statement (.kvLen f) := by
  rintro k w ⟨⟩ ⟨⟩ h
  refine decodeE_word _ _ (.kvLen f) (EF.opOf_word 0x1E#7 f) ?_
  exact (congrArg (fun f : EF => some (if f.i.getLsbD 0 = true then Instr.kvLenT f else .kvLen f)) (EF.ofWord_word 0x1E#7 f)).trans (congrArg some (if_neg (not_of_notDecide h)))
theorem kvLenT (f : EF) : Statement (.kvLenT f) := by
  rintro k w ⟨⟩ ⟨⟩ h
  refine decodeE_word _ _ (.kvLenT f) (EF.opOf_word 0x1E#7 f) ?_
  exact (congrArg (fun f : EF => some (if f.i.getLsbD 0 = true then Instr.kvLenT f else .kvLen f)) (EF.ofWord_word 0x1E#7 f)).trans (congrArg some (if_pos (of_decide_eq_true h)))
theorem kvPos (f : EF) : Statement (.kvPos f) := by
  rintro k w ⟨⟩ ⟨⟩ _
  exact decodeE_word _ _ (.kvPos f) (EF.opOf_word 0x1F#7 f) (congrArg (fun g => some (Instr.kvPos g)) (EF.ofWord_word 0x1F#7 f))
theorem kvMerge (f : EF) : Statement (.kvMerge f) := by
  rintro k w ⟨⟩ ⟨⟩ _
  exact decodeE_word _ _ (.kvMerge f) (EF.opOf_word 0x20#7 f) (congrArg (fun g => some (Instr.kvMerge g)) (EF.ofWord_word 0x20#7 f))
theorem kvGrant (f : EF) : Statement (.kvGrant f) := by
  rintro k w ⟨⟩ ⟨⟩ _
  exact decodeE_word _ _ (.kvGrant f) (EF.opOf_word 0x21#7 f) (congrArg (fun g => some (Instr.kvGrant g)) (EF.ofWord_word 0x21#7 f))
theorem tlDef (f : EF) : Statement (.tlDef f) := by
  rintro k w ⟨⟩ ⟨⟩ h
  refine decodeE_word _ _ (.tlDef f) (EF.opOf_word 0x28#7 f) ?_
  exact (congrArg (fun f : EF => some (if f.i.getLsbD 0 = true then Instr.tlDefR f else .tlDef f)) (EF.ofWord_word 0x28#7 f)).trans (congrArg some (if_neg (not_of_notDecide h)))
theorem tlDefR (f : EF) : Statement (.tlDefR f) := by
  rintro k w ⟨⟩ ⟨⟩ h
  refine decodeE_word _ _ (.tlDefR f) (EF.opOf_word 0x28#7 f) ?_
  exact (congrArg (fun f : EF => some (if f.i.getLsbD 0 = true then Instr.tlDefR f else .tlDef f)) (EF.ofWord_word 0x28#7 f)).trans (congrArg some (if_pos (of_decide_eq_true h)))
theorem tlGet (f : EF) : Statement (.tlGet f) := by
  rintro k w ⟨⟩ ⟨⟩ _
  exact decodeE_word _ _ (.tlGet f) (EF.opOf_word 0x29#7 f) (congrArg (fun g => some (Instr.tlGet g)) (EF.ofWord_word 0x29#7 f))
theorem tlPut (f : EF) : Statement (.tlPut f) := by
  rintro k w ⟨⟩ ⟨⟩ _
  exact decodeE_word _ _ (.tlPut f) (EF.opOf_word 0x2A#7 f) (congrArg (fun g => some (Instr.tlPut g)) (EF.ofWord_word 0x2A#7 f))
theorem tlDrop (f : EF) : Statement (.tlDrop f) := by
  rintro k w ⟨⟩ ⟨⟩ h
  refine decodeE_word _ _ (.tlDrop f) (EF.opOf_word 0x2B#7 f) ?_
  exact (congrArg (fun f : EF => some (if f.i.getLsbD 0 = true then Instr.tlDropF f else .tlDrop f)) (EF.ofWord_word 0x2B#7 f)).trans (congrArg some (if_neg (not_of_notDecide h)))
theorem tlDropF (f : EF) : Statement (.tlDropF f) := by
  rintro k w ⟨⟩ ⟨⟩ h
  refine decodeE_word _ _ (.tlDropF f) (EF.opOf_word 0x2B#7 f) ?_
  exact (congrArg (fun f : EF => some (if f.i.getLsbD 0 = true then Instr.tlDropF f else .tlDrop f)) (EF.ofWord_word 0x2B#7 f)).trans (congrArg some (if_pos (of_decide_eq_true h)))
theorem tlPin (f : EF) : Statement (.tlPin f) := by
  rintro k w ⟨⟩ ⟨⟩ _
  exact decodeE_word _ _ (.tlPin f) (EF.opOf_word 0x2C#7 f) (congrArg (fun g => some (Instr.tlPin g)) (EF.ofWord_word 0x2C#7 f))
theorem tlUnpin (f : EF) : Statement (.tlUnpin f) := by
  rintro k w ⟨⟩ ⟨⟩ _
  exact decodeE_word _ _ (.tlUnpin f) (EF.opOf_word 0x2D#7 f) (congrArg (fun g => some (Instr.tlUnpin g)) (EF.ofWord_word 0x2D#7 f))
theorem tlDone (f : EF) : Statement (.tlDone f) := by
  rintro k w ⟨⟩ ⟨⟩ _
  exact decodeE_word _ _ (.tlDone f) (EF.opOf_word 0x2E#7 f) (congrArg (fun g => some (Instr.tlDone g)) (EF.ofWord_word 0x2E#7 f))
theorem ruTab (f : EF) : Statement (.ruTab f) := by
  rintro k w ⟨⟩ ⟨⟩ _
  exact decodeE_word _ _ (.ruTab f) (EF.opOf_word 0x30#7 f) (congrArg (fun g => some (Instr.ruTab g)) (EF.ofWord_word 0x30#7 f))
theorem ruCfg (f : EF) : Statement (.ruCfg f) := by
  rintro k w ⟨⟩ ⟨⟩ _
  exact decodeE_word _ _ (.ruCfg f) (EF.opOf_word 0x31#7 f) (congrArg (fun g => some (Instr.ruCfg g)) (EF.ofWord_word 0x31#7 f))
theorem ruStep (f : EF) : Statement (.ruStep f) := by
  rintro k w ⟨⟩ ⟨⟩ _
  exact decodeE_word _ _ (.ruStep f) (EF.opOf_word 0x32#7 f) (congrArg (fun g => some (Instr.ruStep g)) (EF.ofWord_word 0x32#7 f))
theorem ruGen (f : EF) : Statement (.ruGen f) := by
  rintro k w ⟨⟩ ⟨⟩ h
  refine decodeE_word _ _ (.ruGen f) (EF.opOf_word 0x33#7 f) ?_
  exact (congrArg (fun f : EF => some (if f.i.getLsbD 0 = true then Instr.ruGenW f else .ruGen f)) (EF.ofWord_word 0x33#7 f)).trans (congrArg some (if_neg (not_of_notDecide h)))
theorem ruGenW (f : EF) : Statement (.ruGenW f) := by
  rintro k w ⟨⟩ ⟨⟩ h
  refine decodeE_word _ _ (.ruGenW f) (EF.opOf_word 0x33#7 f) ?_
  exact (congrArg (fun f : EF => some (if f.i.getLsbD 0 = true then Instr.ruGenW f else .ruGen f)) (EF.ofWord_word 0x33#7 f)).trans (congrArg some (if_pos (of_decide_eq_true h)))
theorem msgSend (f : EF) : Statement (.msgSend f) := by
  rintro k w ⟨⟩ ⟨⟩ _
  exact decodeE_word _ _ (.msgSend f) (EF.opOf_word 0x38#7 f) (congrArg (fun g => some (Instr.msgSend g)) (EF.ofWord_word 0x38#7 f))
theorem msgPost (f : EF) : Statement (.msgPost f) := by
  rintro k w ⟨⟩ ⟨⟩ _
  exact decodeE_word _ _ (.msgPost f) (EF.opOf_word 0x39#7 f) (congrArg (fun g => some (Instr.msgPost g)) (EF.ofWord_word 0x39#7 f))
theorem msgCancel (f : EF) : Statement (.msgCancel f) := by
  rintro k w ⟨⟩ ⟨⟩ _
  exact decodeE_word _ _ (.msgCancel f) (EF.opOf_word 0x3A#7 f) (congrArg (fun g => some (Instr.msgCancel g)) (EF.ofWord_word 0x3A#7 f))
theorem msgProbe (f : EF) : Statement (.msgProbe f) := by
  rintro k w ⟨⟩ ⟨⟩ _
  exact decodeE_word _ _ (.msgProbe f) (EF.opOf_word 0x3B#7 f) (congrArg (fun g => some (Instr.msgProbe g)) (EF.ofWord_word 0x3B#7 f))
theorem msgHnd (f : EF) : Statement (.msgHnd f) := by
  rintro k w ⟨⟩ ⟨⟩ _
  exact decodeE_word _ _ (.msgHnd f) (EF.opOf_word 0x3C#7 f) (congrArg (fun g => some (Instr.msgHnd g)) (EF.ofWord_word 0x3C#7 f))
theorem sctArm (f : EF) : Statement (.sctArm f) := by
  rintro k w ⟨⟩ ⟨⟩ h
  refine decodeE_word _ _ (.sctArm f) (EF.opOf_word 0x40#7 f) ?_
  exact (congrArg (fun f : EF => some (if f.i.getLsbD 0 = true then Instr.sctDisarm f else .sctArm f)) (EF.ofWord_word 0x40#7 f)).trans (congrArg some (if_neg (not_of_notDecide h)))
theorem sctDisarm (f : EF) : Statement (.sctDisarm f) := by
  rintro k w ⟨⟩ ⟨⟩ h
  refine decodeE_word _ _ (.sctDisarm f) (EF.opOf_word 0x40#7 f) ?_
  exact (congrArg (fun f : EF => some (if f.i.getLsbD 0 = true then Instr.sctDisarm f else .sctArm f)) (EF.ofWord_word 0x40#7 f)).trans (congrArg some (if_pos (of_decide_eq_true h)))
theorem sctTouch (f : EF) : Statement (.sctTouch f) := by
  rintro k w ⟨⟩ ⟨⟩ h
  refine decodeE_word _ _ (.sctTouch f) (EF.opOf_word 0x41#7 f) ?_
  exact (congrArg (fun f : EF => some (if f.i.getLsbD 0 = true then Instr.sctDone f else .sctTouch f)) (EF.ofWord_word 0x41#7 f)).trans (congrArg some (if_neg (not_of_notDecide h)))
theorem sctDone (f : EF) : Statement (.sctDone f) := by
  rintro k w ⟨⟩ ⟨⟩ h
  refine decodeE_word _ _ (.sctDone f) (EF.opOf_word 0x41#7 f) ?_
  exact (congrArg (fun f : EF => some (if f.i.getLsbD 0 = true then Instr.sctDone f else .sctTouch f)) (EF.ofWord_word 0x41#7 f)).trans (congrArg some (if_pos (of_decide_eq_true h)))
theorem sctEvict (f : EF) : Statement (.sctEvict f) := by
  rintro k w ⟨⟩ ⟨⟩ _
  exact decodeE_word _ _ (.sctEvict f) (EF.opOf_word 0x42#7 f) (congrArg (fun g => some (Instr.sctEvict g)) (EF.ofWord_word 0x42#7 f))
theorem sctRead (f : EF) : Statement (.sctRead f) := by
  rintro k w ⟨⟩ ⟨⟩ _
  exact decodeE_word _ _ (.sctRead f) (EF.opOf_word 0x43#7 f) (congrArg (fun g => some (Instr.sctRead g)) (EF.ofWord_word 0x43#7 f))
theorem vmov (f : VR) : Statement (.vmov f) := by
  rintro k w ⟨⟩ ⟨⟩ _
  exact decodeAB_word _ _ (.vmov f) (VR.opOf_word 0x00#7 f) (congrArg (fun g => some (Instr.vmov g)) (VR.ofWord_word 0x00#7 f))
theorem vadd (f : VR) : Statement (.vadd f) := by
  rintro k w ⟨⟩ ⟨⟩ _
  exact decodeAB_word _ _ (.vadd f) (VR.opOf_word 0x01#7 f) (congrArg (fun g => some (Instr.vadd g)) (VR.ofWord_word 0x01#7 f))
theorem vsub (f : VR) : Statement (.vsub f) := by
  rintro k w ⟨⟩ ⟨⟩ _
  exact decodeAB_word _ _ (.vsub f) (VR.opOf_word 0x02#7 f) (congrArg (fun g => some (Instr.vsub g)) (VR.ofWord_word 0x02#7 f))
theorem vaddsat (f : VR) : Statement (.vaddsat f) := by
  rintro k w ⟨⟩ ⟨⟩ _
  exact decodeAB_word _ _ (.vaddsat f) (VR.opOf_word 0x03#7 f) (congrArg (fun g => some (Instr.vaddsat g)) (VR.ofWord_word 0x03#7 f))
theorem vsubsat (f : VR) : Statement (.vsubsat f) := by
  rintro k w ⟨⟩ ⟨⟩ _
  exact decodeAB_word _ _ (.vsubsat f) (VR.opOf_word 0x04#7 f) (congrArg (fun g => some (Instr.vsubsat g)) (VR.ofWord_word 0x04#7 f))
theorem vmul (f : VR) : Statement (.vmul f) := by
  rintro k w ⟨⟩ ⟨⟩ _
  exact decodeAB_word _ _ (.vmul f) (VR.opOf_word 0x05#7 f) (congrArg (fun g => some (Instr.vmul g)) (VR.ofWord_word 0x05#7 f))
theorem vmulh (f : VR) : Statement (.vmulh f) := by
  rintro k w ⟨⟩ ⟨⟩ _
  exact decodeAB_word _ _ (.vmulh f) (VR.opOf_word 0x06#7 f) (congrArg (fun g => some (Instr.vmulh g)) (VR.ofWord_word 0x06#7 f))
theorem vmac (f : VR) : Statement (.vmac f) := by
  rintro k w ⟨⟩ ⟨⟩ _
  exact decodeAB_word _ _ (.vmac f) (VR.opOf_word 0x07#7 f) (congrArg (fun g => some (Instr.vmac g)) (VR.ofWord_word 0x07#7 f))
theorem vdot4 (f : VR) : Statement (.vdot4 f) := by
  rintro k w ⟨⟩ ⟨⟩ _
  exact decodeAB_word _ _ (.vdot4 f) (VR.opOf_word 0x08#7 f) (congrArg (fun g => some (Instr.vdot4 g)) (VR.ofWord_word 0x08#7 f))
theorem vdot2 (f : VR) : Statement (.vdot2 f) := by
  rintro k w ⟨⟩ ⟨⟩ _
  exact decodeAB_word _ _ (.vdot2 f) (VR.opOf_word 0x09#7 f) (congrArg (fun g => some (Instr.vdot2 g)) (VR.ofWord_word 0x09#7 f))
theorem vabs (f : VR) : Statement (.vabs f) := by
  rintro k w ⟨⟩ ⟨⟩ _
  exact decodeAB_word _ _ (.vabs f) (VR.opOf_word 0x0A#7 f) (congrArg (fun g => some (Instr.vabs g)) (VR.ofWord_word 0x0A#7 f))
theorem vneg (f : VR) : Statement (.vneg f) := by
  rintro k w ⟨⟩ ⟨⟩ _
  exact decodeAB_word _ _ (.vneg f) (VR.opOf_word 0x0B#7 f) (congrArg (fun g => some (Instr.vneg g)) (VR.ofWord_word 0x0B#7 f))
theorem vmin (f : VR) : Statement (.vmin f) := by
  rintro k w ⟨⟩ ⟨⟩ _
  exact decodeAB_word _ _ (.vmin f) (VR.opOf_word 0x0C#7 f) (congrArg (fun g => some (Instr.vmin g)) (VR.ofWord_word 0x0C#7 f))
theorem vmax (f : VR) : Statement (.vmax f) := by
  rintro k w ⟨⟩ ⟨⟩ _
  exact decodeAB_word _ _ (.vmax f) (VR.opOf_word 0x0D#7 f) (congrArg (fun g => some (Instr.vmax g)) (VR.ofWord_word 0x0D#7 f))
theorem vminu (f : VR) : Statement (.vminu f) := by
  rintro k w ⟨⟩ ⟨⟩ _
  exact decodeAB_word _ _ (.vminu f) (VR.opOf_word 0x0E#7 f) (congrArg (fun g => some (Instr.vminu g)) (VR.ofWord_word 0x0E#7 f))
theorem vmaxu (f : VR) : Statement (.vmaxu f) := by
  rintro k w ⟨⟩ ⟨⟩ _
  exact decodeAB_word _ _ (.vmaxu f) (VR.opOf_word 0x0F#7 f) (congrArg (fun g => some (Instr.vmaxu g)) (VR.ofWord_word 0x0F#7 f))
theorem vand (f : VR) : Statement (.vand f) := by
  rintro k w ⟨⟩ ⟨⟩ _
  exact decodeAB_word _ _ (.vand f) (VR.opOf_word 0x10#7 f) (congrArg (fun g => some (Instr.vand g)) (VR.ofWord_word 0x10#7 f))
theorem vor (f : VR) : Statement (.vor f) := by
  rintro k w ⟨⟩ ⟨⟩ _
  exact decodeAB_word _ _ (.vor f) (VR.opOf_word 0x11#7 f) (congrArg (fun g => some (Instr.vor g)) (VR.ofWord_word 0x11#7 f))
theorem vxor (f : VR) : Statement (.vxor f) := by
  rintro k w ⟨⟩ ⟨⟩ _
  exact decodeAB_word _ _ (.vxor f) (VR.opOf_word 0x12#7 f) (congrArg (fun g => some (Instr.vxor g)) (VR.ofWord_word 0x12#7 f))
theorem vandn (f : VR) : Statement (.vandn f) := by
  rintro k w ⟨⟩ ⟨⟩ _
  exact decodeAB_word _ _ (.vandn f) (VR.opOf_word 0x13#7 f) (congrArg (fun g => some (Instr.vandn g)) (VR.ofWord_word 0x13#7 f))
theorem vshl (f : VR) : Statement (.vshl f) := by
  rintro k w ⟨⟩ ⟨⟩ _
  exact decodeAB_word _ _ (.vshl f) (VR.opOf_word 0x14#7 f) (congrArg (fun g => some (Instr.vshl g)) (VR.ofWord_word 0x14#7 f))
theorem vshr (f : VR) : Statement (.vshr f) := by
  rintro k w ⟨⟩ ⟨⟩ _
  exact decodeAB_word _ _ (.vshr f) (VR.opOf_word 0x15#7 f) (congrArg (fun g => some (Instr.vshr g)) (VR.ofWord_word 0x15#7 f))
theorem vsar (f : VR) : Statement (.vsar f) := by
  rintro k w ⟨⟩ ⟨⟩ _
  exact decodeAB_word _ _ (.vsar f) (VR.opOf_word 0x16#7 f) (congrArg (fun g => some (Instr.vsar g)) (VR.ofWord_word 0x16#7 f))
theorem vrshr (f : VR) : Statement (.vrshr f) := by
  rintro k w ⟨⟩ ⟨⟩ _
  exact decodeAB_word _ _ (.vrshr f) (VR.opOf_word 0x17#7 f) (congrArg (fun g => some (Instr.vrshr g)) (VR.ofWord_word 0x17#7 f))
theorem vclz (f : VR) : Statement (.vclz f) := by
  rintro k w ⟨⟩ ⟨⟩ _
  exact decodeAB_word _ _ (.vclz f) (VR.opOf_word 0x18#7 f) (congrArg (fun g => some (Instr.vclz g)) (VR.ofWord_word 0x18#7 f))
theorem vpopc (f : VR) : Statement (.vpopc f) := by
  rintro k w ⟨⟩ ⟨⟩ _
  exact decodeAB_word _ _ (.vpopc f) (VR.opOf_word 0x19#7 f) (congrArg (fun g => some (Instr.vpopc g)) (VR.ofWord_word 0x19#7 f))
theorem vcmp (f : VR) : Statement (.vcmp f) := by
  rintro k w ⟨⟩ ⟨⟩ _
  exact decodeAB_word _ _ (.vcmp f) (VR.opOf_word 0x1A#7 f) (congrArg (fun g => some (Instr.vcmp g)) (VR.ofWord_word 0x1A#7 f))
theorem vsel (f : VR) : Statement (.vsel f) := by
  rintro k w ⟨⟩ ⟨⟩ _
  exact decodeAB_word _ _ (.vsel f) (VR.opOf_word 0x1B#7 f) (congrArg (fun g => some (Instr.vsel g)) (VR.ofWord_word 0x1B#7 f))
theorem vbcast (f : VR) : Statement (.vbcast f) := by
  rintro k w ⟨⟩ ⟨⟩ _
  exact decodeAB_word _ _ (.vbcast f) (VR.opOf_word 0x1C#7 f) (congrArg (fun g => some (Instr.vbcast g)) (VR.ofWord_word 0x1C#7 f))
theorem vlane (f : VR) : Statement (.vlane f) := by
  rintro k w ⟨⟩ ⟨⟩ _
  exact decodeAB_word _ _ (.vlane f) (VR.opOf_word 0x1D#7 f) (congrArg (fun g => some (Instr.vlane g)) (VR.ofWord_word 0x1D#7 f))
theorem vpack (f : VR) : Statement (.vpack f) := by
  rintro k w ⟨⟩ ⟨⟩ _
  exact decodeAB_word _ _ (.vpack f) (VR.opOf_word 0x1E#7 f) (congrArg (fun g => some (Instr.vpack g)) (VR.ofWord_word 0x1E#7 f))
theorem vunpk (f : VR) : Statement (.vunpk f) := by
  rintro k w ⟨⟩ ⟨⟩ _
  exact decodeAB_word _ _ (.vunpk f) (VR.opOf_word 0x1F#7 f) (congrArg (fun g => some (Instr.vunpk g)) (VR.ofWord_word 0x1F#7 f))
theorem vmskl (f : VR) : Statement (.vmskl f) := by
  rintro k w ⟨⟩ ⟨⟩ _
  exact decodeAB_word _ _ (.vmskl f) (VR.opOf_word 0x20#7 f) (congrArg (fun g => some (Instr.vmskl g)) (VR.ofWord_word 0x20#7 f))
theorem vext (f : VR) : Statement (.vext f) := by
  rintro k w ⟨⟩ ⟨⟩ _
  exact decodeAB_word _ _ (.vext f) (VR.opOf_word 0x21#7 f) (congrArg (fun g => some (Instr.vext g)) (VR.ofWord_word 0x21#7 f))
theorem vins (f : VR) : Statement (.vins f) := by
  rintro k w ⟨⟩ ⟨⟩ _
  exact decodeAB_word _ _ (.vins f) (VR.opOf_word 0x22#7 f) (congrArg (fun g => some (Instr.vins g)) (VR.ofWord_word 0x22#7 f))
theorem vfadd (f : VR) : Statement (.vfadd f) := by
  rintro k w ⟨⟩ ⟨⟩ _
  exact decodeAB_word _ _ (.vfadd f) (VR.opOf_word 0x40#7 f) (congrArg (fun g => some (Instr.vfadd g)) (VR.ofWord_word 0x40#7 f))
theorem vfsub (f : VR) : Statement (.vfsub f) := by
  rintro k w ⟨⟩ ⟨⟩ _
  exact decodeAB_word _ _ (.vfsub f) (VR.opOf_word 0x41#7 f) (congrArg (fun g => some (Instr.vfsub g)) (VR.ofWord_word 0x41#7 f))
theorem vfmul (f : VR) : Statement (.vfmul f) := by
  rintro k w ⟨⟩ ⟨⟩ _
  exact decodeAB_word _ _ (.vfmul f) (VR.opOf_word 0x42#7 f) (congrArg (fun g => some (Instr.vfmul g)) (VR.ofWord_word 0x42#7 f))
theorem vfma (f : VR) : Statement (.vfma f) := by
  rintro k w ⟨⟩ ⟨⟩ _
  exact decodeAB_word _ _ (.vfma f) (VR.opOf_word 0x43#7 f) (congrArg (fun g => some (Instr.vfma g)) (VR.ofWord_word 0x43#7 f))
theorem vfms (f : VR) : Statement (.vfms f) := by
  rintro k w ⟨⟩ ⟨⟩ _
  exact decodeAB_word _ _ (.vfms f) (VR.opOf_word 0x44#7 f) (congrArg (fun g => some (Instr.vfms g)) (VR.ofWord_word 0x44#7 f))
theorem vfmin (f : VR) : Statement (.vfmin f) := by
  rintro k w ⟨⟩ ⟨⟩ _
  exact decodeAB_word _ _ (.vfmin f) (VR.opOf_word 0x45#7 f) (congrArg (fun g => some (Instr.vfmin g)) (VR.ofWord_word 0x45#7 f))
theorem vfmax (f : VR) : Statement (.vfmax f) := by
  rintro k w ⟨⟩ ⟨⟩ _
  exact decodeAB_word _ _ (.vfmax f) (VR.opOf_word 0x46#7 f) (congrArg (fun g => some (Instr.vfmax g)) (VR.ofWord_word 0x46#7 f))
theorem vfabs (f : VR) : Statement (.vfabs f) := by
  rintro k w ⟨⟩ ⟨⟩ _
  exact decodeAB_word _ _ (.vfabs f) (VR.opOf_word 0x47#7 f) (congrArg (fun g => some (Instr.vfabs g)) (VR.ofWord_word 0x47#7 f))
theorem vfneg (f : VR) : Statement (.vfneg f) := by
  rintro k w ⟨⟩ ⟨⟩ _
  exact decodeAB_word _ _ (.vfneg f) (VR.opOf_word 0x48#7 f) (congrArg (fun g => some (Instr.vfneg g)) (VR.ofWord_word 0x48#7 f))
theorem vfcmp (f : VR) : Statement (.vfcmp f) := by
  rintro k w ⟨⟩ ⟨⟩ _
  exact decodeAB_word _ _ (.vfcmp f) (VR.opOf_word 0x49#7 f) (congrArg (fun g => some (Instr.vfcmp g)) (VR.ofWord_word 0x49#7 f))
theorem vfcls (f : VR) : Statement (.vfcls f) := by
  rintro k w ⟨⟩ ⟨⟩ _
  exact decodeAB_word _ _ (.vfcls f) (VR.opOf_word 0x4A#7 f) (congrArg (fun g => some (Instr.vfcls g)) (VR.ofWord_word 0x4A#7 f))
theorem vfscl (f : VR) : Statement (.vfscl f) := by
  rintro k w ⟨⟩ ⟨⟩ _
  exact decodeAB_word _ _ (.vfscl f) (VR.opOf_word 0x4B#7 f) (congrArg (fun g => some (Instr.vfscl g)) (VR.ofWord_word 0x4B#7 f))
theorem vfrnd (f : VR) : Statement (.vfrnd f) := by
  rintro k w ⟨⟩ ⟨⟩ _
  exact decodeAB_word _ _ (.vfrnd f) (VR.opOf_word 0x4C#7 f) (congrArg (fun g => some (Instr.vfrnd g)) (VR.ofWord_word 0x4C#7 f))
theorem vcvt (f : VR) : Statement (.vcvt f) := by
  rintro k w ⟨⟩ ⟨⟩ _
  exact decodeAB_word _ _ (.vcvt f) (VR.opOf_word 0x4D#7 f) (congrArg (fun g => some (Instr.vcvt g)) (VR.ofWord_word 0x4D#7 f))
theorem vfcvti (f : VR) : Statement (.vfcvti f) := by
  rintro k w ⟨⟩ ⟨⟩ _
  exact decodeAB_word _ _ (.vfcvti f) (VR.opOf_word 0x4E#7 f) (congrArg (fun g => some (Instr.vfcvti g)) (VR.ofWord_word 0x4E#7 f))
theorem vicvtf (f : VR) : Statement (.vicvtf f) := by
  rintro k w ⟨⟩ ⟨⟩ _
  exact decodeAB_word _ _ (.vicvtf f) (VR.opOf_word 0x4F#7 f) (congrArg (fun g => some (Instr.vicvtf g)) (VR.ofWord_word 0x4F#7 f))
theorem vqmx (f : VR) : Statement (.vqmx f) := by
  rintro k w ⟨⟩ ⟨⟩ _
  exact decodeAB_word _ _ (.vqmx f) (VR.opOf_word 0x50#7 f) (congrArg (fun g => some (Instr.vqmx g)) (VR.ofWord_word 0x50#7 f))
theorem vdqmx (f : VR) : Statement (.vdqmx f) := by
  rintro k w ⟨⟩ ⟨⟩ _
  exact decodeAB_word _ _ (.vdqmx f) (VR.opOf_word 0x51#7 f) (congrArg (fun g => some (Instr.vdqmx g)) (VR.ofWord_word 0x51#7 f))
theorem vrsum (f : VR) : Statement (.vrsum f) := by
  rintro k w ⟨⟩ ⟨⟩ _
  exact decodeAB_word _ _ (.vrsum f) (VR.opOf_word 0x52#7 f) (congrArg (fun g => some (Instr.vrsum g)) (VR.ofWord_word 0x52#7 f))
theorem vrmax (f : VR) : Statement (.vrmax f) := by
  rintro k w ⟨⟩ ⟨⟩ _
  exact decodeAB_word _ _ (.vrmax f) (VR.opOf_word 0x53#7 f) (congrArg (fun g => some (Instr.vrmax g)) (VR.ofWord_word 0x53#7 f))
theorem vrmin (f : VR) : Statement (.vrmin f) := by
  rintro k w ⟨⟩ ⟨⟩ _
  exact decodeAB_word _ _ (.vrmin f) (VR.opOf_word 0x54#7 f) (congrArg (fun g => some (Instr.vrmin g)) (VR.ofWord_word 0x54#7 f))
theorem exp2 (f : VR) : Statement (.exp2 f) := by
  rintro k w ⟨⟩ ⟨⟩ _
  exact decodeF_word _ _ (.exp2 f) (VR.opOf_word 0x00#7 f) (congrArg (fun g => some (Instr.exp2 g)) (VR.ofWord_word 0x00#7 f))
theorem log2 (f : VR) : Statement (.log2 f) := by
  rintro k w ⟨⟩ ⟨⟩ _
  exact decodeF_word _ _ (.log2 f) (VR.opOf_word 0x01#7 f) (congrArg (fun g => some (Instr.log2 g)) (VR.ofWord_word 0x01#7 f))
theorem rcp (f : VR) : Statement (.rcp f) := by
  rintro k w ⟨⟩ ⟨⟩ _
  exact decodeF_word _ _ (.rcp f) (VR.opOf_word 0x02#7 f) (congrArg (fun g => some (Instr.rcp g)) (VR.ofWord_word 0x02#7 f))
theorem rsq (f : VR) : Statement (.rsq f) := by
  rintro k w ⟨⟩ ⟨⟩ _
  exact decodeF_word _ _ (.rsq f) (VR.opOf_word 0x03#7 f) (congrArg (fun g => some (Instr.rsq g)) (VR.ofWord_word 0x03#7 f))
theorem sqrt (f : VR) : Statement (.sqrt f) := by
  rintro k w ⟨⟩ ⟨⟩ _
  exact decodeF_word _ _ (.sqrt f) (VR.opOf_word 0x04#7 f) (congrArg (fun g => some (Instr.sqrt g)) (VR.ofWord_word 0x04#7 f))
theorem sin (f : VR) : Statement (.sin f) := by
  rintro k w ⟨⟩ ⟨⟩ _
  exact decodeF_word _ _ (.sin f) (VR.opOf_word 0x05#7 f) (congrArg (fun g => some (Instr.sin g)) (VR.ofWord_word 0x05#7 f))
theorem cos (f : VR) : Statement (.cos f) := by
  rintro k w ⟨⟩ ⟨⟩ _
  exact decodeF_word _ _ (.cos f) (VR.opOf_word 0x06#7 f) (congrArg (fun g => some (Instr.cos g)) (VR.ofWord_word 0x06#7 f))
theorem tanh (f : VR) : Statement (.tanh f) := by
  rintro k w ⟨⟩ ⟨⟩ _
  exact decodeF_word _ _ (.tanh f) (VR.opOf_word 0x07#7 f) (congrArg (fun g => some (Instr.tanh g)) (VR.ofWord_word 0x07#7 f))
theorem sigm (f : VR) : Statement (.sigm f) := by
  rintro k w ⟨⟩ ⟨⟩ _
  exact decodeF_word _ _ (.sigm f) (VR.opOf_word 0x08#7 f) (congrArg (fun g => some (Instr.sigm g)) (VR.ofWord_word 0x08#7 f))
theorem vld (f : VR) : Statement (.vld f) := by
  rintro k w ⟨⟩ ⟨⟩ _
  exact decodeM_word _ _ (.vld f) (VR.opOf_word 0x00#7 f) (congrArg (fun g => some (Instr.vld g)) (VR.ofWord_word 0x00#7 f))
theorem vst (f : VR) : Statement (.vst f) := by
  rintro k w ⟨⟩ ⟨⟩ _
  exact decodeM_word _ _ (.vst f) (VR.opOf_word 0x01#7 f) (congrArg (fun g => some (Instr.vst g)) (VR.ofWord_word 0x01#7 f))
theorem vlds (f : VR) : Statement (.vlds f) := by
  rintro k w ⟨⟩ ⟨⟩ _
  exact decodeM_word _ _ (.vlds f) (VR.opOf_word 0x02#7 f) (congrArg (fun g => some (Instr.vlds g)) (VR.ofWord_word 0x02#7 f))
theorem vsts (f : VR) : Statement (.vsts f) := by
  rintro k w ⟨⟩ ⟨⟩ _
  exact decodeM_word _ _ (.vsts f) (VR.opOf_word 0x03#7 f) (congrArg (fun g => some (Instr.vsts g)) (VR.ofWord_word 0x03#7 f))
theorem vldx (f : VR) : Statement (.vldx f) := by
  rintro k w ⟨⟩ ⟨⟩ _
  exact decodeM_word _ _ (.vldx f) (VR.opOf_word 0x04#7 f) (congrArg (fun g => some (Instr.vldx g)) (VR.ofWord_word 0x04#7 f))
theorem vstx (f : VR) : Statement (.vstx f) := by
  rintro k w ⟨⟩ ⟨⟩ _
  exact decodeM_word _ _ (.vstx f) (VR.opOf_word 0x05#7 f) (congrArg (fun g => some (Instr.vstx g)) (VR.ofWord_word 0x05#7 f))
theorem vldb (f : VR) : Statement (.vldb f) := by
  rintro k w ⟨⟩ ⟨⟩ _
  exact decodeM_word _ _ (.vldb f) (VR.opOf_word 0x06#7 f) (congrArg (fun g => some (Instr.vldb g)) (VR.ofWord_word 0x06#7 f))
theorem vldt (f : VR) : Statement (.vldt f) := by
  rintro k w ⟨⟩ ⟨⟩ _
  exact decodeM_word _ _ (.vldt f) (VR.opOf_word 0x07#7 f) (congrArg (fun g => some (Instr.vldt g)) (VR.ofWord_word 0x07#7 f))
theorem fefill (f : VR) : Statement (.fefill f) := by
  rintro k w ⟨⟩ ⟨⟩ _
  exact decodeM_word _ _ (.fefill f) (VR.opOf_word 0x08#7 f) (congrArg (fun g => some (Instr.fefill g)) (VR.ofWord_word 0x08#7 f))
theorem feempty (f : VR) : Statement (.feempty f) := by
  rintro k w ⟨⟩ ⟨⟩ _
  exact decodeM_word _ _ (.feempty f) (VR.opOf_word 0x09#7 f) (congrArg (fun g => some (Instr.feempty g)) (VR.ofWord_word 0x09#7 f))
theorem fetest (f : VR) : Statement (.fetest f) := by
  rintro k w ⟨⟩ ⟨⟩ _
  exact decodeM_word _ _ (.fetest f) (VR.opOf_word 0x0A#7 f) (congrArg (fun g => some (Instr.fetest g)) (VR.ofWord_word 0x0A#7 f))
theorem sbind (f : VR) : Statement (.sbind f) := by
  rintro k w ⟨⟩ ⟨⟩ _
  exact decodeM_word _ _ (.sbind f) (VR.opOf_word 0x0B#7 f) (congrArg (fun g => some (Instr.sbind g)) (VR.ofWord_word 0x0B#7 f))
theorem sfmt (f : VR) : Statement (.sfmt f) := by
  rintro k w ⟨⟩ ⟨⟩ _
  exact decodeM_word _ _ (.sfmt f) (VR.opOf_word 0x0C#7 f) (congrArg (fun g => some (Instr.sfmt g)) (VR.ofWord_word 0x0C#7 f))
theorem sadv (f : VR) : Statement (.sadv f) := by
  rintro k w ⟨⟩ ⟨⟩ _
  exact decodeM_word _ _ (.sadv f) (VR.opOf_word 0x0D#7 f) (congrArg (fun g => some (Instr.sadv g)) (VR.ofWord_word 0x0D#7 f))
theorem efence (f : VR) : Statement (.efence f) := by
  rintro k w ⟨⟩ ⟨⟩ h
  refine decodeM_word _ _ (.efence f) (VR.opOf_word 0x0E#7 f) ?_
  exact (congrArg (fun f : VR => some (if f.t = 1#2 then Instr.efenceRd f else .efence f)) (VR.ofWord_word 0x0E#7 f)).trans (congrArg some (if_neg (not_of_notDecide h)))
theorem efenceRd (f : VR) : Statement (.efenceRd f) := by
  rintro k w ⟨⟩ ⟨⟩ h
  refine decodeM_word _ _ (.efenceRd f) (VR.opOf_word 0x0E#7 f) ?_
  exact (congrArg (fun f : VR => some (if f.t = 1#2 then Instr.efenceRd f else .efence f)) (VR.ofWord_word 0x0E#7 f)).trans (congrArg some (if_pos (of_decide_eq_true h)))
theorem xcp (f : VR) : Statement (.xcp f) := by
  rintro k w ⟨⟩ ⟨⟩ _
  exact decodeX_word _ _ (.xcp f) (VR.opOf_word 0x00#7 f) (congrArg (fun g => some (Instr.xcp g)) (VR.ofWord_word 0x00#7 f))
theorem xbc (f : VR) : Statement (.xbc f) := by
  rintro k w ⟨⟩ ⟨⟩ _
  exact decodeX_word _ _ (.xbc f) (VR.opOf_word 0x01#7 f) (congrArg (fun g => some (Instr.xbc g)) (VR.ofWord_word 0x01#7 f))
theorem xrot (f : VR) : Statement (.xrot f) := by
  rintro k w ⟨⟩ ⟨⟩ _
  exact decodeX_word _ _ (.xrot f) (VR.opOf_word 0x02#7 f) (congrArg (fun g => some (Instr.xrot g)) (VR.ofWord_word 0x02#7 f))
theorem xshf (f : VR) : Statement (.xshf f) := by
  rintro k w ⟨⟩ ⟨⟩ _
  exact decodeX_word _ _ (.xshf f) (VR.opOf_word 0x03#7 f) (congrArg (fun g => some (Instr.xshf g)) (VR.ofWord_word 0x03#7 f))
theorem trpi (f : VR) : Statement (.trpi f) := by
  rintro k w ⟨⟩ ⟨⟩ _
  exact decodeX_word _ _ (.trpi f) (VR.opOf_word 0x04#7 f) (congrArg (fun g => some (Instr.trpi g)) (VR.ofWord_word 0x04#7 f))
theorem trpo (f : VR) : Statement (.trpo f) := by
  rintro k w ⟨⟩ ⟨⟩ _
  exact decodeX_word _ _ (.trpo f) (VR.opOf_word 0x05#7 f) (congrArg (fun g => some (Instr.trpo g)) (VR.ofWord_word 0x05#7 f))
theorem xred (f : VR) : Statement (.xred f) := by
  rintro k w ⟨⟩ ⟨⟩ _
  exact decodeX_word _ _ (.xred f) (VR.opOf_word 0x06#7 f) (congrArg (fun g => some (Instr.xred g)) (VR.ofWord_word 0x06#7 f))
theorem gloadReturn (c r : Nat) : Statement (.gloadReturn c r) := by
  rintro k w ⟨⟩
theorem dispatchPlace (slot : Nat) : Statement (.dispatchPlace slot) := by
  rintro k w ⟨⟩
theorem streamRestoreDone (i : Nat) : Statement (.streamRestoreDone i) := by
  rintro k w ⟨⟩
theorem streamEvictDone (i : Nat) : Statement (.streamEvictDone i) := by
  rintro k w ⟨⟩
theorem copyLineLand (id line : Nat) : Statement (.copyLineLand id line) := by
  rintro k w ⟨⟩
theorem attnPageStaged (id blk : Nat) : Statement (.attnPageStaged id blk) := by
  rintro k w ⟨⟩
theorem attnUnitFold (id : Nat) : Statement (.attnUnitFold id) := by
  rintro k w ⟨⟩
theorem kvTransitEnd (id : Nat) : Statement (.kvTransitEnd id) := by
  rintro k w ⟨⟩
theorem kvFrameFree (fid : Nat) : Statement (.kvFrameFree fid) := by
  rintro k w ⟨⟩
theorem lenderUnreachable (id : Nat) : Statement (.lenderUnreachable id) := by
  rintro k w ⟨⟩
theorem kvLendTimeout (id : Nat) : Statement (.kvLendTimeout id) := by
  rintro k w ⟨⟩
theorem kvReturnRelease (dev : Nat) : Statement (.kvReturnRelease dev) := by
  rintro k w ⟨⟩
theorem msgLandingComplete (k : Nat) : Statement (.msgLandingComplete k) := by
  rintro k w ⟨⟩
theorem msgSendComplete (id : Nat) : Statement (.msgSendComplete id) := by
  rintro k w ⟨⟩
theorem tileCopyLand (id line : Nat) : Statement (.tileCopyLand id line) := by
  rintro k w ⟨⟩
theorem fatalError (e : FatalEvent) : Statement (.fatalError e) := by
  rintro k w ⟨⟩
theorem softErrorCorrect (unit : Nat) : Statement (.softErrorCorrect unit) := by
  rintro k w ⟨⟩
theorem deviceReset (rotOk ccOk : Bool) : Statement (.deviceReset rotOk ccOk) := by
  rintro k w ⟨⟩
theorem imageLoad (img : Image) : Statement (.imageLoad img) := by
  rintro k w ⟨⟩
theorem partitionCreate (p : PartSetup) : Statement (.partitionCreate p) := by
  rintro k w ⟨⟩
theorem livenessFillDone (region : Nat) : Statement (.livenessFillDone region) := by
  rintro k w ⟨⟩
theorem ltlTimeMeasure (k : Nat) (off : BitVec 64) : Statement (.ltlTimeMeasure k off) := by
  rintro k w ⟨⟩
theorem ltlAttest (k : Nat) (ok : Bool) : Statement (.ltlAttest k ok) := by
  rintro k w ⟨⟩
theorem ltlLinkDown (k : Nat) : Statement (.ltlLinkDown k) := by
  rintro k w ⟨⟩
theorem cxlPortDown (k : Nat) : Statement (.cxlPortDown k) := by
  rintro k w ⟨⟩
theorem emptyBundle : Statement (.emptyBundle) := by
  rintro k w ⟨⟩
theorem sliceExpiry : Statement (.sliceExpiry) := by
  rintro k w ⟨⟩
theorem freeze : Statement (.freeze) := by
  rintro k w ⟨⟩
theorem watchdog : Statement (.watchdog) := by
  rintro k w ⟨⟩
theorem waitExpiry : Statement (.waitExpiry) := by
  rintro k w ⟨⟩
theorem mwaitTimeout : Statement (.mwaitTimeout) := by
  rintro k w ⟨⟩
theorem readyListPlace : Statement (.readyListPlace) := by
  rintro k w ⟨⟩
theorem dieSliceRemap : Statement (.dieSliceRemap) := by
  rintro k w ⟨⟩
theorem wakeRegisterWrite : Statement (.wakeRegisterWrite) := by
  rintro k w ⟨⟩
theorem streamLaunch : Statement (.streamLaunch) := by
  rintro k w ⟨⟩
theorem streamSlotRetry : Statement (.streamSlotRetry) := by
  rintro k w ⟨⟩
theorem streamQuietEvict : Statement (.streamQuietEvict) := by
  rintro k w ⟨⟩
theorem mxKblock : Statement (.mxKblock) := by
  rintro k w ⟨⟩
theorem mxDrainRun : Statement (.mxDrainRun) := by
  rintro k w ⟨⟩
theorem mxZeroRun : Statement (.mxZeroRun) := by
  rintro k w ⟨⟩
theorem pweAssign : Statement (.pweAssign) := by
  rintro k w ⟨⟩
theorem lendRequestReceive : Statement (.lendRequestReceive) := by
  rintro k w ⟨⟩
theorem lendReplyReceive : Statement (.lendReplyReceive) := by
  rintro k w ⟨⟩
theorem kvReadReceive : Statement (.kvReadReceive) := by
  rintro k w ⟨⟩
theorem kvReadReplyReceive : Statement (.kvReadReplyReceive) := by
  rintro k w ⟨⟩
theorem kvWriteReceive : Statement (.kvWriteReceive) := by
  rintro k w ⟨⟩
theorem kvWriteAckReceive : Statement (.kvWriteAckReceive) := by
  rintro k w ⟨⟩
theorem kvReturnReceive : Statement (.kvReturnReceive) := by
  rintro k w ⟨⟩
theorem msgArrival : Statement (.msgArrival) := by
  rintro k w ⟨⟩
theorem ctsReceive : Statement (.ctsReceive) := by
  rintro k w ⟨⟩
theorem recipeSpawnRetry : Statement (.recipeSpawnRetry) := by
  rintro k w ⟨⟩
theorem tileRoomFreed : Statement (.tileRoomFreed) := by
  rintro k w ⟨⟩
theorem ruStepRun : Statement (.ruStepRun) := by
  rintro k w ⟨⟩
theorem ruStepComplete : Statement (.ruStepComplete) := by
  rintro k w ⟨⟩
theorem partitionSwapOut : Statement (.partitionSwapOut) := by
  rintro k w ⟨⟩
theorem partitionSwapRestore : Statement (.partitionSwapRestore) := by
  rintro k w ⟨⟩
theorem dumpComplete : Statement (.dumpComplete) := by
  rintro k w ⟨⟩
theorem thermalThrottle : Statement (.thermalThrottle) := by
  rintro k w ⟨⟩
theorem thermalShutdown : Statement (.thermalShutdown) := by
  rintro k w ⟨⟩
theorem partitionDestroy : Statement .partitionDestroy := by
  rintro k w ⟨⟩
theorem mailboxRing : Statement .mailboxRing := by
  rintro k w ⟨⟩
theorem gtcCtlWrite : Statement (.gtcCtlWrite) := by
  rintro k w ⟨⟩
theorem gtcRateWrite : Statement (.gtcRateWrite) := by
  rintro k w ⟨⟩
theorem gtcStepWrite : Statement (.gtcStepWrite) := by
  rintro k w ⟨⟩
theorem ppsEdge : Statement (.ppsEdge) := by
  rintro k w ⟨⟩
theorem registerWrite : Statement (.registerWrite) := by
  rintro k w ⟨⟩
theorem partitionWideWakeBroadcast : Statement (.partitionWideWakeBroadcast) := by
  rintro k w ⟨⟩
theorem linkBringUp : Statement (.linkBringUp) := by
  rintro k w ⟨⟩
theorem stepAbsorbedBySlewing : Statement (.stepAbsorbedBySlewing) := by
  rintro k w ⟨⟩

end Sys2Proof.Laws.EncodeDecode
end

