-- ==== Sys2Proof/Laws/Results.lean ====
section
/-! SUPPORT. Results of scalar instructions: the dword in two lanes, what srOp and siOp put in flight, and what a landing
does to the scalar registers and predicates. -/

namespace Sys2Proof.Machine

@[simp] theorem Lanes.at_of (f : Nat → Word) (i : Nat) : (Lanes.of f).at i = f (i % 16) := by
  simp [Lanes.at, Lanes.of]

/-- A dword is read back from its two lanes. -/
@[simp] theorem dwordOfLanes_lanesOfDword (v : Dword) : dwordOfLanes (lanesOfDword v) = v := by
  simp only [dwordOfLanes, lanesOfDword, Lanes.at_of]
  apply BitVec.eq_of_getLsbD_eq
  intro i hi
  rw [BitVec.getLsbD_append]
  split
  · next h => simp [h]
  · next h => simp [show i - 32 < 32 by omega, show 32 + (i - 32) = i by omega]

/-- What a scalar result leaves in flight. -/
theorem State.landS_eq (s : State) (d : BitVec 5) (v : Dword) (lat : Nat) :
    s.landS d v lat = s.withFlight (if d = 0#5 then [] else [⟨s.x.bno + lat, 0, 0, d.toNat, 0, 3#16, lanesOfDword v⟩]) := by
  rw [State.landS]
  split
  · simp [State.withFlight]
  · rfl
/-- What a predicate result leaves in flight. -/
theorem State.landP_eq (s : State) (n : Nat) (b : Bool) (lat : Nat) :
    s.landP n b lat = s.withFlight (if n = 0 then [] else
      [⟨s.x.bno + lat, 0, 0, 32 + n, 0, 1#16, Lanes.of fun i => if i = 0 && b then 1#32 else 0#32⟩]) := by
  rw [State.landP]
  split
  · simp [State.withFlight]
  · rfl
@[simp] theorem State.withFlight_nil (s : State) : s.withFlight [] = s := by simp [State.withFlight]

/-- An instruction that lands a scalar result under a condition. -/
theorem scalarResult_of_landS {i : Instr} {s : State} {go : Bool} {d : BitVec 5} {lat : Nat} {v : Dword}
    (h : exec i s = .next (if go then s.landS d v lat else s)) : ScalarResult i s go d lat v := by
  refine ⟨⟨s.x.bno + lat, 0, 0, d.toNat, 0, 3#16, lanesOfDword v⟩, ?_, rfl, rfl, rfl, rfl, by simp⟩
  rw [h, State.landS_eq]
  cases go <;> by_cases hd : d = 0#5 <;> simp [hd]
/-- An instruction that lands a predicate under a condition. -/
theorem predicateResult_of_landP {i : Instr} {s : State} {go : Bool} {n : Nat} {b : Bool}
    (h : exec i s = .next (if go then s.landP n b 1 else s)) : PredicateResult i s go n b := by
  refine ⟨⟨s.x.bno + 1, 0, 0, 32 + n, 0, 1#16, Lanes.of fun i => if i = 0 && b then 1#32 else 0#32⟩, ?_,
    rfl, rfl, rfl, rfl, by cases b <;> simp⟩
  rw [h, State.landP_eq]
  cases go <;> by_cases hd : n = 0 <;> simp [hd]

/-- A register operation's result. -/
theorem scalarResult_of_srOp {f : SR} {s : State} {lat : Nat} {g : Dword → Dword → Dword} {i : Instr} {v : Dword}
    (hi : exec i s = srOp f lat g s) (hv : g (s.x.sreg f.a.toNat) (s.x.sreg f.b.toNat) = v) :
    ScalarResult i s (s.x.preg f.p.toNat) f.d lat v :=
  scalarResult_of_landS (by rw [hi, srOp, ← hv]; rfl)
/-- An immediate operation's result. -/
theorem scalarResult_of_siOp {f : SI} {s : State} {k : Dword} {g : Dword → Dword → Dword} {i : Instr} {v : Dword}
    (hi : exec i s = siOp f k g s) (hv : g (s.x.sreg f.a.toNat) k = v) : ScalarResult i s true f.d 1 v :=
  scalarResult_of_landS (by rw [hi, siOp, ← hv]; rfl)

/-- Bits [5:0] as a shift distance. -/
theorem bits_low6 (y : Dword) : bits y 0 6 = y.toNat % 64 := by
  simp [bits, BitVec.extractLsb'_toNat]
/-- An arithmetic shift is a quotient toward minus infinity. -/
theorem sshiftRight_eq_div (x : Dword) (n : Nat) : x.sshiftRight n = BitVec.ofInt 64 (x.toInt / 2 ^ n) := by
  rw [BitVec.sshiftRight, Int.shiftRight_eq_div_pow]
  rfl

/-- A scalar register after a write; s0 stays zero (01 R20). -/
@[simp] theorem Ctx.sreg_setS (c : Ctx) (k : Nat) (v : Dword) (n : Nat) :
    (c.setS k v).sreg n = if n = k ∧ n ≠ 0 then v else c.sreg n := by
  by_cases hk : k = 0
  · subst hk; rw [Ctx.setS, if_pos rfl, if_neg (by omega)]
  · rw [Ctx.setS, if_neg hk, Ctx.sreg, Ctx.sreg, Map.get_set]
    by_cases hn : n = 0
    · simp [hn]
    · by_cases h : n = k <;> simp [hn, h, hk]
/-- A bit of a byte after one bit was set. -/
theorem getLsbD_setBit8 (p : BitVec 8) (n : Nat) (b : Bool) (m : Nat) (hm : m < 8) :
    (setBit8 p n b).getLsbD m = if m = n then b else p.getLsbD m := by
  have h2 : (BitVec.ofNat 8 (2 ^ n)).getLsbD m = decide (m = n) := by
    rw [BitVec.getLsbD_ofNat, Nat.testBit_two_pow]; simp [hm, eq_comm]
  rw [setBit8]
  cases b
  · rw [if_neg (by decide), BitVec.getLsbD_and, BitVec.getLsbD_not, h2, decide_eq_true hm]
    by_cases h : m = n <;> simp [h]
  · rw [if_pos rfl, BitVec.getLsbD_or, h2]
    by_cases h : m = n <;> simp [h]
/-- A predicate after a write; p0 stays true (01 R20). -/
theorem Ctx.preg_setP (c : Ctx) (k : Nat) (b : Bool) (n : Nat) (hn : n < 8) :
    (c.setP k b).preg n = if n = k ∧ n ≠ 0 then b else c.preg n := by
  by_cases h0 : k = 0
  · subst h0; rw [Ctx.setP, if_pos rfl, if_neg (by omega)]
  · rw [Ctx.setP, if_neg h0, Ctx.preg, Ctx.preg]
    by_cases hz : n = 0
    · simp [hz]
    · rw [getLsbD_setBit8 _ _ _ _ hn]
      by_cases h : n = k <;> simp [hz, h, h0]

end Sys2Proof.Machine
end

