-- ==== Sys2Proof/Tests/Slice0.lean ====
section
/-! SUPPORT. Tests: words written out from the spec's encodings, ill-formed terms, witnesses for the hypotheses of the
statements, and single steps. -/

open Sys2Proof Sys2Proof.Machine
namespace Sys2Proof.Tests

set_option Elab.async false

/-! ## Decoding: every op word of the table, its fields written out by the layouts of 03 R55 and R59 to R61 -/

def decodes (k : Kind) (l : List (Word × Instr)) : Bool := l.all fun x => decide (decodeOp k x.1 = some x.2)
theorem test_decode_scalar1 : decodes .S [
    (0x005B35CD#32, .nop ⟨5, 22, 13, 3, 77⟩), (0x025B35CD#32, .add ⟨5, 22, 13, 3, 77⟩),
    (0x045B35CD#32, .sub ⟨5, 22, 13, 3, 77⟩), (0x065B35CD#32, .mul ⟨5, 22, 13, 3, 77⟩),
    (0x085B35CD#32, .mulh ⟨5, 22, 13, 3, 77⟩), (0x0A5B35CD#32, .mulhu ⟨5, 22, 13, 3, 77⟩),
    (0x0C5B35CD#32, .and ⟨5, 22, 13, 3, 77⟩), (0x0E5B35CD#32, .or ⟨5, 22, 13, 3, 77⟩),
    (0x105B35CD#32, .xor ⟨5, 22, 13, 3, 77⟩), (0x125B35CD#32, .andn ⟨5, 22, 13, 3, 77⟩),
    (0x145B35CD#32, .shl ⟨5, 22, 13, 3, 77⟩), (0x165B35CD#32, .shr ⟨5, 22, 13, 3, 77⟩),
    (0x185B35CD#32, .sar ⟨5, 22, 13, 3, 77⟩), (0x1A5B35CD#32, .min ⟨5, 22, 13, 3, 77⟩),
    (0x1C5B35CD#32, .max ⟨5, 22, 13, 3, 77⟩), (0x1E5B35CD#32, .minu ⟨5, 22, 13, 3, 77⟩),
    (0x205B35CD#32, .maxu ⟨5, 22, 13, 3, 77⟩), (0x225B35CD#32, .clz ⟨5, 22, 13, 3, 77⟩),
    (0x245B35CD#32, .popc ⟨5, 22, 13, 3, 77⟩), (0x265B35CD#32, .sext ⟨5, 22, 13, 3, 77⟩),
    (0x285B35CD#32, .bfx ⟨5, 22, 13, 3, 77⟩), (0x2A5B35CD#32, .bfi ⟨5, 22, 13, 3, 77⟩),
    (0x309ADA3C#32, .addi ⟨9, 21, 23100⟩), (0x329ADA3C#32, .andi ⟨9, 21, 23100⟩)] = true := by decide +kernel
theorem test_decode_scalar2 : decodes .S [
    (0x349ADA3C#32, .ori ⟨9, 21, 23100⟩), (0x369ADA3C#32, .xori ⟨9, 21, 23100⟩), (0x389ADA3C#32, .shli ⟨9, 21, 23100⟩),
    (0x3A9ADA3C#32, .shri ⟨9, 21, 23100⟩), (0x3C9ADA3C#32, .sari ⟨9, 21, 23100⟩), (0x3E9ADA3C#32, .li ⟨9, 21, 23100⟩),
    (0x405B35CD#32, .cmp ⟨5, 22, 13, 3, 77⟩), (0x429ADA3C#32, .cmpi ⟨9, 21, 23100⟩),
    (0x445B35CD#32, .sel ⟨5, 22, 13, 3, 77⟩), (0x4653158D#32, .plog ⟨5, 6, 5, 3, 13⟩),
    (0x61612345#32, .br ⟨5, true, 74565⟩), (0x63612345#32, .jmp ⟨5, true, 74565⟩),
    (0x65612345#32, .call ⟨5, true, 74565⟩), (0x665B35CD#32, .jr ⟨5, 22, 13, 3, 77⟩),
    (0x685B35CD#32, .ret ⟨5, 22, 13, 3, 77⟩), (0x6A0B35CD#32, .loop ⟨0, 22, 13, 3, 77⟩),
    (0x6C9ADA3C#32, .loopi ⟨9, 21, 23100⟩), (0x6F612345#32, .lbrk ⟨5, true, 74565⟩),
    (0x709ADA3C#32, .yield ⟨9, 21, 23100⟩), (0x725B35CD#32, .park ⟨5, 22, 13, 3, 77⟩),
    (0x745B35CD#32, .halt ⟨5, 22, 13, 3, 77⟩), (0x765B35CD#32, .wait ⟨5, 22, 13, 3, 77⟩),
    (0x781ADA3C#32, .iwin ⟨1, 21, 23100⟩), (0x7A5B35CD#32, .ifence ⟨5, 22, 13, 3, 77⟩)] = true := by decide +kernel
theorem test_decode_scalar3 : decodes .S [
    (0x7D612345#32, .swapb ⟨5, true, 74565⟩), (0x7E5B35CD#32, .spawn ⟨5, 22, 13, 3, 77⟩),
    (0x809ADA3C#32, .csrr ⟨9, 21, 23100⟩), (0x829ADA3C#32, .csrw ⟨9, 21, 23100⟩),
    (0x845B35CD#32, .gtc ⟨5, 22, 13, 3, 77⟩), (0xA09ADA3C#32, .trap ⟨9, 21, 23100⟩),
    (0xA25B35CD#32, .tret ⟨5, 22, 13, 3, 77⟩), (0xA45B35CD#32, .ctxsv ⟨5, 22, 13, 3, 77⟩),
    (0xA65B35CD#32, .ctxld ⟨5, 22, 13, 3, 77⟩), (0xA85B3580#32, .tlbinv ⟨5, 22, 13, 3, 0⟩),
    (0xA85B3581#32, .tlbinvAll ⟨5, 22, 13, 3, 1⟩), (0xAA5B35CD#32, .tlbsync ⟨5, 22, 13, 3, 77⟩)] = true := by decide +kernel
theorem test_decode_global1 : decodes .G [
    (0x0069A6C7#32, .ldg ⟨6, 19, 2, 1, 711⟩), (0x0269A6C7#32, .stg ⟨6, 19, 2, 1, 711⟩),
    (0x0469A6C7#32, .amo ⟨6, 19, 2, 1, 711⟩), (0x0669A6C7#32, .cas ⟨6, 19, 2, 1, 711⟩),
    (0x0869A6C7#32, .fence ⟨6, 19, 2, 1, 711⟩), (0x0A69A6C6#32, .drain ⟨6, 19, 2, 1, 710⟩),
    (0x0A69A6C7#32, .drainE ⟨6, 19, 2, 1, 711⟩), (0x0C69A6C7#32, .mon ⟨6, 19, 2, 1, 711⟩),
    (0x0E6982C7#32, .mwait ⟨6, 19, 0, 0, 711⟩), (0x1069A6C7#32, .barInit ⟨6, 19, 2, 1, 711⟩),
    (0x1269A6C7#32, .barArrive ⟨6, 19, 2, 1, 711⟩), (0x1469A6C7#32, .barExpect ⟨6, 19, 2, 1, 711⟩),
    (0x1669A6C7#32, .barWait ⟨6, 19, 2, 1, 711⟩), (0x1869AAC7#32, .cmpl ⟨6, 19, 2, 2, 711⟩),
    (0x1A69A2C7#32, .pfg ⟨6, 19, 2, 0, 711⟩), (0x1C69A6C7#32, .amof ⟨6, 19, 2, 1, 711⟩)] = true := by decide +kernel
theorem test_decode_engine1 : decodes .E [
    (0x00BD1C05#32, .cqLvl ⟨11, 26, 7, 5⟩), (0x02BD1C00#32, .cqGo ⟨11, 26, 7, 0⟩), (0x04BD1C00#32, .cqCfg ⟨11, 26, 7, 0⟩),
    (0x06BD1C01#32, .cqBar ⟨11, 26, 7, 1⟩), (0x10BD1C35#32, .mxCall ⟨11, 26, 7, 53⟩),
    (0x12BD1C05#32, .mxSetp ⟨11, 26, 7, 5⟩), (0x12BD1C0D#32, .mxGetp ⟨11, 26, 7, 13⟩),
    (0x14BD1C35#32, .mxLd ⟨11, 26, 7, 53⟩), (0x16BD1C35#32, .mxDrain ⟨11, 26, 7, 53⟩),
    (0x18BD1C05#32, .mxZero ⟨11, 26, 7, 5⟩), (0x20BD1C01#32, .kvAttn ⟨11, 26, 7, 1⟩),
    (0x22BD1C00#32, .kvApp ⟨11, 26, 7, 0⟩), (0x24BD1C00#32, .kvFork ⟨11, 26, 7, 0⟩),
    (0x26BD1C00#32, .kvFree ⟨11, 26, 7, 0⟩), (0x28BD1C00#32, .kvSeal ⟨11, 26, 7, 0⟩),
    (0x2ABD1C00#32, .kvUndo ⟨11, 26, 7, 0⟩), (0x2CBD1C00#32, .kvTrim ⟨11, 26, 7, 0⟩),
    (0x2EBD1C00#32, .kvClass ⟨11, 26, 7, 0⟩), (0x2EBD1C01#32, .kvClassAll ⟨11, 26, 7, 1⟩),
    (0x30BD1C00#32, .kvDemote ⟨11, 26, 7, 0⟩), (0x32BD1C00#32, .kvPromote ⟨11, 26, 7, 0⟩),
    (0x34BD1C00#32, .kvPin ⟨11, 26, 7, 0⟩), (0x36BD1C00#32, .kvUnpin ⟨11, 26, 7, 0⟩),
    (0x38BD1C00#32, .kvLend ⟨11, 26, 7, 0⟩)] = true := by decide +kernel
theorem test_decode_engine2 : decodes .E [
    (0x3ABD1C00#32, .kvRet ⟨11, 26, 7, 0⟩), (0x3CBD1C00#32, .kvLen ⟨11, 26, 7, 0⟩),
    (0x3CBD1C01#32, .kvLenT ⟨11, 26, 7, 1⟩), (0x3EBD1C00#32, .kvPos ⟨11, 26, 7, 0⟩),
    (0x40BD1C00#32, .kvMerge ⟨11, 26, 7, 0⟩), (0x42BD1C00#32, .kvGrant ⟨11, 26, 7, 0⟩),
    (0x50BD1C00#32, .tlDef ⟨11, 26, 7, 0⟩), (0x50BD1C01#32, .tlDefR ⟨11, 26, 7, 1⟩),
    (0x52BD1C00#32, .tlGet ⟨11, 26, 7, 0⟩), (0x54BD1C00#32, .tlPut ⟨11, 26, 7, 0⟩),
    (0x56BD1C00#32, .tlDrop ⟨11, 26, 7, 0⟩), (0x56BD1C01#32, .tlDropF ⟨11, 26, 7, 1⟩),
    (0x58BD1C00#32, .tlPin ⟨11, 26, 7, 0⟩), (0x5ABD1C00#32, .tlUnpin ⟨11, 26, 7, 0⟩),
    (0x5CBD1C00#32, .tlDone ⟨11, 26, 7, 0⟩), (0x60BD1C00#32, .ruTab ⟨11, 26, 7, 0⟩),
    (0x62BD1C00#32, .ruCfg ⟨11, 26, 7, 0⟩), (0x64BD1EB5#32, .ruStep ⟨11, 26, 7, 693⟩),
    (0x66BD1C00#32, .ruGen ⟨11, 26, 7, 0⟩), (0x66BD1C01#32, .ruGenW ⟨11, 26, 7, 1⟩),
    (0x70BD1C00#32, .msgSend ⟨11, 26, 7, 0⟩), (0x72BD1C00#32, .msgPost ⟨11, 26, 7, 0⟩),
    (0x74BD1C00#32, .msgCancel ⟨11, 26, 7, 0⟩), (0x76BD1C00#32, .msgProbe ⟨11, 26, 7, 0⟩)] = true := by decide +kernel
theorem test_decode_engine3 : decodes .E [
    (0x78BD1CB5#32, .msgHnd ⟨11, 26, 7, 181⟩), (0x80BD1C00#32, .sctArm ⟨11, 26, 7, 0⟩),
    (0x80BD1C01#32, .sctDisarm ⟨11, 26, 7, 1⟩), (0x82BD1C00#32, .sctTouch ⟨11, 26, 7, 0⟩),
    (0x82BD1C01#32, .sctDone ⟨11, 26, 7, 1⟩), (0x84BD1C00#32, .sctEvict ⟨11, 26, 7, 0⟩),
    (0x86BD1C05#32, .sctRead ⟨11, 26, 7, 5⟩)] = true := by decide +kernel
theorem test_decode_vector1 : decodes .A [
    (0x01553D56#32, .vmov ⟨42, true, 19, 53, false, true, 1, 2⟩),
    (0x03553D56#32, .vadd ⟨42, true, 19, 53, false, true, 1, 2⟩),
    (0x05553D56#32, .vsub ⟨42, true, 19, 53, false, true, 1, 2⟩),
    (0x07553D56#32, .vaddsat ⟨42, true, 19, 53, false, true, 1, 2⟩),
    (0x09553D56#32, .vsubsat ⟨42, true, 19, 53, false, true, 1, 2⟩),
    (0x0B553D56#32, .vmul ⟨42, true, 19, 53, false, true, 1, 2⟩),
    (0x0D553D56#32, .vmulh ⟨42, true, 19, 53, false, true, 1, 2⟩),
    (0x0F553D56#32, .vmac ⟨42, true, 19, 53, false, true, 1, 2⟩),
    (0x11553D56#32, .vdot4 ⟨42, true, 19, 53, false, true, 1, 2⟩),
    (0x13553D56#32, .vdot2 ⟨42, true, 19, 53, false, true, 1, 2⟩),
    (0x15553D56#32, .vabs ⟨42, true, 19, 53, false, true, 1, 2⟩),
    (0x17553D56#32, .vneg ⟨42, true, 19, 53, false, true, 1, 2⟩),
    (0x19553D56#32, .vmin ⟨42, true, 19, 53, false, true, 1, 2⟩),
    (0x1B553D56#32, .vmax ⟨42, true, 19, 53, false, true, 1, 2⟩),
    (0x1D553D56#32, .vminu ⟨42, true, 19, 53, false, true, 1, 2⟩),
    (0x1F553D56#32, .vmaxu ⟨42, true, 19, 53, false, true, 1, 2⟩),
    (0x21553D56#32, .vand ⟨42, true, 19, 53, false, true, 1, 2⟩),
    (0x23553D56#32, .vor ⟨42, true, 19, 53, false, true, 1, 2⟩),
    (0x25553D56#32, .vxor ⟨42, true, 19, 53, false, true, 1, 2⟩),
    (0x27553D56#32, .vandn ⟨42, true, 19, 53, false, true, 1, 2⟩),
    (0x29553D56#32, .vshl ⟨42, true, 19, 53, false, true, 1, 2⟩),
    (0x2B553D56#32, .vshr ⟨42, true, 19, 53, false, true, 1, 2⟩),
    (0x2D553D56#32, .vsar ⟨42, true, 19, 53, false, true, 1, 2⟩),
    (0x2F553D56#32, .vrshr ⟨42, true, 19, 53, false, true, 1, 2⟩)] = true := by decide +kernel
theorem test_decode_vector2 : decodes .A [
    (0x31553D56#32, .vclz ⟨42, true, 19, 53, false, true, 1, 2⟩),
    (0x33553D56#32, .vpopc ⟨42, true, 19, 53, false, true, 1, 2⟩),
    (0x35553D56#32, .vcmp ⟨42, true, 19, 53, false, true, 1, 2⟩),
    (0x37553D56#32, .vsel ⟨42, true, 19, 53, false, true, 1, 2⟩),
    (0x39553D56#32, .vbcast ⟨42, true, 19, 53, false, true, 1, 2⟩),
    (0x3B553D56#32, .vlane ⟨42, true, 19, 53, false, true, 1, 2⟩),
    (0x3D553D56#32, .vpack ⟨42, true, 19, 53, false, true, 1, 2⟩),
    (0x3F553D56#32, .vunpk ⟨42, true, 19, 53, false, true, 1, 2⟩),
    (0x40153D56#32, .vmskl ⟨2, true, 19, 53, false, true, 1, 2⟩),
    (0x43553D56#32, .vext ⟨42, true, 19, 53, false, true, 1, 2⟩),
    (0x45553D56#32, .vins ⟨42, true, 19, 53, false, true, 1, 2⟩),
    (0x81553D56#32, .vfadd ⟨42, true, 19, 53, false, true, 1, 2⟩),
    (0x83553D56#32, .vfsub ⟨42, true, 19, 53, false, true, 1, 2⟩),
    (0x85553D56#32, .vfmul ⟨42, true, 19, 53, false, true, 1, 2⟩),
    (0x87553D56#32, .vfma ⟨42, true, 19, 53, false, true, 1, 2⟩),
    (0x89553D56#32, .vfms ⟨42, true, 19, 53, false, true, 1, 2⟩),
    (0x8B553D56#32, .vfmin ⟨42, true, 19, 53, false, true, 1, 2⟩),
    (0x8D553D56#32, .vfmax ⟨42, true, 19, 53, false, true, 1, 2⟩),
    (0x8F553D56#32, .vfabs ⟨42, true, 19, 53, false, true, 1, 2⟩),
    (0x91553D56#32, .vfneg ⟨42, true, 19, 53, false, true, 1, 2⟩),
    (0x93553D56#32, .vfcmp ⟨42, true, 19, 53, false, true, 1, 2⟩),
    (0x95553D56#32, .vfcls ⟨42, true, 19, 53, false, true, 1, 2⟩),
    (0x97553D56#32, .vfscl ⟨42, true, 19, 53, false, true, 1, 2⟩),
    (0x99553156#32, .vfrnd ⟨42, true, 19, 5, false, true, 1, 2⟩)] = true := by decide +kernel
theorem test_decode_vector3 : decodes .A [
    (0x9B553D56#32, .vcvt ⟨42, true, 19, 53, false, true, 1, 2⟩),
    (0x9D553D56#32, .vfcvti ⟨42, true, 19, 53, false, true, 1, 2⟩),
    (0x9F553D56#32, .vicvtf ⟨42, true, 19, 53, false, true, 1, 2⟩),
    (0xA1553D56#32, .vqmx ⟨42, true, 19, 53, false, true, 1, 2⟩),
    (0xA3553D56#32, .vdqmx ⟨42, true, 19, 53, false, true, 1, 2⟩),
    (0xA5553D56#32, .vrsum ⟨42, true, 19, 53, false, true, 1, 2⟩),
    (0xA7553D56#32, .vrmax ⟨42, true, 19, 53, false, true, 1, 2⟩),
    (0xA9553D56#32, .vrmin ⟨42, true, 19, 53, false, true, 1, 2⟩)] = true := by decide +kernel
theorem test_decode_special1 : decodes .F [
    (0x01553D52#32, .exp2 ⟨42, true, 19, 53, false, true, 0, 2⟩),
    (0x03553D52#32, .log2 ⟨42, true, 19, 53, false, true, 0, 2⟩),
    (0x05553D52#32, .rcp ⟨42, true, 19, 53, false, true, 0, 2⟩),
    (0x07553D52#32, .rsq ⟨42, true, 19, 53, false, true, 0, 2⟩),
    (0x09553D52#32, .sqrt ⟨42, true, 19, 53, false, true, 0, 2⟩),
    (0x0B553D52#32, .sin ⟨42, true, 19, 53, false, true, 0, 2⟩),
    (0x0D553D52#32, .cos ⟨42, true, 19, 53, false, true, 0, 2⟩),
    (0x0F553D52#32, .tanh ⟨42, true, 19, 53, false, true, 0, 2⟩),
    (0x11553D52#32, .sigm ⟨42, true, 19, 53, false, true, 0, 2⟩)] = true := by decide +kernel
theorem test_decode_local1 : decodes .M [
    (0x01553D56#32, .vld ⟨42, true, 19, 53, false, true, 1, 2⟩),
    (0x03553D56#32, .vst ⟨42, true, 19, 53, false, true, 1, 2⟩),
    (0x05553D56#32, .vlds ⟨42, true, 19, 53, false, true, 1, 2⟩),
    (0x07553D56#32, .vsts ⟨42, true, 19, 53, false, true, 1, 2⟩),
    (0x09553D56#32, .vldx ⟨42, true, 19, 53, false, true, 1, 2⟩),
    (0x0B553D56#32, .vstx ⟨42, true, 19, 53, false, true, 1, 2⟩),
    (0x0D553D56#32, .vldb ⟨42, true, 19, 53, false, true, 1, 2⟩),
    (0x0F553D56#32, .vldt ⟨42, true, 19, 53, false, true, 1, 2⟩),
    (0x11553D56#32, .fefill ⟨42, true, 19, 53, false, true, 1, 2⟩),
    (0x13553D56#32, .feempty ⟨42, true, 19, 53, false, true, 1, 2⟩),
    (0x14153D56#32, .fetest ⟨2, true, 19, 53, false, true, 1, 2⟩),
    (0x17D53D56#32, .sbind ⟨58, true, 19, 53, false, true, 1, 2⟩),
    (0x19D53D56#32, .sfmt ⟨58, true, 19, 53, false, true, 1, 2⟩),
    (0x1BD53D56#32, .sadv ⟨58, true, 19, 53, false, true, 1, 2⟩),
    (0x1D553D52#32, .efence ⟨42, true, 19, 53, false, true, 0, 2⟩),
    (0x1D553D56#32, .efenceRd ⟨42, true, 19, 53, false, true, 1, 2⟩)] = true := by decide +kernel
theorem test_decode_cross_cluster1 : decodes .X [
    (0x01553D56#32, .xcp ⟨42, true, 19, 53, false, true, 1, 2⟩),
    (0x03553D56#32, .xbc ⟨42, true, 19, 53, false, true, 1, 2⟩),
    (0x05553D56#32, .xrot ⟨42, true, 19, 53, false, true, 1, 2⟩),
    (0x07553D56#32, .xshf ⟨42, true, 19, 53, false, true, 1, 2⟩),
    (0x09553D56#32, .trpi ⟨42, true, 19, 53, false, true, 1, 2⟩),
    (0x0B553D56#32, .trpo ⟨42, true, 19, 53, false, true, 1, 2⟩),
    (0x0D553D56#32, .xred ⟨42, true, 19, 53, false, true, 1, 2⟩)] = true := by decide +kernel

/-! ## Well-formedness: a term that each check refuses (03 R56, R57, R60, R61, R68 and the entries) -/

def vr (d a b : BitVec 6) (t : BitVec 2) (m : BitVec 2) : VR := ⟨d, false, a, b, false, false, t, m⟩
def illFormed (l : List Instr) : Bool := l.all fun i => !wellFormed i
theorem test_illformed_sources : illFormed [.vadd (vr 1 38 2 0 0), .vadd (vr 1 2 39 0 0), .vadd (vr 1 47 2 0 0), .vst (vr 38 1 2 0 0)] = true := by
  decide +kernel
theorem test_illformed_destinations : illFormed [.vadd (vr 32 1 2 0 0), .vmskl (vr 4 1 2 0 0), .fetest (vr 4 1 2 0 0),
    .sbind (vr 16 1 2 0 0), .sfmt (vr 47 1 2 0 0)] = true := by decide +kernel
theorem test_illformed_types : illFormed [.vadd (vr 1 2 3 3 0), .vdot4 (vr 1 2 3 1 0), .vdot2 (vr 1 2 3 2 0), .vpack (vr 1 2 3 0 0),
    .exp2 (vr 1 2 3 1 0), .efence (vr 0 0 0 2 0), .xred (vr 1 2 3 1 0)] = true := by decide +kernel
theorem test_illformed_conversions : illFormed [.vcvt (vr 1 2 0x30 0 0), .vcvt (vr 1 2 0x06 0 0), .vcvt (vr 1 2 0x00 1 0),
    .vfcvti (vr 1 2 0x06 0 0), .vicvtf (vr 1 2 0x06 0 0), .vfcvti (vr 1 2 0x38 0 0), .vicvtf (vr 1 2 0x38 0 0),
    .vfcvti (vr 1 2 0x00 1 0), .vicvtf (vr 1 2 0x00 1 0), .vfrnd (vr 1 2 8 0 0), .vqmx (vr 1 2 3 0 3), .vdqmx (vr 1 2 3 0 3)] = true := by
  decide +kernel
theorem test_illformed_global : illFormed [.ldg ⟨1, 2, 5, 1, 0⟩, .ldg ⟨1, 2, 1, 2, 0⟩, .stg ⟨1, 2, 1, 1, 0⟩, .ldg ⟨1, 2, 1, 0, 0⟩,
    .amo ⟨1, 2, 0, 0, 0x240⟩, .cas ⟨0, 2, 0, 0, 0⟩, .cas ⟨31, 2, 0, 0, 0⟩, .barInit ⟨1, 2, 2, 0, 0x200⟩, .fence ⟨0, 0, 1, 0, 0⟩,
    .drain ⟨0, 0, 0, 0, 0⟩, .mon ⟨1, 2, 2, 2, 0⟩, .mwait ⟨1, 2, 1, 0, 0⟩, .cmpl ⟨1, 2, 2, 1, 0⟩, .pfg ⟨1, 2, 1, 0, 0⟩] = true := by
  decide +kernel
theorem test_illformed_engine : illFormed [.cqLvl ⟨1, 2, 3, 6⟩, .cqLvl ⟨1, 2, 3, 8⟩, .cqGo ⟨1, 2, 3, 1⟩, .mxZero ⟨0, 0, 0, 3⟩,
    .mxZero ⟨0, 0, 0, 6⟩, .mxCall ⟨1, 2, 3, 0x80⟩, .mxLd ⟨1, 2, 3, 0x40⟩, .mxGetp ⟨1, 2, 3, 0x18⟩, .cqBar ⟨1, 2, 3, 2⟩,
    .msgHnd ⟨1, 2, 3, 0x100⟩] = true := by decide +kernel
theorem test_illformed_scalar : illFormed [.sext ⟨1, 2, 0, 0, 0⟩, .sext ⟨1, 2, 0, 0, 65⟩, .bfx ⟨1, 2, 0, 0, 64⟩, .bfi ⟨1, 2, 31, 0, 33⟩,
    .cmp ⟨8, 1, 2, 0, 0⟩, .cmp ⟨1, 1, 2, 0, 6⟩, .plog ⟨8, 1, 2, 0, 0⟩, .plog ⟨1, 8, 2, 0, 0⟩, .plog ⟨1, 1, 8, 0, 0⟩, .plog ⟨1, 1, 2, 0, 16⟩,
    .loop ⟨1, 1, 0, 0, 8⟩, .iwin ⟨2, 1, 0⟩, .tlbinv ⟨0, 1, 0, 0, 2⟩] = true := by decide +kernel
theorem test_illformed_variants : illFormed [.tlbinvAll ⟨0, 1, 0, 0, 0⟩, .drainE ⟨0, 0, 1, 0, 0⟩, .mxSetp ⟨1, 0, 0, 8⟩, .kvClassAll ⟨1, 2, 3, 0⟩,
    .kvLenT ⟨1, 2, 3, 0⟩, .tlDefR ⟨1, 2, 3, 0⟩, .tlDropF ⟨1, 2, 3, 0⟩, .ruGenW ⟨1, 2, 3, 0⟩, .sctDisarm ⟨1, 2, 3, 0⟩,
    .sctDone ⟨1, 2, 3, 0⟩, .efenceRd (vr 0 0 0 0 0)] = true := by decide +kernel
/-- The literal checks need a packet without literal words (R68). -/
theorem test_literal_missing : operandFault 0 2 (.addi ⟨1, 2, 0x4000⟩) = some 0 ∧ operandFault 0 2 (.park ⟨0, 1, 0, 0, 127⟩) = some 0 ∧
    operandFault 0 3 (.loop ⟨0, 1, 0, 0, 2⟩) = some 0 ∧ operandFault 1 2 (.addi ⟨1, 2, 0x4000⟩) = none := by decide +kernel
theorem test_wellformed : ([.vadd (vr 48 40 63 1 3), .ldg ⟨1, 2, 4, 3, 0x3FF⟩, .cqLvl ⟨1, 2, 3, 5⟩, .sext ⟨1, 2, 0, 0, 64⟩, .bfx ⟨1, 2, 31, 0, 32⟩,
    .tlbinvAll ⟨0, 1, 0, 0, 1⟩, .waitExpiry, .cas ⟨30, 2, 0, 0, 0⟩] : List Instr).all wellFormed = true := by decide +kernel

/-! ## Small states for the witnesses: context 0 issues for a strand whose record stands at 0x1000, and the first 2 MiB of
virtual memory map onto physical ones that are live under key id 5 -/

def busy : Ctx :=
  { emptyCtx with status := .running, pitch := 1, brec := 0x1000,
                  s := [(1, 0x100), (2, 7), (3, 0x800000000000000), (4, 0x101), (5, 0x40000000), (6, 0x80000000)] }
def base : State :=
  { State.reset with
    run := true
    x := busy
    core := { resetCore with utlb := [⟨0, 21, 7⟩], pitches := [⟨1, 0, 64, 0xFFFF, 1⟩] }
    part := { emptyPart with present := true, loaded := true, setup := { emptySetup with key := 5 } }
    pkg := { resetPkg with live := [(0, true)], stage := 7 } }
/-- `base` with bytes in memory under the partition's key. -/
def holding (a : Nat) (b : List Byte) : State := { base with pkg := base.pkg.writes 5 a b }
/-- `base` with another context. -/
def beside (n : Nat) (c : Ctx) : State := { base with rest := [(n, c)] }
/-- `base` in handler mode, or privileged. -/
def handler : State := { base with x := { busy with h := true } }
def trusted : State := { base with x := { busy with sp := true } }
/-- The value an instruction puts in flight, as its lanes. -/
def lands (i : Instr) (s : State) : Option (Nat × Lanes) :=
  match exec i s with
  | .next t => t.x.flight.getLast?.map fun e => (e.due, e.val)
  | _ => none

/-- The first 2 MiB map onto themselves. -/
theorem mapped (s : State) (hu : s.core.utlb = [⟨0, 21, 7⟩]) (hc : s.pkg.corrupt = []) (hx : s.part.setup.cxl = []) (va n : Nat)
    (h : va + n ≤ 2 ^ 21) : s.Mapped va n va := by
  intro i hi
  have h : va + i < 2 ^ 21 := by omega
  refine ⟨by simp [State.cxlFail, hx], by simp [hc], ?_, ⟨0, 21, 7⟩, ?_, by decide, ?_⟩
  · have : va + i < 0x00C000000000 := by omega
    simp [State.space, this]
  · have : (va + i) % 2 ^ 56 / 2 ^ 21 = 0 := by omega
    have : TlbEntry.covers ⟨0, 21, 7⟩ ((va + i) % 2 ^ 56) = true := by simp only [TlbEntry.covers, this]; decide
    simp only [State.entryFor]
    rw [hu]
    exact List.find?_cons_of_pos (p := fun x : TlbEntry => x.covers _) this
  · have : bits (7 : Dword) 16 32 = 0 := by decide
    simp only [this]; omega

/-! ### Witnesses: the scalar class, control and traps -/

theorem test_wit_scalar_fields :
    (1 ≤ (⟨1, 2, 0, 0, 1⟩ : SR).f.toNat ∧ (⟨1, 2, 0, 0, 64⟩ : SR).f.toNat ≤ 64) ∧
    (⟨1, 2, 31, 0, 32⟩ : SR).f.toNat + ((⟨1, 2, 31, 0, 32⟩ : SR).b.toNat + 1) ≤ 64 ∧
    (∀ k < 6, (⟨1, 2, 3, 0, BitVec.ofNat 7 k⟩ : SR).f.toNat % 8 = k) ∧
    (∀ c < 4, (⟨BitVec.ofNat 5 (8 * c + 1), 2, 3⟩ : SI).d.toNat / 8 = c) := by decide +kernel
theorem test_wit_landings :
    let e : Flight := ⟨1, 0, 0, 31, 0, 0xFFFF, lanesOfDword 9⟩
    (e.unit = 0 ∧ e.what = 0 ∧ e.dest < 32 ∧ (busy.landOne e).sreg 31 = 9) ∧
    (let p := { e with dest := 39 }; 32 ≤ p.dest ∧ p.dest < 40 ∧ (busy.landOne p).preg 7 = true) ∧
    ∀ f ∈ ({ busy with flight := [e] } : Ctx).flight, f.what ≠ 3 := by decide +kernel
theorem test_wit_flow :
    emptyFrame.opened = none ∧ ({ busy with pend := some 0x80 } : Ctx).pend = some 0x80 ∧
    (busy.pend = none ∧ ({ emptyFrame with transfer := some 0x40 } : Frame).transfer = some 0x40) ∧ base.x.h = false := by decide
/-- Two levels that end at 0x40, the inner one with a count and P, the outer one with 3. -/
def looping (inner : Word) (p : Bool) (req : Option Nat) : Ctx :=
  { busy with depth := 2, req := req, levels := [(0, ⟨3, 0x20, 0x40, true⟩), (1, ⟨inner, 0x30, 0x40, p⟩)] }
theorem test_wit_loops :
    (let f : Frame := { emptyFrame with addr := 0x40 }
     f.transfer = none ∧ f.opened = none ∧ f.skip = none ∧ (looping 1 false none).pend = none ∧ (looping 1 false none).depth = 2 ∧
     (∀ k < 1, ((looping 1 false none).level (2 - 1 - k)).fin = f.addr ∧ ((looping 1 false none).level (2 - 1 - k)).count.toNat ≤ 1) ∧
     ((looping 1 false none).level (2 - 1 - 1)).fin = f.addr ∧ 1 < ((looping 1 false none).level (2 - 1 - 1)).count.toNat ∧
     ((looping 1 false none).level 1).fin ≠ 0x44) ∧
    (∀ r ∈ [none, some 5], let s : State := { base with x := looping 2 true r, cur := { emptyFrame with addr := 0x40, words := 2, seq := 0x48 } }
      s.cur = { emptyFrame with addr := 0x40, words := 2, seq := 0x48 } ∧ s.x.pend = none ∧ 0 < s.x.depth ∧ s.x.depth ≤ 4 ∧
        (s.x.level (s.x.depth - 1)).fin = 0x40 ∧ 1 < (s.x.level (s.x.depth - 1)).count.toNat ∧ (s.x.level (s.x.depth - 1)).p = true) := by
  decide +kernel
/-- `base` with the record of its strand: the flags byte with state and W, and the party of its context. -/
def recorded (flags : Byte) (c : Ctx) : State :=
  { base with x := c, part := { base.part with parties := [⟨0, 0, 2⟩, ⟨7, 0, 1⟩] }, pkg := { base.pkg with key := [(0x20, 5)], mem := [(0x100B, flags)] } }
theorem test_wit_park_halt :
    ((recorded 1 busy).Mapped (va56 busy.brec) 64 0x1000 ∧ (recorded 5 { busy with psize := 1 }).Mapped (va56 busy.brec) 64 0x1000) ∧
    (recorded 1 busy).NoneWaiting ∧ (recorded 1 busy).keyId ≠ 0 ∧ isHost 0x1000 = false ∧ (recorded 1 busy).part.starts = [] ∧
    (∀ f ∈ [1, 5], let s := recorded (BitVec.ofNat 8 f) busy; (recordOf (s.pkg.reads s.keyId 0x1000 64)).w = decide (f = 5)) ∧
    busy.psize = 0 ∧ ({ busy with psize := 1 } : Ctx).psize ≠ 0 ∧ (recorded 1 busy).part.builds = [] ∧
    (∀ p ∈ (recorded 1 busy).part.parties, 1 < p.left ∨ p.job = 0) ∧ busy.party = 0 :=
  ⟨⟨mapped _ rfl rfl rfl _ _ (by decide), mapped _ rfl rfl rfl _ _ (by decide)⟩, rfl, by decide +kernel, by decide, rfl, by decide +kernel, rfl,
    by decide, rfl, by decide +kernel, rfl⟩
/-- A park with nothing owed, with s3 owed, and with a load owed; the line padding after word 0x3C; a halt of a strand whose
watch stands on another line than its record. -/
theorem test_wit_park_waits :
    (let p (l : List (Nat × Option Dword)) : Bool × Bool :=
       (l.any fun r => decide (1 ≤ r.1 ∧ r.1 ≤ 5), l.any fun r => r.2.isSome)
     p [] = (false, false) ∧ (p [(3, none)]).1 = true ∧ p [(9, some 5)] = (false, true)) ∧
    (let c : CoreSt := { resetCore with iwA := some 0, istore := [(16, 5)] }
     let word (a : Addr) : Option Word := (c.codeIdx a).map c.codeWord
     word 0x3C = some 0 ∧ word 0x40 ≠ some 0) ∧
    (let s : State := { recorded 1 busy with core := { base.core with watch := [⟨0x1000, false, false, 0x100, false⟩, ⟨0x2000, false, false, 0x200, true⟩] } }
     s.Mapped (va56 s.x.brec) 64 0x1000 ∧ ∀ w ∈ s.core.watch, w.barrier = false → w.pad = false → w.addr / 128 ≠ (0x1000 + 11) / 128) :=
  ⟨by decide, by decide +kernel, mapped _ rfl rfl rfl _ _ (by decide), by decide +kernel⟩
/-- A command of the strand, of the store or not. -/
def command (op : Instr) : Cmd := ⟨0, 0, 0x1000, 1, op, false, [], [], none, none, true, true, false, false, [], none, []⟩
def commanded (c : Cmd) : State := { base with core := { base.core with cmds := [c], nextId := 1 } }
def storeCopy : Cmd := { command (.cqGo ⟨1, 2, 3, 0⟩) with args := [0, 0, 0x800] }
theorem test_wit_strand :
    (∀ c ∈ base.core.cmds, c.writesStore = false) ∧ (∃ c ∈ (commanded storeCopy).core.cmds, c.writesStore = true) ∧
    (∃ c ∈ (commanded (command (.mxLd ⟨1, 2, 3, 0⟩))).core.cmds, c.strand.toNat % 2 ^ 56 = 0x1000) ∧ base.x.ef = none ∧
    ({ busy with ef := some ⟨7, 0x42, 1⟩ } : Ctx).ef = some ⟨7, 0x42, 1⟩ ∧
    ((0 : Dword).toNat ≤ base.gtc.toNat ∧ base.gtc.toNat < (1 : Dword).toNat) := by decide +kernel
theorem test_wit_traps :
    handler.x.h = true ∧ base.x.h = false ∧ base.x.sp = false ∧ base.x.depth = 0 ∧ base.x.pend = none ∧
    ({ busy with pend := some 0x80, link := some 31 } : Ctx).pend = some 0x80 ∧ base.x.preg 0 = true ∧ 8 ≤ (base.x.sreg 3).toNat ∧
    (base.x.sreg 2).toNat < 8 := by decide
theorem test_wit_csr :
    (∀ n ∈ ([0x000, 0x008, 0x010, 0x011, 0x014, 0x015, 0x018, 0x019, 0x01C, 0x020, 0x022, 0x024, 0x030, 0x031, 0x032, 0x033, 0x034, 0x035,
      0x038, 0x03B, 0x040, 0x047, 0x048, 0x100, 0x101, 0x102, 0x103, 0x110, 0x111, 0x120, 0x12F, 0x130, 0x13F, 0x140, 0x141, 0x150] : List Nat),
      (base.immInt (BitVec.ofNat 15 n) false).toNat = n ∧ csrKnown n = true) ∧
    csrKnown 0x001 = false ∧ 0x200 ≤ (base.immInt 0x200 false).toNat := by decide +kernel
theorem test_wit_windows :
    let c := { resetCore with iwA := some 1, iwB := some 2 }
    c.iwA = some (BitVec.ofNat 41 (0x8004 / 2 ^ 15)) ∧ c.iwA ≠ some (BitVec.ofNat 41 (0x10004 / 2 ^ 15)) ∧
    c.iwB = some (BitVec.ofNat 41 (0x10004 / 2 ^ 15)) ∧ c.iwB ≠ some (BitVec.ofNat 41 (0 / 2 ^ 15)) := by decide
/-- A record at 0x1040 in a state, with pc 0x4000. -/
def record (st : Nat) : State := holding 0x1040 (natBytes 8 0x4000 ++ natBytes 4 (st * 2 ^ 24))
def spawner (s : State) : State := { s with x := { s.x with s := [(1, 0x1040), (2, 0x1041), (3, 0x200000)] } }
theorem test_wit_spawn :
    (∀ st < 4, let s := spawner (record st)
      s.x.preg 0 = true ∧ (s.x.sreg 1).toNat % 64 = 0 ∧ (s.translate (s.x.sreg 1) false s.x.priv).2 = .ok (0x1040, 0) ∧
      s.integrityFail 0x1040 = false ∧ (recordOf ((s.translate (s.x.sreg 1) false s.x.priv).1.recBytes 0x1040)).state = st) ∧
    (spawner base).x.preg 1 = false ∧ ((spawner base).x.sreg 2).toNat % 64 ≠ 0 ∧
    (let s := spawner base
     (s.x.sreg 3).toNat % 64 = 0 ∧ (s.translate (s.x.sreg 3) false s.x.priv).2 = .error 0x42) := by decide +kernel
theorem test_wit_place :
    let s := spawner (record 0)
    let r := recordOf (s.pkg.reads s.keyId 0x1040 64)
    s.Mapped (va56 0x1040) 64 0x1040 ∧ s.NoneWaiting ∧ (s.keyId ≠ 0 ∧ isHost 0x1040 = false ∧ s.part.loaded = true ∧ s.core.rres < s.freeCount) ∧
    (s.freeCtx = some 1 ∧ r.psize = 0 ∧ s.recordOk r = true ∧ r.pitch = 0 ∧ r.lines = 0) ∧ (∀ e ∈ s.die.ready, va56 e.addr ≠ 0x1040) ∧
    (s.placeOne 0x1040 r s.x.sp 0 false).isSome = true ∧
    ({ s with part := { s.part with loaded := false } } : State).part.loaded = false :=
  ⟨mapped _ rfl rfl rfl _ _ (by decide), rfl, by decide +kernel, by decide +kernel, by decide +kernel, by decide +kernel, rfl⟩
/-- The record in a state, with every context of the die taken and n records of another strand in the ready list. -/
def packed (st n : Nat) : State :=
  { spawner (record st) with
    rest := (List.range 7).map fun i => (i + 1, { emptyCtx with status := .running, brec := 0x2000 })
    die := { resetDie with otherFree := 0, ready := List.replicate n ⟨0x2000, false, false, false, none⟩ } }
theorem test_wit_resume :
    (let s (c : CtxStatus) : State := { spawner (record 2) with rest := [(1, { emptyCtx with status := c, brec := 0x1040 })] }
     (s .reserved).ctxOf 0x1040 = some 1 ∧ ((s .reserved).ctx 1).status = .reserved ∧
       (s .reserved).recordOk (recordOf ((s .reserved).pkg.reads 5 0x1040 64)) = true) ∧
    (let s := spawner (record 2)
     s.ctxOf 0x1040 = none ∧ s.die.ready = [] ∧ s.core.rres < s.freeCount ∧ s.freeCtx = some 1 ∧
       (recordOf (s.pkg.reads 5 0x1040 64)).pitch = 0 ∧ (recordOf (s.pkg.reads 5 0x1040 64)).lines = 0) ∧
    (let s := spawner (holding 0x1048 [0, 0, 0, 0x12])
     s.recordOk (recordOf (s.pkg.reads 5 0x1040 64)) = false ∧ s.ctxOf 0x1040 = none ∧ s.die.ready = []) := by decide +kernel
theorem test_wit_full_list :
    ∀ st ∈ [0, 2], ∀ n ∈ [0, 1023, 1024], let s := packed st n
      s.freeCount ≤ s.core.rres ∧ (∀ d < 4, s.idleOn d = false) ∧ s.ctxOf 0x1040 = none ∧ s.die.ready.length = n ∧
      s.die.ready.all (fun e => decide (va56 e.addr ≠ 0x1040)) = true ∧ (s.translate 0x1040 false s.x.priv).2 = .ok (0x1040, 0) ∧
      s.placeOne 0x1040 (recordOf (s.recBytes 0x1040)) s.x.sp 0 false = none := by decide +kernel
/-- A record with a reserved field set, and one of a party of two. -/
theorem test_wit_spawn_invalid :
    (let s := spawner (holding 0x1048 [0, 0, 0, 0x10])
     (s.translate (s.x.sreg 1) false s.x.priv).2 = .ok (0x1040, 0) ∧ s.recordOk (recordOf (s.recBytes 0x1040)) = false) ∧
    (recordOf ((spawner (holding 0x1048 [0x10])).recBytes 0x1040)).psize ≠ 0 := by decide +kernel

/-! ### Witnesses: system instructions, scheduling and translation -/

theorem test_wit_tlb :
    (∀ p ∈ trusted.core.pages, p.2.2 = false) ∧ trusted.x.sp = true ∧ trusted.x.preg 0 = true ∧
    ∃ p ∈ ({ resetCore with pages := [(0, ⟨0, 21, 7⟩, true)] } : CoreSt).pages, p.2.2 = true := by decide +kernel
def other (st : CtxStatus) : Ctx := { emptyCtx with status := st, brec := 0x2000, rank := 3 }
/-- A context of the core in a state, to be saved at 0x10000. -/
def saving (st : CtxStatus) : State :=
  { beside 1 { other st with flight := [⟨3, 1, 2, 5, 0, 0xFFFF, Lanes.zero⟩] } with x := { busy with sp := true, s := [(1, 0x10000), (2, 1)] } }
theorem test_wit_image_bytes :
    (∀ st ∈ [CtxStatus.ready, .frozen, .waiting 9], let s := saving st
      s.x.sp = true ∧ s.x.preg 0 = true ∧ (s.x.sreg 1).toNat % 4096 = 0 ∧ (s.x.sreg 1).toNat % 2 ^ 56 = 0x10000 ∧ (s.x.sreg 2).toNat = 1 ∧ 1 ≠ s.xn ∧
      s.keyId ≠ 0 ∧ isHost 0x10000 = false ∧ isHost (0x10000 + 163839) = false ∧ s.core.cmds = [] ∧ (s.ctx 1).out = [] ∧ (s.ctx 1).h = false ∧
      (s.ctx 1).saved = none ∧ (s.ctx 1).flight.length ≤ 1024 ∧ (s.ctx 1).depth ≤ 4 ∧ (s.ctx 1).status = st) ∧
    (saving .ready).Mapped 0x10000 163840 0x10000 ∧ (saving .ready).NoneWaiting ∧
    (let s : State := { holding 0x10000 [1, 0, 0, 0, 2] with x := { busy with sp := true, s := [(1, 0x10000), (2, 1)] } }
     s.Mapped 0x10000 163840 0x10000 ∧ (s.devNat 0x10000 8).testBit 18 = false ∧ s.devNat 0x101D8 8 % 8 ≤ 4 ∧ s.devNat 0x10000 8 / 2 ^ 32 % 2 ^ 11 = 2) :=
  ⟨by decide +kernel, mapped _ rfl rfl rfl _ _ (by decide), rfl, mapped _ rfl rfl rfl _ _ (by decide), by decide +kernel, by decide +kernel,
    by decide +kernel⟩
theorem test_wit_save :
    let s : State := { beside 1 (other .ready) with x := { busy with sp := true, s := [(1, 0x10000), (2, 1)] } }
    s.x.sp = true ∧ s.x.preg 0 = true ∧ (s.x.sreg 1).toNat % 4096 = 0 ∧ (s.x.sreg 2).toNat < 8 ∧ (s.x.sreg 2).toNat ≠ s.xn ∧
    (s.ctx 1).status ≠ .empty ∧ (s.ctx 1).status ≠ .reserved ∧ s.imageFault 0x10000 true = none ∧
    (∀ r ∈ ((s.stopSteps 1).ctx 1).out, r.2.isSome = true) ∧
    ∃ r ∈ ((State.stopSteps { s with rest := [(1, { other .ready with out := [(9, none)] })] } 1).ctx 1).out, r.2 = none := by decide +kernel
theorem test_wit_load :
    let s : State := { holding 0x10000 [1] with x := { busy with sp := true, s := [(1, 0x10000), (2, 1)] } }
    (s.ctx 1).status = .empty ∧ s.imageFault 0x10000 false = none ∧ s.devNat 0x10000 8 % 2 ^ 16 = 1 ∧
    s.devNat 0x10000 8 / 2 ^ 32 % 2 ^ 11 ≤ 1024 ∧ (recordOf (s.recBytes (s.devNat 0x10240 8))).pitch = 0 := by decide +kernel
theorem test_wit_arbiter :
    let s (run : Nat) : State := { beside 1 { other .ready with run := run } with run := false, x := emptyCtx }
    (∃ n < 8, ((s 8).ctx n).isReady = true) ∧ (((s 8).countedRun ((s 8).ctx 1) : Int) ≤ (s 8).core.left) ∧
    ∀ n < 8, ((s 5000).ctx n).isReady = true → ¬ (((s 5000).countedRun ((s 5000).ctx n) : Int) ≤ (s 5000).core.left) := by
  decide +kernel
theorem test_wit_slice :
    (let s : State := { beside 1 (other .ready) with core := { base.core with left := 0 } }
     s.run = true ∧ s.core.left ≤ 0 ∧ s.x.req = none ∧ ∃ n < 8, n ≠ s.xn ∧ (s.ctx n).isReady = true) ∧
    (let s : State := { base with x := { busy with req := some 16384, waited := 0x10000000 } }
     s.core.deadline ≤ 16384 ∧ (∀ x ∈ s.x.out, x.2.isSome = true) ∧ s.core.wdog ≠ 0#32 ∧ s.core.wdog.toNat ≤ s.x.waited) ∧
    (0 < base.core.left ∧ base.x.req = none ∧ base.x.waited < base.core.wdog.toNat) ∧
    (let s : State := { base with cur := Frame.start 0 4 1 }
     s.cur = Frame.start 0 4 1 ∧ s.x.depth = 0 ∧ s.x.pend = none ∧ s.x.flight = []) := by decide +kernel
theorem test_wit_waits :
    (let s := beside 1 (other (.waiting 0))
     (s.ctx 1).status = .waiting 0 ∧ (0 : Dword).toNat ≤ s.gtc.toNat ∧ s.run = true ∧ s.x.req = none ∧ 1 ≠ s.xn ∧
     s.x.rank + s.x.bonus < (s.ctx 1).rank + (s.ctx 1).bonus ∧ ∀ m < 1, (s.ctx m).status = .running) ∧
    (let s := beside 1 (other (.sleeping 0 9)); (s.ctx 1).status = .sleeping 0 9 ∧ ∀ m < 1, (s.ctx m).status = .running) ∧
    (let s : State := { beside 1 { emptyCtx with out := [(9, some 5)] } with die := { resetDie with ready := [⟨0x1040, false, false, false, none⟩] } }
     s.freeCtx = some 1 ∧ (recordOf (s.recBytes 0x1040)).pitch = 0 ∧ (recordOf (s.recBytes 0x1040)).lines = 0 ∧
     s.core.rres < s.freeCount ∧ s.recordOk (recordOf (s.recBytes 0x1040)) = true ∧ s.part.loaded = true ∧
     (let b : State := { spawner (holding 0x1048 [0, 0, 0, 0x10]) with die := s.die }; b.recordOk (recordOf (b.recBytes 0x1040)) = false) ∧ (s.ctx 1).out.find? (fun x => x.1 = 9) = some (9, some 5)) ∧
    ({ base with core := { base.core with rres := 1000 } } : State).freeCount ≤ 1000 := by decide +kernel
/-- Every context of the core's die is taken; the partition has a second die, or none, for a parked strand. -/
def crowded (dies : BitVec 4) : State :=
  { base with
    rest := (List.range 7).map fun i => (i + 1, other .running)
    die := { resetDie with otherFree := 0, ready := [⟨0x1040, false, true, false, none⟩] }
    part := { base.part with setup := { base.part.setup with dies := dies } } }
theorem test_wit_elsewhere :
    let s := crowded 3
    let r := recordOf (s.recBytes 0x1040)
    let others (t : State) (d : Nat) : Prop := d < 4 ∧ d ≠ t.core.die ∧ t.part.setup.dies.getLsbD d = true ∧ Map.get 0 t.die.away d + t.core.rres < 768
    s.recordOk r = true ∧ r.pitch = 0 ∧ s.freeCount ≤ s.core.rres ∧ others s 1 ∧ (∀ k < 1, ¬ others s k) ∧ s.part.loaded = true ∧
    (s.die.ready.head?.map fun e => (e.resume, { e with resume := false, far := true }.far)) = some (true, true) ∧ ∀ d < 4, ¬ others (crowded 1) d := by
  decide +kernel
theorem test_wit_translation :
    (base.tlbFind 0x100).2 = .ok ⟨0, 21, 7⟩ ∧ (base.tlbFind 0x40000000).2 = .error 0x42 ∧
    (let s := holding 0x10000 [1, 0, 2]; let e := s.memNat 0x10000 8
     e.testBit 0 = true ∧ e / 2 ^ 4 % 4 ≠ 3 ∧ e / 2 ^ 6 % 2 ^ 6 = 0 ∧ e.testBit 1 = false ∧ (4 : Nat) = 3 + 1) ∧
    (let s := holding 0x10000 [7]; let e := s.memNat 0x10000 8
     e.testBit 0 = true ∧ e / 2 ^ 4 % 4 ≠ 3 ∧ e / 2 ^ 6 % 2 ^ 10 = 0 ∧ e.testBit 1 = true ∧
     ∀ level < 3, e / 2 ^ 16 % (if level = 2 then 2 ^ 14 else if level = 1 then 2 ^ 5 else 1) = 0) ∧
    (base.memNat 0x10000 8).testBit 0 = false ∧ base.integrityFail 0x10000 = false ∧
    ({ base with pkg := { (holding 0x10000 [1]).pkg with corrupt := [0x200] } } : State).integrityFail 0x10000 = true := by decide +kernel

/-! ### Witnesses: global memory -/

theorem base_reaches (n : Nat) (h : n ∈ [1, 2, 4, 8, 16, 32]) (w nd nr : Bool) : base.Reaches 0x100 n w nd nr base 0x100 := by
  refine ⟨?_, ⟨0, ?_, fun _ => by decide⟩, fun _ => by decide +kernel, by decide +kernel, by decide +kernel⟩
  · revert n; decide
  · cases w <;> decide +kernel
theorem test_wit_memory :
    let q := base.pkg.write 5 0x100 9
    (0x101 : Nat) ≠ 0x100 ∧ (0x200 : Nat) / 128 ≠ 0x100 / 128 ∧ q.keyAt 0x100 ≠ 6 ∧ q.liveAt 0x200000 = false := by decide +kernel
/-- A dword, a word and a byte load reach; a dword at 0x101 is misaligned; one at 0x40000000 has no translation. -/
theorem test_wit_loads :
    (∀ z < 4, base.Reaches ((base.x.sreg 1) + BitVec.ofNat 64 ((BitVec.ofNat 10 (256 * z)).toNat % 256 * 2 ^ z)) (2 ^ z) true false
      (decide (2 ^ z < 4)) base 0x100) ∧ base.space 0x100 ≠ .regs ∧ base.NoneWaiting ∧
    ((base.x.sreg 4).toNat % 8 ≠ 0) ∧ (base.x.sreg 5).toNat % 8 = 0 ∧
    (base.translate (base.x.sreg 5) false false).2 = .error 0x42 ∧ (base.translate (base.x.sreg 5) true false).2 = .error 0x42 := by
  refine ⟨?_, by decide, rfl, by decide, by decide, by decide +kernel, by decide +kernel⟩
  · intro z hz
    match z, hz with
    | 0, _ => exact base_reaches 1 (by decide) true false true
    | 1, _ => exact base_reaches 2 (by decide) true false true
    | 2, _ => exact base_reaches 4 (by decide) true false false
    | 3, _ => exact base_reaches 8 (by decide) true false false
theorem test_wit_atomics :
    (∀ k < 9, (BitVec.ofNat 10 (64 * k)).toNat / 64 = k) ∧ base.Reaches ((base.x.sreg 1) + 0) 4 true true false base 0x100 ∧
    (holding 0x100 [7]).memNat 0x100 4 = (base.x.sreg 2).toNat % 256 ^ 4 ∧ base.memNat 0x100 4 ≠ (base.x.sreg 2).toNat % 256 ^ 4 :=
  ⟨by decide, base_reaches 4 (by decide) true true false, by decide +kernel, by decide +kernel⟩
def watching (fired : Bool) (n : Nat) : State :=
  { base with core := { base.core with watch := List.replicate n ⟨0x1000, false, false, 0x100, fired⟩ } }
theorem test_wit_watch :
    base.Reaches ((base.x.sreg 1) + 0) 8 false true false base 0x100 ∧ base.core.watch.length < 32 ∧
    (watching false 32).core.watch = ⟨0x1000, false, false, 0x100, false⟩ :: (watching false 31).core.watch ∧
    32 ≤ (watching false 32).core.watch.length ∧ base.x.h = false ∧
    (∃ w ∈ (watching true 1).core.watch, w.strand.toNat % 2 ^ 56 = base.x.brec.toNat % 2 ^ 56 ∧ w.fired = true) ∧
    (∀ w ∈ (watching false 1).core.watch, w.fired = false) ∧ (base.x.sreg 0).toNat ≤ base.gtc.toNat ∧
    base.gtc.toNat < (base.x.sreg 1).toNat ∧ ({ busy with evicted := true } : Ctx).evicted = true ∧ base.x.evicted = false ∧
    (∀ w ∈ (watching true 1).core.watch, (fun (_ : Watch) => true) w = true → w.fired = true) ∧
    ((beside 1 (other (.sleeping 5 9))).ctx 1).status = .sleeping 5 9 :=
  ⟨base_reaches 8 (by decide) false true false, by decide +kernel, rfl, by decide +kernel, rfl, by decide +kernel, by decide +kernel,
    by decide, by decide, rfl, rfl, by decide +kernel, by decide⟩
/-- The strand's entry fires while it sleeps, runs with state 1 in its record, or is parked in its reserved context. -/
def fired (flags : Byte) (st : CtxStatus) : State :=
  { recorded flags { busy with status := st } with core := (watching false 1).core }
theorem test_wit_firing :
    (∀ w ∈ (fired 1 .running).core.watch, (fun (w : Watch) => w.addr = 0x100) w ∧ va56 w.strand = va56 0x1000 ∧ w.addr / 128 ≠ (0x1000 + 11) / 128) ∧
    (fired 1 .running).core.watch.length = 1 ∧ (fired 1 .running).Mapped (va56 0x1000) 64 0x1000 ∧
    (fired 1 (.sleeping 5 9)).ctxOf 0x1000 = some 0 ∧ ((fired 1 (.sleeping 5 9)).ctx 0).status = .sleeping 5 9 ∧
    (fired 1 .running).ctxOf 0x1000 = some 0 ∧ ((fired 1 .running).ctx 0).status = .running ∧
    (recordOf ((fired 1 .running).pkg.reads 5 0x1000 64)).state = 1 ∧
    (∀ f ∈ [1, 0, 3], (fired (BitVec.ofNat 8 f) (.sleeping 5 9)).ctxOf 0x1000 = some 0 ∧
      (recordOf ((fired (BitVec.ofNat 8 f) (.sleeping 5 9)).pkg.reads 5 0x1000 64)).state = f) ∧
    (let s := fired 2 .reserved
     let r := recordOf (s.pkg.reads s.keyId 0x1000 64)
     r.state = 2 ∧ s.ctxOf 0x1000 = some 0 ∧ (s.ctx 0).status = .reserved ∧ s.recordOk r = true) ∧
    (({ arr := 0, trn := 0, exp := 2, phase := 0 } : Barrier).arr = 0 ∧ ({ arr := 0, trn := 0, exp := 2, phase := 0 } : Barrier).trn = 0) := by
  refine ⟨?_, rfl, mapped _ rfl rfl rfl _ _ (by decide), ?_, ?_, ?_, ?_, ?_, ?_, ?_, rfl, rfl⟩ <;> decide +kernel
/-- An object in global memory at 0x100 with a phase and a count, and one in the pitch. -/
theorem test_wit_barriers :
    base.Reaches ((base.x.sreg 1) + 0) 16 true true false base 0x100 ∧ (0x200 : BitVec 10).getLsbD 9 = true ∧
    base.pitch = some ⟨1, 0, 64, 0xFFFF, 1⟩ ∧ (base.x.sreg 1).toNat + 16 ≤ 64 * 128 ∧
    (0 < (base.x.sreg 2).toNat % 2 ^ 32 ∧ (base.x.sreg 2).toNat % 2 ^ 32 < 2 ^ 31) ∧ (base.x.sreg 0).toNat % 2 ^ 32 = 0 ∧
    2 ^ 31 ≤ (base.x.sreg 6).toNat % 2 ^ 32 ∧ base.NoneWaiting ∧
    (∃ t a, base.barAt ⟨2, 1, 2, 0, 0⟩ = .ok (t, a) ∧ (t.barGet a).arr = 0 ∧ (t.barGet a).phase.toNat ≠ (base.x.sreg 2).toNat % 2 ^ 16 ∧
      (t.barGet a).phase.toNat = (base.x.sreg 0).toNat % 2 ^ 16) ∧
    ∃ t a, (holding 0x100 [1, 1, 1, 1, 1, 1, 1, 1]).barAt ⟨2, 1, 2, 0, 0⟩ = .ok (t, a) ∧ (t.barGet a).arr ≠ 0 :=
  ⟨base_reaches 16 (by decide) true true false, by decide, rfl, by decide, by decide, by decide, by decide, rfl,
    ⟨_, _, rfl, by decide +kernel, by decide +kernel, by decide +kernel⟩, ⟨_, _, rfl, by decide +kernel⟩⟩
theorem test_wit_completion :
    base.Reaches ((base.x.sreg 1) + 0) 32 true true false base 0x100 ∧ base.memNat 0x110 4 = 0 ∧
    (holding 0x110 [1]).memNat 0x110 4 = 1 ∧ 2 ≤ (holding 0x110 [2]).memNat 0x110 4 ∧
    (let s := holding 0x100 ([0, 3, 0, 0, 0, 0, 0, 0] ++ natBytes 8 77 ++ [1, 0, 0, 0, 2])
     let w := s.devNat 0x100 8
     w % 8 = 0 ∧ (s.translate (BitVec.ofNat 64 w) true true).2 = .ok (0x300, 0) ∧ s.integrityFail 0x300 = false ∧ s.devNat 0x114 1 = 2 ∧
       s.space 0x300 ≠ .regs) ∧
    (holding 0x100 [1]).devNat 0x100 8 % 8 ≠ 0 ∧
    (let s : State := { holding 0x100 [0, 3] with pkg := { (holding 0x100 [0, 3]).pkg with corrupt := [6], key := [(2, 5), (6, 5)] } }
     s.devNat 0x100 8 = 0x300 ∧ s.integrityFail 0x300 = true) ∧
    (let s := holding 0x100 [0, 0, 0, 0x40]; (s.translate (BitVec.ofNat 64 (s.devNat 0x100 8)) true true).2 = .error 0x42) := by
  refine ⟨base_reaches 32 (by decide) true true false, ?_, ?_, ?_, ?_, ?_, ?_, ?_⟩ <;> decide +kernel

/-! ### Witnesses: the vector class -/

theorem test_wit_sources :
    let v := Lanes.of fun _ => 5
    let c : Ctx := { busy with latchOk := 2, holds := [(0, some ⟨.A, v⟩), (3, some ⟨.B, v⟩)] }
    c.latchOk.getLsbD (4 * 0 + 1) = true ∧ c.latchOk.getLsbD (4 * 0 + 2) = false ∧ Map.get none c.holds (2 * 0 + 0) = some ⟨.A, v⟩ ∧
    Map.get none c.holds (2 * 0 + 1) = none ∧ Map.get none c.holds (2 * 1 + 1) = some ⟨.B, v⟩ ∧ Kind.B ≠ .A ∧
    (∀ u < 4, (BitVec.ofNat 6 (32 + u)).toNat = 32 + u) ∧ (∀ side < 2, (BitVec.ofNat 6 (36 + side)).toNat = 36 + side) ∧
    ∀ j < 8, (BitVec.ofNat 6 (40 + j)).toNat = 40 + j := by decide +kernel
theorem test_wit_vector_landings :
    let f : VR := ⟨31, false, 1, 2, false, false, 0, 0⟩
    (f.w = false ∧ f.d.toNat < 32 ∧ ({ f with w := true } : VR).w = true) ∧
    (∀ u < 6, 1 ≤ u → let e : Flight := ⟨1, u, 7, 31, 0, 1, Lanes.zero⟩
      1 ≤ e.unit ∧ e.unit ≤ 5 ∧ e.cluster < 8 ∧ e.dest < 32 ∧ (e.unit = 5 → e.what = 0) ∧ e.what < 3) ∧
    (∀ w < 3, let e : Flight := ⟨1, 1, 0, 0, w, 1, Lanes.zero⟩; e.what < 3) ∧
    (let e : Flight := ⟨1, 6, 7, 3, 0, 1, Lanes.zero⟩; e.unit = 6 ∧ e.what = 0 ∧ e.cluster < 8 ∧ e.dest < 4) := by decide
theorem test_wit_flags :
    (∀ i < 16, (fun (_ : Nat) => 63) i < 64) ∧ (∃ i < 16, ((fun (_ : Nat) => 32) i).testBit 5 = true) ∧
    (({ busy with vstat := [(0, 0x2000)] } : Ctx).vst 0).getLsbD 13 = true ∧
    (let s : State := { base with cur := { emptyFrame with addr := 0x40, words := 2, seq := 0x48, flags := [(0, 16), (7, 5), (0, 32)] } }
     s.x.depth = 0 ∧ s.cur = { emptyFrame with addr := 0x40, words := 2, seq := 0x48, flags := [(0, 16), (7, 5), (0, 32)] }) := by decide
theorem test_wit_vector_kinds :
    (({ base with cur := { emptyFrame with kind := .A } } : State).cur.kind = .A) ∧
    (({ base with cur := { emptyFrame with kind := .B } } : State).cur.kind = .B) ∧
    (({ base with cur := { emptyFrame with kind := .F } } : State).cur.kind = .F) ∧ (1 : BitVec 2) ≠ 0#2 ∧ (2 : BitVec 2) ≠ 0#2 := by decide
/-- No lane is active under l1 of a fresh context. -/
theorem test_wit_no_lane : base.active ⟨3, false, 1, 2, false, false, 0, 1⟩ = 0 ∧ base.active ⟨3, false, 1, 2, false, false, 0, 0⟩ ≠ 0 := by decide +kernel
theorem test_wit_formats :
    (∀ f ∈ [Fmt.f64, .f32, .f16, .bf16, .e5m2], f ≠ .l6 ∧ f.hasInf = true ∧ (2 ^ f.eb - 1) * 2 ^ f.fb + 1 < 2 ^ f.width) ∧
    (∀ f ∈ [Fmt.f64, .f32, .f16, .bf16, .e4m3, .e5m2, .e2m1], (1 : Nat) / 2 ^ f.fb % 2 ^ f.eb = if f = .e2m1 then 0 else 0) ∧
    (127 < 2 ^ Fmt.e4m3.width ∧ 127 / 2 ^ Fmt.e4m3.fb % 2 ^ Fmt.e4m3.eb = 15 ∧ 127 % 2 ^ Fmt.e4m3.fb = 7) ∧
    ((1 : Nat) ≤ 31 ∧ (31 : Nat) < 32 ∧ (31 : Int) - 16 = 4 * 3 + 3 ∧ (1 : Int) - 16 = 4 * (-4) + 1) ∧
    (Fmt.f32.enc 0 (.fin false 1 0)).2.testBit 2 = false ∧ (Fmt.f32.enc 0 (.fin false 1 200)).2.testBit 2 = true ∧
    (Fmt.l6.enc 0 (.fin false 13 0)).2.testBit 2 = false ∧ (Fmt.l6.enc 0 (.fin false 15 0)).2.testBit 2 = true := by decide +kernel
theorem test_wit_sums :
    (∀ x ∈ [Fp.fin false 3 0, .fin true 1 (-2)], x.Finite) ∧ (∃ x ∈ [Fp.nan true, .fin true 1 (-2)], x.isNan = true) ∧
    (∀ x ∈ [Fp.inf true, .inf false], x.isNan = false) ∧ Fp.inf true ∈ [Fp.inf true, .inf false] ∧
    Fp.inf false ∈ [Fp.inf true, .inf false] ∧
    ((∀ x ∈ [Fp.inf true, .fin true 1 0], x.isNan = false) ∧ Fp.inf true ∈ [Fp.inf true, .fin true 1 0] ∧ Fp.inf (!true) ∉ [Fp.inf true, .fin true 1 0] ∧
      ((Fp.fin false 1 0).mul (.fin true 2 0)).1.isNan = false ∧ ((Fp.inf false).mul (.fin true 2 0)).1 = .inf true ∧ (1 : Nat) ≠ 0) := by
  refine ⟨?_, by decide, by decide, by decide, by decide, by decide +kernel⟩
  intro x hx
  simp only [List.mem_cons, List.not_mem_nil, or_false] at hx
  rcases hx with rfl | rfl <;> exact ⟨_, _, _, rfl⟩
theorem test_wit_conversions :
    (1 : Nat) < 8 ∧ toIntFmt 8 false 0 (.fin false 200 0) = (127, 1) ∧ toIntFmt 8 false 0 (.fin true 200 0) = (128, 1) ∧
    toIntFmt 8 false 0 (.fin false 5 (-1)) = (2, 16) ∧ Fp.Finite (.fin false 5 (-1)) :=
  ⟨by decide, by decide +kernel, by decide +kernel, by decide +kernel, _, _, _, rfl⟩
theorem test_wit_blocks :
    (∃ x ∈ [Fp.inf true], ¬ x.Finite) ∧ (∀ x ∈ [Fp.fin false 0 0], x.Finite) ∧ (254 : Nat) < 255 ∧
    (1 : Nat) % 64 ≠ 32 ∧ (33 : Nat) % 64 ≠ 32 :=
  ⟨⟨_, List.mem_singleton.mpr rfl, fun ⟨_, _, _, h⟩ => nomatch h⟩,
    fun _ h => List.mem_singleton.mp h ▸ ⟨_, _, _, rfl⟩, by decide, by decide, by decide⟩
theorem test_wit_block_scale :
    Fp.val (.fin false 3 0) ≠ 0 ∧ (2 : Rat) ^ (1 : Int) ≤ |Fp.val (.fin false 3 0)| ∧ |Fp.val (.fin false 3 0)| < (2 : Rat) ^ (1 + 1 : Int) ∧
    Fp.val (.fin false 0 0) = 0 := by simp [Fp.val]; norm_num
/-- Codes of FP32: a NaN, −1, 1, 128, 4, 2^20, 2^−129. -/
theorem test_wit_special :
    Fmt.f32.dec 0x7FC00001 = .nan false ∧ Fmt.f32.dec 0xBF800000 = .fin true 0x800000 (-23) ∧
    Fmt.f32.dec 0x3F800000 = .fin false 0x800000 (-23) ∧ Fmt.f32.dec 0x43000000 = .fin false 0x800000 (-16) ∧
    Fmt.f32.dec 0x40800000 = .fin false 0x800000 (-21) ∧ Fmt.f32.dec 0x49800000 = .fin false 0x800000 (-3) ∧
    Fmt.f32.dec 0x00100000 = .fin false 0x100000 (-149) := by decide +kernel

/-! ### Witnesses: local memory and the engines -/

/-- `base` at a slot of kind M on cluster 0, with v1 a splat. -/
def local_ (x : Word) : State :=
  { base with x := { busy with v := [(1, Lanes.of fun _ => x)] }, cur := { emptyFrame with kind := .M } }
def v12 (d : BitVec 6) : VR := ⟨d, false, 1, 2, false, false, 0, 0⟩
theorem test_wit_scratchpad :
    (local_ 0).pitch = some ⟨1, 0, 64, 0xFFFF, 1⟩ ∧
    (let a (x : Word) := (((local_ x).srcAB .M (v12 3)).2.1.at 0 + ((local_ x).srcAB .M (v12 3)).2.2.at 0).toNat % 2 ^ 21
     a 0 % 64 = 0 ∧ a 0 + 64 ≤ 64 * 128 ∧ a 4 % 64 ≠ 0 ∧ a 8192 % 64 = 0 ∧ 64 * 128 < a 8192 + 64 ∧ a 8128 + 64 ≤ 64 * 128) ∧
    ((local_ 0).active (v12 3)).getLsbD 15 = true ∧ (local_ 0).full 0 = true ∧
    ({ local_ 0 with core := { base.core with notFull := [(0, true)] } } : State).full 0 = false ∧
    ((0 : Nat) + 128 ≤ 2 ^ 14 ∧ (1 : Nat) ≤ 128 ∧ (128 : Nat) < 129) ∧
    (let outside (x : Word) (i : Nat) : Prop := ((local_ x).active (v12 3)).getLsbD i = true ∧
       64 * 128 < ((((local_ x).srcAB .M (v12 3)).2.1.at 0 + ((local_ x).srcAB .M (v12 3)).2.2.at 0).toNat % 2 ^ 21 / 128 + i) * 128 + 128
     (∃ i < 16, outside 8000 i) ∧ ∀ i < 16, ¬ outside 0 i) := by decide +kernel
theorem test_wit_efence :
    ∃ c ∈ (commanded { command (.cqGo ⟨1, 2, 3, 0⟩) with rd := some (0, 128), rdDone := false }).core.cmds,
      c.ctx = base.xn ∧ c.rd.isSome = true ∧ c.rdDone = false := by decide +kernel
def ring (tail : Word) : Stream := ⟨true, 0, 5, 0, 0, 0, 0, 0, 0, tail⟩
def streaming (r : Stream) : State := { local_ 3 with core := { base.core with streams := [(3, r)] } }
theorem test_wit_streams :
    (∃ p, (streaming (ring 0)).pitch = some p ∧ p.qset.getLsbD 3 = true) ∧ ((streaming (ring 0)).core.stream 3).bound = true ∧
    (base.core.stream 3).bound = false ∧ (51 : BitVec 6).toNat = 48 + 3 ∧ ((ring 0).tail - (ring 0).head).toNat < 0 + chunkElems 0 0 ∧
    0 + chunkElems 0 0 ≤ ((ring 16).tail - (ring 16).head).toNat ∧
    (let r : Stream := { ring 0 with pushf := 15 }; r.pushf = 15 ∧ r.mfmt ∈ [0, 1, 2, 3, 4, 5, 9, 10, 11] ∧ r.k ≤ 14) ∧
    base.cur.pops = [] ∧ base.cur.posts = [] ∧ (v12 51).a.toNat < 32 ∧ (v12 51).b.toNat < 32 ∧ (v12 51).h = false ∧ (v12 51).k = false ∧
    laneFmtOk false 0 0 = true ∧ laneFmtOk true 0 0 = true ∧ laneFmtOk false 3 0 = false ∧
    ((Lanes.of fun _ => (3 : Word)).at 0).getLsbD 0 = true := by decide +kernel
/-- Rings that a push fills raw and converted, and as blocks whose scale bytes lie behind the ring. -/
theorem test_wit_pushes :
    (∀ r ∈ [{ ring 0 with pushf := 15 }, ring 0, { ring 0 with mfmt := 11, pushf := 1 }, { ring 0 with mfmt := 3, pushf := 9 }],
      r.mfmt ∈ [0, 1, 2, 3, 4, 5, 9, 10, 11] ∧ (r.pushf = 15 ∨ r.pushf ∈ [0, 1, 2, 9, 10, 11]) ∧ r.k ≤ 14 ∧ 64 ≤ r.capacity) ∧
    ∀ m ∈ [6, 7, 8], let r : Stream := { ring 32 with mfmt := m, pushf := 1, sbase := 40, sstr := 2 }
      r.mfmt ∈ [6, 7, 8] ∧ r.pushf = 1 ∧ r.k ≤ 14 ∧
      r.base * 128 + 128 * 2 ^ r.k ≤ r.sbase * 128 + r.tail.toNat / 32 % (r.capacity / 32) * 2 ^ r.sstr := by decide +kernel
/-- Rings that chunkAt reads raw and converted; a push of more than the ring of 4,096 bytes takes. -/
theorem test_wit_chunks :
    (∀ r ∈ [ring 0, { ring 0 with popf := 15 }, { ring 0 with mfmt := 6 }], r.k ≤ 14 ∧ r.mfmt ≤ 11 ∧
      (r.popf ∈ [0, 1, 2, 9, 10, 11] ∨ (r.popf = 15 ∧ r.mfmt ∉ [6, 7, 8]))) ∧
    (let s := streaming (ring 1024)
     s.roomFor { emptyFrame with pushes := [(3, 16)] } = false ∧ s.roomFor emptyFrame = true ∧ emptyFrame.causes = [] ∧
       emptyFrame.waits = [] ∧ emptyFrame.stops = []) := by decide +kernel
theorem test_wit_stream_moves :
    (3 : Nat) ≤ (ring 16).fill ∧ (ring 0).fill < 3 ∧ (ring 0).fill + 3 ≤ (ring 0).capacity ∧ (ring 1024).capacity < (ring 1024).fill + 3 := by
  decide +kernel
/-- A descriptor at pitch offset 0: base line 0, k = 5, all formats 0, tail 3; and one whose k is 15. -/
theorem test_wit_descriptors :
    (streamOfDesc ([0, 0, 5, 0, 0, 0, 0, 0, 0, 0, 0, 0, 3] ++ List.replicate 19 0)).isSome = true ∧
    (∀ d, streamOfDesc ([0, 0, 5, 0, 0, 0, 0, 0, 0, 0, 0, 0, 3] ++ List.replicate 19 0) = some d → ∀ x ∈ d.areas, x.1 + x.2 ≤ 64 * 128) ∧
    streamOfDesc ([0, 0, 15] ++ List.replicate 29 0) = none ∧
    ((32 : Nat) < 2 ^ 14 ∧ (5 : Nat) ≤ 14 ∧ (32 : Nat) % 2 ^ 5 = 0 ∧ ((3 : Word) - 0).toNat ≤ 128 * 2 ^ 5 * 2 / codeNibbles 0 ∧
      ((0x1001 : Word) - 0).toNat > 128 * 2 ^ 5 * 2 / codeNibbles 0) := by
  refine ⟨by decide +kernel, ?_, by decide +kernel, by decide +kernel⟩
  intro d h
  have : (streamOfDesc ([0, 0, 5, 0, 0, 0, 0, 0, 0, 0, 0, 0, 3] ++ List.replicate 19 0)).all
    (fun d => d.areas.all fun x => decide (x.1 + x.2 ≤ 64 * 128)) = true := by decide +kernel
  rw [h] at this
  simpa using this
theorem test_wit_cross :
    let f : VR := v12 3
    f.a.toNat < 32 ∧ 32 ≤ (vr 3 40 2 0 0).a.toNat ∧
    (let e : Flight := ⟨16, 5, 7, 15, 1, 0xFFFF, Lanes.zero⟩; e.unit = 5 ∧ e.what = 1 ∧ e.dest < 16) ∧
    ∀ k < 4, ((Lanes.of fun _ => BitVec.ofNat 32 k).at 0).toNat % 4 = k := by decide +kernel
/-- A copy of three bytes from pitch offset 0 to three lines from 0x400, and its staging. -/
def staged (cfg : Dword) (n : Word) (bar : Option (Bool × Dword)) (dst : Dword) : State :=
  { base with x := { busy with s := [(1, 0), (2, dst)], copy := ⟨[(0, ⟨n, 1, 128⟩)], cfg, bar⟩ } }
def goRegs : EF := ⟨1, 2, 0, 0⟩
def copyOk (s : State) : Bool :=
  let j := s.copyJob goRegs
  decide (j.cfg.toNat < 2 ^ 16) && decide (1 ≤ j.cfg.toNat / 2 ^ 12 % 8) && decide (j.cfg.toNat / 2 ^ 10 % 4 ≠ 3) &&
  decide (j.cfg.toNat / 2 ^ 8 % 4 ≤ 1) && decide (j.cfg.toNat % 16 = 15) && decide (j.cfg.toNat / 16 % 16 = 15)
theorem test_wit_copy :
    copyOk (staged 0x10FF 3 none 0x400) = true ∧ base.x.ef = none ∧ ¬ 1 ≤ ((staged 0x0FF 3 none 0x400).copyJob goRegs).cfg.toNat / 2 ^ 12 % 8 := by
  decide +kernel
theorem test_wit_copy_spans :
    let s := staged 0x10FF 3 none 0x400
    let j := s.copyJob goRegs
    (∃ p, s.pitch = some p ∧ 0 ≤ j.srcSpan.1 ∧ j.srcSpan.2 ≤ p.lines * 128 ∧ 0 ≤ j.dstSpan.1 ∧ j.dstSpan.2 ≤ p.lines * 128) ∧
    regionsMeet (regionOf 0 3) (regionOf 0x400 257) = false ∧ regionsMeet (regionOf 0 256) (regionOf 0x80 256) = true ∧ s.BoardFree ∧
    (∃ l ∈ ((staged 0x10FF 0 none 0x400).copyJob goRegs).levels, l.count = 0#32) ∧ (∀ l ∈ j.levels, l.count ≠ 0#32) ∧
    (¬ ((staged 0x10FF 3 none 0x1F80).copyJob goRegs).dstSpan.2 ≤ 64 * 128) ∧
    ((staged 0x10FF 3 (some (true, 8)) 0x400).copyJob goRegs).bar = some (true, 8) := by
  unfold State.BoardFree; decide +kernel
/-- The command that `cq.go` accepts there. -/
def copyCmd : Cmd :=
  { command (.cqGo goRegs) with
    args := [0, 0x400, 0x10FF, 0, 3, 1, 128], st := [0, 0], rd := some (0, 3), wr := some (0x400, 257), rdDone := false, wrDone := false }
theorem test_wit_copy_lines :
    (commanded copyCmd).core.cmd 0 = some copyCmd ∧ copyCmd.op = .cqGo goRegs ∧ copyCmd.st = 0 :: 0 :: [] ∧ copyCmd.old = [] ∧
    copyCmd.copyCfg.toNat % 2 ^ 12 = 0xFF ∧ copyCmd.copyCfg.getLsbD 15 = false ∧ (commanded copyCmd).core.canRead copyCmd = true ∧
    (commanded copyCmd).core.canWrite copyCmd = true ∧ 8 ∈ copyCmd.linesLeft ∧ (∃ l ∈ copyCmd.linesLeft, l ≠ 8) ∧
    (∀ l ∈ ({ copyCmd with st := [0, 0, 9, 10] } : Cmd).linesLeft, l = 8) := by decide +kernel
theorem test_wit_copy_elems :
    copyCmd.elems.Pairwise (fun x y => x.2 ≠ y.2) ∧ ∀ x ∈ copyCmd.elems, ∀ y ∈ copyCmd.elems, x.1 ≠ y.2 := by
  have h : copyCmd.elems = [(0, 0x400), (1, 0x480), (2, 0x500)] := by decide +kernel
  rw [h]; simp
theorem test_wit_engine_faults :
    base.ctxOf 0x1000 = some 0 ∧ (0 : Nat) < 8 ∧ base.xn < 8 ∧ (base.ctx 0).ef = none ∧
    (({ base with x := { busy with ef := some ⟨7, 0x42, 0⟩ } } : State).ctx 0).ef = some ⟨7, 0x42, 0⟩ := by decide +kernel

/-! ### Witnesses: the matrix unit -/

/-- A core whose bank 0 is claimed, with two rings of 4,096 signed bytes for streams 0 and 1. -/
def byteRing (b : Nat) (tail : Word) : Stream := ⟨true, b, 5, 11, 11, 11, 0, 0, 0, tail⟩
def matrixed (mode : Nat) : State :=
  { base with
    x := { busy with m := [(1, 1), (4, 11)] }
    core := { base.core with streams := [(0, byteRing 0 4096), (1, byteRing 32 4096)], banks := [(0, ⟨1, mode, 0, []⟩)] } }
theorem test_wit_matrix_call :
    let s := matrixed 1
    s.core.claims.of 0 = (1, 1) ∧ s.x.pitch % 128 = 1 ∧ s.core.matrixQueue.length < 8 ∧ s.BoardFree ∧
    (∀ q < 2, (∃ p, s.pitch = some p ∧ p.qset.getLsbD q = true) ∧ (s.core.stream q).bound = true ∧
      4096 ≤ ((s.core.stream q).inFmt 11).capacity) ∧ (base.core.claims.of 0).1 = 0 ∧ (base.core.stream 0).bound = false ∧
    Map.get 0 s.x.m 0 = 0 ∧ Map.get 0 s.x.m 1 = 1 ∧ Map.get 0 s.x.m 4 = 11 ∧ Map.get 0 base.x.m 0 = Map.get 0 base.x.m 1 := by
  unfold State.BoardFree; decide +kernel
theorem test_wit_matrix_drain :
    let s : State := { matrixed 0 with core := { (matrixed 0).core with pitches := [⟨1, 0, 1024, 0xFFFF, 1⟩] } }
    (∃ p, s.pitch = some p ∧ 0 + 65536 ≤ p.lines * 128) ∧ (s.core.claims.of 0).1 ≠ 0 ∧ (s.core.claims.of 0).2 ≤ 2 ∧ s.pitch ≠ none := by
  decide +kernel
theorem test_wit_microcode :
    let s : State := { base with x := { busy with s := [(3, 2)], sp := true } }
    s.pitch = some ⟨1, 0, 64, 0xFFFF, 1⟩ ∧ s.x.priv = true ∧ s.BoardFree ∧ s.IdsFresh ∧ s.x.unseen = [] ∧ s.cur.waits = [] ∧
    s.cur.causes = [] ∧ (∀ e ∈ s.core.cmds, ∀ g, e.op ≠ .mxLd g) ∧ (s.x.sreg 3).toNat = 2 ∧ (s.x.sreg 0).toNat = 0 := by
  refine ⟨by decide +kernel, rfl, ?_, ?_, rfl, rfl, rfl, ?_, by decide, by decide⟩
  · unfold State.BoardFree; decide +kernel
  · intro k hk; cases hk
  · intro k hk; cases hk
theorem test_wit_groups :
    (∀ x ∈ [Fp.fin false 3 0], x.Finite) ∧ (Fmt.f32.dec (0 : Word).toNat).Finite ∧ (∃ x ∈ [Fp.fin false 3 0], x.val ≠ 0) ∧
    Fp.inf false ∈ [Fp.inf false, .inf true] ∧ Fp.inf true ∈ [Fp.inf false, .inf true] ∧ ¬ (Fp.inf false ∈ [Fp.inf true]) :=
  ⟨fun x h => List.mem_singleton.mp h ▸ ⟨_, _, _, rfl⟩, ⟨_, _, _, rfl⟩, ⟨_, List.mem_singleton.mpr rfl, by simp [Fp.val]⟩, by decide, by decide,
    by decide⟩
def queued (op : Instr) (f : Cmd → Cmd) (s : State) : State := { s with core := { s.core with cmds := [f { command op with args := [0, 1, 0, 0, 11] }], nextId := 1 } }
def kblock : Cmd := { command (.mxCall ⟨0, 0, 0, 0⟩) with st := [0, 1, 0], args := [0, 1, 0, 0, 11, 0, 0, 0, 0, 1#64 <<< 58, 0] }
def drain : Cmd := { command (.mxDrain ⟨0, 0, 0, 0x20⟩) with wr := some (0, 65536), wrDone := false }
theorem test_wit_matrix_steps :
    (commanded kblock).core.matrixQueue = [kblock] ∧ kblock.micro = [1#64 <<< 58, 0#64] ∧ kblock.mxFmt = 11 ∧
    (kblock.mreg 3).toNat < 2 ^ 14 ∧ (kblock.mreg 0).toNat % 16 = 0 ∧ (kblock.mreg 1).toNat % 16 = 1 ∧
    4096 ≤ ((matrixed 1).core.stream 0).fill ∧ 4096 ≤ ((matrixed 1).core.stream 1).fill ∧
    (commanded drain).core.matrixQueue = [drain] ∧ (commanded drain).core.canWrite drain = true ∧ ((commanded drain).core.bank 0).mode = 0 ∧
    (commanded (command (.mxZero ⟨0, 0, 0, 1⟩))).core.matrixQueue = [command (.mxZero ⟨0, 0, 0, 1⟩)] ∧
    (commanded kblock).core.zeroAfter = [] ∧ kblock.onMatrix = true ∧
    (let k : CoreSt := { base.core with cmds := [kblock, { drain with id := 1 }], zeroAfter := [(1, 5)] }
     (∃ e ∈ k.matrixQueue, e.id ≠ kblock.id ∧ e.id < 5) ∧ ∀ e ∈ ({ k with cmds := [kblock, { drain with id := 6 }] } : CoreSt).matrixQueue, e.id ≠ kblock.id → 5 ≤ e.id) ∧
    (({ base.core with banks := [(1, ⟨2, 0, 0, []⟩)] } : CoreSt).bank 1).owner ≠ 0 ∧
    (({ base.core with banks := [(1, ⟨2, 2, 0, []⟩)] } : CoreSt).bank 1).mode = 2 := by decide +kernel

/-! ### Witnesses: the key-value store and attention -/

/-- A store with a sequence of two blocks, a pool of four frames (frame 0 pinned once and of class 7, frame 1 pinned 255 times,
frame 2 free) and free-list heads. -/
def kvMem : List Host.Cell :=
  [(0x1000, 3), (0x1004, 5), (0x1008, 2), (0x100C, 4), (0x1011, 0x30), (0x1019, 2), (0x101B, 1),
   (0x2000, 1), (0x2002, 1), (0x2004, 2), (0x2006, 1), (0x2008, 4), (0x2011, 0x40), (0x201A, 1), (0x2029, 0x50), (0x2030, 0x10), (0x2031, 0x50),
   (0x205D, 0x40), (0x3004, 1), (0x4000, 1), (0x4002, 4), (0x4003, 7), (0x4008, 15), (0x4012, 1), (0x4016, 1),
   (0x4020, 1), (0x4022, 1), (0x4036, 255), (0x4043, 32), (0x5000, 2)]
def kvs : State :=
  { base with
    part := { base.part with setup := { base.part.setup with sdt := 0x1000, sdtCount := 1, pools := 0x2000 } }
    pkg := { base.pkg with mem := kvMem, key := [0x20, 0x40, 0x60, 0x80, 0xA0].map fun l => (l, 5) } }
def pool0 : Pool := ⟨0, kvs.pkg.reads 5 0x2000 128⟩
def seq0 : Seq := ⟨0, 0x1000, 3, 5, 2, 4, 0x3000, 0, pool0⟩
def frame (i : Nat) : Fdesc := fdescOf i pool0 (kvs.pkg.reads 5 (0x4000 + 32 * i) 32)
theorem ok_of {α : Type} [DecidableEq α] (k : Kv α) (s : State) (x : α)
    (h : (match Kv.run k none s with
      | (.ok y, t) => decide (y = x) && decide (t = s)
      | _ => false) = true) : k.Ok none s x s := by
  unfold Kv.Ok
  split at h
  · rename_i y t e
    simp only [Bool.and_eq_true, decide_eq_true_eq] at h
    rw [← h.1, ← h.2] 
    rw [← h.2] at e
    exact e
  · cases h
theorem ok_ex {α : Type} (k : Kv α) (s : State) (h : (match Kv.run k none s with
    | (.ok _, _) => true
    | _ => false) = true) : ∃ x t, k.Ok none s x t := by
  unfold Kv.Ok
  split at h
  · exact ⟨_, _, by assumption⟩
  · cases h
theorem fails_ex {α : Type} (k : Kv α) (s : State) (h : (match Kv.run k none s with
    | (.error _, _) => true
    | _ => false) = true) : ∃ e t, k.Fails none s e t := by
  unfold Kv.Fails
  split at h
  · exact ⟨_, _, by assumption⟩
  · cases h
theorem test_wit_kv_sequence : (kvSeq 0).Ok none kvs seq0 kvs := ok_of _ _ _ (by decide +kernel)
theorem test_wit_kv_frames : ∀ i < 3, (kvFrame i).Ok none kvs (frame i) kvs
  | 0, _ => ok_of _ _ _ (by decide +kernel)
  | 1, _ => ok_of _ _ _ (by decide +kernel)
  | 2, _ => ok_of _ _ _ (by decide +kernel)
theorem test_wit_kv_mapped :
    kvs.Mapped seq0.va 128 0x1000 ∧ kvs.Mapped 0x5000 8 0x5000 ∧ (∀ i < 3, (frame i).pool.fdt + 32 * (frame i).idx = 0x4000 + 32 * i) ∧
    kvs.Mapped 0x4000 32 0x4000 ∧ kvs.Mapped 0x4020 32 0x4020 ∧ kvs.Mapped 0x4040 32 0x4040 ∧ (0x4040 + 32 ≤ 0x5000) :=
  have m := mapped kvs rfl rfl rfl
  ⟨m _ _ (by decide +kernel), m _ _ (by decide +kernel), by decide +kernel, m _ _ (by decide +kernel), m _ _ (by decide +kernel),
    m _ _ (by decide +kernel), by decide⟩
theorem test_wit_kv_fields :
    (∀ i < 3, frame i = fdescOf (frame i).id (frame i).pool (kvs.pkg.reads kvs.keyId (0x4000 + 32 * i) 32)) ∧
    ((frame 0).pins < 255 ∧ 0 < (frame 0).pins ∧ (frame 1).pins = 255 ∧ (frame 2).pins = 0) ∧
    ((frame 2).refcount = 0 ∧ (frame 2).tier = 4 ∧ (frame 0).refcount ≠ 0) ∧ (1 : Nat) / seq0.pool.P < seq0.nblk ∧ seq0.nblk ≤ 8 / seq0.pool.P ∧
    (kvBlock seq0 0).Ok none kvs 0 kvs ∧ (frame 0).pool.rung (frame 0).cls 1 = some (4, 0) ∧ (frame 0).home < 2 ^ 48 ∧ (frame 0).pool.hfmt < 16 ∧
    kvs.NoneWaiting := by
  refine ⟨by decide +kernel, by decide +kernel, by decide +kernel, by decide +kernel, by decide +kernel, ok_of _ _ _ (by decide +kernel),
    by decide +kernel, by decide +kernel, by decide +kernel, rfl⟩
/-- Below the end of HBM, with no line that fails, nothing stops a read or a store of an engine. -/
theorem whole (s : State) (hc : s.pkg.corrupt = []) (hx : s.part.setup.cxl = []) (a n : Nat) (h : a + n ≤ 2 ^ 35) :
    s.physFault a n = none ∧ s.physWriteFault a n = none := by
  have sp : ∀ x, x < 2 ^ 35 → s.space x = .hbm := fun x hx => by
    have : x < 0x00C000000000 := by omega
    simp [State.space, this]
  have i : ∀ x, s.integrityFail x = false := fun x => by simp [State.integrityFail, State.integrityUnder, State.cxlFail, hc, hx]
  have c : ∀ x, s.cxlFail x = false := fun x => by simp [State.cxlFail, hx]
  have u : ∀ k x, s.integrityUnder k x = false := fun k x => by simp [State.integrityUnder, State.cxlFail, hc, hx]
  by_cases hn : n = 0
  · simp [State.physFault, State.physWriteFault, hn]
  · have h1 : s.space a = .hbm := sp _ (by omega)
    have h2 : s.space (a + n - 1) = .hbm := sp _ (by omega)
    simp [State.physFault, State.physWriteFault, State.writeFail, State.writeFailUnder, hn, h1, h2, i, c, u]
/-- The store with sequence 1, empty, of a capacity and a pool, and pool 1 like pool 0. -/
def kvs2 (cap pool : Byte) : State :=
  let pool1 := (kvMem.filter fun x => decide (0x2000 ≤ x.1) && decide (x.1 < 0x2080)).map fun x => (x.1 + 0x80, x.2)
  { kvs with
    part := { kvs.part with setup := { kvs.part.setup with sdtCount := 2 } }
    pkg := { kvs.pkg with
      key := [0x20, 0x21, 0x40, 0x41, 0x60, 0x80, 0xA0].map fun l => (l, 5)
      mem := kvMem.take 7 ++ (if cap = 0 then [] else [(0x108C, cap)]) ++ [(0x1091, 0x31)] ++ (if pool = 0 then [] else [(0x1098, pool)]) ++
        [(0x1099, 2), (0x109B, 1)] ++ (kvMem.drop 7).take 12 ++ pool1 ++ kvMem.drop 19 } }
def ran {α : Type} (k : Kv α) (s : State) : Option α × State := ((Kv.run k none s).1.toOption, (Kv.run k none s).2)
/-- The sequences of a fork that goes on, and of the three that fail on the target. -/
theorem test_wit_kv_fork :
    (let s := kvs2 1 0
     let e : Seq := ⟨1, 0x1080, 0, 0, 0, 1, 0x3100, 0, pool0⟩
     ran (kvSeq 0) s = (some seq0, s) ∧ ran (kvSeq 1) s = (some e, s) ∧ (seq0.Lc + seq0.pool.P - 1) / seq0.pool.P = 1 ∧ e.nblk = 0 ∧ 1 ≤ e.cap ∧
     (let a := ran ((List.range 1).mapM (kvBlock seq0)) s
      let f := ran (kvFrame 0) a.2
      let b := ran (kvPutFrame { frame 0 with refcount := (frame 0).refcount + 1 }) f.2
      let c := ran (kvPutBlock e 0 0) b.2
      let d := ran (kvPutSeq { e with Lc := seq0.Lc, Lt := seq0.Lc, nblk := 1 }) c.2
      a.1 = some [0] ∧ f.1 = some (frame 0) ∧ (frame 0).refcount < 65535 ∧ b.1 = some () ∧ c.1 = some () ∧ d.1 = some ())) ∧
    seq0.nblk ≠ 0 ∧ (ran (kvSeq 1) (kvs2 0 0)).1.map (fun e => (e.nblk, e.cap, e.pool.id)) = some (0, 0, 0) ∧
    (ran (kvSeq 1) (kvs2 1 1)).1.map (fun e => (e.nblk, e.pool.id)) = some (0, 1) := by decide +kernel
/-- A kv.free of block 1, whose frame is free then, and of nothing; the frames of a kv.undo. -/
theorem test_wit_kv_free_undo :
    (let f := ran (kvFrame 1) kvs
     let b := ran (kvPutFrame { frame 1 with refcount := (frame 1).refcount - 1 }) f.2
     let c := ran (kvPutSeq { seq0 with nblk := 1, Lt := min seq0.Lt (1 * seq0.pool.P), Lc := min seq0.Lc (1 * seq0.pool.P) }) b.2
     ran (kvBlock seq0 1) kvs = (some 1, kvs) ∧ f.1 = some (frame 1) ∧ (frame 1).refcount = 1 ∧ b.1 = some () ∧ c.1 = some () ∧ seq0.nblk - 1 = 1 ∧
       (ran (kvPutSeq { seq0 with nblk := 2, Lt := min seq0.Lt (2 * seq0.pool.P), Lc := min seq0.Lc (2 * seq0.pool.P) }) kvs).1 = some ()) ∧
    (let a := ran (kvPutSeq { seq0 with Lt := seq0.Lc }) kvs
     let b := ran (kvPutFrame { frame 0 with fill := min 4 (3 - 0 * 4) }) a.2
     let c := ran (kvPutFrame { frame 1 with fill := min 4 (3 - 1 * 4) }) b.2
     a.1 = some () ∧ b.1 = some () ∧ c.1 = some () ∧ (ran (kvBlock seq0 0) a.2).1 = some 0 ∧ (ran (kvFrame 0) a.2).1 = some (frame 0) ∧
       (ran (kvBlock seq0 1) b.2).1 = some 1 ∧ (ran (kvFrame 1) b.2).1 = some (frame 1) ∧ seq0.Lc / seq0.pool.P ≤ 0) := by decide +kernel
/-- The stores of descriptors and of a block, and a move to the format of the pool's home. -/
theorem test_wit_kv_stores :
    (let f := frame 0
     f.refcount < 2 ^ 16 ∧ f.fill < 2 ^ 7 ∧ f.cls < 8 ∧ f.tier < 8 ∧ f.rung < 4 ∧ f.fmt < 16 ∧ f.readers < 2 ^ 8 ∧ f.key < 2 ^ 12 ∧ f.surv < 2 ^ 64 ∧
       f.loc < 2 ^ 48 ∧ f.pins < 2 ^ 8 ∧ f.used < 2 ^ 64 ∧ f.pool.rung f.cls 0 = some (0, 0) ∧ f.fill ≤ f.pool.P ∧ f.home + f.pool.S ≤ 2 ^ 35 ∧
       0x4000 + 32 ≤ f.home ∧ f.loc + f.pool.S ≤ 2 ^ 35) ∧
    (seq0.Lc < 2 ^ 32 ∧ seq0.Lt < 2 ^ 32 ∧ seq0.nblk < 2 ^ 32) ∧ kvs.Mapped seq0.va 12 0x1000 ∧ kvs.Mapped (seq0.bt + 4 * 1) 4 0x3004 ∧
    ∀ a n, (frame 0).home ≤ a → a + n ≤ (frame 0).home + (frame 0).pool.S → kvs.physFault a n = none ∧ kvs.physWriteFault a n = none := by
  have m := mapped kvs rfl rfl rfl
  refine ⟨by decide +kernel, by decide +kernel, m _ _ (by decide +kernel), m _ _ (by decide +kernel), fun a n _ h => whole kvs rfl rfl a n ?_⟩
  have : (frame 0).home + (frame 0).pool.S ≤ 2 ^ 35 := by decide +kernel
  exact h.trans this
/-- Frame 0 holds four tokens, of which a mask of 5 keeps two; a command has touched the page of the store. -/
theorem test_wit_kv_trim :
    (frame 0).fill ≤ (frame 0).pool.P ∧ (frame 0).pool.hfmt < 2 ∧ 0x4000 + 32 ≤ (frame 0).loc ∧ kvs.keyId ≠ 0 ∧
    (∀ a n, (frame 0).loc ≤ a → a + n ≤ (frame 0).loc + (frame 0).pool.S → kvs.physFault a n = none ∧ kvs.physWriteFault a n = none) ∧
    ((List.range 4).filter fun o => (frame 0).present o && (5#64).toNat.testBit o) = [0, 2] ∧
    (let s : State := { kvs with core := { kvs.core with pages := [(7, ⟨0, 21, 7⟩, false)], utlb := [] } }
     s.entryFor (some 7) 0x1000 = some ⟨0, 21, 7⟩ ∧ s.entryFor none 0x1000 = none) := by
  refine ⟨by decide +kernel, by decide +kernel, by decide +kernel, by decide, ?_, by decide +kernel, by decide +kernel⟩
  have h : (frame 0).loc + (frame 0).pool.S ≤ 2 ^ 35 := by decide +kernel
  exact fun a n _ h2 => whole kvs rfl rfl a n (h2.trans h)
/-- Blocks at pitch offset 0: a kv.app of one token; a kv.attn with its state block at 0x400; complete state blocks at 0x400 and
0x800. -/
def appPad : List Host.Cell := [(0x0A, 1), (0x0C, 64), (0x10, 0x40), (0x11, 1)]
def attnPad (st : Byte) : List Host.Cell :=
  [(0x0F, 1), (0x10, 1), (0x11, 0x10), (0x14, 0x80), (0x19, 4)] ++ (if st = 0 then [] else [(0x417, 1), (0x418, 1), (0x41A, st)])
def mergePad : List Host.Cell := [(0x417, 1), (0x418, 1), (0x41A, 2), (0x817, 1), (0x818, 1), (0x81A, 2)]
def kvPad (p : List Host.Cell) (l : List (Nat × Dword)) : State :=
  { kvs with
    x := { busy with s := l }
    core := { kvs.core with pad := p, streams := [(0, { ring 0 with mfmt := 11, popf := 11 }), (1, { ring 0 with mfmt := 11, popf := 11 })],
                            banks := [(0, ⟨1, 0, 0, []⟩)] } }
theorem test_wit_kv_app :
    let s := kvPad appPad []
    let q := s.padRead 0 64
    s.pitch = some ⟨1, 0, 64, 0xFFFF, 1⟩ ∧ s.core.entries.length < 32 ∧ (0 : Nat) + 64 ≤ 64 * 128 ∧ s.full 0 = true ∧ fieldOf q 3 1 = 0 ∧ fieldOf q 20 1 ≤ 2 ∧
    fieldOf q 21 3 = 0 ∧ fieldOf q 28 36 = 0 ∧ fieldOf q 10 2 = 1 ∧ fieldOf q 8 2 + fieldOf q 10 2 ≤ pool0.layers ∧
    fieldOf q 12 4 + 256 ≤ 64 * 128 ∧ fieldOf q 16 4 + 256 ≤ 64 * 128 := by decide +kernel
theorem test_wit_kv_app_handle : (kvSeq (fieldOf ((kvPad appPad []).padRead 0 64) 0 4 % 2 ^ 24)).Ok none (kvPad appPad []) seq0 (kvPad appPad []) := 
  ok_of _ _ _ (by decide +kernel)
theorem test_wit_kv_attn :
    let s := kvPad (attnPad 1) []
    let q := s.padRead 0 64
    attnBad q = false ∧ attnBad ((kvPad [] []).padRead 0 64) = true ∧ fieldOf q 12 2 < pool0.layers ∧ fieldOf q 14 1 + fieldOf q 15 1 ≤ pool0.heads ∧
    fieldOf q 20 4 = 0x80 ∧ fieldOf q 24 4 = 0x400 ∧ regionsMeet (some (0, 384)) (some (0x400, 512)) = false ∧ s.core.claims.of 0 = (1, 0) ∧
    (∀ r < 2, (s.core.stream r).bound = true ∧ pool0.P * pool0.D ≤ (s.core.stream r).pairs.capacity) ∧ s.core.matrixQueue.length < 8 ∧
    s.padNat (0x400 + 26) 1 = 1 ∧ s.attnMatches 0x400 q = true ∧ (kvPad (attnPad 2) []).padNat (0x400 + 26) 1 = 2 ∧
    (kvPad (attnPad 0) []).padNat (0x400 + 26) 1 = 0 := by decide +kernel
theorem test_wit_kv_merge :
    let s := kvPad mergePad [(1, 0x400), (2, 0x800)]
    (∀ a ∈ [0x400, 0x800], a % 128 = 0 ∧ a + 512 ≤ 64 * 128 ∧ s.padNat (a + 23) 1 = 1 ∧ s.padNat (a + 24) 1 = 1 ∧ s.padNat (a + 26) 1 = 2) ∧
    (0x400 : Nat) + 512 ≤ 0x800 ∧ s.padNat 26 1 ≠ 2 ∧ (4 : Nat) % 4 = s.padNat (0x800 + 25) 1 % 4 := by decide +kernel
theorem test_wit_kv_accepted :
    trusted.x.priv = true ∧ base.x.priv = false ∧ (1 : Nat) ≤ (base.x.sreg 2).toNat ∧ (base.x.sreg 2).toNat ≤ 1024 ∧ (base.x.sreg 0).toNat = 0 ∧
    1024 < (base.x.sreg 5).toNat := by decide
def kvCmd (op : Instr) (st : List Nat) (att : Option Attn) : Cmd := { command op with st := st, att := att }
def onStore (c : Cmd) (t : Dword) : State := { kvs with core := { kvs.core with cmds := [c], nextId := 1 }, gtc := t }
def page (tier : Byte) : Page := ⟨0, 0, [0, 0, 0, 8 * tier], none, false, 0⟩
theorem test_wit_kv_steps :
    (let c := kvCmd (.kvSeal ⟨1, 2, 3, 0⟩) [] none
     (onStore c 0).core.cmd 0 = some c ∧ c.isKv = true ∧ (onStore c 0).kvWaiting = some c ∧ (onStore c 0).freeEngine = some 0) ∧
    (onStore (kvCmd (.kvTrim ⟨1, 2, 3, 0⟩) [5, 0, 0] none) 0).transitOver (kvCmd (.kvTrim ⟨1, 2, 3, 0⟩) [5, 0, 0] none) = true ∧
    (kvCmd (.kvAttn ⟨1, 2, 3, 0⟩) [0] (some ⟨4, 1, false, false, [], [], some (page 0, 0, true)⟩)).unitReady = true ∧
    (let c := kvCmd (.kvFree ⟨1, 2, 3, 0⟩) [4, 0, 0, 0, 2] none; c.st.getD 4 0 = 2 ∧ (onStore c 0).freeable c = true) ∧
    (let c := kvCmd (.kvLend ⟨1, 2, 3, 0⟩) [6, 0] none; c.phase = 6 ∧ c.since + 100000 ≤ (onStore c 100000).gtc.toNat) ∧
    (let c := kvCmd (.kvRet ⟨1, 2, 3, 0⟩) [8, 0] none; c.phase = 8 ∧ c.att = none ∧ (onStore c 0).portTo 0 = none) ∧
    (let c := kvCmd (.kvAttn ⟨1, 2, 3, 0⟩) [0] (some ⟨4, 1, false, false, [], [page 2], none⟩)
     c.phase = 0 ∧ (onStore c 100000).pageLost c = true) ∧
    (kvCmd (.kvAttn ⟨1, 2, 3, 0⟩) [0, 0, 0, 0, 64, 4] none).aQk = 0 := by decide +kernel
theorem test_wit_partials :
    (⟨0xFF800000, 0, [0]⟩ : Partial).o.length = 1 ∧ (f32v (0x7FC00000 : Word)).isNan = true ∧
    (f32v (0x3F800000 : Word)).Finite ∧ ([(0x3F800000 : Word), 0x40000000].all fun w => !(f32v w).isNan) = true ∧
    ({ command (.kvAttn ⟨1, 2, 3, 0⟩) with req := List.replicate 17 0 ++ [0x10] } : Cmd).aQk ≠
      ({ command (.kvAttn ⟨1, 2, 3, 0⟩) with req := List.replicate 17 0 ++ [0x10] } : Cmd).aQv :=
  ⟨by decide +kernel, by decide +kernel, ⟨false, 0x800000, -23, by decide +kernel⟩, by decide +kernel, by decide +kernel⟩
/-- The page of a frame of a tier, with the frame's descriptor as the walk read it. -/
def pageOf (tier : Nat) (b : Option (List Byte)) (tr : Bool) : Page :=
  ⟨0, 0, ({ frame 0 with tier := tier } : Fdesc).bytes ++ pool0.raw, b, tr, 0⟩
/-- A kv.attn of two heads and one query on the four tokens of block 0, with a walk. -/
def walking (a : Attn) : Cmd :=
  { command (.kvAttn ⟨1, 2, 3, 0⟩) with
    req := [0, 0, 0, 0, 0, 0, 0, 0, 4, 0, 0, 0, 0, 0, 0, 2, 1, 0x10], st := [0, 0, 0x80, 0x400, 64, 4, 4], att := some a }
def attending (a : Attn) : State :=
  let s := kvPad (attnPad 1) []
  let r (q : Nat) : Stream := { s.core.stream q with tail := if a.cur.isSome then 256 else 0 }
  { s with core := { s.core with cmds := [walking a], nextId := 1, streams := [(0, r 0), (1, r 1)] } }
def atUnit (j : Nat) : Attn := ⟨4, 1, false, false, [], [], some (pageOf 0 (some (List.replicate 1024 1)) false, j, true)⟩
def deferred (pg : Page) : Attn := ⟨4, 1, false, false, [], [pg], none⟩
def keepsUnits (a : Attn) (pg : Page) (s : State) (j : Nat) : Bool :=
  let c := walking a
  let f := pageFrame pg
  let pos := pagePositions c a.lim pg.block f
  pos ≠ [] && (s.pushUnit c pg f pos j).isSome
theorem test_wit_attn_fold :
    (∀ j < 2, (attending (atUnit j)).core.cmd 0 = some (walking (atUnit j)) ∧ (walking (atUnit j)).att = some (atUnit j)) ∧
    (walking (atUnit 0)).aNh = 2 ∧
    (let pg := pageOf 0 (some (List.replicate 1024 1)) false
     let s (j : Nat) : State := ((attending (atUnit j)).foldUnit (walking (atUnit j)) (pageFrame pg) (pagePositions (walking (atUnit j)) 4 0 (pageFrame pg)) j).1
     keepsUnits (atUnit 0) pg (s 0) 1 = true ∧
       ∃ x t, (kvLeave 0).Ok none ((s 1).putCmd { walking (atUnit 1) with att := some { atUnit 1 with cur := none } }) x t) :=
  ⟨by decide +kernel, by decide +kernel, by decide +kernel, ok_ex _ _ (by decide +kernel)⟩
theorem test_wit_attn_staged :
    (∀ pg ∈ [pageOf 2 (some (List.replicate 1024 1)) false, pageOf 1 none false, pageOf 5 none true],
      (attending (deferred pg)).core.cmd 0 = some (walking (deferred pg)) ∧
      ((attending (deferred pg)).stagedPages (walking (deferred pg)) (deferred pg)).find? (fun p => p.block = 0) = some pg) ∧
    ((attending (atUnit 0)).stagedPages (walking (atUnit 0)) { atUnit 0 with cur := none } = []) ∧
    (let pg := pageOf 2 (some (List.replicate 1024 1)) false
     keepsUnits (deferred pg) pg (attending (deferred pg)) 0 = true) ∧
    (let pg := pageOf 1 none false
     ∃ l u, (stagePage (walking (deferred pg)) (pageFrame pg)).Ok none (attending (deferred pg)) l u) ∧
    (let pg := pageOf 5 none true
     ∃ d u, (kvVisit (walking (deferred pg)) { deferred pg with listed := [] } 0).Ok none (attending (deferred pg)) d u) :=
  ⟨by decide +kernel, by decide +kernel, by decide +kernel, ok_ex _ _ (by decide +kernel), ok_ex _ _ (by decide +kernel)⟩

/-- The store with frame 3 lent to device 2, and port 0 up towards it. -/
def linked : State :=
  { kvs with pkg := { kvs.pkg with
      mem := kvMem.dropLast ++ [(0x4063, 24), (0x4074, 2), (0x5000, 2)]
      ltl := [(0, ⟨3, 2, 0, 0, 0, 0, 0⟩)] } }
/-- The store with frame 3 borrowed from device 2. -/
def borrowed : State :=
  { linked with pkg := { linked.pkg with mem := kvMem.dropLast ++ [(0x4063, 16), (0x4074, 2), (0x5000, 2)] } }
theorem test_wit_kv_free_transit :
    (let c (l : List Nat) : Cmd := kvCmd (.kvFree ⟨1, 2, 3, 0⟩) l none
     (c [4, 0, 0, 0, 0]).phase = 4 ∧ (frame 0).tier ≤ 1 ∧ (c [4, 0, 0, 0, 0]).st.drop 5 = [] ∧ (c [4, 0, 0x61, 0, 0]).st.getD 2 0 ≠ 0 ∧
       (c [4, 0, 0, 0, 0, 1]).st.drop 5 = 1 :: []) ∧
    (∃ x u, (kvPush pool0.flist (frame 0)).Ok none kvs x u) ∧
    (let f := fdescOf 3 pool0 (borrowed.pkg.reads 5 0x4060 32)
     f.tier = 2 ∧ borrowed.isPeer f.peer = true ∧ (kvFrame 3).Ok none borrowed f borrowed ∧
       ∃ x u, (kvPush f.pool.flist f).Ok none ((borrowed.sendMsg (borrowed.engineMsg f.peer 5 [f.remote] [])).countPool f.pool.id 4 1) x u) ∧
    (∃ x u, (kvTrimEnd { kvCmd (.kvTrim ⟨1, 2, 3, 0⟩) [5, 0, 0] none with args := [0, 0, 5] } (frame 0)).Ok none kvs x u) ∧
    ∃ x u, (kvMove (frame 0) 1).Ok none kvs x u :=
  ⟨by decide +kernel, ok_ex _ _ (by decide +kernel),
    ⟨by decide +kernel, by decide +kernel, ok_of _ _ _ (by decide +kernel), ok_ex _ _ (by decide +kernel)⟩,
    ok_ex _ _ (by decide +kernel), ok_ex _ _ (by decide +kernel)⟩
def mail (kind : Nat) (x : List Nat) (pay : List Byte) : Msg := ⟨0, 255, kind, false, 2, 255, 0, 0, pay.length, 15, x, pay⟩
def mailed (m : Msg) (l : List Cmd) (s : State) : State :=
  { s with core := { s.core with cmds := l, nextId := 1 }, pkg := { s.pkg with inbox := [m] } }
/-- The state once the message has been taken. -/
def opened (s : State) (t : Msg → Bool) : State := ((s.takeMsg t).getD (mail 0 [] [], s)).2
def lendAsk : Msg := mail 2 [0, 0, 1, 1, 0, 2, 0, 9, 0, 0] []
theorem test_wit_lend_request :
    (∀ s ∈ [linked, { linked with part := { linked.part with present := false } }], (mailed lendAsk [] s).takeMsg (fun x => x.kind = 2) =
      some (lendAsk, opened (mailed lendAsk [] s) fun x => x.kind = 2)) ∧
    (opened (mailed lendAsk [] linked) fun x => x.kind = 2).part.present = true ∧
    ∃ x u, (lendServe lendAsk).Ok none (opened (mailed lendAsk [] linked) fun x => x.kind = 2) x u :=
  ⟨by decide +kernel, by decide +kernel, ok_ex _ _ (by decide +kernel)⟩
/-- What the lender does: the pair has no key yet; the pool's descriptor cannot be read; the list of frames to lend has a first
frame, or is empty; another geometry. -/
def lender (pools : Nat) : State :=
  { linked with part := { linked.part with setup := { linked.part.setup with pools := pools } } }
theorem test_wit_lend_serve :
    (let t := opened (mailed lendAsk [] linked) fun x => x.kind = 2
     t.lendKey 2 = 0 ∧ ∃ x u, (lendServe lendAsk).Ok none (t.renewKey 2) x u) ∧
    (let t := opened (mailed lendAsk [] (lender 0x40000000)) fun x => x.kind = 2
     t.part.present = true ∧ t.lendKey 2 = 0 ∧ ∃ e u, (lendServe lendAsk).Fails none (t.renewKey 2) e u) ∧
    (kvs.Mapped pool0.llist 8 0x5010 ∧ kvs.Mapped (kvs.part.setup.pools + 128 * pool0.id) 128 0x2000 ∧ (0x2000 + 128 ≤ 0x5010)) ∧
    (kvPoolRaw (lendAsk.x.getD 1 0 % 16)).Ok none kvs pool0 kvs ∧
    (pool0.valid = true ∧ pool0.ok = true ∧ pool0.geometry = (lendAsk.x.drop 2).take 5 ∧ pool0.geometry ≠ ([0, 0, 2].drop 2).take 5) ∧
    (kvs.memNat 0x5010 8 % 2 ^ 32 = (frame 0).id ∧ lendAsk.sdev < 2 ^ 15 ∧ lendAsk.x.getD 7 0 < 2 ^ 32 ∧ 0x4000 + 32 ≤ 0x5010) ∧
    ({ kvs with pkg := { kvs.pkg with mem := kvMem ++ [(0x5010, 255), (0x5011, 255), (0x5012, 255), (0x5013, 255)] } } : State).memNat 0x5010 8 %
      2 ^ 32 = 2 ^ 32 - 1 := by
  have m := mapped kvs rfl rfl rfl
  refine ⟨⟨by decide +kernel, ok_ex _ _ (by decide +kernel)⟩, ⟨by decide +kernel, by decide +kernel, fails_ex _ _ (by decide +kernel)⟩,
    ⟨m _ _ (by decide +kernel), m _ _ (by decide +kernel), by decide⟩, ok_of _ _ _ (by decide +kernel), by decide +kernel, by decide +kernel,
    by decide +kernel⟩
def lending : Cmd := kvCmd (.kvLend ⟨1, 2, 3, 0⟩) [6, 0] none
theorem test_wit_lend_reply :
    (∀ l ∈ [[lending], []], (mailed (mail 7 [0, 9, 0] []) l linked).takeMsg (fun x => x.kind = 7) =
      some (mail 7 [0, 9, 0] [], opened (mailed (mail 7 [0, 9, 0] []) l linked) fun x => x.kind = 7)) ∧
    (opened (mailed (mail 7 [0, 9, 0] []) [lending] linked) fun x => x.kind = 7).core.cmd 0 = some lending ∧ lending.phase = 6 ∧
    linked.gtc.toNat < lending.since + 100000 ∧
    (let s := mailed (mail 7 [0, 9, 0] []) [lending] { linked with gtc := 100000 }
     s.takeMsg (fun x => x.kind = 7) = some (mail 7 [0, 9, 0] [], opened s fun x => x.kind = 7) ∧
       ∀ c ∈ (opened s fun x => x.kind = 7).core.cmds, c.since + 100000 ≤ s.gtc.toNat) ∧
    (opened (mailed (mail 7 [0, 9, 0] []) [] linked) fun x => x.kind = 7).core.cmd 0 = none := by decide +kernel
theorem test_wit_kv_return :
    let m := mail 5 [3] []
    let t := opened (mailed m [] linked) fun x => x.kind = 5
    (mailed m [] linked).takeMsg (fun x => x.kind = 5) = some (m, t) ∧ t.lentTo 2 2 = none ∧
    (∃ f, t.lentTo 3 2 = some f) ∧ ∃ x u, (kvPush 0x5010 (fdescOf 3 pool0 (t.pkg.reads 5 0x4060 32))).Ok none t x u :=
  ⟨by decide +kernel, by decide +kernel, Option.isSome_iff_exists.mp (by decide +kernel), ok_ex _ _ (by decide +kernel)⟩
theorem test_wit_kv_messages :
    (let m := mail 3 [0, 3, 0, 0, 0, 8, 0, 0] []
     let t := opened (mailed m [] linked) fun x => x.kind = 3 && x.x.getD 0 0 = 0
     (mailed m [] linked).takeMsg (fun x => x.kind = 3 && x.x.getD 0 0 = 0) = some (m, t) ∧ (t.lentTo 3 2).isSome ∧ t.lentTo 1 2 = none) ∧
    (let m := mail 3 [1, 0, 0] [7]
     let c := kvCmd (.kvRet ⟨1, 2, 3, 0⟩) [8, 0] none
     let t := opened (mailed m [c] linked) fun x => x.kind = 3 && x.x.getD 0 0 = 1
     (mailed m [c] linked).takeMsg (fun x => x.kind = 3 && x.x.getD 0 0 = 1) = some (m, t) ∧ t.core.cmd 0 = some c ∧ c.att = none ∧ c.phase = 8) ∧
    (let m := mail 4 [0, 3, 8, 2, 0, 0, 0] [7, 9]
     let t := opened (mailed m [] linked) fun x => x.kind = 4 && x.x.getD 0 0 = 0
     (mailed m [] linked).takeMsg (fun x => x.kind = 4 && x.x.getD 0 0 = 0) = some (m, t) ∧ (t.lentTo 3 2).isSome ∧ t.core.watch = [] ∧
       msgRanges (m.x.drop 2) = [(8, 2)] ∧ m.payload.length = 2) ∧
    (let m := mail 4 [1, 0, 0] []
     let c := kvCmd (.kvApp ⟨1, 2, 3, 0⟩) [2, 0] none
     let t := opened (mailed m [c] linked) fun x => x.kind = 4 && x.x.getD 0 0 = 1
     (mailed m [c] linked).takeMsg (fun x => x.kind = 4 && x.x.getD 0 0 = 1) = some (m, t) ∧ t.core.cmd 0 = some c ∧ c.phase = 2) ∧
    (let s := { linked with part := { linked.part with returns := [(2, 9, 0)] } }
     s.isPeer 2 = true ∧ s.part.returns.find? (fun x => x.1 = 2) = some (2, 9, 0)) := by decide +kernel

/-- Frame 3 is lent under key id 4095, which its first line has; that line fails its code, or not. -/
def keyed (corrupt : List Nat) (m : Msg) : State :=
  mailed m [] { linked with pkg := { linked.pkg with lkeys := [(2, 4095)], key := linked.pkg.key ++ [(536, 4095)], corrupt := corrupt } }
theorem test_wit_kv_lent :
    (let m := mail 3 [0, 3, 0, 8, 0, 0, 0] []
     ∀ c ∈ [[], [536]], let t := opened (keyed c m) fun x => x.kind = 3 && x.x.getD 0 0 = 0
       (keyed c m).takeMsg (fun x => x.kind = 3 && x.x.getD 0 0 = 0) = some (m, t) ∧
       (t.lentTo 3 2).map (fun f => (f.home, t.lentFail 2 f.home (msgRanges (m.x.drop 2)))) = some (536 * 128, decide (c ≠ []))) ∧
    (let m := mail 4 [0, 3, 8, 2, 0, 0, 0] [7, 9]
     let t := opened (keyed [] m) fun x => x.kind = 4 && x.x.getD 0 0 = 0
     (keyed [] m).takeMsg (fun x => x.kind = 4 && x.x.getD 0 0 = 0) = some (m, t) ∧ (t.lentTo 3 2).isSome = true ∧ t.core.watch = [] ∧
       t.lendKey 2 ≠ 0 ∧ msgRanges (m.x.drop 2) = [(8, 2)] ∧ m.payload.length = 2) := by decide +kernel
/-- A kv-write into a lent frame of which a line fails; answers in time and 100 µs after they were asked for. -/
theorem test_wit_kv_late :
    (let m := mail 4 [0, 3, 8, 2, 0, 0, 0] [7, 9]
     ∀ c ∈ [[], [536]], let t := opened (keyed c m) fun x => x.kind = 4 && x.x.getD 0 0 = 0
       (keyed c m).takeMsg (fun x => x.kind = 4 && x.x.getD 0 0 = 0) = some (m, t) ∧
       (t.lentTo 3 2).map (fun f => t.lendStuck 2 f.home (cutRanges (msgRanges (m.x.drop 2)) m.payload)) = some (decide (c ≠ []))) ∧
    (∀ g ∈ [99999, 100000], let m := mail 3 [1, 0, 0] [7]
     let c := kvCmd (.kvRet ⟨1, 2, 3, 0⟩) [8, 0] none
     let s := mailed m [c] { linked with gtc := BitVec.ofNat 64 g }
     let t := opened s fun x => x.kind = 3 && x.x.getD 0 0 = 1
     s.takeMsg (fun x => x.kind = 3 && x.x.getD 0 0 = 1) = some (m, t) ∧ t.core.cmd 0 = some c ∧ c.att = none ∧ c.phase = 8 ∧
       (s.gtc.toNat < c.since + 100000 ↔ g = 99999)) ∧
    (∀ g ∈ [99999, 100000], let m := mail 4 [1, 0, 0] []
     let c := kvCmd (.kvApp ⟨1, 2, 3, 0⟩) [2, 0] none
     let s := mailed m [c] { linked with gtc := BitVec.ofNat 64 g }
     let t := opened s fun x => x.kind = 4 && x.x.getD 0 0 = 1
     s.takeMsg (fun x => x.kind = 4 && x.x.getD 0 0 = 1) = some (m, t) ∧ t.core.cmd 0 = some c ∧ c.phase = 2 ∧
       (s.gtc.toNat < c.since + 100000 ↔ g = 99999)) := by decide +kernel
/-- What lets a command go on: a split of frame 0 into the spare, an append into frame 0, a kv.ret of the borrowed frame 3. -/
theorem test_wit_kv_goes_on :
    (∀ ph ∈ [1, 2], let c : Cmd := { kvCmd (.kvApp ⟨1, 2, 3, 0⟩) [ph, 0, 0, 0, 0, 4, 15, 7, 0] none with req := List.replicate 64 0 }
      c.phase = ph ∧ c.reqField 0 4 % 2 ^ 24 = 0 ∧ ∃ f t, (kvSource c).Ok none kvs f t) ∧
    (let c : Cmd := { kvCmd (.kvApp ⟨1, 2, 3, 0⟩) [3, 0, 0, 0, 0] none with req := List.replicate 64 0 }
     c.phase = 3 ∧ c.st.length ≤ 5 ∧ c.st.getD 4 0 = 0 ∧ c.reqField 4 4 % pool0.P < 127 ∧ kvs.Mapped seq0.va 12 0x1000) ∧
    (let c : Cmd := { kvCmd (.kvRet ⟨1, 2, 3, 0⟩) [8, 0, 1] none with args := [3] }
     let f := fdescOf 3 pool0 (borrowed.pkg.reads 5 0x4060 32)
     let pay : List Byte := List.replicate 256 7
     let u := (kvWriteRanges f.home (cutRanges (f.pool.slotRanges (c.st.getD 2 0)) pay)).run none (borrowed.countPool f.pool.id 6 pay.length)
     let v := (kvPutFrame { f with tier := 0, loc := f.home, key := u.2.keyId }).run none u.2
     c.phase = 8 ∧ (kvFrame (c.arg 0)).Ok none borrowed f borrowed ∧ u.1.toBool = true ∧ v.1.toBool = true ∧ v.2.isPeer f.peer = true) := by
  refine ⟨fun ph h => ?_, ⟨rfl, by decide, rfl, by decide +kernel, mapped kvs rfl rfl rfl _ _ (by decide +kernel)⟩,
    rfl, ok_of _ _ _ (by decide +kernel), by decide +kernel, by decide +kernel, by decide +kernel⟩
  simp only [List.mem_cons, List.not_mem_nil, or_false] at h
  rcases h with rfl | rfl <;> exact ⟨rfl, by decide +kernel, ok_ex _ _ (by decide +kernel)⟩

/-! ### Witnesses: tiles and the rule unit -/

/-- Tiles of 256 bytes: 0 in memory, 1 pinned 65,535 times, 2 in build, 3 and 4 with a recipe, dropped and outside the area, 6
pinned once; 5 undefined. -/
def tiled (l : List (Nat × Dword)) (c : List Cmd) : State :=
  { base with
    x := { busy with s := l }
    core := { base.core with cmds := c, nextId := c.length }
    part := { base.part with setup := { base.part.setup with tileTable := 0x6000, tileCount := 7, tileArea := 0x7000, tileAreaSize := 0x1000 } }
    pkg := { base.pkg with
      key := [(0xC0, 5), (0xC1, 5)]
      mem := [(0x6000, 8), (0x6005, 1), (0x6009, 0x70), (0x6020, 8), (0x6022, 255), (0x6023, 255), (0x6025, 1), (0x6040, 15), (0x6045, 1),
        (0x6060, 14), (0x6065, 1), (0x6080, 13), (0x6085, 1), (0x60C0, 8), (0x60C2, 1), (0x60C5, 1)] } }
theorem test_wit_tiles :
    let s := tiled [(1, 9), (2, 7), (3, 0x800), (4, 256)] []
    let d (i : Nat) : Tile := s.tileAt i
    s.core.watch = [] ∧ s.core.cmds = [] ∧ s.x.ef = none ∧ s.ctxOf s.x.brec = some s.xn ∧ ¬ (s.x.sreg 1).toNat < s.part.setup.tileCount ∧
    (∀ i < 7, i < s.part.setup.tileCount ∧ i ≠ 0xFFFFFFFF) ∧ ((d 0).v ∧ (d 5).v = false ∧ (s.x.sreg 2).toNat % 128 ≠ 0 ∧
      (s.x.sreg 4).toNat % 128 = 0 ∧ (s.x.sreg 3).toNat % 128 = 0) ∧
    ((d 0).pins = 0 ∧ (d 1).pins = 65535 ∧ (d 6).pins = 1 ∧ (d 2).st = 3 ∧ (d 0).st = 0 ∧ (d 0).r = false ∧ (d 3).st = 2 ∧ (d 3).r ∧ (d 3).pins = 0 ∧
      (d 4).st = 1 ∧ (d 4).r ∧ (d 4).pins = 0 ∧ ∀ i < 7, (d i).v → (d i).size = 256) := by decide +kernel
theorem test_wit_tile_faults :
    (tiled [] []).physFault 0x6000 32 = none ∧ (tiled [] []).physFault 0x7000 128 = none ∧
    ({ tiled [] [] with pkg := { (tiled [] []).pkg with corrupt := [0xC0] } } : State).physFault 0x6000 32 = some 0x46 := by decide +kernel
theorem test_wit_tile_home :
    (tiled [(1, 5), (2, 256), (3, 0x800)] []).translate 0x800 true false = (tiled [(1, 5), (2, 256), (3, 0x800)] [], .ok (0x800, 0)) := by
  decide +kernel
def recipe : State :=
  let s := tiled [] []
  { s with x := { s.x with rtile := 0x8000000100000002 }, part := { s.part with builds := [⟨2, 0x1000, [6], false⟩] } }
theorem test_wit_tile_done :
    let b : Build := ⟨2, 0x1000, [6], false⟩
    recipe.x.rtile.getLsbD 63 = true ∧ b ∈ recipe.part.builds ∧ b.done = false ∧ va56 b.rec_ = va56 recipe.x.brec ∧ b.srcs.Nodup ∧ b.tile ∉ b.srcs ∧
    (∀ x ∈ recipe.part.builds, va56 x.rec_ = va56 recipe.x.brec → x = b) ∧ recipe.core.cmds = [] ∧
    (tiled [] []).part.builds = [] := by decide +kernel
theorem test_wit_tile_copies :
    (∀ i ∈ [0, 2, 3, 4], let s := tiled [(1, BitVec.ofNat 64 i), (3, 256), (4, 128)] []
      s.pitch = some ⟨1, 0, 64, 0xFFFF, 1⟩ ∧ s.core.entries.length < 32 ∧ s.ctxOf s.x.brec = some s.xn ∧ s.x.wlines = [] ∧ (s.tileAt i).v ∧
      (s.x.sreg 2).toNat % 128 = 0 ∧ (s.x.sreg 2).toNat + (s.x.sreg 3).toNat ≤ 64 * 128 ∧ (s.x.sreg 3).toNat = (s.tileAt i).size ∧
      (s.x.sreg 4).toNat ≠ (s.tileAt i).size ∧ s.x.rtile.getLsbD 63 = false) ∧
    (∀ put < 2, let c : Cmd := { command (if put = 1 then .tlPut ⟨1, 2, 3, 0⟩ else .tlGet ⟨1, 2, 3, 0⟩) with
        args := [0, 0, 256, 0], st := [1], rd := if put = 1 then some (0, 256) else none, wr := if put = 1 then none else some (0, 256) }
      let s := tiled [] [c]
      s.core.cmd 0 = some c ∧ s.canMove c = true ∧ c.tileLines = [0, 1] ∧ s.physFault ((s.tileAt 0).loc + 128 * 1) 128 = none ∧
        s.physWriteFault ((s.tileAt 0).loc + 128 * 1) 128 = none ∧ c.old = []) := by decide +kernel
/-- Tile 3 is to be built from the record at `aux`; the one at 0x300 has source 0, the one at 0x200 is none of a recipe. -/
def spawning (aux : Byte × Byte) (area : Nat) (rt : Dword) : Cmd × State :=
  let c : Cmd := { command (.tlGet ⟨1, 2, 3, 0⟩) with args := [3, 0, 256, rt], st := [0], wr := some (0, 256) }
  let s := tiled [] [c]
  let m (x : Nat × Byte) : Bool := decide (x.1 < 0x6080)
  (c, { s with
    part := { s.part with setup := { s.part.setup with strandArea := 0x9000, tileAreaSize := area } }
    pkg := { s.pkg with
      key := [(6, 5), (0xC0, 5), (0xC1, 5)]
      mem := [(0x301, 0x40), (0x30B, 8)] ++ (List.range 12).map (fun i => (0x31C + i, (255 : Byte))) ++ s.pkg.mem.filter m ++
        [(0x6071, aux.1), (0x6073, aux.2)] ++ s.pkg.mem.filter fun x => !m x } })
theorem test_wit_recipes :
    (∀ x ∈ [spawning (3, 0) 0x1000 0, spawning (3, 0) 0x1000 0x8000000400000001, spawning (3, 0) 0 0, spawning (0, 0x40) 0x1000 0, spawning (2, 0) 0x1000 0],
      x.2.tileId 3 = true ∧ x.2.tileFault 3 = none ∧ (x.2.tileAt 3).v = true ∧ (x.1.args.getD 2 0).toNat = (x.2.tileAt 3).size ∧ (x.2.tileAt 3).st = 2) ∧
    4 < (spawning (3, 0) 0x1000 0x8000000400000001).1.rtile.toNat / 2 ^ 32 % 8 + 1 ∧
    ((spawning (3, 0) 0 0).2.allocTile 256).2 = none ∧
    (let s := (spawning (0, 0x40) 0x1000 0).2; s.allocTile 256 = (s, some 0x7000) ∧ (s.recipeBytes (s.tileAt 3).aux).2 = none) ∧
    (let s := (spawning (2, 0) 0x1000 0).2
     s.recipeBytes (s.tileAt 3).aux = (s, some (s.pkg.reads 5 0x200 64)) ∧ s.recipeOk (s.pkg.reads 5 0x200 64) = false) ∧
    (let s := (spawning (3, 0) 0x1000 0).2
     let c := (spawning (3, 0) 0x1000 0).1
     let b := s.pkg.reads 5 0x300 64
     (s.allocTile 256 = (s, some 0x7000) ∧ s.recipeBytes (s.tileAt 3).aux = (s, some b) ∧ s.recipeOk b = true ∧ recipeSources b = [0]) ∧
       ((s.tileAt 0).pins < 65535 ∧ s.core.cmd c.id = some c ∧ s.part.setup.strandArea + 64 * s.part.nextStrand = 0x9000 ∧
         s.core.watch = [] ∧ s.keyId ≠ 0) ∧
       ((∀ x < s.part.setup.tileCount, s.part.setup.tileTable + 32 * x + 32 ≤ 0x9000) ∧ s.freeCtx = some 1 ∧ 1 ≠ s.xn ∧
         s.part.loaded = true ∧ (recordOf b).lines = 0)) := by
  refine ⟨?_, ?_, ?_, ?_, ?_, ?_, ?_, ?_⟩ <;> decide +kernel
theorem test_wit_recipe_place : ((spawning (3, 0) 0x1000 0).2).Mapped 0x9000 64 0x9000 := mapped _ rfl rfl rfl _ _ (by decide)
/-- A tl.get that waits for room, and a recipe spawn held at the directory. -/
def roomFor : Cmd := { command (.tlGet ⟨1, 2, 3, 0⟩) with args := [0, 0, 256, 0], st := [3], wr := some (0, 256) }
def heldUp (n : Nat) : State :=
  let s := tiled [] []
  { s with rest := (List.range 7).map fun i => (i + 1, other .running)
           die := { s.die with otherFree := 0, ready := List.replicate n ⟨0x1040, false, false, false, none⟩, held := [⟨0x1040, false, false, false, some (2, 1)⟩] } }
theorem test_wit_tile_retries :
    (tiled [] [roomFor]).roomed.isSome = true ∧ (tiled [] []).roomed = none ∧
    (State.placeBuild { heldUp 0 with die := { (heldUp 0).die with held := [] } } ⟨0x1040, false, false, false, some (2, 1)⟩).2 = true ∧
    (State.placeBuild { heldUp 1024 with die := { (heldUp 1024).die with held := [] } } ⟨0x1040, false, false, false, some (2, 1)⟩).2 = false := by
  decide +kernel
/-- A configuration of one row of 64 cells of 1 bit with neighbours at distance 1, wrapped, its alternate area at 128. -/
def ruConfig : Dword := 0x1000000000110
def ruled (cfg a b n : Dword) (c : List Cmd) : State :=
  { base with x := { busy with s := [(1, a), (2, b), (3, n)], ruCfg := cfg }, core := { base.core with cmds := c, nextId := c.length } }
def ruFits (c : Dword) (g a : Nat) : Bool :=
  let w := 2 ^ (c.toNat % 4)
  let size := (c.toNat / 2 ^ 21 % 128 + 1) * 8 * (c.toNat / 2 ^ 28 % 2 ^ 13 + 1) * w
  let alt := c.toNat / 2 ^ 41 % 2 ^ 21
  decide (c.toNat < 2 ^ 62) && c.toNat % 4 ≠ 3 && c.toNat / 4 % 4 ≠ 3 && c.toNat / 16 % 4 ≠ 0 && c.toNat / 2 ^ 21 % 128 = 0 &&
    c.toNat / 2 ^ 10 % 16 = 0 && decide (size ≤ 65536) &&
    (c.toNat / 2 ^ 8 % 4 ≠ 3 || decide (g * (c.toNat / 16 % 4) ≤ c.toNat / 2 ^ 14 % 64)) && alt % 128 = 0 && decide (a + size ≤ alt)
theorem test_wit_rule_commands :
    (let s := ruled ruConfig 0 128 128 []
     s.ctxOf s.x.brec = some s.xn ∧ s.core.cmds = [] ∧ s.x.held 3 = false ∧ s.pitch = some ⟨1, 0, 64, 0xFFFF, 1⟩ ∧ s.core.entries.length < 32) ∧
    ruFits ruConfig 1 0 = true ∧ ruFits (ruConfig + 0x4200) 1 0 = true ∧ ruFits (ruConfig + 0x200) 1 0 = false ∧
    (ruled ruConfig 64 0 0 []).x.sreg 1 = 64 := by decide +kernel
def stepping (st : List Nat) (cfg : Dword) (t : Dword) : Cmd :=
  { command (.ruStep ⟨1, 2, 3, 0⟩) with args := [cfg, t, 0, 0, 128], rd := some (0, 8), wr := some (0, 136), st := st }
def loading : Cmd := { command (.ruTab ⟨1, 2, 3, 0⟩) with args := [0, 128], rd := some (0, 128), st := [0, 1, 0] }
theorem test_wit_rule_steps :
    (ruConfig.toNat % 4 ≠ 3 ∧ ruConfig.toNat / 4 % 4 ≠ 3) ∧
    (let s := ruled ruConfig 0 0 0 [loading]
     s.core.ruHead = some loading ∧ s.core.canRead loading = true ∧ s.core.canWrite loading = true ∧ loading.ruPhase = 0 ∧
       (loading.args.getD 1 0).toNat = 128) ∧
    (∀ c ∈ [stepping [0, 1, 0] ruConfig 2, stepping [1, 1, 0] ruConfig 2, stepping [1, 1, 0] (ruConfig + 0x80) 0], let s := ruled ruConfig 0 0 0 [c]
      s.core.ruHead = some c ∧ s.core.canRead c = true ∧ s.core.canWrite c = true ∧ s.ctxOf c.strand = some 0 ∧ c.ruLinked = true ∧ c.old = []) ∧
    (stepping [1, 1, 0] ruConfig 2).ruPhase = 1 ∧ (base.ctx 0).ruGen.toNat < (stepping [1, 1, 0] ruConfig 2).ruTarget ∧
    (stepping [1, 1, 0] (ruConfig + 0x80) 0).ruTarget ≤ (base.ctx 0).ruGen.toNat ∧ ruU (stepping [1, 1, 0] (ruConfig + 0x80) 0).ruC = true ∧
    (stepping [1, 1, 0] (ruConfig + 0x80) 0).ruX = false := by decide +kernel

/-- A step at its target or below it, with X or without, synchronous or not, alone or before a later one of its strand. -/
def finishing (cfg t flags : Dword) (ph : Nat) : Cmd := { stepping [ph, 1, 0] cfg t with args := [cfg, t, flags, 0, 128] }
theorem test_wit_rule_ends :
    (∀ u ∈ [0, 1], ∀ fl ∈ [0, 1, 2, 3], ∀ t ∈ [0, 2], ∀ ph ∈ [0, 1],
      let cfg := ruConfig + BitVec.ofNat 64 (128 * u)
      let c := finishing cfg (BitVec.ofNat 64 t) (BitVec.ofNat 64 fl) ph
      let s := ruled cfg 0 0 0 [c]
      s.core.ruHead = some c ∧ s.core.canRead c = true ∧ s.core.canWrite c = true ∧ c.isStep = true ∧ c.ruLinked = true ∧ c.ruPhase = ph ∧
      s.ctxOf c.strand = some 0 ∧ s.ctxOf (s.ctx 0).brec = some 0 ∧ va56 c.strand = va56 (s.ctx 0).brec ∧
      (c.ruTarget ≤ (s.ctx 0).ruGen.toNat ↔ t = 0) ∧ (c.ruX = true ↔ 2 ≤ fl) ∧ (ruU c.ruC = true ↔ u = 1) ∧
      c.ruTile + ruSize c.ruC ≤ c.ruAlt) ∧
    (let c := finishing ruConfig 0 0 1
     let s := ruled ruConfig 0 0 0 [c, { c with id := 1 }]
     s.core.ruHead = some c ∧ (∃ k ∈ s.core.cmds, k.isStep = true ∧ va56 k.strand = va56 c.strand ∧ c.id < k.id) ∧
       ∀ k ∈ s.core.cmds, k.id = c.id → k = c) := by decide +kernel
/-- A chequerboard step whose tile holds 0xA5 in its first byte ends with X: the plane, of 1-bit codes, is the tile itself, and
the step leaves with D set (R347, R349); a stop leaves the tile as it is and D clear (R348). -/
def ended (s : State) : List Byte × List Byte × Bool × Nat :=
  ((List.range 2).map (Map.get 0 s.core.pad), (List.range 2).map fun i => Map.get 0 s.core.pad (128 + i), (s.ctx 0).ruD, s.core.cmds.length)
def planeStep (c : Cmd) : State :=
  let s := ruled ruConfig 0 0 0 [c]
  { s with core := { s.core with pad := [(0, 0xA5)] } }
theorem test_rule_plane :
    (match exec .ruStepComplete (planeStep (finishing (ruConfig + 0x80) 0 2 1)) with | .next t => some (ended t) | _ => none) =
      some ([0xA5, 0], [0xA5, 0], true, 0) ∧
    (let e := ended ((planeStep (finishing (ruConfig + 0x80) 2 2 1)).stopSteps 0); (e.1, e.2.2)) = ([0xA5, 0], false, 0) := by
  decide +kernel

/-! ### Witnesses: messages, queues and the stream-context table -/

/-- Endpoint 1 of the partition, a request block at pitch offset 0, messages queued and receives posted. -/
def messaging (q : List Host.Cell) (l : List Msg) (r : List Recv) (t : State) : State :=
  { t with
    x := { t.x with s := [(2, 64), (3, 3)] }
    core := { t.core with pad := q }
    part := { t.part with
      setup := { t.part.setup with endpoints := [(1, .core 0)], unexpPool := 100 }
      unexp := l, posted := r, matched := [(7, 0x1000)] } }
def sendBlock (k : Byte) (ep : Byte) : List Host.Cell := [(0, 2), (2, 1), (3, k), (5, 15), (6, ep), (12, 4), (16, 64)]
def postBlock (g : Byte) (hi : Byte) : List Host.Cell := [(16, 1), (17, 0xF0 + g), (20, 4), (24, 64), (25, hi), (32, 4), (36, 1)]
def letter (ep : Nat) : Msg := ⟨0, ep, 0, false, 2, 5, 0, 9, 4, 15, [], [1, 2, 3, 4]⟩
def awaiting (id : Nat) : Recv :=
  { id := id, strand := 0x1000, priv := false, ep := 1, src := 0x205, smask := 0x7FFFFF, tag := 9, tmask := 0xFFFFFFFF, glob := false,
    fmt := 15, act := 0, hidx := 0, maxlen := 4, dest := 64, cnt0 := 2, cnt1 := 2, str1 := 16, rec_ := 0, bar := 0, base := 0, plen := 8192, lines := (0, 1) }
def blockOk (s : State) : Bool :=
  decide (s.pitch = some ⟨1, 0, 64, 0xFFFF, 1⟩) && decide (s.core.entries.length < 32) && (s.x.sreg 0).toNat % 64 = 0 && s.full 0 && s.core.cmds = []
theorem test_wit_msg_send :
    (∀ t ∈ [(0, 1), (2, 1), (0, 9)], blockOk (messaging (sendBlock (BitVec.ofNat 8 t.1) (BitVec.ofNat 8 t.2)) [] [] base) = true) ∧
    (let q := (messaging (sendBlock 0 1) [] [] base).padRead 0 64
     let n (o k : Nat) : Nat := fieldOf q o k
     n 0 2 < 2 ^ 15 ∧ n 2 1 ≤ 254 ∧ n 3 1 ≤ 1 ∧ n 5 1 = 15 ∧ n 6 1 = 1 ∧ n 7 1 = 0 ∧ n 12 4 = 4 ∧ n 16 8 = 64 ∧ n 32 32 = 0) ∧
    fieldOf ((messaging (sendBlock 2 1) [] [] base).padRead 0 64) 3 1 = 2 ∧ fieldOf ((messaging (sendBlock 0 9) [] [] base).padRead 0 64) 6 1 = 9 := by
  decide +kernel
theorem test_wit_msg_post :
    (∀ t ∈ [(0, 0), (1, 0), (0, 0x20)], let s := messaging (postBlock (BitVec.ofNat 8 t.1) (BitVec.ofNat 8 t.2)) [letter 1] [] base
      blockOk s = true ∧ postBad (s.padRead 0 64) = false ∧ fieldOf (s.padRead 0 64) 17 1 % 2 = t.1 ∧ fieldOf (s.padRead 0 64) 24 8 = 64 + 256 * t.2 ∧
      (s.part.unexp.find? fun m => (s.recvOf (s.padRead 0 64) none).fits m) = some (letter 1)) ∧
    ((messaging (postBlock 0 0) [letter 2] [] base).part.unexp.all fun m => !((base.recvOf ((messaging (postBlock 0 0) [] [] base).padRead 0 64) none).fits m)) = true ∧
    postBad ((messaging [] [] [] base).padRead 0 64) = true ∧ (List.replicate 4096 (awaiting 1)).length = 4096 := by decide +kernel
theorem test_wit_msg_probe :
    (let q := (messaging (postBlock 0 0) [] [] base).padRead 0 64
     fieldOf q 0 4 < 2 ^ 23 ∧ fieldOf q 4 4 < 2 ^ 23 ∧ recvMatch 1 0 0 0 0 (letter 1) = true ∧ recvMatch 1 0 0 0 0 (letter 2) = false) ∧
    (messaging [] [] [awaiting 3] base).part.posted.find? (fun r => r.id % 2 ^ 32 = 3 && decide (va56 r.strand = va56 base.x.brec)) = some (awaiting 3) ∧
    (∃ x ∈ (messaging [] [] [] base).part.matched, x.1 % 2 ^ 32 = 7 ∧ va56 x.2 = va56 base.x.brec) ∧
    (∀ x ∈ (messaging [] [] [] base).part.matched, ¬ (x.1 % 2 ^ 32 = 8 ∧ va56 x.2 = va56 base.x.brec)) ∧
    base.x.priv = false ∧ trusted.x.priv = true ∧ ((messaging [] [] [] trusted).x.sreg 2).toNat % 64 = 0 ∧
    ((messaging [] [] [] trusted).x.sreg 3).toNat % 64 ≠ 0 := by decide +kernel
def answeredSend : Cmd :=
  { command (.msgSend ⟨0, 0, 0, 0⟩) with st := [1, 0], req := (List.range 64).map fun i => Map.get 0 (sendBlock 0 1) i }
/-- A message that has arrived from device 2, with a rendezvous send of the core to it, and another partition with endpoint 7. -/
def arrived (m : Msg) (r : List Recv) : State :=
  let s := messaging [] [] r base
  { s with
    core := { s.core with cmds := [answeredSend], nextId := 1 }
    part := { s.part with landings := [⟨1, awaiting 1, { letter 1 with z := true, payload := [] }, false⟩] }
    pkg := { s.pkg with inbox := [m], ltl := [(0, ⟨3, 2, 0, 0, 0, 0, 0⟩)], others := [⟨{ emptySetup with num := 1, endpoints := [(7, .core 0)] }, [], [], false, []⟩] } }
def incoming (s : State) (x : Msg) : Bool := decide (x.kind ≤ 1) && s.canTake x
theorem test_wit_arrival :
    (∀ t ∈ [(letter 1, [awaiting 1]), (letter 1, []), (letter 9, []), (letter 7, []), ({ letter 1 with z := true, x := [1] }, [])],
      let s := arrived t.1 t.2
      s.takeMsg (fun x => decide (x.kind ≤ 1) && s.canTake x) = some (t.1, opened s fun x => decide (x.kind ≤ 1) && s.canTake x)) ∧
    isPayload { letter 1 with z := true, x := [1] } = true ∧ isPayload (letter 1) = false ∧ (arrived (letter 1) []).endpoint 1 = true ∧
    (arrived (letter 1) []).endpoint 9 = false ∧ (awaiting 1).fits (letter 1) = true ∧ (arrived (letter 9) []).pkg.otherAt 9 = none ∧
    (arrived (letter 7) []).endpoint 7 = false ∧ ((arrived (letter 7) []).pkg.otherAt 7).isSome = true := by decide +kernel
/-- The partition stopped or swapped out, and another one with endpoint 7 stopped or not, by a cause that stops every one. -/
def holdingMail (stopped swapped other : Bool) : State :=
  let s := arrived (letter 1) []
  { s with
    part := { s.part with stopped := stopped, swapped := swapped }
    pkg := { s.pkg with fatal := some ⟨1, 2, 0xBE, 0, 0, 0⟩, others := s.pkg.others.map fun o => { o with stopped := other } } }
theorem test_wit_held_mail :
    (∀ x ∈ [(true, false), (false, true)], let s := holdingMail x.1 x.2 false
      s.endpoint (letter 1).dep = true ∧ (s.part.stopped = true ∨ s.part.swapped = true)) ∧
    (∀ o ∈ [true, false], let s := holdingMail false false o
      isPayload (letter 7) = false ∧ s.endpoint (letter 7).dep = false ∧ s.part.stopped = false ∧ (s.pkg.otherAt 7).map (·.stopped) = some o ∧
        s.pkg.otherAt 9 = none) ∧
    (let s := holdingMail true false true
     s.part.stopped = true ∧ (∀ o ∈ s.pkg.others, o.stopped = true) ∧ s.pkg.fatal = some ⟨1, 2, 0xBE, 0, 0, 0⟩) := by decide +kernel
theorem test_wit_cts :
    (∀ tag < 2, let m := mail 6 [3, 1, 1, 0, 0, tag, 4, 15] []
     let s := arrived m []
     let t := opened s fun x => x.kind = 6
     s.takeMsg (fun x => x.kind = 6) = some (m, t) ∧ t.core.cmds.find? (fun c => c.answered m) = if tag = 0 then some answeredSend else none) := by
  decide +kernel
def sending (dst : Byte) (n : List Byte) : Cmd :=
  { command (.msgSend ⟨0, 0, 0, 0⟩) with st := [0, 0], args := [64, 0], req := [dst, 0, 1, 0, 0, 15, 1, 0, 9, 0, 0, 0] ++ n }
theorem test_wit_leaving :
    (∀ c ∈ [sending 0 [4, 0, 0], sending 0 [1, 0, 1], sending 2 [4, 0, 0]], let s := commanded c
      s.core.cmd 0 = some c ∧ s.sendReady c = true ∧ c.st = [0, 0] ∧ c.args.getD 1 0 = 0 ∧ c.old = []) ∧
    fieldOf (sending 0 [4, 0, 0]).req 12 4 ≤ 65536 ∧ 65536 < fieldOf (sending 0 [1, 0, 1]).req 12 4 ∧ fieldOf (sending 0 [4, 0, 0]).req 5 1 / 16 % 2 = 0 ∧
    base.reaches 0 = true ∧ base.reaches 2 = false := by decide +kernel
def landingNow : Landing := ⟨1, awaiting 1, letter 1, true⟩
theorem test_wit_landing :
    let s : State := { base with part := { base.part with landings := [landingNow] } }
    s.part.landings.find? (fun l => l.id = 1) = some landingNow ∧ s.landable landingNow = true ∧ landingNow.handler = none ∧
    (let r := awaiting 1
     let at_ (e : Nat) : Nat := r.base + (r.dest + BitVec.ofNat 64 (e % r.cnt0) + BitVec.ofNat 64 (e / r.cnt0) * r.str1).toNat
     0 < r.cnt0 ∧ (∀ e < 4, ∀ g < 4, at_ e = at_ g → e = g) ∧ at_ 3 = 81) ∧
    (4294967295 : Nat) < 2 ^ 32 ∧ ({ letter 1 with sdev := 32767, sep := 255 } : Msg).sdev < 2 ^ 15 := by decide +kernel

/-- Queue 0 with a ring of four entries at 0x8000 and some length, its head record holding `b`. -/
def queueing (len : Nat) (b : List Host.Cell) : State :=
  let s : State := { base with pkg := { base.pkg with key := [(0x100, 5)], mem := b } }
  { s with
    die := { s.die with qslots := [(3, 0)] }
    part := { s.part with
      setup := { s.part.setup with queues := [⟨0, 0x8000, 2, false⟩], strandArea := 0x9000 }
      queues := if len = 0 then [] else [(0, ⟨0, len, 0, 0⟩)] } }
theorem test_wit_queues :
    (queueing 0 []).part.desc 0 = some ⟨0, 0x8000, 2, false⟩ ∧ ((queueing 1 []).part.queue 0).len + 3 ≤ 2 ^ 2 ∧
    ((queueing 1 []).part.loaded = true ∧ ({ emptyPart with present := true } : Part).loaded = false) ∧
    (let s : State := { queueing 1 [] with part := { (queueing 1 []).part with setup := { (queueing 1 []).part.setup with queues := [⟨0, 0x40000000, 2, false⟩] } } }
     s.part.desc 0 = some ⟨0, 0x40000000, 2, false⟩ ∧ s.devTry 0x40000000 false = .error 0x42) ∧
    2 ^ 2 < ((queueing 1 []).part.queue 0).len + 4 ∧ (queueing 1 []).queueOrder = [0] ∧ (queueing 0 []).queueOrder = [] ∧
    ((queueing 0 []).part.setup.queues.map (·.q)).Nodup ∧
    (queueing 0 []).die.dnext.toNat ≤ ({ queueing 0 [] with gtc := 60000 } : State).gtc.toNat ∧
    (∃ s ∈ [({ queueing 0 [] with die := { (queueing 0 []).die with dnext := 50000 } } : State)], s.gtc.toNat < s.die.dnext.toNat) := by decide +kernel
theorem test_wit_dispatch :
    (let s := queueing 1 [(0x8009, 0x40)]
     s.die.qslots.find? (fun x => x.1 = 3) = some (3, 0) ∧ (s.part.queue 0).len ≠ 0 ∧ s.recBytes 0x8000 ≠ [] ∧
       s.recordOk (recordOf (s.recBytes 0x8000)) = false) ∧
    (let s := queueing 1 [(0x8001, 0x40)]
     let full := { s with rest := (List.range 7).map fun i => (i + 1, other .running), die := { s.die with otherFree := 0 } }
     let r := recordOf (s.recBytes 0x8000)
     s.recBytes 0x8000 ≠ [] ∧ s.recordOk r = true ∧ full.freeCount < r.psize + 1 + full.core.rres ∧
       recordOf (full.recBytes 0x8000) = r ∧ full.recordOk r = true ∧ full.recBytes 0x8000 ≠ [] ∧ r.psize + 1 + s.core.rres ≤ s.freeCount ∧
       ((s.newParty r.job (r.psize + 1)).1.placeMembers (s.recBytes 0x8000) r false (s.newParty r.job (r.psize + 1)).2 0 (r.psize + 1)).isSome = true) := by
  decide +kernel
/-- Entry 0 of the stream-context table with flags, its restore and eviction slots and copies, and the time. -/
def sct (flags : Byte) (free : List Nat) (wait : List (Nat × Nat)) (job : List (Nat × Nat × Nat)) (t : Dword) : State :=
  let s := queueing 0 [(0x7004, flags), (0x7010, 1), (0x7028, 64), (0x7031, 0xA0), (0x7039, 0x10)]
  { s with
    gtc := t
    pkg := { s.pkg with key := [(0xE0, 5), (0x100, 5)] }
    part := { s.part with
      setup := { s.part.setup with sct := 0x7000, sctCount := 1, sctSize := 64 }
      sctFree := free, sctWait := wait, sctBusy := job } }
theorem test_wit_sct_ops :
    (∀ fl ∈ [0, 1, 5], let s := sct (BitVec.ofNat 8 fl) [] [] [] 0
      s.core.watch = [] ∧ ((s.sctGet 0).flag 0 = false ↔ fl = 0) ∧ ((s.sctGet 0).flag 2 = true ↔ fl = 5) ∧ (s.sctGet 0).flag 4 = false ∧
      (s.x.sreg 0).toNat = 0 ∧ (s.x.sreg 0).toNat < s.part.setup.sctCount ∧ s.part.setup.sctCount ≤ (s.x.sreg 2).toNat) ∧
    (let s : State := { sct 1 [] [] [] 0 with pkg := { (sct 1 [] [] [] 0).pkg with corrupt := [0xE0] } }
     0 < s.part.setup.sctCount ∧ s.integrityFail s.part.setup.sct = true ∧ (sct 1 [] [] [] 0).integrityFail 0x7000 = false) ∧
    base.x.priv = false ∧ trusted.x.priv = true := by decide +kernel
theorem test_wit_sct_launch :
    (let s := sct 3 [] [] [] 0
     let e := s.sctGet 0
     s.sctFirst = some 0 ∧ e.flag 2 = false ∧ e.next + e.period < 2 ^ 64 ∧ s.part.desc e.queue = some ⟨0, 0x8000, 2, false⟩ ∧
       (s.part.queue e.queue).len < 2 ^ 2 ∧ s.recBytes e.tmpl ≠ [] ∧ s.devPlace 0x8000 64 = some 0x8000 ∧ s.part.setup.sct + 64 * 0 + 64 ≤ 0x8000) ∧
    (∀ l ∈ [[], [0x9000]], let s := sct 7 l [] [] 0
      s.sctFirst = some 0 ∧ (s.sctGet 0).flag 2 = true ∧ s.part.sctWait = [] ∧ s.part.sctFree = l) := by decide +kernel
theorem test_wit_sct_copies :
    (∀ l ∈ [[], [0x9000]], let s := sct 7 l [(0, 1000)] [] 1000
      s.part.sctWait.find? (fun x => decide (x.2 ≤ s.gtc.toNat)) = some (0, 1000) ∧ s.part.sctFree = l) ∧
    (sct 3 [] [] [] 1).sctQuietFirst = some 0 ∧
    (∀ fl ∈ [0x13, 0x15], let s := sct (BitVec.ofNat 8 fl) [] [] [(0, 0x9000, 0)] 20000
      let e := s.sctGet 0
      min e.size s.part.setup.sctSize = e.size ∧ s.part.sctBusy.find? (fun x => x.1 = 0) = some (0, 0x9000, 0) ∧ s.gtc.toNat ≤ 0 + 20000 ∧ (e.flag 2 = true ↔ fl = 0x15) ∧
      (e.flag 1 = false ↔ fl = 0x15) ∧ s.part.setup.sct + 64 ≤ e.back ∧ s.part.setup.sct + 64 ≤ 0x9000 ∧ s.keyId ≠ 0 ∧
      s.integrityFail s.part.setup.sct = false ∧ s.physFault 0x9000 e.size = none ∧ s.physWriteFault e.back e.size = none ∧
      s.physFault e.back e.size = none ∧ s.physWriteFault 0x9000 e.size = none) ∧
    (sct 1 [] [] [] 0).sctFirst = none ∧ (sct 1 [] [] [] 0).sctQuietFirst = none := by decide +kernel

/-! ### Witnesses: time, links, the host, firmware -/

def hosted (o : Nat) (v : Dword) (src : BitVec 5) : State := { base with pkg := { base.pkg with hostw := [(o, v)], gctl := src } }
theorem test_wit_time :
    (∀ src < 8, ∀ o ∈ [0x300018, 0x300010, 0x300008], let s := hosted o 5 (BitVec.ofNat 5 src)
      s.pkg.clock = 0 ∧ s.pkg.gsub < nsUnits ∧ s.gtc.toNat < 2 ^ 62 ∧ -(2 ^ 20) ≤ s.pkg.grate.toInt ∧ s.pkg.grate.toInt ≤ 2 ^ 20 ∧
      s.pkg.recovery = false ∧ 3 ≤ s.pkg.stage ∧ s.pkg.hostw = (o, 5) :: [] ∧ s.pkg.gctl.toNat % 8 = src) ∧
    (¬ 3 ≤ State.reset.pkg.stage ∧ State.reset.pkg.recovery = false ∧ 1 ≤ State.reset.pkg.stage ∧ State.reset.pkg.stage < 4) ∧
    (let links (k : Nat) (t : BitVec 8) : Bool := decide (5 ≤ k) || (decide (4 ≤ k) && (List.range 6).all fun j => t.getLsbD j)
     links (hosted 0 5 1).pkg.stage 0 = true ∧ links 4 0x3F = true ∧ links 4 0x1F = false ∧ links 3 0x3F = false) ∧
    ({ resetPkg with gslew := 1 } : Pkg).gslew ≤ 4000 * (2 ^ 32 + resetPkg.grate.toInt).toNat / 1000 ∧
    (0xFFFFFFFFFFFFFFFF : Dword).toInt < 0 ∧ 0 ≤ (0x3FFFFFFFFFFFFFFF : Dword).toInt ∧ (0x3FFFFFFFFFFFFFFF : Dword).toNat < 2 ^ 62 := by decide +kernel
def ported (st : Nat) (src : BitVec 5) : State :=
  { base with
    part := { base.part with setup := { base.part.setup with cxl := [(0x010000000000, 0x1000, [7])] } }
    pkg := { base.pkg with gctl := src, ltl := if st = 0 then [] else [(0, ⟨st, 0, 0, 0, 0, 0, 0⟩)] } }
theorem test_wit_links :
    (let s (t : BitVec 8) (st : Nat) : State := { ported st 1 with pkg := { (ported st 1).pkg with stage := 4, tried := t } }
     ((s 0x3F 0).pkg.stage = 4 ∧ ∀ j < 6, (s 0x3F 0).pkg.tried.getLsbD j = true ∧ ((s 0x3F 0).pkg.port j).state ≠ 1 ∧ ((s 0x3F 0).pkg.port j).state ≠ 2) ∧
       ((s 0x02 0).pkg.tried.getLsbD 0 = false ∧ (s 0x02 3).pkg.tried.getLsbD 2 = false ∧
         ∀ j < 2, ((s 0x02 3).pkg.port j).state = 0 → (s 0x02 3).pkg.tried.getLsbD j = true) ∧
       (s 0x3F 0).pkg.recovery = false) ∧ State.reset.pkg.stage < 4 ∧ (ported 2 0).lendKey 0 = 0 ∧ (ported 2 0).freshKey = 4095 ∧
    (∀ st < 5, ((ported st 1).pkg.port 0).state = st ∧ (ported st 1).pkg.gctl.toNat % 8 = 1 ∧ (ported st 2).pkg.gctl.toNat % 8 ≠ 1) ∧
    (∀ j < 0, ((ported 0 0).pkg.port j).state ≠ 0) ∧ (ported 0 0).pkg.recovery = false ∧
    ({ resetPkg with recovery := true } : Pkg).recovery = true ∧
    (let s : State := { base with pkg := { base.pkg with ltl := (List.range 6).map fun k => (k, ⟨1, 0, 0, 0, 0, 0, 0⟩) } }
     ∀ j < 6, (s.pkg.port j).state ≠ 0) ∧
    (∀ r ∈ (ported 0 0).part.setup.cxl, 7 ∈ r.2.2 ∧ r.1 ≤ 0x010000000FFF ∧ 0x010000000FFF < r.1 + r.2.1) := by decide +kernel
/-- The same with one thing asked of firmware. -/
def asked (s : State) (a : FwAct) : State := { s with pkg := { s.pkg with fw := [a] } }
theorem test_wit_host_writes :
    (∀ o ∈ [0x100000, 0x100000 + 0x10000 * 3 + 8 * 4095, 0x200000, 0x200000 + 0x1000 * 3 + 8 * 511, 0, 8, 0x300000, 0x300020, 0x400000, 0x4005F8,
      0x500000, 0x503FF8, 0x504000], (hosted o 5 0).pkg.hostw = (o, 5) :: [] ∧ (hosted o 5 0).pkg.recovery = false) ∧
    (∀ a ∈ [FwAct.dieSlice 10000, .dieSlice 1000000, .eventLog 0 10, .eventLog 0 24, .dumpRegion 0],
      let s := asked (hosted 0x200FF8 5 0) a
      s.pkg.hostw = (0x200000 + 0x1000 * 0 + 8 * 511, 5) :: [] ∧ s.pkg.recovery = false ∧ s.pkg.fw = a :: []) ∧
    (hosted 0x200FF8 5 0).pkg.fw = [] ∧ 3 ≤ (hosted 0x200FF8 5 0).pkg.stage ∧
    (let rung (n : Nat) (l : List FwAct) : State := { base with pkg := { base.pkg with rings := n, fw := l } }
     base.pkg.hostw = [] ∧ base.pkg.rings = 0 ∧ (rung 2 []).pkg.rings = 1 + 1 ∧ (rung 2 [.dumpRegion 7]).pkg.fw = .dumpRegion 7 :: []) ∧
    (0 : Nat) + 32 * 2 ^ 24 ≤ 0xC000000000 ∧ (0 : Nat) + 2 ^ 31 ≤ 0xC000000000 ∧ ¬ (0xBF80000001 : Nat) + 2 ^ 31 ≤ 0xC000000000 ∧
    base.part.present = true ∧ base.part.setup.num = 0 ∧ State.reset.part.present = false := by decide +kernel
/-- The store with the list of core 0 at 0x5020, empty, and frame 2 the last of the shared list. -/
def scarce : State :=
  let ones (a : Nat) : List Host.Cell := (List.range 4).map fun i => (a + i, (255 : Byte))
  { kvs with pkg := { kvs.pkg with
      mem := (kvMem.filter fun x => decide (x.1 < 0x2038)) ++ [(0x2038, 0x20), (0x2039, 0x50)] ++
        (kvMem.filter fun x => decide (0x2039 < x.1) && decide (x.1 < 0x4050)) ++ ones 0x4050 ++ [(0x5000, 2)] ++ ones 0x5020 } }
theorem test_wit_refill : ∃ x u, (kvTopUp 0 0).Ok none scarce x u := ok_ex _ _ (by decide +kernel)
/-- Firmware's partition 0 on die 0, and another one, number 1, on die 1 with a queue 5 of 16 entries. -/
def firmware : PartSetup :=
  { emptySetup with
    dies := 1, key := 1, ways := [(0, 8)], unexpPool := 2 ^ 20, tileTable := 0xC000000000, tileCount := 4, tileArea := 0xC000001000,
    tileAreaSize := 0x1000, tileOvf := 0xBFFFFF0000, tileOvfSize := 0x10000, sct := 0xC000010000, sctCount := 2, sctSize := 4096,
    sctSlots := [0xC03FFFF000], endpoints := [(0, .core 383), (254, .queue 4095)], queues := [⟨4095, 0x8040, 16, false⟩] }
def neighbour (n : Nat) : Other :=
  ⟨{ emptySetup with num := 1, dies := 2, key := 2, queues := [⟨5, 0, 4, false⟩] }, if n = 0 then [] else [(5, ⟨0, n, 0, 0⟩)], [], false, []⟩
def neighboured (o n : Nat) : State := { hosted o 5 0 with pkg := { (hosted o 5 0).pkg with others := [neighbour n] } }
theorem test_wit_other_wakes :
    (∀ n ∈ [0, 11, 12], let s := neighboured (0x110000 + 8 * 5) n
      ¬ (1 : Nat) = s.part.setup.num ∧ s.pkg.others.find? (fun x => x.setup.num = 1) = some (neighbour n) ∧
      (neighbour n).setup.queues.find? (fun d => d.q = 5) = some ⟨5, 0, 4, false⟩ ∧
      (Map.get QueueSt.empty (neighbour n).queues 5).len = n) ∧
    (∀ x ∈ base.pkg.others, x.setup.num ≠ 1) ∧ (11 : Nat) + 5 ≤ 2 ^ 4 ∧ 2 ^ 4 < (12 : Nat) + 5 ∧ 0 < (5 : Dword).toNat := by decide +kernel
theorem test_wit_partitions :
    (let s : State := { State.reset with pkg := { resetPkg with stage := 4, tried := 0x3F } }
     let p := firmware
     s.pkg.recovery = false ∧ (4 ≤ s.pkg.stage ∧ ∀ j < 6, s.pkg.tried.getLsbD j = true ∧ (s.pkg.port j).state ≠ 1 ∧ (s.pkg.port j).state ≠ 2) ∧
       s.pkg.gctl.toNat % 8 = 0 ∧ p.num < 4 ∧ p.postOverflow ≤ 2 ^ 20 ∧ 2 ^ 20 ≤ p.unexpPool ∧ p.unexpPool ≤ 2 ^ 32 ∧ p.unexpPool % 2 ^ 20 = 0 ∧
       p.cxl = [] ∧ s.pkg.lkeys = [] ∧ s.pkg.key = [] ∧
       p.dies.toNat ∈ [1, 2, 4, 8, 3, 12, 15] ∧ 1 ≤ p.key.toNat ∧ (∀ w ∈ p.ways, w.2 ≤ 8) ∧ p.tileCount ≤ 2 ^ 20 ∧ p.sctCount ≤ 65536 ∧
       (∀ q ∈ p.queues, q.q < 4096 ∧ q.base % 64 = 0 ∧ 4 ≤ q.log2 ∧ q.log2 ≤ 16) ∧
       s.part.present = false ∧ s.pkg.others = [] ∧ p.dies.getLsbD s.core.die = true ∧ p.tables = []) ∧
    ((neighbour 0).setup.dies.getLsbD State.reset.core.die = false ∧ (neighbour 0).setup.dies.toNat ∈ [1, 2, 4, 8, 3, 12, 15] ∧
      ∀ q ∈ (neighbour 0).setup.queues, q.q < 4096 ∧ 4 ≤ q.log2 ∧ q.log2 ≤ 16) ∧
    ¬ (1 ≤ emptySetup.key.toNat) ∧ base.pkg.fw = [] ∧
    ∀ num ∈ [0, 1, 3], let s := asked (neighboured 0 0) (.destroy num)
      s.pkg.fw = .destroy num :: [] ∧ s.part.present = true ∧ (s.part.setup.num = num ↔ num = 0) ∧
      s.pkg.others.find? (fun o => o.setup.num = num) = if num = 1 then some (neighbour 0) else none := by decide +kernel
theorem test_wit_part_tables :
    let p := firmware
    let carve (a n : Nat) : Prop := n = 0 ∨ (0xC000000000 + 0 * 2 ^ 30 ≤ a ∧ a + n ≤ 0xC000000000 + 0 * 2 ^ 30 + 8 * 2 ^ 27)
    p.ways.find? (fun x => x.1 = 0) = some (0, 8) ∧ p.dies.getLsbD 0 = true ∧ (∀ d < 4, d ≠ 0 → p.dies.getLsbD d = false) ∧
    carve p.tileTable (32 * p.tileCount) ∧ carve p.tileArea p.tileAreaSize ∧ p.tileOvf + p.tileOvfSize ≤ 0xC000000000 ∧
    carve p.sct (64 * p.sctCount) ∧ (∀ a ∈ p.sctSlots, carve a p.sctSize) ∧ (p.endpoints.map (·.1)).Nodup ∧ (∀ x ∈ p.endpoints, x.1 < 255) ∧
    (p.endpoints.map fun x => match x.2 with | .core n => decide (n < 384) | .queue q => p.queues.any fun d => d.q = q) = [true, true] ∧
    setupLimits p = true ∧ setupLimits { p with queues := [⟨4095, 0x8041, 16, false⟩] } = false ∧ setupLimits { p with tileTable := 0 } = false := by
  decide +kernel
/-- A window with one bundle that ends its strand, and one with a branch to itself. -/
def halting : Image := ⟨4, [0], some (0, encode (.halt ⟨0, 0, 0, 0, 0⟩)), none⟩
def astray : Image := ⟨4, [0], some (0, encode (.br ⟨0, false, 0⟩) ++ encode (.nop ⟨0, 0, 0, 0, 0⟩)), none⟩
theorem test_wit_images :
    (let s : State := { base with x := emptyCtx, core := { base.core with maxrun := 4 } }
     (∀ n < 8, (s.ctx n).status = .empty) ∧ s.part.parked = [] ∧ s.die.ready = [] ∧ s.part.present = true ∧ halting.maxrun ≤ s.core.maxrun ∧
       (s.core.withImage halting).rejects halting.entries = false ∧ (s.core.withImage astray).rejects astray.entries = true) ∧
    base.core.maxrun < (⟨8193, [], none, none⟩ : Image).maxrun := by decide +kernel
theorem test_wit_fatal :
    base.part.builds = [] ∧ 0xB8 ≤ (0xB8 : Byte).toNat ∧ (0xBF : Byte).toNat ≤ 0xBF ∧ (0xB7 : Byte).toNat < 0xB8 ∧ 0xBF < (0xC0 : Byte).toNat ∧
    (base.sourceOk 0x3800 = true ∧ (0x3800 : Nat) / 2 ^ 7 % 2 ^ 7 = 112 ∧ base.sourceOk 0x7800 = true ∧ base.sourceOk 0x3B80 = true ∧
      0x3B80 / 2 ^ 7 % 2 ^ 7 = 119 ∧ base.sourceOk 0x3F80 = false ∧ base.sourceOk 0x70 = true ∧ 0x70 / 2 ^ 7 % 2 ^ 7 = base.core.num ∧
      0x70 / 2 ^ 14 = base.core.die ∧ 0x70 % 16 = 0 ∧ base.core.num < 96 ∧ base.sourceOk 0x78 = true ∧ 0x78 % 16 ≠ 0) ∧
    (let s : State := { base with part := { base.part with setup := { base.part.setup with dies := 2 } } }
     s.sourceOk (1 * 2 ^ 14 + 114 * 2 ^ 7) = true ∧ s.sourceOk (0 * 2 ^ 14 + 114 * 2 ^ 7) = false) ∧
    (let q : LogRec := ⟨5, 0x3800, 0xB8, 0, 0, 0⟩
     let p : Pkg := { resetPkg with dumping := true, fatal := some q }
     p.dumping = true ∧ p.fatal = some q ∧ (q.gtc < 6 ∨ (q.gtc = 5 ∧ q.src ≤ 0x3800))) ∧
    (let s : State := { base with part := { base.part with setup := { base.part.setup with dies := 1 } } }
     s.part.present = true ∧ s.part.setup.dies.getLsbD 0 = true ∧ s.part.setup.dies.getLsbD (0x7800 / 2 ^ 14) = false) ∧
    (let s : State := { base with part := { base.part with stopped := true } }
     s.part.stopped = true ∧ s.nextEvent = none ∧ s.agenda = []) ∧
    (let p := { resetPkg with dumping := true, fatal := some ⟨1, 2, 0xBF, 0, 0, 0⟩ }; p.dumping = true ∧ p.fatal = some ⟨1, 2, 0xBF, 0, 0, 0⟩) ∧
    resetPkg.dumping = false := by decide +kernel
theorem test_wit_swap :
    (let s := { base with run := false }
     s.part.present = true ∧ s.part.swapped = false ∧ s.part.swapping = false ∧ s.run = false ∧ s.core.cmds = [] ∧ s.matrixDue = none ∧ s.tileDue = none ∧
       ∀ n < 8, (s.ctx n).out = []) ∧
    (let s : State := { base with run := false, part := { base.part with swapping := true } }
     s.part.swapping = true ∧ s.run = false ∧ s.core.cmds = [] ∧ s.matrixDue = none ∧ s.tileDue = none ∧ ∀ n < 8, (s.ctx n).out = []) ∧
    (let s := { beside 1 (other (.sleeping 9 4)) with part := { base.part with swapped := true } }
     s.part.swapped = true ∧ s.part.stopped = false ∧ s.pkg.filling = [] ∧ (s.ctx 1).status = .sleeping 9 4) := by decide +kernel

/-! ### Witnesses: encodings, bundles, the step, the invariants -/

theorem test_wit_encodings :
    (Instr.add ⟨31, 1, 2, 7, 127⟩).kind? = some .S ∧ variantOk (.add ⟨31, 1, 2, 7, 127⟩) = true ∧ (Instr.vadd (vr 63 1 2 3 3)).kind? = some .A ∧
    (decodeOp .S 0x28322C08).isSome = true := by decide
/-- Headers of each case of 03 R53 and R54, and a bundle of two packets. -/
theorem test_wit_bundles :
    2 ^ 21 ≤ (0x00200000 : Word).toNat ∧ (0x00020100 : Word).toNat % 256 = 0 ∧ 8 ≤ (0x00020008 : Word).toNat % 256 ∧ (0x00020101 : Word).toNat < 2 ^ 21 ∧
    decodeBundle [0x00020100] = .bad 0x06 0x00020100 ∧ decodeBundle [0x00020008] = .bad 0x01 0x00020008 ∧
    decodeBundle [0x00020101, 0] = .bad 0x02 0x00020101 ∧ decodeBundle [0x00020001] = .bad 0x03 0x00020001 ∧
    decodeBundle [0x00020001 ||| 0x00020000, 0] = .bundle (1 + 1) [⟨0, .S, 0, 0, []⟩] ∧ decodeBundle [0x00020002, 7] = .bundle 2 [⟨0, .G, 0, 7, []⟩] ∧
    decodeBundle [0x00000001, 0, 0x00020002, 7] = .bundle 4 [⟨0, .S, 0, 0, []⟩, ⟨1, .G, 0, 7, []⟩] ∧
    decodeBundle [0x00000001, 0, 0x00020001, 7] = .bad 0x05 0x00020001 := by decide +kernel
theorem test_wit_causes :
    decodeOp .S 0xFE000000 = none ∧ decodeOp .S 0x26000000 = some (.sext ⟨0, 0, 0, 0, 0⟩) ∧ operandFault 0 2 (.sext ⟨0, 0, 0, 0, 0⟩) = some 0 ∧
    operandFault 0 2 (.sext ⟨1, 2, 0, 0, 64⟩) = none ∧
    (let t := base.withCause 3 0x10 0
     reported t.cur.causes = some ⟨0, 3, 0x10, 0, 0⟩ ∧ t.cur.waits = [] ∧ base.roomFor t.cur = true ∧ base.x.h = false) := by decide +kernel
/-- Two moves into v3 and a call beside a load into s31 share a destination; s0 is none. -/
theorem test_wit_duplicates :
    let w := (encodeOp (.vmov (vr 3 1 0 0 0))).getD 0
    let v := (encodeOp (.vmov (vr 3 2 0 0 0))).getD 0
    decodeOp .A w = some (.vmov (vr 3 1 0 0 0)) ∧ decodeOp .B v = some (.vmov (vr 3 2 0 0 0)) ∧
    (99 ∈ slotDests ⟨0, .A, 1, w, []⟩ ∧ 99 ∈ slotDests ⟨1, .B, 1, v, []⟩) ∧
    (dupCauses [⟨0, .S, 0, (encodeOp (.call ⟨0, false, 4⟩)).getD 0, []⟩, ⟨1, .G, 0, (encodeOp (.ldg ⟨31, 1, 0, 0, 0x300⟩)).getD 0, []⟩]).map (·.slot) = [0, 1] ∧
    dupCauses [⟨0, .S, 0, (encodeOp (.add ⟨0, 1, 2, 0, 0⟩)).getD 0, []⟩, ⟨1, .G, 0, (encodeOp (.ldg ⟨0, 1, 0, 0, 0x300⟩)).getD 0, []⟩] = [] := by
  decide +kernel
/-- A context that issues the bundle of one instruction. -/
def issuing (i : Instr) : State :=
  let w := encode i
  { base with
    x := { busy with pc := 0x4000 }
    core := { base.core with iwA := some 0, istore := [(0x1000, w.getD 0 0), (0x1001, w.getD 1 0)], notFull := [(0, true)] } }
def framed (s : State) (k : Kind) (w : Word) : State :=
  { s with x := (s.x.fetchedAt s.x.pc false).landLink (s.x.pc + 8#56)
           cur := { emptyFrame with addr := s.x.pc, seq := s.core.seqAddr 1025 (s.x.pc + 8#56), words := 2, kind := k, word := w } }
def readyFor (i : Instr) (k : Kind) : Bool :=
  let s := issuing i
  s.agenda = [] && s.nextEvent = none && s.run && !s.part.stopped && !s.part.swapped && !s.part.swapping && !s.x.sk && s.x.ef = none && !s.freezeDue && !s.wdogOver &&
    s.core.codeIdx s.x.pc = some 0x1000 && decide (s.x.pc.toNat / 4 % 16 ≤ 14) && s.core.codeOld = [] && s.core.codeWord 0x1000 = headerFor k &&
    decodeOp k (s.core.codeWord 0x1001) = some i && operandFault 0 2 i = none && (scalarNames i).all fun r => !s.x.held r
/-- What the instruction leaves in the frame: its causes, its waits, and whether the lines and pushes fit. -/
def asks (i : Instr) (k : Kind) : Option (List Nat × List Nat × Bool) :=
  match exec i (framed (issuing i) k (((encode i).getD 1 0))) with
  | .next t => some (t.cur.causes.map (·.code), t.cur.waits, decide (bankWait t.cur.lines ≤ t.x.bankw) && (issuing i).roomFor t.cur)
  | _ => none
theorem test_wit_step :
    readyFor (.add ⟨3, 1, 2, 0, 0⟩) .S = true ∧ asks (.add ⟨3, 1, 2, 0, 0⟩) .S = some ([], [], true) ∧
    readyFor (.msgHnd ⟨1, 2, 0, 0⟩) .E = true ∧ asks (.msgHnd ⟨1, 2, 0, 0⟩) .E = some ([0xA0], [], true) ∧
    readyFor (.msgProbe ⟨0, 0, 3, 0⟩) .E = true ∧ asks (.msgProbe ⟨0, 0, 3, 0⟩) .E = some ([], [1], true) := by decide +kernel
theorem test_wit_invariants :
    State.reset.Canonical ∧ State.reset.IdsFresh ∧ step State.reset = .next (State.cycle exec State.reset |> fun | .next t => t | _ => State.reset) := by
  refine ⟨⟨by decide +kernel, by decide +kernel, by decide +kernel, by decide +kernel⟩, ?_, ?_⟩
  · intro k h; cases h
  · rfl

/-! ## Single steps: values worked out from the entries by hand, or from the examples of the manual -/

/-- The latency and the value of a scalar result. -/
def sv (i : Instr) (l : List (Nat × Dword)) : Option (Nat × Dword) :=
  (lands i { base with x := { busy with s := l } }).map fun e => (e.1, dwordOfLanes e.2)
theorem test_add_wraps : sv (.add ⟨3, 1, 2, 0, 0⟩) [(1, 0xFFFFFFFFFFFFFFFF), (2, 2)] = some (1, 1) := by decide +kernel
theorem test_sub_order : sv (.sub ⟨3, 1, 2, 0, 0⟩) [(1, 1), (2, 3)] = some (1, 0xFFFFFFFFFFFFFFFE) := by decide +kernel
theorem test_mul_halves : sv (.mul ⟨3, 1, 2, 0, 0⟩) [(1, 0x100000001), (2, 0x100000000)] = some (3, 0x100000000) ∧
    sv (.mulh ⟨3, 1, 2, 0, 0⟩) [(1, 0xFFFFFFFFFFFFFFFF), (2, 5)] = some (3, 0xFFFFFFFFFFFFFFFF) ∧
    sv (.mulhu ⟨3, 1, 2, 0, 0⟩) [(1, 0xFFFFFFFFFFFFFFFF), (2, 5)] = some (3, 4) := by decide +kernel
theorem test_shifts_take_six_bits : sv (.shl ⟨3, 1, 2, 0, 0⟩) [(1, 3), (2, 65)] = some (1, 6) ∧
    sv (.sar ⟨3, 1, 2, 0, 0⟩) [(1, 0x8000000000000000), (2, 63)] = some (1, 0xFFFFFFFFFFFFFFFF) ∧
    sv (.shr ⟨3, 1, 2, 0, 0⟩) [(1, 0x8000000000000000), (2, 63)] = some (1, 1) := by decide +kernel
theorem test_min_max_signs : sv (.min ⟨3, 1, 2, 0, 0⟩) [(1, 0xFFFFFFFFFFFFFFFF), (2, 1)] = some (1, 0xFFFFFFFFFFFFFFFF) ∧
    sv (.minu ⟨3, 1, 2, 0, 0⟩) [(1, 0xFFFFFFFFFFFFFFFF), (2, 1)] = some (1, 1) ∧
    sv (.andn ⟨3, 1, 2, 0, 0⟩) [(1, 0b1100), (2, 0b1010)] = some (1, 0b0100) := by decide +kernel
theorem test_counts : sv (.clz ⟨3, 1, 0, 0, 0⟩) [] = some (1, 64) ∧ sv (.clz ⟨3, 1, 0, 0, 0⟩) [(1, 1)] = some (1, 63) ∧
    sv (.popc ⟨3, 1, 0, 0, 0⟩) [(1, 0xF0F0)] = some (1, 8) := by decide +kernel
theorem test_fields : sv (.sext ⟨3, 1, 0, 0, 8⟩) [(1, 0x180)] = some (1, 0xFFFFFFFFFFFFFF80) ∧
    sv (.bfx ⟨3, 4, 11, 0, 8⟩) [(4, 0xABCDE12)] = some (1, 0xCDE) ∧
    sv (.bfi ⟨3, 1, 3, 0, 4⟩) [(1, 0xA), (3, 0x1234)] = some (1, 0x12A4) := by decide +kernel
theorem test_immediates : sv (.addi ⟨3, 1, 0x7FFF⟩) [(1, 1)] = some (1, 0) ∧ sv (.ori ⟨3, 1, 0x7FFF⟩) [(1, 0)] = some (1, 0x7FFF) ∧
    sv (.andi ⟨3, 1, 0x7FF0⟩) [(1, 0xFFFFFFFFFFFFFFFF)] = some (1, 0xFFFFFFFFFFFFFFF0) ∧ sv (.li ⟨1, 0, 0x7FFF⟩) [] = some (1, 0xFFFFFFFFFFFFFFFF) := by
  decide +kernel
/-- cmp and plog land in a predicate: 32 + n. -/
def pv (i : Instr) (s : State) : Option (Nat × Bool) :=
  match exec i s with
  | .next t => t.x.flight.getLast?.map fun e => (e.dest, (e.val.at 0).getLsbD 0)
  | _ => none
theorem test_compares :
    pv (.cmp ⟨2, 1, 2, 0, 2⟩) { base with x := { busy with s := [(1, 0xFFFFFFFFFFFFFFFF), (2, 1)] } } = some (34, true) ∧
    pv (.cmp ⟨2, 1, 2, 0, 4⟩) { base with x := { busy with s := [(1, 0xFFFFFFFFFFFFFFFF), (2, 1)] } } = some (34, false) ∧
    pv (.cmpi ⟨9, 6, 0⟩) { base with x := { busy with s := [(6, 5)] } } = some (33, true) := by decide +kernel
/-- pandn-like table 0b0100: p1 and not p2. -/
theorem test_plog : pv (.plog ⟨3, 1, 2, 0, 0b0100⟩) { base with x := { busy with p := 0b010 } } = some (35, true) ∧
    pv (.plog ⟨3, 1, 2, 0, 0b0100⟩) { base with x := { busy with p := 0b110 } } = some (35, false) := by decide +kernel
theorem test_sel : sv (.sel ⟨7, 1, 2, 0, 3⟩) [(1, 8), (2, 9)] = some (1, 9) := by decide +kernel
/-- Where control goes from a bundle at 0x40, four words on or back. -/
def goes (i : Instr) (s : State) : Option Nat :=
  match exec i { s with cur := { emptyFrame with addr := 0x40, seq := 0x48 } } with
  | .next t => t.cur.transfer.map (·.toNat)
  | _ => none
theorem test_transfers : goes (.br ⟨0, false, 0x1FFFFC⟩) base = some 0x30 ∧ goes (.br ⟨0, true, 4⟩) base = none ∧
    goes (.jr ⟨0, 1, 0, 0, 0⟩) { base with x := { busy with s := [(1, 0x103)] } } = some 0x100 := by decide +kernel
/-- The bytes at 0x100 and the value on its way to s3 after a step. -/
def memo (i : Instr) (s : State) : Option (List Byte × List (Nat × Option Dword)) :=
  match exec i s with
  | .next t => some (t.pkg.reads 5 0x100 8, t.x.out)
  | _ => none
theorem test_loads_extend : memo (.ldg ⟨3, 1, 0, 0, 0x100⟩) (holding 0x100 [0xFF, 0xFE]) = some ([0xFF, 0xFE, 0, 0, 0, 0, 0, 0], [(3, some 0xFEFF)]) := by
  decide +kernel
theorem test_store_bytes : memo (.stg ⟨2, 1, 0, 0, 0x201⟩) { holding 0x100 [1, 2, 3, 4, 5, 6, 7, 8] with x := { busy with s := [(1, 0xFC), (2, 0xA1B2C3D4E5F6)] } } =
    some ([0xF6, 0xE5, 0xD4, 0xC3, 5, 6, 7, 8], []) := by decide +kernel
theorem test_amo_add : memo (.amo ⟨2, 1, 0, 0, 0⟩) { holding 0x100 [0xFF, 0xFF, 0xFF, 0xFF, 9] with x := { busy with s := [(1, 0x100), (2, 2)] } } =
    some ([1, 0, 0, 0, 9, 0, 0, 0], [(2, some 0xFFFFFFFF)]) := by decide +kernel
theorem test_cas : memo (.cas ⟨2, 1, 0, 0, 0⟩) { holding 0x100 [7] with x := { busy with s := [(1, 0x100), (2, 7), (3, 0x55)] } } =
    some ([0x55, 0, 0, 0, 0, 0, 0, 0], [(2, some 7)]) := by decide +kernel
/-- The latency and lane 0 of a vector result in unit A, from v1 and v2. -/
def vv (i : Instr) (a b : Word) : Option (Nat × Word) :=
  (lands i { base with x := { busy with v := [(1, Lanes.of fun _ => a), (2, Lanes.of fun _ => b)] }, cur := { emptyFrame with kind := .A } }).map
    fun e => (e.1, e.2.at 0)
def vx (t : BitVec 2) : VR := ⟨3, false, 1, 2, false, false, t, 0⟩
theorem test_vadd_wraps : vv (.vadd (vx 1)) 0xFFFF0001 0x00010002 = some (1, 3) ∧ vv (.vsub (vx 2)) 0x01000005 0x02000006 = some (1, 0xFF0000FF) := by
  decide +kernel
theorem test_vsat : vv (.vaddsat (vx 1)) 0x7FFF8000 0x0001FFFF = some (1, 0x7FFF8000) ∧ vv (.vsubsat (vx 2)) 0x80 1 = some (1, 0x80) := by decide +kernel
theorem test_vdot : vv (.vdot4 (vx 2)) 0x01FF0203 0x05060708 = some (3, 37) := by decide +kernel
/-- With 15, each half x becomes (x + 16,384) >> 15. -/
theorem test_vrshr : vv (.vrshr (vx 1)) 0x40003FFF 0x000F000F = some (1, 0x00010000) := by decide +kernel
theorem test_vshift : vv (.vshl (vx 2)) 0x01010181 0x01070001 = some (1, 0x02800102) ∧ vv (.vsar (vx 1)) 0x80004000 0x000F0001 = some (1, 0xFFFF2000) := by
  decide +kernel
theorem test_vpack_clamps : vv (.vpack (vx 1)) 0x00018000 0xFFFF0000 = some (1, 0x80007FFF) := by decide +kernel
theorem test_float_adds : vv (.vfadd (vx 0)) 0x3F800000 0xBF800000 = some (4, 0) ∧ vv (.vfadd (vx 0)) 0x3F800000 0x33800000 = some (4, 0x3F800000) ∧
    vv (.vfadd (vx 0)) 0x3F800001 0x33800000 = some (4, 0x3F800002) := by decide +kernel
theorem test_float_mul : vv (.vfmul (vx 0)) 0x3FC00000 0xC0000000 = some (4, 0xC0400000) ∧ vv (.vfmul (vx 1)) 0x3FC03F80 0x40004000 = some (4, 0x40404000) := by
  decide +kernel
theorem test_float_min_nan : vv (.vfmin (vx 0)) 0x7FC00000 0x3F800000 = some (2, 0x3F800000) := by decide +kernel
/-- 3.1 in BF16 has the scale byte 120 and the E4M3 code 0x7C; 1.3 rounds to 0x11 in L6 (07 R157, R159). -/
theorem test_format_examples : fp8Vec .e4m3 448 [Fmt.bf16.dec 0x4046] = (120, [0x7C]) ∧ (Fmt.l6.enc 0 (Fmt.f32.dec 0x3FA66666)).1 = 0x11 := by decide +kernel
/-- A trap of the strand's own: the handler at tvec, tpc the bundle, cause 0xA1 (18 R374, R387). -/
def entered (s : State) : Option (Bool × Nat × Nat) :=
  match step s with
  | .next t => some (t.x.h, t.x.pc.toNat, t.x.cause.toNat)
  | _ => none
theorem test_trap_enters : entered { issuing (.trap ⟨0, 0, 5⟩) with x := { (issuing (.trap ⟨0, 0, 5⟩)).x with tvec := 0x8000 } } =
    some (true, 0x8000, 0xA1) := by decide +kernel
/-- Two events of one GTC stand in the order of their source numbers, and a full ring loses the oldest (01 R18, 18 R384). -/
def twoEvents : Pkg := { resetPkg with logSize := 1, log := [⟨5, 0x788C, 1, 0, 0, 0⟩, ⟨5, 0x3885, 2, 0, 0, 0⟩] }
theorem test_log_order : twoEvents.logOrdered.map LogRec.src = [0x3885, 0x788C] ∧ twoEvents.logRing.map LogRec.src = [0x788C] ∧
    (twoEvents.logSlot 0).take 16 = [5, 0, 0, 0, 0, 0, 0, 0, 0x8C, 0x78, 1, 0x80, 1, 0, 0, 0] := by decide +kernel

end Sys2Proof.Tests
end

section
/-! O57 (00 R1, 18 R376): no instruction and no step ends in a fault or a refusal of the model's. An instruction answers a next
state by its own definition; the issue path hands on what the instructions of a bundle answer, so it answers one as well. -/

namespace Sys2Proof.Machine

/-- An outcome that is a next state: neither a fault nor a refusal. -/
def Answers (o : Out) : Prop := ∃ t, o = .next t

@[simp] theorem answers_next (t : State) : Answers (.next t) := ⟨t, rfl⟩

theorem Answers.ite {c : Prop} [Decidable c] {o o' : Out} (h : Answers o) (h' : Answers o') :
    Answers (if c then o else o') := by
  split
  · exact h
  · exact h'

/-- The arm of a match that stands for the other outcomes is never taken by one that answers. -/
theorem Answers.not_other {o : Out} (h : Answers o) (hne : ∀ t, o = .next t → False) : False :=
  let ⟨t, ht⟩ := h
  hne t ht

/-! ## Instructions -/

/-- The remap of the queue slots is the one meaning with a case split above its next state: it does nothing before its time
(05 R122). -/
theorem execDieSliceRemap_answers (s : State) : Answers (execDieSliceRemap s) :=
  (answers_next s).ite (answers_next _)

/-- Every instruction and every device step answers: the meaning of each other one is `.next` of a state. -/
theorem exec_answers (i : Instr) (s : State) : Answers (exec i s) := by
  cases i
  case dieSliceRemap => exact execDieSliceRemap_answers s
  all_goals exact answers_next _

/-! ## The slots of a bundle -/

theorem runSlot_answers (x0 : Ctx) (i : Instr) (x : Slot) (s : State) : Answers (s.runSlot exec x0 i x) := by
  simp only [State.runSlot]
  split
  · exact answers_next _
  · next hne => exact ((exec_answers i _).not_other hne).elim

theorem runSlots_answers (x0 : Ctx) (l : List Slot) (s : State) : Answers (runSlots exec x0 l s) := by
  induction l generalizing s with
  | nil => exact answers_next s
  | cons x l ih =>
    unfold runSlots
    split
    · exact ih s
    · next i _ =>
      split
      · next t _ => exact ih t
      · next hne => exact ((runSlot_answers x0 i x s).not_other hne).elim

/-! ## The issue path -/

/-- A bundle that waits passes a cycle or raises watchdog (03 R72, 18 R380). -/
theorem hold_answers (s : State) (code : Nat) (lines : List Nat) : Answers (s.hold exec code lines) :=
  (exec_answers .watchdog _).ite (answers_next _)

/-- A bundle whose slots have run traps, waits, raises watchdog or commits (03 R69, R72). -/
theorem settle_answers (s t : State) : Answers (s.settle exec t) := by
  simp only [State.settle]
  split
  · exact answers_next _
  · exact (answers_next _).ite (hold_answers _ _ _)
  · exact hold_answers _ _ _
  · exact (hold_answers _ _ _).ite ((exec_answers .watchdog _).ite (answers_next _))

theorem issueAt_answers (s : State) (a : Addr) (n : Nat) (sl : List Slot) (empty : Bool) :
    Answers (s.issueAt exec a n sl empty) := by
  refine Answers.ite ?empty ?slots
  case empty =>
    split
    · exact answers_next _
    · exact exec_answers .emptyBundle _
  case slots =>
    split
    · next t _ =>
      split
      · exact (settle_answers s t).ite (answers_next _)
      · exact settle_answers s t
    · next hne => exact ((runSlots_answers _ _ _).not_other hne).elim

/-- A bundle that is not found or is illegal traps; one that is found is issued. -/
theorem issue_answers (s : State) : Answers (s.issue exec) := by
  unfold State.issue
  split
  · exact answers_next _
  · exact answers_next _
  · exact issueAt_answers _ _ _ _ _

/-- A cycle passes time alone, or issues for the running context or for the one that the arbiter chooses. -/
theorem cycle_answers (s : State) : Answers (s.cycle exec) :=
  (answers_next _).ite (((answers_next _).ite (issue_answers s)).ite ((issue_answers _).ite (answers_next _)))

/-! ## The step -/

/-- A device step that the agenda names is taken or passed over; one that is due is taken; else a cycle passes (log 5). -/
theorem step_answers (s : State) : Answers (step s) := by
  unfold step
  split
  · exact (exec_answers _ _).ite (answers_next _)
  · exact cycle_answers _
  · split
    · exact exec_answers _ s
    · exact cycle_answers s

/-- Settles O57: every instruction answers by its meaning, and the issue path and the step hand its answer on. -/
theorem everyStepAnswersNext : Obligations.EveryStepAnswersNext :=
  ⟨exec_answers, step_answers⟩

end Sys2Proof.Machine
end

section
/-! O2 (01 R20, 03 R71): a landing writes its own register, and what lands as a number comes is what is due. One equation per
kind of landing says what `Ctx.landOne` does; a run of landings that are no pushes is a fold over the context alone. -/

namespace Sys2Proof.Machine

/-! ## One landing -/

/-- A scalar result lands by the register write of the S unit (03 R71). -/
theorem Ctx.landOne_scalar (c : Ctx) {e : Flight} (hu : e.unit = 0) (hw : e.what = 0) (hd : e.dest < 32) :
    c.landOne e = c.setS e.dest (dwordOfLanes e.val) := by
  rw [Ctx.landOne, if_neg (by omega), if_pos hu, if_neg (by omega)]

/-- A predicate result has its destination above the scalar registers (log 13) and lands by the predicate write. -/
theorem Ctx.landOne_predicate (c : Ctx) {e : Flight} (hu : e.unit = 0) (hw : e.what = 0) (hd : 32 ≤ e.dest) :
    c.landOne e = c.setP (e.dest - 32) ((e.val.at 0).getLsbD 0) := by
  rw [Ctx.landOne, if_neg (by omega), if_pos hu, if_pos hd]

@[simp] theorem Ctx.setS_p (c : Ctx) (n : Nat) (v : Dword) : (c.setS n v).p = c.p := by rw [Ctx.setS_eq]
@[simp] theorem Ctx.setS_flight (c : Ctx) (n : Nat) (v : Dword) : (c.setS n v).flight = c.flight := by rw [Ctx.setS_eq]
@[simp] theorem Ctx.setP_s (c : Ctx) (n : Nat) (b : Bool) : (c.setP n b).s = c.s := by rw [Ctx.setP_eq]
@[simp] theorem Ctx.setP_flight (c : Ctx) (n : Nat) (b : Bool) : (c.setP n b).flight = c.flight := by rw [Ctx.setP_eq]
@[simp] theorem Ctx.landV_flight (c : Ctx) (cl n : Nat) (m : BitVec 16) (v : Lanes) :
    (c.landV cl n m v).flight = c.flight := by rw [Ctx.landV]
@[simp] theorem Ctx.landLatch_flight (c : Ctx) (cl u : Nat) (m : BitVec 16) (v : Lanes) :
    (c.landLatch cl u m v).flight = c.flight := by rw [Ctx.landLatch]

/-- A landing takes nothing out of flight and puts nothing there. -/
@[simp] theorem Ctx.landOne_flight (c : Ctx) (e : Flight) : (c.landOne e).flight = c.flight := by
  unfold Ctx.landOne
  split
  case isTrue => rfl -- a push
  split
  case isTrue => split <;> simp -- the S unit
  split
  case isTrue => dsimp only; split <;> rfl -- a lane mask
  split
  case isTrue => rfl -- a transpose row
  dsimp only -- a vector register, its unit's latch, or both
  split <;> split <;> simp

/-! ## A run of landings -/

@[simp] theorem Ctx.foldl_landOne_flight (l : List Flight) (c : Ctx) : (l.foldl Ctx.landOne c).flight = c.flight := by
  induction l generalizing c with
  | nil => rfl
  | cons e l ih => rw [List.foldl_cons, ih, Ctx.landOne_flight]

/-- Landings without a push among them change the context on the issue path alone. -/
theorem State.foldl_landOne_eq (l : List Flight) (h : ∀ e ∈ l, e.what ≠ 3) (s : State) :
    l.foldl State.landOne s = s.setX (l.foldl Ctx.landOne s.x) := by
  induction l generalizing s with
  | nil => rfl
  | cons e l ih =>
    obtain ⟨he, hl⟩ := List.forall_mem_cons.mp h
    have hone : s.landOne e = s.setX (s.x.landOne e) := if_neg he
    rw [List.foldl_cons, List.foldl_cons, hone, ih hl, State.setX_x, State.setX_setX]

/-- With no push in flight, the due results land in the context that keeps in flight those whose number lies ahead. -/
theorem State.landDue_x (s : State) (h : ∀ e ∈ s.x.flight, e.what ≠ 3) :
    s.landDue.x = (s.x.flight.filter fun e => decide (e.due ≤ s.x.bno)).foldl Ctx.landOne
      { s.x with flight := s.x.flight.filter fun e => decide (s.x.bno < e.due) } := by
  have hahead : (fun e : Flight => !decide (e.due ≤ s.x.bno)) = fun e => decide (s.x.bno < e.due) := by
    funext e
    rw [← decide_not, decide_eq_decide, Nat.not_le]
  rw [State.landDue, State.foldl_landOne_eq _ fun e he => h e (List.mem_of_mem_filter he), State.setX_x, State.setX_x, hahead]

/-- Settles O2: a scalar or predicate landing is the write of its register, whose read rules stand with the register file; what
is due lands in the context, and no landing touches what is still in flight. -/
theorem resultsLandWhenDue : Obligations.ResultsLandWhenDue := by
  refine ⟨fun c e n hu hw => ⟨fun hd => ?scalar, fun hlo _ hn => ?predicate, c.sreg_zero, c.preg_zero⟩,
    fun s h => ⟨?ahead, s.landDue_x h⟩⟩
  case scalar =>
    rw [c.landOne_scalar hu hw hd]
    exact ⟨c.sreg_setS _ _ n, c.setS_p _ _⟩
  case predicate =>
    rw [c.landOne_predicate hu hw hlo]
    exact ⟨c.preg_setP _ _ n hn, c.setP_s _ _⟩
  case ahead => rw [s.landDue_x h, Ctx.foldl_landOne_flight]

end Sys2Proof.Machine
end

section
/-! O51, O52 (03 R55 to R67): a decoded word is encoded as itself, kind by kind along the opcode maps; and the A-only op words,
which have an encoding that unit B does not decode. -/

namespace Sys2Proof

/-! ## A word is what its opcode and its fields say -/

/-- An opcode read as a number, as the opcode maps read it. -/
theorem opOf_of_toNat {w : Word} {n : Nat} (h : (opOf w).toNat = n) : BitVec.ofNat 7 n = opOf w := by
  rw [← h, BitVec.ofNat_toNat, BitVec.setWidth_eq]

theorem SR.word_of_toNat {w : Word} {n : Nat} (h : (opOf w).toNat = n) :
    SR.word (BitVec.ofNat 7 n) (SR.ofWord w) = w := by
  rw [opOf_of_toNat h, SR.word_ofWord]
theorem SI.word_of_toNat {w : Word} {n : Nat} (h : (opOf w).toNat = n) :
    SI.word (BitVec.ofNat 7 n) (SI.ofWord w) = w := by
  rw [opOf_of_toNat h, SI.word_ofWord]
theorem SB.word_of_toNat {w : Word} {n : Nat} (h : (opOf w).toNat = n) :
    SB.word (BitVec.ofNat 7 n) (SB.ofWord w) = w := by
  rw [opOf_of_toNat h, SB.word_ofWord]
theorem GF.word_of_toNat {w : Word} {n : Nat} (h : (opOf w).toNat = n) :
    GF.word (BitVec.ofNat 7 n) (GF.ofWord w) = w := by
  rw [opOf_of_toNat h, GF.word_ofWord]
theorem EF.word_of_toNat {w : Word} {n : Nat} (h : (opOf w).toNat = n) :
    EF.word (BitVec.ofNat 7 n) (EF.ofWord w) = w := by
  rw [opOf_of_toNat h, EF.word_ofWord]
theorem VR.word_of_toNat {w : Word} {n : Nat} (h : (opOf w).toNat = n) :
    VR.word (BitVec.ofNat 7 n) (VR.ofWord w) = w := by
  rw [opOf_of_toNat h, VR.word_ofWord]

/-! ## One opcode map after the other

Each map is split by its opcodes; every instruction of an opcode has the format in which the map reads the word. -/

/-- An instruction of a kind, in the variant that its fields name, with its op word. -/
def EncodesAs (i : Instr) (k : Kind) (w : Word) : Prop :=
  encodeOp i = some w ∧ variantOk i = true ∧ i.kind? = some k

/-- Two instructions that share an opcode are told apart by a condition on a field. -/
theorem EncodesAs.variant {c : Prop} [Decidable c] {i j : Instr} {k : Kind} {w : Word}
    (hi : encodeOp i = some w ∧ variantOk i = decide c ∧ i.kind? = some k)
    (hj : encodeOp j = some w ∧ variantOk j = !decide c ∧ j.kind? = some k) : EncodesAs (if c then i else j) k w := by
  obtain ⟨hie, hiv, hik⟩ := hi
  obtain ⟨hje, hjv, hjk⟩ := hj
  split
  · next hc => exact ⟨hie, by rw [hiv, decide_eq_true hc], hik⟩
  · next hc => exact ⟨hje, by rw [hjv, decide_eq_false hc, Bool.not_false], hjk⟩

theorem decodeS_encodesAs {w : Word} {i : Instr} (h : decodeS w = some i) : EncodesAs i .S w := by
  unfold decodeS at h
  generalize hn : (opOf w).toNat = n at h
  unfold decodeSAt at h
  split at h
  all_goals cases h
  case h_58 =>
    exact .variant ⟨congrArg some (SR.word_of_toNat hn), rfl, rfl⟩
      ⟨congrArg some (SR.word_of_toNat hn), rfl, rfl⟩
  all_goals exact ⟨congrArg some (by simp only [SR.word_of_toNat hn, SI.word_of_toNat hn, SB.word_of_toNat hn]), rfl, rfl⟩

theorem decodeG_encodesAs {w : Word} {i : Instr} (h : decodeG w = some i) : EncodesAs i .G w := by
  unfold decodeG at h
  generalize hn : (opOf w).toNat = n at h
  unfold decodeGAt at h
  split at h
  all_goals cases h
  case h_6 =>
    exact .variant ⟨congrArg some (GF.word_of_toNat hn), rfl, rfl⟩
      ⟨congrArg some (GF.word_of_toNat hn), rfl, rfl⟩
  all_goals exact ⟨congrArg some (GF.word_of_toNat hn), rfl, rfl⟩

theorem decodeE_encodesAs {w : Word} {i : Instr} (h : decodeE w = some i) : EncodesAs i .E w := by
  unfold decodeE at h
  generalize hn : (opOf w).toNat = n at h
  unfold decodeEAt at h
  split at h
  all_goals cases h
  case h_6 | h_17 | h_24 | h_28 | h_31 | h_38 | h_44 | h_45 =>
    exact .variant ⟨congrArg some (EF.word_of_toNat hn), rfl, rfl⟩
      ⟨congrArg some (EF.word_of_toNat hn), rfl, rfl⟩
  all_goals exact ⟨congrArg some (EF.word_of_toNat hn), rfl, rfl⟩

theorem decodeAB_encodesAs {w : Word} {i : Instr} (h : decodeAB w = some i) : EncodesAs i .A w := by
  unfold decodeAB at h
  generalize hn : (opOf w).toNat = n at h
  unfold decodeABAt at h
  split at h
  all_goals cases h
  all_goals exact ⟨congrArg some (VR.word_of_toNat hn), rfl, rfl⟩

theorem decodeM_encodesAs {w : Word} {i : Instr} (h : decodeM w = some i) : EncodesAs i .M w := by
  unfold decodeM at h
  generalize hn : (opOf w).toNat = n at h
  unfold decodeMAt at h
  split at h
  all_goals cases h
  case h_15 =>
    exact .variant ⟨congrArg some (VR.word_of_toNat hn), rfl, rfl⟩
      ⟨congrArg some (VR.word_of_toNat hn), rfl, rfl⟩
  all_goals exact ⟨congrArg some (VR.word_of_toNat hn), rfl, rfl⟩

theorem decodeF_encodesAs {w : Word} {i : Instr} (h : decodeF w = some i) : EncodesAs i .F w := by
  unfold decodeF at h
  generalize hn : (opOf w).toNat = n at h
  unfold decodeFAt at h
  split at h
  all_goals cases h
  all_goals exact ⟨congrArg some (VR.word_of_toNat hn), rfl, rfl⟩

theorem decodeX_encodesAs {w : Word} {i : Instr} (h : decodeX w = some i) : EncodesAs i .X w := by
  unfold decodeX at h
  generalize hn : (opOf w).toNat = n at h
  unfold decodeXAt at h
  split at h
  all_goals cases h
  all_goals exact ⟨congrArg some (VR.word_of_toNat hn), rfl, rfl⟩

/-- Settles O52: a word that a kind decodes is encoded as that word again, map by map; B takes the map of A (03 R65). -/
theorem decodedWordsEncodeBack : Obligations.DecodedWordsEncodeBack := by
  intro k w i h
  cases k with
  | S => exact decodeS_encodesAs h
  | G => exact decodeG_encodesAs h
  | E => exact decodeE_encodesAs h
  | X => exact decodeX_encodesAs h
  | A => exact decodeAB_encodesAs h
  | B =>
    dsimp only [decodeOp] at h
    split at h
    · cases h
    · exact decodeAB_encodesAs h
  | M => exact decodeM_encodesAs h
  | F => exact decodeF_encodesAs h

/-! ## The A-only op words (03 R65) -/

/-- Unit B has no vext: the word of any vext is illegal-op there. -/
theorem decodeOp_B_vext (f : VR) : decodeOp .B (VR.word 0x21#7 f) = none := by
  simp [decodeOp, VR.opOf_word]

/-- Refutes O51: vext, vins, vrsum, vrmax and vrmin are A-only (03 R65), so that the op word of a vext, every field zero, decodes
in A and is illegal-op in B, where the statement has it decode as well. -/
theorem not_encodedInstructionsDecode : ¬ Obligations.EncodedInstructionsDecode := by
  intro h
  let f : VR := ⟨0#6, false, 0#6, 0#6, false, false, 0#2, 0#2⟩
  obtain ⟨w, hw, -, -, -, hB⟩ := h (.vext f) .A rfl rfl
  obtain rfl : VR.word 0x21#7 f = w := Option.some.inj hw
  have hB := hB rfl
  rw [decodeOp_B_vext] at hB
  cases hB

/-! ## What an instruction is encoded as (03 R51, R52, R55 to R67)

The other direction of O52, and what remains of O51: every instruction decodes from its op word under its kind, alone in a bundle,
and in B as well unless it is one of the five A-only ops. -/

theorem decodeOp_of_encodesAs {i : Instr} {k : Kind} {w : Word} (h : EncodesAs i k w) : decodeOp k w = some i := by
  obtain ⟨hw, hv, hk⟩ := h
  cases i
  all_goals cases hk
  all_goals obtain rfl := Option.some.inj hw
  all_goals simp only [decodeOp, decodeS, decodeG, decodeE, decodeAB, decodeM, decodeF, decodeX, SR.opOf_word, SI.opOf_word,
    SB.opOf_word, GF.opOf_word, EF.opOf_word, VR.opOf_word]
  all_goals show some _ = _
  all_goals simp only [SR.ofWord_word, SI.ofWord_word, SB.ofWord_word, GF.ofWord_word, EF.ofWord_word, VR.ofWord_word]
  all_goals simpa [variantOk] using hv

/-- An instruction of a kind has an op word. -/
theorem exists_encodeOp {i : Instr} {k : Kind} (hk : i.kind? = some k) : ∃ w, encodeOp i = some w := by
  cases i
  all_goals cases hk
  all_goals exact ⟨_, rfl⟩

/-- A bundle of one op word, whatever stands behind it (03 R51 to R53). -/
theorem decodeBundle_headerFor (k : Kind) (w : Word) (ws : List Word) :
    decodeBundle (headerFor k :: w :: ws) = .bundle 2 [⟨0, k, 0, w, []⟩] := by
  cases k <;> rfl

/-- The opcodes of the ops that unit A alone has: vext, vins, vrsum, vrmax and vrmin (03 R65). -/
def aOnlyOpcodes : List Nat := [0x21, 0x22, 0x52, 0x53, 0x54]

theorem decodeOp_B_of_not_aOnly {w : Word} (h : (opOf w).toNat ∉ aOnlyOpcodes) : decodeOp .B w = decodeOp .A w := by
  simp only [aOnlyOpcodes, List.mem_cons, List.not_mem_nil, or_false, not_or] at h
  obtain ⟨h1, h2, h3, h4, h5⟩ := h
  simp [decodeOp, h1, h2, h3, h4, h5]

/-- O51 but for the A-only ops in B. -/
theorem encoded_instruction_decodes {i : Instr} {k : Kind} (hk : i.kind? = some k) (hv : variantOk i = true) :
    ∃ w, encodeOp i = some w ∧ encode i = [headerFor k, w] ∧ decodeBundle (encode i) = .bundle 2 [⟨0, k, 0, w, []⟩] ∧
      decodeOp k w = some i ∧ (k = .A → (opOf w).toNat ∉ aOnlyOpcodes → decodeOp .B w = some i) := by
  obtain ⟨w, hw⟩ := exists_encodeOp hk
  have hdec : decodeOp k w = some i := decodeOp_of_encodesAs ⟨hw, hv, hk⟩
  have henc : encode i = [headerFor k, w] := by rw [encode, hw, hk]
  refine ⟨w, hw, henc, by rw [henc, decodeBundle_headerFor], hdec, ?_⟩
  rintro rfl hA
  rwa [decodeOp_B_of_not_aOnly hA]

end Sys2Proof
end

section
/-! O16, O17 (03 R56 to R58, R71, 06 R130): what the source codes of a vector op read, and where its results land. One equation
for each range of source codes and for each kind of landing. -/

namespace Sys2Proof.Machine

/-! ## Sources -/

/-- The state after a source whose value is missing: a cause of the stale operands where a lane is active (03 R58). -/
def State.stale (s : State) (m : BitVec 16) (code : Nat) : State :=
  if m = 0 then s else s.withCause 6 code (s.defaultInfo 0)

theorem State.src_of_register (s : State) (k : Kind) (cl : Nat) {code : BitVec 6} (m : BitVec 16) (h : code.toNat < 32) :
    s.src k cl code m = (s, s.x.vreg cl code.toNat) := by
  rw [State.src, if_pos h]

theorem State.src_of_latch (s : State) (k : Kind) (cl : Nat) {code : BitVec 6} (m : BitVec 16) {u : Nat} (hu : u < 4)
    (h : code.toNat = 32 + u) :
    s.src k cl code m = (if s.x.latchOk.getLsbD (4 * cl + u) then s else s.stale m 0x19, s.x.latchOf cl u) := by
  have hmod : (32 + u) % 4 = u := by omega
  rw [State.src, h, if_neg (by omega), if_pos (by omega), hmod, s.slotInfo_eq 0 (by decide)]
  rfl

/-- What a held operand gives depends on the kind that captured it alone (03 R58). -/
theorem State.src_of_hold (s : State) (k : Kind) (cl : Nat) {code : BitVec 6} (m : BitVec 16) {side : Nat} (hs : side < 2)
    (h : code.toNat = 36 + side) :
    s.src k cl code m = match Map.get none s.x.holds (2 * cl + side) with
      | some d => if d.kind = k then (s, d.val) else (s.stale m 0x1A, Lanes.zero)
      | none => (s.stale m 0x1A, Lanes.zero) := by
  have hmod : (36 + side) % 2 = side := by omega
  rw [State.src, h, if_neg (by omega), if_neg (by omega), if_pos (by omega), hmod, s.slotInfo_eq 0 (by decide)]
  rfl

theorem State.src_of_own_hold {s : State} {k : Kind} {cl : Nat} {code : BitVec 6} {side : Nat} {d : Hold} (m : BitVec 16)
    (hs : side < 2) (h : code.toNat = 36 + side) (hd : Map.get none s.x.holds (2 * cl + side) = some d) (hk : d.kind = k) :
    s.src k cl code m = (s, d.val) := by
  simp only [s.src_of_hold k cl m hs h, hd, if_pos hk]

theorem State.src_of_no_hold {s : State} {k : Kind} {cl : Nat} {code : BitVec 6} {side : Nat} (m : BitVec 16) (hs : side < 2)
    (h : code.toNat = 36 + side) (hd : Map.get none s.x.holds (2 * cl + side) = none) :
    s.src k cl code m = (s.stale m 0x1A, Lanes.zero) := by
  simp only [s.src_of_hold k cl m hs h, hd]

theorem State.src_of_other_hold {s : State} {k : Kind} {cl : Nat} {code : BitVec 6} {side : Nat} {d : Hold} (m : BitVec 16)
    (hs : side < 2) (h : code.toNat = 36 + side) (hd : Map.get none s.x.holds (2 * cl + side) = some d) (hk : d.kind ≠ k) :
    s.src k cl code m = (s.stale m 0x1A, Lanes.zero) := by
  simp only [s.src_of_hold k cl m hs h, hd, if_neg hk]

theorem State.src_of_literal (s : State) (k : Kind) (cl : Nat) {code : BitVec 6} (m : BitVec 16) {j : Nat} (hj : j < 8)
    (h : code.toNat = 40 + j) : s.src k cl code m = (s, Lanes.of fun _ => s.cur.lits.getD j 0#32) := by
  have hmod : (40 + j) % 8 = j := by omega
  rw [State.src, h, if_neg (by omega), if_neg (by omega), if_neg (by omega), if_neg (by omega), if_pos (by omega), hmod]

/-- A capture that has taken place is what the hold reads as. -/
theorem State.holds_applyPost_hold (s : State) (key : Nat) (d : Hold) :
    Map.get none (s.applyPost (.hold key d)).x.holds key = some d := by
  simp [State.applyPost]

/-- Settles O16: each range of source codes by its equation; a capture is posted for the next bundle, and as it takes place it is
the hold that the two kinds then read. -/
theorem vectorSourcesAndHolds : Obligations.VectorSourcesAndHolds := by
  refine ⟨fun s k cl code m => ⟨s.src_of_register k cl m, fun u hu hn => s.src_of_latch k cl m hu hn,
    fun side hs hn => ⟨fun d hd hk => State.src_of_own_hold m hs hn hd hk, ?stale⟩, ?literal⟩,
    fun s k k' cl side v code m hs => ⟨rfl, rfl, fun hn => ?captured⟩⟩
  case stale =>
    rintro (hd | ⟨d, hd, hk⟩)
    · rw [State.src_of_no_hold m hs hn hd]; rfl
    · rw [State.src_of_other_hold m hs hn hd hk]; rfl
  case literal =>
    intro j hj hn
    rw [s.src_of_literal k cl m hj hn]
    exact ⟨rfl, fun i _ => by rw [Lanes.at_of]⟩
  case captured =>
    have hd := s.holds_applyPost_hold (2 * cl + side) ⟨k, v⟩
    refine ⟨State.src_of_own_hold m hs hn hd rfl, fun hk hm => ?_⟩
    rw [State.src_of_other_hold m hs hn hd hk]
    exact if_neg hm

/-! ## Results put in flight -/

/-- A vector result for a register is in flight to it, and to the latch of a unit that has one (03 R57). -/
theorem State.landV_of_register (s : State) (k : Kind) (f : VR) (lat : Nat) (m : BitVec 16) (v : Lanes) (hw : f.w = false)
    (hd : f.d.toNat < 32) : s.landV k f lat m v = s.withFlight
      [⟨s.x.bno + lat, kFlightUnit k, s.cur.cluster, f.d.toNat, if (kLatch k).isSome then 2 else 0, m, v⟩] := by
  rw [State.landV, if_neg (by simp [hw]), if_pos hd, State.land_eq]

/-- With nw = 1 a vector result is in flight to the latch alone, if there is one (03 R55, R57). -/
theorem State.landV_of_nw (s : State) (k : Kind) (f : VR) (lat : Nat) (m : BitVec 16) (v : Lanes) (hw : f.w = true) :
    s.landV k f lat m v = s.withFlight
      (if (kLatch k).isSome then [⟨s.x.bno + lat, kFlightUnit k, s.cur.cluster, 0, 1, m, v⟩] else []) := by
  rw [State.landV, if_pos hw]
  split
  · rw [State.land_eq]
  · rw [State.withFlight_nil]

/-! ## Landings -/

/-- Lane i after lanes were written under a mask. -/
theorem Lanes.at_merge (m : BitVec 16) (new old : Lanes) {i : Nat} (hi : i < 16) :
    (Lanes.merge m new old).at i = if m.getLsbD i = true then new.at i else old.at i := by
  rw [Lanes.merge, Lanes.at_of, Nat.mod_eq_of_lt hi]

/-- A register landing writes its lanes of its register and nothing else. -/
theorem Ctx.vreg_landV (c : Ctx) {cl n : Nat} (m : BitVec 16) (v : Lanes) {cl' n' : Nat} (hn : n < 32) (hn' : n' < 32) {i : Nat}
    (hi : i < 16) : ((c.landV cl n m v).vreg cl' n').at i =
      if cl' = cl ∧ n' = n ∧ m.getLsbD i = true then v.at i else (c.vreg cl' n').at i := by
  have hkey : 32 * cl' + n' = 32 * cl + n ↔ cl' = cl ∧ n' = n := by omega
  simp only [Ctx.landV, Ctx.vreg, Map.get_set, hkey, ← and_assoc]
  by_cases h : cl' = cl ∧ n' = n
  · obtain ⟨rfl, rfl⟩ := h
    simp [Lanes.at_merge m v _ hi]
  · simp [h]

/-- A latch landing writes its lanes of its latch and nothing else. -/
theorem Ctx.latchOf_landLatch (c : Ctx) {cl u : Nat} (m : BitVec 16) (v : Lanes) {cl' u' : Nat} (hu : u < 4) (hu' : u' < 4)
    {i : Nat} (hi : i < 16) : ((c.landLatch cl u m v).latchOf cl' u').at i =
      if cl' = cl ∧ u' = u ∧ m.getLsbD i = true then v.at i else (c.latchOf cl' u').at i := by
  have hkey : 4 * cl' + u' = 4 * cl + u ↔ cl' = cl ∧ u' = u := by omega
  simp only [Ctx.landLatch, Ctx.latchOf, Map.get_set, hkey, ← and_assoc]
  by_cases h : cl' = cl ∧ u' = u
  · obtain ⟨rfl, rfl⟩ := h
    simp [Lanes.at_merge m v _ hi]
  · simp [h]

@[simp] theorem Ctx.latchOf_landV (c : Ctx) (cl n : Nat) (m : BitVec 16) (v : Lanes) (cl' u : Nat) :
    (c.landV cl n m v).latchOf cl' u = c.latchOf cl' u := by rw [Ctx.landV, Ctx.latchOf, Ctx.latchOf]
@[simp] theorem Ctx.latchOk_landV (c : Ctx) (cl n : Nat) (m : BitVec 16) (v : Lanes) :
    (c.landV cl n m v).latchOk = c.latchOk := by rw [Ctx.landV]
@[simp] theorem Ctx.vreg_landLatch (c : Ctx) (cl u : Nat) (m : BitVec 16) (v : Lanes) (cl' n : Nat) :
    (c.landLatch cl u m v).vreg cl' n = c.vreg cl' n := by rw [Ctx.landLatch, Ctx.vreg, Ctx.vreg]

/-- A latch landing makes its latch valid, whatever its lanes (log 58), and no other. -/
theorem Ctx.latchOk_landLatch (c : Ctx) {cl u : Nat} (m : BitVec 16) (v : Lanes) {cl' u' : Nat} (hu : u < 4) (hcl' : cl' < 8)
    (hu' : u' < 4) : (c.landLatch cl u m v).latchOk.getLsbD (4 * cl' + u') =
      (c.latchOk.getLsbD (4 * cl' + u') || decide (cl' = cl ∧ u' = u)) := by
  have hkey : 4 * cl + u = 4 * cl' + u' ↔ cl' = cl ∧ u' = u := by omega
  have hlt : 4 * cl' + u' < 32 := by omega
  rw [Ctx.landLatch, BitVec.getLsbD_or, BitVec.getLsbD_ofNat, Nat.testBit_two_pow, decide_eq_true hlt, Bool.true_and]
  simp only [hkey]

/-- A result of a vector unit lands in its register unless it is for the latch alone, and in its latch unless it is for the
register alone. -/
theorem Ctx.landOne_vector (c : Ctx) {e : Flight} (h1 : 1 ≤ e.unit) (h5 : e.unit ≤ 5) (hx : e.unit = 5 → e.what = 0)
    (hw : e.what < 3) : c.landOne e =
      let r := if e.what = 1 then c else c.landV e.cluster e.dest e.lanes e.val
      if e.what = 0 then r else r.landLatch e.cluster (e.unit - 1) e.lanes e.val := by
  rw [Ctx.landOne, if_neg (by omega), if_neg (by omega), if_neg (by omega), if_neg (by simp; omega)]

/-- A lane-mask result lands under its lanes in its mask; l0 takes none (06 R130). -/
theorem Ctx.landOne_mask (c : Ctx) {e : Flight} (hu : e.unit = 6) (hw : e.what = 0) :
    c.landOne e = if e.dest = 0 then c else
      { c with l := Map.set 0 c.l (4 * e.cluster + e.dest) (maskMerge e.lanes e.val (c.lmask e.cluster e.dest)) } := by
  rw [Ctx.landOne, if_neg (by omega), if_neg (by omega), if_pos hu]

/-- A sum of distinct powers of two has the bits that it sums. -/
theorem testBit_sum_two_pow (b : Nat → Bool) (n : Nat) :
    (List.range n).foldl (fun a i => a + if b i then 2 ^ i else 0) 0 < 2 ^ n ∧
      ∀ j, ((List.range n).foldl (fun a i => a + if b i then 2 ^ i else 0) 0).testBit j = (decide (j < n) && b j) := by
  induction n with
  | zero => simp
  | succ n ih =>
    obtain ⟨hlt, hbit⟩ := ih
    rw [List.range_succ, List.foldl_append, List.foldl_cons, List.foldl_nil]
    generalize (List.range n).foldl (fun a i => a + if b i then 2 ^ i else 0) 0 = a at hlt hbit
    refine ⟨by rw [Nat.pow_succ]; split <;> omega, fun j => ?_⟩
    have hsum : (a + if b n then 2 ^ n else 0) = 2 ^ n * (b n).toNat + a := by cases b n <;> simp [Nat.add_comm]
    rw [hsum, Nat.testBit_two_pow_mul_add _ hlt, hbit]
    rcases Nat.lt_trichotomy j n with hj | rfl | hj
    · simp [hj, Nat.lt_succ_of_lt hj]
    · cases b j <;> simp
    · have hout : (b n).toNat < 2 ^ (j - n) :=
        Nat.lt_of_le_of_lt (Bool.toNat_le _) (Nat.one_lt_two_pow (by omega))
      rw [if_neg (by omega), Nat.testBit_lt_two_pow hout, decide_eq_false (by omega), Bool.false_and]

/-- A mask merged from lane values: bit 0 of a lane that is written, the old bit elsewhere (06 R130). -/
theorem getLsbD_maskMerge (m : BitVec 16) (v : Lanes) (old : BitVec 16) {i : Nat} (hi : i < 16) :
    (maskMerge m v old).getLsbD i = if m.getLsbD i = true then (v.at i).getLsbD 0 else old.getLsbD i := by
  rw [maskMerge, BitVec.getLsbD_ofNat,
    (testBit_sum_two_pow (fun i => if m.getLsbD i then (v.at i).getLsbD 0 else old.getLsbD i) 16).2]
  simp [hi]

/-- A mask landing writes its lanes of its mask and nothing else; l0 stays all ones (06 R130). -/
theorem Ctx.lmask_landOne_mask (c : Ctx) {e : Flight} (hu : e.unit = 6) (hw : e.what = 0) (hd : e.dest < 4) {cl n i : Nat}
    (hn : n < 4) (hi : i < 16) : ((c.landOne e).lmask cl n).getLsbD i =
      if cl = e.cluster ∧ n = e.dest ∧ n ≠ 0 ∧ e.lanes.getLsbD i = true then (e.val.at i).getLsbD 0
      else (c.lmask cl n).getLsbD i := by
  have hkey : 4 * cl + n = 4 * e.cluster + e.dest ↔ cl = e.cluster ∧ n = e.dest := by omega
  rw [c.landOne_mask hu hw]
  by_cases hd0 : e.dest = 0
  · rw [if_pos hd0, if_neg (by omega)]
  · rw [if_neg hd0]
    by_cases hn0 : n = 0
    · subst hn0
      simp
    · by_cases h : cl = e.cluster ∧ n = e.dest
      · obtain ⟨rfl, rfl⟩ := h
        simp [Ctx.lmask, hd0, getLsbD_maskMerge _ _ _ hi]
      · have : 4 * cl + n ≠ 4 * e.cluster + e.dest := mt hkey.mp h
        simp [Ctx.lmask, hn0, this]
        omega

/-- Settles O17: a result in flight by the two destinations of landV; a landing is at most one register landing and one latch
landing, or one mask landing. -/
theorem vectorResultsLandUnderMasks : Obligations.VectorResultsLandUnderMasks := by
  refine ⟨⟨fun s k f lat m v hk => ⟨fun hw hd => ?register, fun hw => ?latch⟩,
    fun c e h1 h5 hcl hd hx hw => ⟨?vreg, ?latchOf, ?latchOk, ?frame⟩⟩,
    fun c e cl n hu hw hecl hd hcl hn => ⟨fun i hi => c.lmask_landOne_mask hu hw hd hn hi, ?l0⟩⟩
  case register =>
    rw [s.landV_of_register k f lat m v hw hd]
    rcases hk with rfl | rfl | rfl | rfl | rfl <;> rfl
  case latch =>
    rw [s.landV_of_nw k f lat m v hw]
    rcases hk with rfl | rfl | rfl | rfl | rfl <;> rfl
  case l0 =>
    rw [c.landOne_mask hu hw]
    split <;> exact ⟨rfl, rfl, rfl, rfl, rfl⟩
  case vreg =>
    intro cl _ n hn i hi
    rw [c.landOne_vector h1 h5 hx hw]
    by_cases h : e.what = 1
    · simp [h]
    · have hreg := c.vreg_landV (cl := e.cluster) e.lanes e.val (cl' := cl) hd hn hi
      by_cases h0 : e.what = 0 <;> simp [h, h0, hreg]
  case latchOf =>
    intro cl _ u hu i hi
    rw [c.landOne_vector h1 h5 hx hw]
    by_cases h : e.what = 0
    · simp [h]
    · have hlatch : u + 1 = e.unit ↔ u = e.unit - 1 := by omega
      have hu4 : e.unit - 1 < 4 := by omega
      by_cases hreg : e.what = 1 <;> simp [h, hreg, hlatch, Ctx.latchOf_landLatch _ _ _ hu4 hu hi]
  case latchOk =>
    intro cl hcl' u hu
    rw [c.landOne_vector h1 h5 hx hw]
    by_cases h : e.what = 0
    · simp [h]
    · have hlatch : u + 1 = e.unit ↔ u = e.unit - 1 := by omega
      have hu4 : e.unit - 1 < 4 := by omega
      by_cases hreg : e.what = 1 <;> simp [h, hreg, hlatch, Ctx.latchOk_landLatch _ _ _ hu4 hcl' hu]
  case frame =>
    rw [c.landOne_vector h1 h5 hx hw]
    dsimp only
    split <;> split <;> simp only [Ctx.landV, Ctx.landLatch, and_self]

end Sys2Proof.Machine
end

section
/-! O54 (03 R51 to R54, R68): what a header names. The kinds of a header and the clusters of a mask are the ones of a number in
ascending order, so that the place of an op word is a count of ones; a packet's slots are those of its plan, and a further packet
follows the words of the one before. -/

namespace Sys2Proof

/-! ## The ones of a number -/

/-- The numbers that a test keeps stand in the order of the range: each at the count of those below it. -/
theorem getElem?_filter_range (p : Nat → Bool) (n j m : Nat) :
    ((List.range n).filter p)[j]? = some m ↔ m < n ∧ p m = true ∧ j = ((List.range m).filter p).length := by
  induction n with
  | zero => simp
  | succ n ih =>
    have hlast : ([n].filter p)[j - ((List.range n).filter p).length]? = some m ↔
        p n = true ∧ j ≤ ((List.range n).filter p).length ∧ n = m := by
      rw [List.filter_singleton]
      cases p n <;> simp [List.getElem?_singleton, Nat.sub_eq_zero_iff_le]
    rw [List.range_succ, List.filter_append, List.getElem?_append]
    split
    · next hj =>
      rw [ih]
      refine ⟨fun ⟨hm, hp⟩ => ⟨Nat.lt_succ_of_lt hm, hp⟩, fun ⟨hm, hp, hpos⟩ => ⟨?_, hp, hpos⟩⟩
      refine Nat.lt_of_le_of_ne (Nat.le_of_lt_succ hm) ?_
      rintro rfl
      omega
    · next hj =>
      have hnone : ¬ (m < n ∧ p m = true ∧ j = ((List.range m).filter p).length) := by
        rw [← ih, List.getElem?_eq_none (Nat.le_of_not_lt hj)]
        simp
      rw [hlast]
      refine ⟨?_, fun ⟨hm, hp, hpos⟩ => ?_⟩
      · rintro ⟨hp, hle, rfl⟩
        exact ⟨Nat.lt_succ_self n, hp, by omega⟩
      · obtain rfl : n = m := by
          by_contra hne
          exact hnone ⟨by omega, hp, hpos⟩
        exact ⟨hp, by omega, rfl⟩

/-- The kind of a number (03 R51). -/
def kindOfNum : Nat → Kind
  | 0 => .S | 1 => .G | 2 => .E | 3 => .X | 4 => .A | 5 => .B | 6 => .M
  | _ => .F

theorem kindOfNum_num (κ : Kind) : kindOfNum κ.num = κ := by cases κ <;> rfl
theorem num_kindOfNum : ∀ m < 8, (kindOfNum m).num = m := by decide
theorem Kind.num_lt (κ : Kind) : κ.num < 8 := by cases κ <;> decide
theorem Kind.num_injective : Function.Injective Kind.num := Function.LeftInverse.injective kindOfNum_num

/-- A number's ones from a place up, as the statement of O54 counts them. -/
def onesFrom (lo n : Nat) (i : Nat) : Bool := decide (lo ≤ i) && n.testBit i
/-- How many there are below another place. -/
def onesCount (n lo hi : Nat) : Nat := ((List.range hi).filter (onesFrom lo n)).length

theorem clusterKinds_eq (k : BitVec 8) : clusterKinds k = ((List.range 8).filter (onesFrom 3 k.toNat)).map kindOfNum := by
  have hbit (i : Nat) : k.toNat.testBit i = k.getLsbD i := rfl
  simp only [clusterKinds, List.range, List.range.loop, List.filterMap_cons, List.filterMap_nil, List.filter_cons,
    List.filter_nil, onesFrom, hbit, Nat.reduceLeDiff, decide_true, decide_false, Bool.true_and, Bool.false_and]
  cases k.getLsbD 3 <;> cases k.getLsbD 4 <;> cases k.getLsbD 5 <;> cases k.getLsbD 6 <;> cases k.getLsbD 7 <;> rfl

theorem singleKinds_eq (k : BitVec 8) : singleKinds k = ((List.range 3).filter (onesFrom 0 k.toNat)).map kindOfNum := by
  have hbit (i : Nat) : k.toNat.testBit i = k.getLsbD i := rfl
  simp only [singleKinds, List.range, List.range.loop, List.filterMap_cons, List.filterMap_nil, List.filter_cons,
    List.filter_nil, onesFrom, hbit, Nat.zero_le, decide_true, Bool.true_and]
  cases k.getLsbD 0 <;> cases k.getLsbD 1 <;> cases k.getLsbD 2 <;> rfl

/-- The place of a kind among those of a list of numbers. -/
theorem getElem?_kinds (lo hi n : Nat) (hhi : hi ≤ 8) (a : Nat) (κ : Kind) :
    (((List.range hi).filter (onesFrom lo n)).map kindOfNum)[a]? = some κ ↔
      κ.num < hi ∧ onesFrom lo n κ.num = true ∧ a = onesCount n lo κ.num := by
  rw [List.getElem?_map, Option.map_eq_some_iff]
  simp only [getElem?_filter_range]
  constructor
  · rintro ⟨m, ⟨hm, hp, hpos⟩, hκ⟩
    obtain rfl : κ.num = m := by rw [← hκ, num_kindOfNum m (by omega)]
    exact ⟨hm, hp, hpos⟩
  · rintro ⟨hm, hp, hpos⟩
    exact ⟨κ.num, ⟨hm, hp, hpos⟩, kindOfNum_num κ⟩

theorem getElem?_singleKinds (k : BitVec 8) (a : Nat) (κ : Kind) : (singleKinds k)[a]? = some κ ↔
    κ.num < 3 ∧ k.toNat.testBit κ.num = true ∧ a = onesCount k.toNat 0 κ.num := by
  rw [singleKinds_eq, getElem?_kinds 0 3 _ (by omega)]
  simp [onesFrom]

theorem getElem?_clusterKinds (k : BitVec 8) (a : Nat) (κ : Kind) : (clusterKinds k)[a]? = some κ ↔
    3 ≤ κ.num ∧ k.toNat.testBit κ.num = true ∧ a = onesCount k.toNat 3 κ.num := by
  rw [clusterKinds_eq, getElem?_kinds 3 8 _ (by omega)]
  simp [onesFrom, κ.num_lt, and_assoc]

theorem clustersOf_eq (c : BitVec 8) : clustersOf c = (List.range 8).filter (onesFrom 0 c.toNat) := by
  refine List.filter_congr fun n _ => ?_
  simp [onesFrom, BitVec.getLsbD]

theorem getElem?_clustersOf (c : BitVec 8) (a n : Nat) : (clustersOf c)[a]? = some n ↔
    n < 8 ∧ c.toNat.testBit n = true ∧ a = onesCount c.toNat 0 n := by
  rw [clustersOf_eq, getElem?_filter_range, ← onesCount]
  simp [onesFrom]

theorem mem_clustersOf (c : BitVec 8) (n : Nat) : n ∈ clustersOf c ↔ n < 8 ∧ c.toNat.testBit n = true := by
  simp [clustersOf, BitVec.getLsbD]

/-- A header without a cluster kind: K has no one from bit 3 on (03 R51). -/
theorem clusterKinds_eq_nil (k : BitVec 8) : clusterKinds k = [] ↔ k.toNat < 8 := by
  rw [clusterKinds_eq, List.map_eq_nil_iff, List.filter_eq_nil_iff]
  simp only [onesFrom, List.mem_range, Bool.and_eq_true, decide_eq_true_eq, not_and, Bool.not_eq_true]
  constructor
  · intro h
    refine Nat.lt_pow_two_of_testBit (n := 3) _ fun i hi => ?_
    by_cases h8 : i < 8
    · exact h i h8 hi
    · exact BitVec.getLsbD_of_ge k i (by omega)
  · intro h i _ hi
    have hpow : 2 ^ 3 ≤ 2 ^ i := Nat.pow_le_pow_right (by omega) hi
    exact Nat.testBit_lt_two_pow (by omega)

/-! ## The plan of a packet -/

/-- The slots of a plan, with an op word for each entry: entry j takes word j (03 R52). -/
theorem mem_planSlots {lits : List Word} {ps : List (Kind × List Nat)} {ws : List Word} (h : ps.length ≤ ws.length) (i : Nat)
    (x : Slot) : x ∈ planSlots lits i ps ws ↔ ∃ j p, ps[j]? = some p ∧ x.kind = p.1 ∧ x.cluster ∈ p.2 ∧ x.idx = i + j ∧
      x.word = ws.getD j 0#32 ∧ x.lits = lits := by
  induction ps generalizing i ws with
  | nil => cases ws <;> simp [planSlots]
  | cons p ps ih =>
    obtain ⟨k, cl⟩ := p
    cases ws with
    | nil => simp at h
    | cons w ws =>
      have hnext (j : Nat) : i + 1 + j = i + (j + 1) := by omega
      rw [planSlots, List.mem_append, ih (by simpa using h)]
      refine Iff.trans ?_ Nat.or_exists_add_one
      simp only [List.getElem?_cons_zero, List.getElem?_cons_succ, List.getD_cons_zero, List.getD_cons_succ, hnext]
      refine or_congr_left ?_
      obtain ⟨xi, xk, xc, xw, xl⟩ := x
      simp only [List.mem_map, Slot.mk.injEq, Option.some.injEq, exists_eq_left', Nat.add_zero]
      constructor
      · rintro ⟨n, hn, rfl, rfl, rfl, rfl, rfl⟩
        exact ⟨rfl, hn, rfl, rfl, rfl⟩
      · rintro ⟨rfl, hn, rfl, rfl, rfl⟩
        exact ⟨xc, hn, rfl, rfl, rfl, rfl, rfl⟩

/-- Entries of blocks of one length: entry b of block a. -/
theorem getElem?_flatMap_block {α β : Type} (B : α → List β) {per : Nat} (hB : ∀ a, (B a).length = per) (l : List α)
    (j : Nat) (y : β) : (l.flatMap B)[j]? = some y ↔ ∃ a b x, l[a]? = some x ∧ (B x)[b]? = some y ∧ j = a * per + b := by
  induction l generalizing j with
  | nil => simp
  | cons x l ih =>
    have hblock (b : Nat) (y : β) (hy : (B x)[b]? = some y) : b < per := by
      rw [← hB x]
      exact (List.getElem?_eq_some_iff.mp hy).1
    rw [List.flatMap_cons, List.getElem?_append, ← Nat.or_exists_add_one, hB]
    simp only [List.getElem?_cons_zero, List.getElem?_cons_succ, Option.some.injEq, exists_eq_left', Nat.zero_mul, Nat.zero_add]
    split
    · next hj =>
      refine ⟨fun hy => .inl ⟨j, hy, rfl⟩, ?_⟩
      rintro (⟨b, hy, rfl⟩ | ⟨a, b, z, -, -, rfl⟩)
      · exact hy
      · rw [Nat.succ_mul] at hj
        omega
    · next hj =>
      rw [ih]
      refine ⟨fun ⟨a, b, z, hz, hy, hpos⟩ => .inr ⟨a, b, z, hz, hy, by rw [Nat.succ_mul]; omega⟩, ?_⟩
      rintro (⟨b, hy, rfl⟩ | ⟨a, b, z, hz, hy, rfl⟩)
      · exact absurd (hblock _ y hy) hj
      · exact ⟨a, b, z, hz, hy, by rw [Nat.succ_mul]; omega⟩

/-- The op words of one cluster kind: one for all its clusters where they are templated, else one for each (03 R52). -/
def kindBlock (cl : List Nat) (t : Bool) (κ : Kind) : List (Kind × List Nat) :=
  if t then [(κ, cl)] else cl.map fun n => (κ, [n])

/-- Op words for each cluster kind (03 R52). -/
def wordsPerKind (c : BitVec 8) (t : Bool) : Nat := if t then 1 else onesCount c.toNat 0 8

theorem kindBlock_length (c : BitVec 8) (t : Bool) (κ : Kind) : (kindBlock (clustersOf c) t κ).length = wordsPerKind c t := by
  cases t <;> simp [kindBlock, wordsPerKind, onesCount, clustersOf_eq]

theorem packetPlan_eq (k c : BitVec 8) (t : Bool) : packetPlan k c t =
    (singleKinds k).map (fun κ => (κ, [0])) ++ (clusterKinds k).flatMap (kindBlock (clustersOf c) t) := rfl

theorem singleKinds_length (k : BitVec 8) : (singleKinds k).length = onesCount k.toNat 0 3 := by
  rw [singleKinds_eq, List.length_map, onesCount]

theorem packetPlan_length (k c : BitVec 8) (t : Bool) : (packetPlan k c t).length =
    onesCount k.toNat 0 3 + onesCount k.toNat 3 8 * wordsPerKind c t := by
  rw [packetPlan_eq, List.length_append, List.length_map, singleKinds_length, List.length_flatMap]
  simp only [kindBlock_length, List.map_const', List.sum_replicate, smul_eq_mul, clusterKinds_eq, List.length_map, onesCount]

/-- The place of an op word in its packet, as a count of the ones before it (03 R52). -/
def placeOf (k c : BitVec 8) (t : Bool) (κ : Kind) (n : Nat) : Nat :=
  if κ.num < 3 then onesCount k.toNat 0 κ.num
  else onesCount k.toNat 0 3 + onesCount k.toNat 3 κ.num * wordsPerKind c t + if t then 0 else onesCount c.toNat 0 n

/-- The clusters that a header gives to a kind: the ones of C, or cluster 0 for S, G and E (03 R51). -/
def OnCluster (c : BitVec 8) (κ : Kind) (n : Nat) : Prop := if κ.num < 3 then n = 0 else n < 8 ∧ c.toNat.testBit n = true

theorem exists_kindBlock (c : BitVec 8) (t : Bool) (κ κ' : Kind) (n b : Nat) :
    (∃ cl, (kindBlock (clustersOf c) t κ)[b]? = some (κ', cl) ∧ n ∈ cl) ↔
      κ' = κ ∧ (n < 8 ∧ c.toNat.testBit n = true) ∧ b = if t then 0 else onesCount c.toNat 0 n := by
  cases t with
  | true =>
    simp only [kindBlock, if_true, List.getElem?_singleton]
    by_cases hb : b = 0
    · simp [hb, mem_clustersOf, @eq_comm _ κ]
    · simp [hb]
  | false =>
    simp only [kindBlock, Bool.false_eq_true, if_false, List.getElem?_map, Option.map_eq_some_iff, getElem?_clustersOf]
    constructor
    · rintro ⟨_, ⟨m, ⟨hm, hbit, hpos⟩, ⟨⟩⟩, hn⟩
      obtain rfl := List.mem_singleton.mp hn
      exact ⟨rfl, ⟨hm, hbit⟩, hpos⟩
    · rintro ⟨rfl, ⟨hm, hbit⟩, hpos⟩
      exact ⟨[n], ⟨n, ⟨hm, hbit, hpos⟩, rfl⟩, List.mem_singleton_self n⟩

theorem exists_singlePlan (k : BitVec 8) (κ : Kind) (n j : Nat) :
    (∃ cl, ((singleKinds k).map fun κ => (κ, [0]))[j]? = some (κ, cl) ∧ n ∈ cl) ↔
      κ.num < 3 ∧ k.toNat.testBit κ.num = true ∧ n = 0 ∧ j = onesCount k.toNat 0 κ.num := by
  simp only [List.getElem?_map, Option.map_eq_some_iff, getElem?_singleKinds]
  constructor
  · rintro ⟨_, ⟨_, ⟨h3, hbit, hpos⟩, ⟨⟩⟩, hn⟩
    exact ⟨h3, hbit, List.mem_singleton.mp hn, hpos⟩
  · rintro ⟨h3, hbit, rfl, hpos⟩
    exact ⟨[0], ⟨κ, ⟨h3, hbit, hpos⟩, rfl⟩, List.mem_singleton_self 0⟩

theorem exists_clusterPlan (k c : BitVec 8) (t : Bool) (κ : Kind) (n j : Nat) :
    (∃ cl, ((clusterKinds k).flatMap (kindBlock (clustersOf c) t))[j]? = some (κ, cl) ∧ n ∈ cl) ↔
      3 ≤ κ.num ∧ k.toNat.testBit κ.num = true ∧ (n < 8 ∧ c.toNat.testBit n = true) ∧
        j = onesCount k.toNat 3 κ.num * wordsPerKind c t + if t then 0 else onesCount c.toNat 0 n := by
  simp only [getElem?_flatMap_block _ (kindBlock_length c t), getElem?_clusterKinds]
  constructor
  · rintro ⟨cl, ⟨a, b, κ', ⟨h3, hbit, rfl⟩, hb, rfl⟩, hn⟩
    obtain ⟨rfl, hc, rfl⟩ := (exists_kindBlock c t κ' κ n b).mp ⟨cl, hb, hn⟩
    exact ⟨h3, hbit, hc, rfl⟩
  · rintro ⟨h3, hbit, hc, rfl⟩
    obtain ⟨cl, hb, hn⟩ := (exists_kindBlock c t κ κ n _).mpr ⟨rfl, hc, rfl⟩
    exact ⟨cl, ⟨_, _, κ, ⟨h3, hbit, rfl⟩, hb, rfl⟩, hn⟩

/-- An entry of one list or of the next. -/
theorem getElem?_append_eq_some {α : Type} (l m : List α) (j : Nat) (y : α) :
    (l ++ m)[j]? = some y ↔ l[j]? = some y ∨ ∃ i, m[i]? = some y ∧ j = l.length + i := by
  rw [List.getElem?_append]
  split
  · next hj => exact ⟨.inl, fun h => h.resolve_right fun ⟨i, _, hi⟩ => by omega⟩
  · next hj =>
    rw [List.getElem?_eq_none (Nat.le_of_not_lt hj)]
    refine ⟨fun h => .inr ⟨_, h, by omega⟩, ?_⟩
    rintro (⟨⟨⟩⟩ | ⟨i, h, rfl⟩)
    rwa [Nat.add_sub_cancel_left]

/-- The entries of a packet's plan: each kind and cluster that the header names, at its place. -/
theorem exists_packetPlan (k c : BitVec 8) (t : Bool) (κ : Kind) (n j : Nat) :
    (∃ cl, (packetPlan k c t)[j]? = some (κ, cl) ∧ n ∈ cl) ↔
      k.toNat.testBit κ.num = true ∧ OnCluster c κ n ∧ j = placeOf k c t κ n := by
  have hsplit : (∃ cl, (packetPlan k c t)[j]? = some (κ, cl) ∧ n ∈ cl) ↔
      (∃ cl, ((singleKinds k).map fun κ => (κ, [0]))[j]? = some (κ, cl) ∧ n ∈ cl) ∨
      ∃ i, (∃ cl, ((clusterKinds k).flatMap (kindBlock (clustersOf c) t))[i]? = some (κ, cl) ∧ n ∈ cl) ∧
        j = (singleKinds k).length + i := by
    simp only [packetPlan_eq, getElem?_append_eq_some, List.length_map]
    grind
  rw [hsplit, exists_singlePlan, singleKinds_length]
  simp only [exists_clusterPlan, OnCluster, placeOf]
  by_cases h3 : κ.num < 3
  · simp [h3]
  · simp only [h3, Nat.le_of_not_lt h3, false_and, false_or, true_and, if_false]
    constructor
    · rintro ⟨i, ⟨hbit, hc, rfl⟩, rfl⟩
      exact ⟨hbit, hc, (Nat.add_assoc _ _ _).symm⟩
    · rintro ⟨hbit, hc, rfl⟩
      exact ⟨_, ⟨hbit, hc, rfl⟩, Nat.add_assoc _ _ _⟩

/-! ## The slots of a packet -/

/-- The slots of a packet are those that its header names: their kinds and clusters, their words in the order of R52, and the
literals of the packet. -/
theorem mem_packetSlots (k c : BitVec 8) (t : Bool) (lits ws : List Word) (h : (packetPlan k c t).length ≤ ws.length)
    (x : Slot) : x ∈ planSlots lits 0 (packetPlan k c t) ws ↔ k.toNat.testBit x.kind.num = true ∧ OnCluster c x.kind x.cluster ∧
      x.lits = lits ∧ x.word = ws.getD x.idx 0#32 ∧ x.idx = placeOf k c t x.kind x.cluster := by
  have hplan := exists_packetPlan k c t x.kind x.cluster
  rw [mem_planSlots h]
  constructor
  · rintro ⟨j, ⟨κ, cl⟩, hp, rfl, hn, hj, hw, hl⟩
    obtain rfl : x.idx = j := by rw [hj, Nat.zero_add]
    obtain ⟨hbit, hc, hpos⟩ := (hplan x.idx).mp ⟨cl, hp, hn⟩
    exact ⟨hbit, hc, hl, hw, hpos⟩
  · rintro ⟨hbit, hc, hl, hw, hpos⟩
    obtain ⟨cl, hp, hn⟩ := (hplan x.idx).mpr ⟨hbit, hc, hpos⟩
    exact ⟨x.idx, (x.kind, cl), hp, rfl, hn, (Nat.zero_add _).symm, hw, hl⟩

/-- Two slots name the same kind and cluster (03 R53). -/
def Slot.Same (x y : Slot) : Prop := x.kind = y.kind ∧ x.cluster = y.cluster

theorem dupSlot_eq_false_iff (l : List Slot) : dupSlot l = false ↔ l.Pairwise fun x y => ¬ x.Same y := by
  induction l with
  | nil => simp [dupSlot]
  | cons x l ih => simp [dupSlot, ih, Slot.Same]

/-- The slots of a plan, in order, by their kinds and clusters. -/
theorem map_planSlots {lits : List Word} {ps : List (Kind × List Nat)} {ws : List Word} (h : ps.length ≤ ws.length) (i : Nat) :
    (planSlots lits i ps ws).map (fun x => (x.kind, x.cluster)) = ps.flatMap fun p => p.2.map fun n => (p.1, n) := by
  induction ps generalizing i ws with
  | nil => cases ws <;> rfl
  | cons p ps ih =>
    cases ws with
    | nil => simp at h
    | cons w ws =>
      rw [planSlots, List.map_append, ih (by simpa using h), List.flatMap_cons, List.map_map]
      rfl

theorem kinds_nodup (lo hi n : Nat) (hhi : hi ≤ 8) : (((List.range hi).filter (onesFrom lo n)).map kindOfNum).Nodup := by
  refine (List.nodup_range.filter _).map_on fun a ha b hb hab => ?_
  have ha8 : a < hi := List.mem_range.mp (List.mem_of_mem_filter ha)
  have hb8 : b < hi := List.mem_range.mp (List.mem_of_mem_filter hb)
  rw [← num_kindOfNum a (by omega), hab, num_kindOfNum b (by omega)]

/-- No packet names a kind and a cluster twice (03 R53). -/
theorem packetPlan_nodup (k c : BitVec 8) (t : Bool) :
    ((packetPlan k c t).flatMap fun p => p.2.map fun n => (p.1, n)).Nodup := by
  have hblock (κ : Kind) : ((kindBlock (clustersOf c) t κ).flatMap fun p => p.2.map fun n => (p.1, n)) =
      (clustersOf c).map (Prod.mk κ) := by
    cases t with
    | true => simp [kindBlock]
    | false => simp [kindBlock, List.flatMap_map, ← List.map_eq_flatMap]
  rw [packetPlan_eq, List.flatMap_append, List.flatMap_map, List.flatMap_assoc]
  simp only [hblock, List.map_singleton]
  rw [← List.map_eq_flatMap]
  refine List.Nodup.append ?singles ?clusters fun x hx hy => ?disjoint
  case singles =>
    rw [singleKinds_eq]
    exact (kinds_nodup 0 3 _ (by omega)).map fun a b hab => (Prod.mk.inj hab).1
  case clusters =>
    rw [clusterKinds_eq]
    exact (kinds_nodup 3 8 _ (by omega)).product (List.nodup_range.filter _)
  case disjoint =>
    obtain ⟨κ, hκ, rfl⟩ := List.mem_map.mp hx
    obtain ⟨a, ha⟩ := List.mem_iff_getElem?.mp hκ
    obtain ⟨κ', hκ', hn⟩ := List.mem_flatMap.mp hy
    obtain ⟨n, -, ⟨⟩⟩ := List.mem_map.mp hn
    obtain ⟨b, hb⟩ := List.mem_iff_getElem?.mp hκ'
    have h3 := ((getElem?_singleKinds k a κ).mp ha).1
    have h3' := ((getElem?_clusterKinds k b κ).mp hb).1
    omega

theorem pairwise_packetSlots (k c : BitVec 8) (t : Bool) (lits ws : List Word) (h : (packetPlan k c t).length ≤ ws.length)
    (i : Nat) : (planSlots lits i (packetPlan k c t) ws).Pairwise fun x y => ¬ x.Same y := by
  have hnodup := packetPlan_nodup k c t
  rw [← map_planSlots (lits := lits) h i, List.Nodup, List.pairwise_map] at hnodup
  exact hnodup.imp fun hne hs => hne (Prod.ext hs.1 hs.2)

/-! ## One packet -/

/-- The op words that a header names, in order (03 R52). -/
def headerPlan (h : Word) : List (Kind × List Nat) := packetPlan (h.extractLsb' 0 8) (h.extractLsb' 8 8) (h.getLsbD 16)
/-- The literal words of a header (03 R51). -/
def headerLits (h : Word) : Nat := (h.extractLsb' 18 3).toNat
/-- The slots of a packet whose op words are numbered from a number on, from the words after its header (03 R52). -/
def packetSlots (h : Word) (i : Nat) (ws : List Word) : List Slot :=
  planSlots ((ws.drop (headerPlan h).length).take (headerLits h)) i (headerPlan h) ws

/-- A header that R68 refuses for none of its own fields. -/
structure HeaderOk (h : Word) : Prop where
  reserved : h.extractLsb' 21 11 = 0#11
  kinds : h.extractLsb' 0 8 ≠ 0#8
  clusters : clusterKinds (h.extractLsb' 0 8) = [] ↔ h.extractLsb' 8 8 = 0#8

theorem parsePackets_reserved (fuel : Nat) (h0 h : Word) (idx n : Nat) (acc : List Slot) (ws : List Word)
    (hr : h.extractLsb' 21 11 ≠ 0#11) : parsePackets (fuel + 1) h0 idx n acc (h :: ws) = .bad 0x00 h := by
  rw [parsePackets, if_pos (by simpa using hr)]

theorem parsePackets_noKind (fuel : Nat) (h0 h : Word) (idx n : Nat) (acc : List Slot) (ws : List Word)
    (hr : h.extractLsb' 21 11 = 0#11) (hk : h.extractLsb' 0 8 = 0#8) :
    parsePackets (fuel + 1) h0 idx n acc (h :: ws) = .bad 0x06 h := by
  rw [parsePackets, if_neg (by simpa using hr), if_pos hk]

theorem parsePackets_noCluster (fuel : Nat) (h0 h : Word) (idx n : Nat) (acc : List Slot) (ws : List Word)
    (hr : h.extractLsb' 21 11 = 0#11) (hk : h.extractLsb' 0 8 ≠ 0#8) (hck : clusterKinds (h.extractLsb' 0 8) ≠ [])
    (hc : h.extractLsb' 8 8 = 0#8) : parsePackets (fuel + 1) h0 idx n acc (h :: ws) = .bad 0x01 h := by
  rw [parsePackets, if_neg (by simpa using hr), if_neg hk, if_pos (by simpa [hc] using hck)]

theorem parsePackets_noClusterKind (fuel : Nat) (h0 h : Word) (idx n : Nat) (acc : List Slot) (ws : List Word)
    (hr : h.extractLsb' 21 11 = 0#11) (hk : h.extractLsb' 0 8 ≠ 0#8) (hck : clusterKinds (h.extractLsb' 0 8) = [])
    (hc : h.extractLsb' 8 8 ≠ 0#8) : parsePackets (fuel + 1) h0 idx n acc (h :: ws) = .bad 0x02 h := by
  rw [parsePackets, if_neg (by simpa using hr), if_neg hk, if_neg (by simp [hc]), if_pos (by simp [hc, hck])]

/-- A packet under a header that is not refused for its fields: its words are there or not, its slots are new or not, and it ends
the bundle or not. -/
theorem parsePackets_ok (fuel : Nat) (h0 : Word) {h : Word} (idx n : Nat) (acc : List Slot) (ws : List Word)
    (hok : HeaderOk h) : parsePackets (fuel + 1) h0 idx n acc (h :: ws) =
      if ws.length < (headerPlan h).length + headerLits h then .bad 0x03 h
      else if dupSlot (acc ++ packetSlots h idx ws) then .bad 0x05 h
      else if h.getLsbD 17 then .bundle (n + 1 + ((headerPlan h).length + headerLits h)) (acc ++ packetSlots h idx ws)
      else parsePackets fuel h (idx + (headerPlan h).length) (n + 1 + ((headerPlan h).length + headerLits h))
        (acc ++ packetSlots h idx ws) (ws.drop ((headerPlan h).length + headerLits h)) := by
  obtain ⟨hr, hk, hc⟩ := hok
  rw [parsePackets, if_neg (by simpa using hr), if_neg hk, if_neg (by simp [hc]), if_neg (by simp [hc])]
  rfl

/-- A header is refused for one of its own fields, or it is not (03 R68). -/
theorem headerOk_or_bad (h : Word) : HeaderOk h ∨
    ∃ code, ∀ fuel h0 idx n acc ws, parsePackets (fuel + 1) h0 idx n acc (h :: ws) = .bad code h := by
  by_cases hr : h.extractLsb' 21 11 = 0#11
  case neg => exact .inr ⟨_, fun _ _ _ _ _ _ => parsePackets_reserved _ _ _ _ _ _ _ hr⟩
  by_cases hk : h.extractLsb' 0 8 = 0#8
  case pos => exact .inr ⟨_, fun _ _ _ _ _ _ => parsePackets_noKind _ _ _ _ _ _ _ hr hk⟩
  by_cases hck : clusterKinds (h.extractLsb' 0 8) = [] <;> by_cases hc : h.extractLsb' 8 8 = 0#8
  · exact .inl ⟨hr, hk, by simp [hck, hc]⟩
  · exact .inr ⟨_, fun _ _ _ _ _ _ => parsePackets_noClusterKind _ _ _ _ _ _ _ hr hk hck hc⟩
  · exact .inr ⟨_, fun _ _ _ _ _ _ => parsePackets_noCluster _ _ _ _ _ _ _ hr hk hck hc⟩
  · exact .inl ⟨hr, hk, by simp [hck, hc]⟩

/-- No packet's own slots are named twice. -/
theorem dupSlot_packetSlots (h : Word) (i : Nat) {ws : List Word} (hlen : (headerPlan h).length ≤ ws.length) :
    dupSlot (packetSlots h i ws) = false :=
  (dupSlot_eq_false_iff _).mpr (pairwise_packetSlots _ _ _ _ _ hlen i)

theorem decodeBundle_cons {h : Word} (ws : List Word) (h0 : h ≠ 0#32) (hZ : h ≠ 0x00020000#32) :
    decodeBundle (h :: ws) = parsePackets 4 h 0 0 [] (h :: ws) := by
  rw [decodeBundle, if_neg h0, if_neg hZ]

/-- A packet that ends its bundle: its slots, where its words are there. -/
theorem decodeBundle_last {h : Word} {ws : List Word} (h0 : h ≠ 0#32) (hZ : h ≠ 0x00020000#32) (hok : HeaderOk h)
    (hz : h.getLsbD 17 = true) (hlen : (headerPlan h).length + headerLits h ≤ ws.length) :
    decodeBundle (h :: ws) = .bundle (1 + ((headerPlan h).length + headerLits h)) (packetSlots h 0 ws) := by
  rw [decodeBundle_cons ws h0 hZ, parsePackets_ok 3 h 0 0 [] ws hok, if_neg (by omega), List.nil_append,
    dupSlot_packetSlots h 0 (by omega), if_neg (by simp), if_pos hz, Nat.zero_add]

/-- What decodes as a bundle whose first header ends it has that one packet. -/
theorem of_decodeBundle_last {h : Word} {ws : List Word} {m : Nat} {sl : List Slot} (hz : h.getLsbD 17 = true)
    (hd : decodeBundle (h :: ws) = .bundle m sl) : h ≠ 0x00020000#32 ∧ HeaderOk h ∧
      (headerPlan h).length + headerLits h ≤ ws.length ∧ m = 1 + ((headerPlan h).length + headerLits h) ∧
      sl = packetSlots h 0 ws := by
  have h0 : h ≠ 0#32 := by
    rintro rfl
    simp at hz
  have hZ : h ≠ 0x00020000#32 := by
    rintro rfl
    simp [decodeBundle] at hd
  obtain hok | ⟨code, hbad⟩ := headerOk_or_bad h
  · by_cases hlen : (headerPlan h).length + headerLits h ≤ ws.length
    · rw [decodeBundle_last h0 hZ hok hz hlen] at hd
      obtain ⟨rfl, rfl⟩ := Fetched.bundle.inj hd
      exact ⟨hZ, hok, hlen, rfl, rfl⟩
    · rw [decodeBundle_cons ws h0 hZ, parsePackets_ok 3 h 0 0 [] ws hok, if_pos (by omega)] at hd
      cases hd
  · rw [decodeBundle_cons ws h0 hZ, hbad] at hd
    cases hd

/-! ## A further packet -/

/-- Op words numbered from a number on. -/
theorem planSlots_shift (lits : List Word) (ps : List (Kind × List Nat)) (ws : List Word) (i d : Nat) :
    planSlots lits (i + d) ps ws = (planSlots lits i ps ws).map fun y => { y with idx := y.idx + d } := by
  induction ps generalizing i ws with
  | nil => cases ws <;> rfl
  | cons p ps ih =>
    cases ws with
    | nil => rfl
    | cons w ws =>
      rw [planSlots, planSlots, List.map_append, List.map_map, ← ih, Nat.add_right_comm]
      rfl

theorem packetSlots_shift (h : Word) (ws : List Word) (d : Nat) :
    packetSlots h d ws = (packetSlots h 0 ws).map fun y => { y with idx := y.idx + d } := by
  rw [packetSlots, packetSlots, ← planSlots_shift, Nat.zero_add]

/-- A plan takes no more words than it has entries. -/
theorem planSlots_append {lits : List Word} {ps : List (Kind × List Nat)} {ws : List Word} (vs : List Word)
    (h : ps.length ≤ ws.length) (i : Nat) : planSlots lits i ps (ws ++ vs) = planSlots lits i ps ws := by
  induction ps generalizing i ws with
  | nil => cases ws <;> cases vs <;> rfl
  | cons p ps ih =>
    cases ws with
    | nil => simp at h
    | cons w ws => rw [List.cons_append, planSlots, planSlots, ih (by simpa using h)]

theorem packetSlots_append {h : Word} {ws : List Word} (vs : List Word) (i : Nat)
    (hlen : (headerPlan h).length + headerLits h ≤ ws.length) : packetSlots h i (ws ++ vs) = packetSlots h i ws := by
  rw [packetSlots, packetSlots, planSlots_append vs (by omega), List.drop_append_of_le_length (by omega),
    List.take_append_of_le_length (by rw [List.length_drop]; omega)]

/-- Slots of two packets are named twice where a slot of one is a slot of the other (03 R53). -/
theorem dupSlot_append {sl tl : List Slot} (hs : dupSlot sl = false) (ht : dupSlot tl = false) :
    dupSlot (sl ++ tl) = true ↔ ∃ x ∈ sl, ∃ y ∈ tl, x.Same y := by
  rw [dupSlot_eq_false_iff] at hs ht
  rw [← Bool.not_eq_false, dupSlot_eq_false_iff, List.pairwise_append]
  simp [hs, ht]

/-- The Z bit is no other field of a header (03 R51). -/
theorem extractLsb'_or_Z (h : Word) (lo n : Nat) (hz : (0x00020000#32).extractLsb' lo n = 0#n) :
    (h ||| 0x00020000#32).extractLsb' lo n = h.extractLsb' lo n := by
  rw [BitVec.extractLsb'_or, hz, BitVec.or_zero]
theorem headerPlan_or_Z (h : Word) : headerPlan (h ||| 0x00020000#32) = headerPlan h := by
  rw [headerPlan, extractLsb'_or_Z h 0 8 (by decide), extractLsb'_or_Z h 8 8 (by decide), BitVec.getLsbD_or]
  simp [headerPlan]
theorem headerLits_or_Z (h : Word) : headerLits (h ||| 0x00020000#32) = headerLits h := by
  rw [headerLits, extractLsb'_or_Z h 18 3 (by decide), headerLits]
theorem HeaderOk.of_or_Z {h : Word} (hok : HeaderOk (h ||| 0x00020000#32)) : HeaderOk h := by
  obtain ⟨hr, hk, hc⟩ := hok
  rw [extractLsb'_or_Z h _ _ (by decide)] at hr hk
  rw [extractLsb'_or_Z h 0 8 (by decide), extractLsb'_or_Z h 8 8 (by decide)] at hc
  exact ⟨hr, hk, hc⟩
theorem packetSlots_or_Z (h : Word) (i : Nat) (ws : List Word) :
    packetSlots (h ||| 0x00020000#32) i ws = packetSlots h i ws := by
  rw [packetSlots, packetSlots, headerPlan_or_Z, headerLits_or_Z]

/-- A packet, and one that ends the bundle behind it. -/
theorem decodeBundle_further {h g : Word} {ws vs : List Word} (h0 : h ≠ 0#32) (hz : h.getLsbD 17 = false)
    (hg : g.getLsbD 17 = true) (hok : HeaderOk h) (gok : HeaderOk g) (hlen : (headerPlan h).length + headerLits h = ws.length)
    (glen : (headerPlan g).length + headerLits g ≤ vs.length) : decodeBundle (h :: (ws ++ g :: vs)) =
      if dupSlot (packetSlots h 0 ws ++ packetSlots g (headerPlan h).length vs) then .bad 0x05 g
      else .bundle (1 + ws.length + (1 + ((headerPlan g).length + headerLits g)))
        (packetSlots h 0 ws ++ packetSlots g (headerPlan h).length vs) := by
  have hZ : h ≠ 0x00020000#32 := by
    rintro rfl
    simp at hz
  rw [decodeBundle_cons _ h0 hZ, parsePackets_ok 3 h 0 0 [] _ hok, if_neg (by simp; omega), List.nil_append, Nat.zero_add,
    packetSlots_append _ _ (by omega), dupSlot_packetSlots h 0 (by omega), if_neg (by simp), hz, if_neg (by simp), hlen,
    List.drop_left, Nat.zero_add, parsePackets_ok 2 h _ _ _ vs gok, if_neg (by omega), hg, if_pos rfl,
    Nat.add_assoc (1 + ws.length)]

theorem toNat_field (h : Word) (lo n : Nat) : (h.extractLsb' lo n).toNat = h.toNat / 2 ^ lo % 2 ^ n := by
  rw [BitVec.extractLsb'_toNat, Nat.shiftRight_eq_div_pow]

/-- The reserved bits of a header are zero (03 R51). -/
theorem headerReserved_iff (h : Word) : h.extractLsb' 21 11 = 0#11 ↔ h.toNat < 2 ^ 21 := by
  have hlt := h.isLt
  rw [← BitVec.toNat_inj, toNat_field, BitVec.toNat_ofNat]
  omega

/-- Settles O54: the checks of a header by parsePackets' lemmas; its slots by the plan's, whose places are counts of ones; and a
further packet behind the words of the first. -/
theorem bundlesDecodeByTheirHeaders : Obligations.BundlesDecodeByTheirHeaders := by
  refine ⟨fun ws => ⟨rfl, rfl⟩, ?one, ?further⟩
  case one =>
    intro h ws h0 hZ k c lits ones per size
    have hk : (h.extractLsb' 0 8).toNat = k := by rw [toNat_field, Nat.pow_zero, Nat.div_one]
    have hc : (h.extractLsb' 8 8).toNat = c := toNat_field h 8 8
    have hl : headerLits h = lits := toNat_field h 18 3
    have hplan : (headerPlan h).length = ones k 0 3 + ones k 3 8 * per := by
      rw [headerPlan, packetPlan_length, hk, wordsPerKind, hc]
      rfl
    have hsize : (headerPlan h).length + headerLits h = size := by rw [hplan, hl]
    have hk0 : h.extractLsb' 0 8 = 0#8 ↔ k = 0 := by rw [← BitVec.toNat_inj, hk]; rfl
    have hc0 : h.extractLsb' 8 8 = 0#8 ↔ c = 0 := by rw [← BitVec.toNat_inj, hc]; rfl
    have hck : clusterKinds (h.extractLsb' 0 8) = [] ↔ k < 8 := by rw [clusterKinds_eq_nil, hk]
    clear_value k c lits
    rw [decodeBundle_cons ws h0 hZ]
    refine ⟨fun hr => parsePackets_reserved _ _ _ _ _ _ _ (by rw [Ne, headerReserved_iff]; omega), fun hr => ?_⟩
    rw [← headerReserved_iff] at hr
    refine ⟨fun hk' => parsePackets_noKind _ _ _ _ _ _ _ hr (hk0.mpr hk'),
      fun h8 hc' => parsePackets_noCluster _ _ _ _ _ _ _ hr (mt hk0.mp (by omega)) (mt hck.mp (by omega)) (hc0.mpr hc'),
      fun hk' h8 hc' => parsePackets_noClusterKind _ _ _ _ _ _ _ hr (mt hk0.mp (by omega)) (hck.mpr h8) (mt hc0.mp hc'),
      ?short, ?last⟩
    case short =>
      intro hk' hkc hlen
      have hok : HeaderOk h := ⟨hr, mt hk0.mp (by omega), by rw [hck, hc0]; omega⟩
      rw [parsePackets_ok 3 h 0 0 [] ws hok, if_pos (by omega)]
    case last =>
      intro hk' hkc hlen hz
      have hok : HeaderOk h := ⟨hr, mt hk0.mp (by omega), by rw [hck, hc0]; omega⟩
      rw [← decodeBundle_cons ws h0 hZ, decodeBundle_last h0 hZ hok hz (by omega), hsize]
      refine ⟨_, rfl, fun x => ?_⟩
      have hdrop : size - lits = (headerPlan h).length := by omega
      rw [packetSlots, headerPlan, mem_packetSlots _ _ _ _ _ (by rw [← headerPlan]; omega), ← headerPlan, hdrop, hl,
        OnCluster, placeOf, hk, hc, wordsPerKind, hc]
      rfl
  case further =>
    intro h g ws vs n sl tl hz hg hs ht
    have hz' : (h ||| 0x00020000#32).getLsbD 17 = true := by simp
    obtain ⟨hZ, hok, hlen, hm, rfl⟩ := of_decodeBundle_last hz' hs
    obtain ⟨-, gok, glen, rfl, rfl⟩ := of_decodeBundle_last hg ht
    rw [headerPlan_or_Z, headerLits_or_Z] at hlen hm
    have h0 : h ≠ 0#32 := by
      rintro rfl
      exact hZ rfl
    have hfield : h.toNat / 2 ^ 18 % 8 = headerLits h := (toNat_field h 18 3).symm
    have hplan : ws.length - headerLits h = (headerPlan h).length := by omega
    have hdup := dupSlot_append (dupSlot_packetSlots h 0 (ws := ws) (by omega))
      (dupSlot_packetSlots g (headerPlan h).length (ws := vs) (by omega))
    rw [packetSlots_shift g] at hdup
    rw [List.cons_append, decodeBundle_further h0 hz hg hok.of_or_Z gok (by omega) glen, packetSlots_or_Z, hfield, hplan,
      packetSlots_shift g]
    refine if_congr (hdup.trans ?_) rfl rfl
    simp [Slot.Same]

end Sys2Proof
end

section
/-! O55 (03 R56 to R60, R68, R69, R74, 08 R172, 18 R377): the causes that an encoding decides, the destinations that two slots
share, and which of a bundle's causes is reported and how its trap is taken. -/

namespace Sys2Proof

/-! ## Operand faults as conditions on the fields -/

@[simp] theorem faultIf_eq_none (c : Bool) (pos : Nat) : faultIf c pos = none ↔ c = false := by
  cases c <;> simp [faultIf]

@[simp] theorem firstOf_nil : firstOf [] = none := rfl
@[simp] theorem firstOf_cons_eq_none (o : Option Nat) (l : List (Option Nat)) :
    firstOf (o :: l) = none ↔ o = none ∧ firstOf l = none := by
  cases o <;> simp [firstOf]

/-- A field of a word or of another field, as a number. -/
theorem field_eq_iff {w : Nat} (x : BitVec w) (lo n v : Nat) :
    x.extractLsb' lo n = BitVec.ofNat n v ↔ x.toNat / 2 ^ lo % 2 ^ n = v % 2 ^ n := by
  rw [← BitVec.toNat_inj, BitVec.extractLsb'_toNat, Nat.shiftRight_eq_div_pow, BitVec.toNat_ofNat]

/-- A scalar op word has the operand faults of its entry alone. -/
theorem operandFault_scalar {L n : Nat} {i : Instr} (hv : vshape i = none) (hg : gfield i = none) (he : efield i = none) :
    operandFault L n i = sFault L n i := by
  simp only [operandFault, hv, gFault, hg, eFault, he]
  cases sFault L n i <;> rfl

/-- A G op word has those of its order and scope. -/
theorem operandFault_global {L n : Nat} {i : Instr} (hv : vshape i = none) (he : efield i = none) (hs : sFault L n i = none) :
    operandFault L n i = gFault i := by
  simp only [operandFault, hv, hs, eFault, he]
  cases gFault i <;> rfl

/-- An E op word has those of its imm10. -/
theorem operandFault_engine {L n : Nat} {i : Instr} (hv : vshape i = none) (hg : gfield i = none) (hs : sFault L n i = none) :
    operandFault L n i = eFault i := by
  simp only [operandFault, hv, hs, gFault, hg]
  cases eFault i <;> rfl

/-- A vector op word has those of its sources, its destination and its element type. -/
theorem operandFault_vector {L n : Nat} {i : Instr} {f : VR} {sh : VShape} (hv : vshape i = some (f, sh)) :
    operandFault L n i = none ↔ (sh.a = true → srcFault L 12 f.a = none) ∧ (sh.b = true → srcFault L 6 f.b = none) ∧
      dFault L f sh.d = none ∧ tyFault f.t sh.ty = none ∧ vextraFault i = none := by
  simp only [operandFault, hv, firstOf_cons_eq_none, firstOf_nil, ite_eq_right_iff, and_true]

/-- A source code is a register, a latch, a hold, a literal that the packet has, or a stream (03 R56). -/
theorem srcFault_eq_none_iff {L : Nat} (hL : L < 8) (pos : Nat) (c : BitVec 6) : srcFault L pos c = none ↔
    c.toNat < 38 ∨ (40 ≤ c.toNat ∧ c.toNat < 40 + L) ∨ 48 ≤ c.toNat := by
  have hlt := c.isLt
  have h38 : c = 38#6 ↔ c.toNat = 38 := by rw [← BitVec.toNat_inj]; rfl
  have h39 : c = 39#6 ↔ c.toNat = 39 := by rw [← BitVec.toNat_inj]; rfl
  simp only [srcFault, faultIf_eq_none, Bool.or_eq_false_iff, Bool.and_eq_false_iff, decide_eq_false_iff_not, field_eq_iff, h38, h39,
    BitVec.extractLsb'_toNat, Nat.shiftRight_eq_div_pow]
  omega

/-- A destination code is a register or a stream, and any with nw = 1 (03 R57). -/
theorem dFault_dest_eq_none_iff (L : Nat) (f : VR) : dFault L f .dest = none ↔
    f.w = true ∨ f.d.toNat < 32 ∨ 48 ≤ f.d.toNat := by
  have hlt := f.d.isLt
  simp only [dFault, faultIf_eq_none, Bool.and_eq_false_iff, Bool.not_eq_false', decide_eq_false_iff_not, field_eq_iff, decide_eq_true_eq]
  rw [or_assoc]
  exact or_congr_right (by omega)

theorem dFault_source (L : Nat) (f : VR) : dFault L f .source = srcFault L 19 f.d := rfl

/-- imm15 names literal word 0 only where the packet has one (03 R59). -/
theorem noLiteral_eq_false_iff (L : Nat) (i : BitVec 15) :
    (decide (i = 0x4000#15) && decide (L = 0)) = false ↔ (i = 0x4000#15 → 0 < L) := by
  simp [Nat.pos_iff_ne_zero]

/-- The S op words (04, 05). -/
theorem scalarOperands (L n : Nat) (f : SR) :
    let ok (i : Instr) : Prop := operandFault L n i = none
    let m := f.f.toNat
    (ok (.sext f) ↔ 1 ≤ m ∧ m ≤ 64) ∧ (ok (.bfx f) ↔ m + f.b.toNat + 1 ≤ 64) ∧ (ok (.bfi f) ↔ m + f.b.toNat + 1 ≤ 64) ∧
      (ok (.cmp f) ↔ f.d.toNat < 8 ∧ m % 8 ≤ 5) ∧
      (ok (.plog f) ↔ f.d.toNat < 8 ∧ f.a.toNat < 8 ∧ f.b.toNat < 8 ∧ m < 16) ∧
      (ok (.loop f) ↔ f.d.toNat % 16 = 0 ∧ n ≤ f.b.toNat * 128 + m) ∧ (ok (.park f) ↔ m = 127 → 0 < L) ∧ (ok (.wait f) ↔ m = 127 → 0 < L) := by
  intro ok m
  have hm := f.f.isLt
  have hd := f.d.isLt
  have ha := f.a.isLt
  have hb := f.b.isLt
  have h127 : f.f = 0x7F#7 ↔ m = 127 := by rw [← BitVec.toNat_inj]; rfl
  have hend : loopEnd f = f.b.toNat * 128 + m := by
    rw [loopEnd, BitVec.toNat_append, ← Nat.shiftLeft_add_eq_or_of_lt hm, Nat.shiftLeft_eq]
  simp only [ok, operandFault_scalar (i := .sext f) rfl rfl rfl, operandFault_scalar (i := .bfx f) rfl rfl rfl,
    operandFault_scalar (i := .bfi f) rfl rfl rfl, operandFault_scalar (i := .cmp f) rfl rfl rfl,
    operandFault_scalar (i := .plog f) rfl rfl rfl, operandFault_scalar (i := .loop f) rfl rfl rfl,
    operandFault_scalar (i := .park f) rfl rfl rfl, operandFault_scalar (i := .wait f) rfl rfl rfl, sFault,
    firstOf_cons_eq_none, firstOf_nil, faultIf_eq_none, and_true, Bool.not_eq_false', Bool.and_eq_false_iff,
    decide_eq_false_iff_not, decide_eq_true_eq, field_eq_iff, BitVec.extractLsb'_toNat, Nat.shiftRight_eq_div_pow, h127, hend]
  refine ⟨?_, ?_, ?_, ?_, ?_, ?_, ?_, ?_⟩ <;> omega

/-- The S op words with an immediate (03 R59, 04 R94, R96). -/
theorem immediateOperands (L n : Nat) (f : SI) :
    let ok (i : Instr) : Prop := operandFault L n i = none
    let lit : Prop := f.i = 0x4000#15 → 0 < L
    (∀ i ∈ [Instr.addi f, .andi f, .ori f, .xori f, .shli f, .shri f, .sari f, .li f, .cmpi f, .yield f, .csrr f, .csrw f, .trap f],
        ok i ↔ lit) ∧
      (ok (.loopi f) ↔ lit ∧ n ≤ f.d.toNat % 16 * 32 + f.a.toNat) ∧ (ok (.iwin f) ↔ f.d.toNat < 2) := by
  intro ok lit
  refine ⟨fun i hi => ?literal, ?loopi, ?iwin⟩
  case literal =>
    have hfault : operandFault L n i = faultIf (f.i = 0x4000#15 && L = 0) 0 := by
      simp only [List.mem_cons, List.not_mem_nil, or_false] at hi
      rcases hi with rfl | rfl | rfl | rfl | rfl | rfl | rfl | rfl | rfl | rfl | rfl | rfl | rfl <;>
        exact operandFault_scalar rfl rfl rfl
    show operandFault L n i = none ↔ _
    rw [hfault, faultIf_eq_none, noLiteral_eq_false_iff]
  case loopi =>
    have ha := f.a.isLt
    have hend : loopiEnd f = f.d.toNat % 16 * 32 + f.a.toNat := by
      rw [loopiEnd, BitVec.toNat_append, ← Nat.shiftLeft_add_eq_or_of_lt ha, Nat.shiftLeft_eq, BitVec.extractLsb'_toNat,
        Nat.shiftRight_zero]
    simp only [ok, operandFault_scalar (i := .loopi f) rfl rfl rfl, sFault, firstOf_cons_eq_none, firstOf_nil,
      noLiteral_eq_false_iff, and_true, hend, faultIf_eq_none, decide_eq_false_iff_not, Nat.not_lt, lit]
  case iwin =>
    have hd := f.d.isLt
    simp only [ok, operandFault_scalar (i := .iwin f) rfl rfl rfl, sFault, faultIf_eq_none, Bool.not_eq_false', decide_eq_true_eq,
      field_eq_iff]
    omega

/-- Vector op words: sources, a destination and an element type (03 R55 to R57, R62). -/
theorem vectorOperands {L : Nat} (hL : L < 8) (n : Nat) (f : VR) :
    let ok (i : Instr) : Prop := operandFault L n i = none
    let src (c : Nat) : Prop := c < 38 ∨ (40 ≤ c ∧ c < 40 + L) ∨ 48 ≤ c
    let dest : Prop := f.w = true ∨ f.d.toNat < 32 ∨ 48 ≤ f.d.toNat
    (ok (.vadd f) ↔ src f.a.toNat ∧ src f.b.toNat ∧ dest ∧ f.t ≠ 3#2) ∧ (ok (.vmov f) ↔ src f.a.toNat ∧ dest) ∧
      (ok (.vst f) ↔ src f.a.toNat ∧ src f.b.toNat ∧ src f.d.toNat) := by
  intro ok src dest
  simp only [ok, operandFault_vector (i := .vadd f) rfl, operandFault_vector (i := .vmov f) rfl,
    operandFault_vector (i := .vst f) rfl, srcFault_eq_none_iff hL, dFault_dest_eq_none_iff, dFault_source, tyFault, vextraFault,
    faultIf_eq_none, decide_eq_false_iff_not, Bool.false_eq_true, true_imp_iff, false_imp_iff, true_and, and_true]
  exact ⟨Iff.rfl, Iff.rfl, Iff.rfl⟩

theorem orderOk_iff (plain acq rel sc : Bool) (f : GF) : orderOk plain acq rel sc f = true ↔
    (f.r.toNat = 0 ∧ plain = true ∧ f.s.toNat = 0) ∨ (f.r.toNat = 1 ∧ acq = true ∧ 1 ≤ f.s.toNat ∧ f.s.toNat ≤ 4) ∨
      (f.r.toNat = 2 ∧ rel = true ∧ 1 ≤ f.s.toNat ∧ f.s.toNat ≤ 4) ∨ (f.r.toNat = 3 ∧ sc = true ∧ 1 ≤ f.s.toNat ∧ f.s.toNat ≤ 4) := by
  have hr := f.r.isLt
  have hs : f.s = 0#3 ↔ f.s.toNat = 0 := by rw [← BitVec.toNat_inj]; rfl
  obtain h | h | h | h : f.r.toNat = 0 ∨ f.r.toNat = 1 ∨ f.r.toNat = 2 ∨ f.r.toNat = 3 := by omega
  all_goals simp [orderOk, h, hs]

/-- G op words: order, scope and the op's own fields (10 R229, R235, R236). -/
theorem globalOperands (L n : Nat) (f : GF) :
    let ok (i : Instr) : Prop := operandFault L n i = none
    let s := f.s.toNat
    let r := f.r.toNat
    let o := f.o.toNat
    (ok (.ldg f) ↔ (r = 0 ∧ s = 0) ∨ ((r = 1 ∨ r = 3) ∧ 1 ≤ s ∧ s ≤ 4)) ∧
      (ok (.stg f) ↔ (r = 0 ∧ s = 0) ∨ (2 ≤ r ∧ 1 ≤ s ∧ s ≤ 4)) ∧
      (ok (.amo f) ↔ ((r = 0 ∧ s = 0) ∨ (1 ≤ r ∧ 1 ≤ s ∧ s ≤ 4)) ∧ o / 64 ≤ 8) ∧
      (ok (.barInit f) ↔ r = 0 ∧ 1 ≤ s ∧ s ≤ 4 ∧ (512 ≤ o → s = 1)) := by
  intro ok s r o
  have hr : r < 4 := f.r.isLt
  have ho : o < 1024 := f.o.isLt
  have hr0 : f.r = 0#2 ↔ r = 0 := by rw [← BitVec.toNat_inj]; rfl
  have hs1 : f.s = 1#3 ↔ s = 1 := by rw [← BitVec.toNat_inj]; rfl
  have ho9 : f.o.getLsbD 9 = false ↔ o < 512 := by
    rw [BitVec.getLsbD, Nat.testBit_eq_decide_div_mod_eq, decide_eq_false_iff_not]
    omega
  simp only [ok, operandFault_global (i := .ldg f) rfl rfl rfl, operandFault_global (i := .stg f) rfl rfl rfl,
    operandFault_global (i := .amo f) rfl rfl rfl, operandFault_global (i := .barInit f) rfl rfl rfl, gFault, gfield, gOrderOk,
    firstOf_cons_eq_none, firstOf_nil, faultIf_eq_none, decide_eq_false_iff_not, Bool.not_eq_false', orderOk_iff, Bool.and_eq_true,
    Bool.and_eq_false_iff, decide_eq_true_eq, BitVec.extractLsb'_toNat, Nat.shiftRight_eq_div_pow, hr0, hs1, ho9, and_true, true_and,
    Bool.false_eq_true, false_and, and_false, false_or]
  clear hr0 hs1 ho9
  refine ⟨?_, ?_, ?_, ?_⟩ <;> omega

/-- E op words: imm10 (03 R61). -/
theorem engineOperands (L n : Nat) (f : EF) :
    (operandFault L n (.cqLvl f) = none ↔ f.i.toNat ≤ 5) ∧ (operandFault L n (.kvFork f) = none ↔ f.i = 0#10) := by
  have hi := f.i.isLt
  have hshift : f.i &&& 0x3F8#10 = f.i >>> 3 <<< 3 := by
    ext b hb
    interval_cases b <;> simp
  have hmask : f.i &&& 0x3F8#10 = 0#10 ↔ f.i.toNat < 8 := by
    rw [hshift, ← BitVec.toNat_inj, BitVec.toNat_shiftLeft, BitVec.toNat_ushiftRight, Nat.shiftLeft_eq,
      Nat.shiftRight_eq_div_pow, BitVec.toNat_ofNat]
    omega
  have hall : f.i &&& 0x3FF#10 = f.i := BitVec.and_allOnes
  simp only [operandFault_engine (i := .cqLvl f) rfl rfl rfl, operandFault_engine (i := .kvFork f) rfl rfl rfl, eFault, efield, immMask,
    firstOf_cons_eq_none, firstOf_nil, faultIf_eq_none, decide_eq_false_iff_not, Bool.not_eq_false', decide_eq_true_eq, hmask, hall,
    BitVec.extractLsb'_toNat, and_true]
  omega

end Sys2Proof

namespace Sys2Proof.Machine

/-! ## The causes that an encoding decides (03 R68, R69) -/

/-- The information of a slot's cause: the word, the cluster and the bit position side by side (03 R69). -/
theorem slotCause_info (x : Slot) (rank code pos : Nat) : (slotCause x rank code pos).info.toNat =
    x.word.toNat + x.cluster % 8 * 2 ^ 32 + pos % 2 ^ 29 * 2 ^ 35 := by
  have hw := x.word.isLt
  have hc : x.cluster % 8 < 8 := Nat.mod_lt _ (by decide)
  have hlow : x.word.toNat ||| (x.cluster % 8) <<< 32 = x.word.toNat + x.cluster % 8 * 2 ^ 32 := by
    rw [Nat.or_comm, ← Nat.shiftLeft_add_eq_or_of_lt hw, Nat.shiftLeft_eq, Nat.add_comm]
  have hpos : (pos % 2 ^ 64) <<< 35 % 2 ^ 64 = (pos % 2 ^ 29) <<< 35 := by
    rw [Nat.shiftLeft_eq, Nat.shiftLeft_eq]
    omega
  have hcl : (x.cluster % 8 % 2 ^ 64) <<< 32 % 2 ^ 64 = (x.cluster % 8) <<< 32 := by
    rw [Nat.shiftLeft_eq, Nat.shiftLeft_eq]
    omega
  have hlt : x.word.toNat + x.cluster % 8 * 2 ^ 32 < 2 ^ 35 := by omega
  simp only [slotCause, BitVec.toNat_or, BitVec.toNat_setWidth, BitVec.toNat_shiftLeft, BitVec.toNat_ofNat,
    Nat.mod_eq_of_lt (show x.word.toNat < 2 ^ 64 by omega), hcl, hpos, hlow]
  rw [Nat.or_comm, ← Nat.shiftLeft_add_eq_or_of_lt hlt, Nat.shiftLeft_eq, Nat.add_comm]

theorem decodeCauses_of_illegal {x : Slot} (n : Nat) (h : decodeOp x.kind x.word = none) :
    decodeCauses n x = [slotCause x 2 (0x08 + x.kind.num) 0] := by
  simp only [decodeCauses, slotInstr, h]

theorem decodeCauses_of_fault {x : Slot} {n : Nat} {i : Instr} {pos : Nat} (h : decodeOp x.kind x.word = some i)
    (hf : operandFault x.lits.length n i = some pos) : decodeCauses n x = [slotCause x 3 (0x10 + x.kind.num) pos] := by
  simp only [decodeCauses, slotInstr, h, hf]

theorem decodeCauses_of_legal {x : Slot} {n : Nat} {i : Instr} (h : decodeOp x.kind x.word = some i)
    (hf : operandFault x.lits.length n i = none) : decodeCauses n x = [] := by
  simp only [decodeCauses, slotInstr, h, hf]

/-! ## Shared destinations (03 R74) -/

theorem mem_dupCauses (sl : List Slot) (c : CauseRec) : c ∈ dupCauses sl ↔ ∃ x ∈ sl, ∃ y ∈ sl, ∃ r,
    (x.kind ≠ y.kind ∨ x.cluster ≠ y.cluster) ∧ r ∈ slotDests x ∧ r ∈ slotDests y ∧ c = slotCause x 5 0x18 0 := by
  simp only [dupCauses, List.mem_map, List.mem_filter, List.any_eq_true, Bool.and_eq_true, Bool.not_eq_true', Bool.and_eq_false_iff,
    decide_eq_false_iff_not, List.contains_iff_mem, exists_exists_and_eq_and]
  constructor
  · rintro ⟨_, ⟨⟨x, hx, rfl⟩, y, hy, hxy, r, hrx, hry⟩, rfl⟩
    exact ⟨x, hx, y, hy, r, hxy, hrx, hry, rfl⟩
  · rintro ⟨x, hx, y, hy, r, hxy, hrx, hry, rfl⟩
    exact ⟨_, ⟨⟨x, hx, rfl⟩, y, hy, hxy, r, hrx, hry⟩, rfl⟩

theorem vectorWrites_of_scalar (k : Kind) (cl : Nat) {i : Instr} (hv : vshape i = none) : vectorWrites k cl i = [] := by
  simp only [vectorWrites, hv]

/-- A scalar register is a destination unless it is s0. -/
theorem writesOf_register (k : Kind) (cl : Nat) {i : Instr} {d : BitVec 5} (hv : vshape i = none) (hs : scalarWrite i = some d)
    (hp : predWrite i = none) : writesOf k cl i = if d = 0#5 then [] else [d.toNat] := by
  simp only [writesOf, hs, hp, vectorWrites_of_scalar k cl hv, List.append_nil]

/-- A predicate is a destination unless it is p0. -/
theorem writesOf_predicate (k : Kind) (cl : Nat) {i : Instr} {n : Nat} (hv : vshape i = none) (hs : scalarWrite i = none)
    (hp : predWrite i = some n) : writesOf k cl i = if n = 0 then [] else [32 + n] := by
  simp only [writesOf, hs, hp, vectorWrites_of_scalar k cl hv, List.append_nil, List.nil_append]

theorem writesOf_nothing (k : Kind) (cl : Nat) {i : Instr} (hv : vshape i = none) (hs : scalarWrite i = none)
    (hp : predWrite i = none) : writesOf k cl i = [] := by
  simp only [writesOf, hs, hp, vectorWrites_of_scalar k cl hv, List.append_nil]

/-- vadd writes its register, the latch of its unit, and the holds that it captures (03 R57, R58). -/
theorem mem_writesOf_vadd {k : Kind} {cl u r : Nat} {f : VR} (hk : kLatch k = some u) (hM : k ≠ .M) : r ∈ writesOf k cl (.vadd f) ↔
    (f.w = false ∧ f.d.toNat < 32 ∧ r = 64 + 32 * cl + f.d.toNat) ∨ r = 500 + 4 * cl + u ∨
      (f.h = true ∧ r = 600 + 2 * cl) ∨ (f.k = true ∧ r = 601 + 2 * cl) := by
  simp [writesOf, scalarWrite, predWrite, vectorWrites, vshape, hk, hM, and_assoc]

/-- An F op has one source: it captures no second hold. -/
theorem mem_writesOf_rcp {cl r : Nat} {f : VR} : r ∈ writesOf .F cl (.rcp f) ↔
    (f.w = false ∧ f.d.toNat < 32 ∧ r = 64 + 32 * cl + f.d.toNat) ∨ r = 500 + 4 * cl + 3 ∨ (f.h = true ∧ r = 600 + 2 * cl) := by
  simp [writesOf, scalarWrite, predWrite, vectorWrites, vshape, kLatch, and_assoc]

/-! ## Which cause is reported (03 R69) -/

/-- A cause ranks before another, or stands beside it in no later op word (03 R69). -/
def CauseRec.NotAfter (c d : CauseRec) : Prop := c.rank < d.rank ∨ (c.rank = d.rank ∧ c.slot ≤ d.slot)

theorem CauseRec.NotAfter.trans {c d e : CauseRec} (h : c.NotAfter d) (h' : d.NotAfter e) : c.NotAfter e := by
  simp only [CauseRec.NotAfter] at *
  omega

theorem CauseRec.notAfter_of_before {c d : CauseRec} (h : c.before d = true) : c.NotAfter d := by
  unfold CauseRec.before at h
  unfold CauseRec.NotAfter
  split at h
  · exact .inl (of_decide_eq_true h)
  · split at h
    · next hr _ => exact .inr ⟨not_not.mp hr, Nat.le_of_lt (of_decide_eq_true h)⟩
    · next hr hs => exact .inr ⟨not_not.mp hr, Nat.le_of_eq (not_not.mp hs)⟩

theorem CauseRec.notAfter_of_not_before {c d : CauseRec} (h : c.before d ≠ true) : d.NotAfter c := by
  unfold CauseRec.before at h
  unfold CauseRec.NotAfter
  split at h
  · rw [Ne, decide_eq_true_iff] at h
    omega
  · split at h
    · rw [Ne, decide_eq_true_iff] at h
      omega
    · omega

theorem reported_eq_none_iff (l : List CauseRec) : reported l = none ↔ l = [] := by
  cases l with
  | nil => simp [reported]
  | cons c l =>
    rw [reported]
    split
    · simp
    · split <;> simp

/-- The cause reported is one of those met, and none goes before it. -/
theorem mem_reported {l : List CauseRec} {c : CauseRec} (h : reported l = some c) : c ∈ l ∧ ∀ d ∈ l, c.NotAfter d := by
  induction l generalizing c with
  | nil => cases h
  | cons e l ih =>
    have hself (d : CauseRec) : d.NotAfter d := .inr ⟨rfl, Nat.le_refl _⟩
    rw [reported] at h
    split at h
    · next hl =>
      obtain rfl := Option.some.inj h
      obtain rfl := (reported_eq_none_iff l).mp hl
      exact ⟨List.mem_singleton_self _, fun d hd => List.mem_singleton.mp hd ▸ hself _⟩
    · next d hl =>
      obtain ⟨hd, hall⟩ := ih hl
      split at h
      · next hb =>
        obtain rfl := Option.some.inj h
        exact ⟨List.mem_cons_of_mem _ hd, List.forall_mem_cons.mpr ⟨CauseRec.notAfter_of_before hb, hall⟩⟩
      · next hb =>
        obtain rfl := Option.some.inj h
        have hle := CauseRec.notAfter_of_not_before hb
        exact ⟨List.mem_cons_self, List.forall_mem_cons.mpr ⟨hself _, fun x hx => hle.trans (hall x hx)⟩⟩

/-! ## The trap of the cause reported (03 R69, 18 R374, R377) -/

/-- A bit of several numbers joined. -/
theorem testBit_foldl_or {α : Type} (g : α → Nat) (l : List α) (a n : Nat) :
    (l.foldl (fun a x => a ||| g x) a).testBit n = true ↔ a.testBit n = true ∨ ∃ x ∈ l, (g x).testBit n = true := by
  induction l generalizing a with
  | nil => simp
  | cons x l ih => simp [ih, or_assoc]

/-- A bit of several words joined. -/
theorem getLsbD_foldl_or {α : Type} {w : Nat} (g : α → BitVec w) (l : List α) (a : BitVec w) (n : Nat) :
    (l.foldl (fun a x => a ||| g x) a).getLsbD n = true ↔ a.getLsbD n = true ∨ ∃ x ∈ l, (g x).getLsbD n = true := by
  induction l generalizing a with
  | nil => simp
  | cons x l ih => simp [ih, or_assoc]

/-- The fault mask of a cause: the op words that meet one of its class (03 R69). -/
def faultMask (c : CauseRec) (all : List CauseRec) : BitVec 16 :=
  BitVec.ofNat 16 ((all.filter fun x => x.rank = c.rank).foldl (fun a x => a ||| 2 ^ (x.slot % 16)) 0)

theorem getLsbD_faultMask (c : CauseRec) (all : List CauseRec) {n : Nat} (hn : n < 16) :
    (faultMask c all).getLsbD n = decide (∃ d ∈ all, d.rank = c.rank ∧ d.slot % 16 = n) := by
  rw [Bool.eq_iff_iff, decide_eq_true_iff, faultMask, BitVec.getLsbD_ofNat, decide_eq_true hn, Bool.true_and, testBit_foldl_or]
  simp [Nat.testBit_two_pow, and_assoc]

/-- The information of the cause reported: its own, joined for class 1 with what the same op word raises on the same flag in the
same cluster (08 R172). -/
theorem getLsbD_joined {c : CauseRec} {all : List CauseRec} (hc : c ∈ all) (n : Nat) : (c.joined all).getLsbD n = true ↔
    ∃ d ∈ all, (d = c ∨ (c.rank = 7 ∧ d.slot = c.slot ∧ d.code = c.code ∧ d.cluster = c.cluster)) ∧ d.info.getLsbD n = true := by
  rw [CauseRec.joined]
  by_cases h7 : c.rank = 7
  · rw [if_pos h7, getLsbD_foldl_or]
    simp only [List.mem_filter, Bool.and_eq_true, decide_eq_true_eq, h7, true_and]
    grind
  · rw [if_neg h7]
    simp only [h7, false_and, or_false]
    grind

@[simp] theorem State.tick_x (s : State) : s.tick.x = { s.x with req := s.x.req.map (· + 1) } := rfl
@[simp] theorem State.tick_core (s : State) : s.tick.core = { s.core with left := s.core.left - 1 } := rfl
@[simp] theorem State.tick_pkg_mem (s : State) : s.tick.pkg.mem = s.pkg.mem := rfl

/-- The trap registers and where issue goes on, after a trap that is not of a handler; nothing of the bundle is in the state
(03 R75, 18 R374). -/
theorem State.report_eq {s : State} {c : CauseRec} (all : List CauseRec) (a : Addr) (h : s.x.h = false) (hc : c.code ≠ 0x82) :
    s.report c all a = (s.setX { s.x with
      saved := some ⟨s.x.bno, s.x.flight, s.x.latch, s.x.latchOk, s.x.holds⟩, flight := [], latchOk := 0, holds := [],
      dtgt := dtgtEntry s.x.dtgt s.x.pend s.x.link, pend := none, link := none,
      cause := BitVec.ofNat 8 c.code, fmask := faultMask c all, tpc := a &&& ~~~(3#56), tinfo := c.joined all,
      h := true, pc := s.x.tvec, waited := 0, bankw := 0, wlines := [] }).tick := by
  rw [State.report, if_neg hc, State.enterTrap, State.takeTrap, h]
  rfl

/-- A code address with its two low bits cleared. -/
theorem codeAddr_toNat (a : Addr) : codeAddr a.toNat = a &&& ~~~(3#56) := by
  have hshift : a &&& ~~~(3#56) = a >>> 2 <<< 2 := by
    apply BitVec.eq_of_getLsbD_eq
    intro b hb
    have h3 : (3#56).getLsbD b = decide (b < 2) := by
      rw [BitVec.getLsbD_ofNat, decide_eq_true hb, Bool.true_and]
      exact Nat.testBit_two_pow_sub_one 2 b
    rw [BitVec.getLsbD_and, BitVec.getLsbD_not, h3, BitVec.getLsbD_shiftLeft, BitVec.getLsbD_ushiftRight]
    by_cases h2 : b < 2
    · simp [h2]
    · simp [h2, hb, show 2 + (b - 2) = b by omega]
  have hdiv : (a.toNat : Int) / 4 * 4 = ((a.toNat / 4 * 4 : Nat) : Int) := by omega
  have ha := a.isLt
  apply BitVec.eq_of_toNat_eq
  rw [hshift, codeAddr, hdiv, BitVec.ofInt_natCast, BitVec.toNat_ofNat, BitVec.toNat_shiftLeft, BitVec.toNat_ushiftRight,
    Nat.shiftLeft_eq, Nat.shiftRight_eq_div_pow]

/-- A bundle that meets a cause and waits for nothing traps on the state before it (03 R69, R75). -/
theorem State.settle_of_reported {s t : State} {c : CauseRec} (hc : reported t.cur.causes = some c) (hw : t.cur.waits = [])
    (hr : s.roomFor t.cur = true) : s.settle exec t = .next (s.report c t.cur.causes t.cur.addr) := by
  rw [State.settle, if_pos hr, hc, hw]
  rfl

/-! ## Running a slot -/

/-- The state in which a slot executes: its word, kind and cluster are those of the frame (log 6). -/
def State.inSlot (s : State) (x : Slot) : State :=
  s.setCur { s.cur with idx := x.idx, kind := x.kind, cluster := x.cluster, word := x.word, lits := x.lits }

/-- A slot meets illegal-operand on a value that is still to come, of a register or of a stream. -/
def lateOperand (x0 : Ctx) (i : Instr) (s t : State) : Bool :=
  ((operandReads i).any fun r => x0.held r.toNat) || (t.cur.waits.drop s.cur.waits.length).contains 4

/-- A slot that waits for no register and for no fill answers what its instruction does, but for causes on late operands. -/
theorem State.runSlot_eq {ex : Instr → State → Out} {x0 : Ctx} {i : Instr} {x : Slot} {s t : State}
    (hn : (scalarNames i).any x0.held = false) (hf : (s.inSlot x).fillHolds i = false) (ht : ex i (s.inSlot x) = .next t) :
    s.runSlot ex x0 i x = .next (t.setCur { t.cur with
      causes := if lateOperand x0 i s t then s.cur.causes ++ (t.cur.causes.drop s.cur.causes.length).filter fun c => c.rank ≠ 3
        else t.cur.causes }) := by
  unfold State.inSlot at hf ht
  simp only [State.runSlot, hn, Bool.false_eq_true, if_false, hf, ht]
  rfl

theorem State.runSlot_of_no_late {ex : Instr → State → Out} {x0 : Ctx} {i : Instr} {x : Slot} {s t : State}
    (hn : (scalarNames i).any x0.held = false) (hf : (s.inSlot x).fillHolds i = false) (ht : ex i (s.inSlot x) = .next t)
    (hl : lateOperand x0 i s t = false) : s.runSlot ex x0 i x = .next t := by
  rw [State.runSlot_eq hn hf ht, hl, if_neg (by simp)]
  rfl

theorem runSlots_cons {ex : Instr → State → Out} {x0 : Ctx} {x : Slot} {i : Instr} {l : List Slot} {s t : State}
    (hx : decodeOp x.kind x.word = some i) (ht : s.runSlot ex x0 i x = .next t) :
    runSlots ex x0 (x :: l) s = runSlots ex x0 l t := by
  simp only [runSlots, slotInstr, hx, ht]

/-- A bundle with a cause that R69 ranks before the faults of execution is settled, be an engine fault due or not. -/
theorem State.issueAt_of_cause {ex : Instr → State → Out} {s t : State} {a : Addr} {n : Nat} {sl : List Slot}
    (ht : runSlots ex s.x (execOrder sl) (s.setCur { Frame.start a (s.core.seqAddr 1025 (addrWords a n)) n with
      causes := sl.flatMap (decodeCauses n) ++ dupCauses sl }) = .next t)
    (hc : ∃ c ∈ t.cur.causes, c.rank ≤ 6) : s.issueAt ex a n sl false = s.settle ex t := by
  have hany : (t.cur.causes.any fun c => decide (c.rank ≤ 6)) = true := by simpa using hc
  simp only [State.issueAt, Bool.false_eq_true, if_false, ht]
  split
  · rw [hany, if_pos rfl]
  · rfl

/-! ## Two vector moves into one register (03 R74) -/

/-- A vector move between registers puts one result in flight. -/
theorem exec_vmov_register {f : VR} (s : State) (ha : f.a.toNat < 32) (hd : f.d.toNat < 32) (hw : f.w = false) (hh : f.h = false) :
    ∃ e, exec (.vmov f) s = .next (s.withFlight [e]) := by
  rw [exec_vmov, execVmov, vop1, State.srcA, s.src_of_register _ _ _ ha, hh, State.capture, if_neg (by simp),
    s.landV_of_register _ f _ _ _ hw hd]
  exact ⟨_, rfl⟩

theorem runSlot_vmov (x0 : Ctx) {f : VR} (x : Slot) (s : State) (ha : f.a.toNat < 32) (hd : f.d.toNat < 32) (hw : f.w = false)
    (hh : f.h = false) : ∃ e, s.runSlot exec x0 (.vmov f) x = .next ((s.inSlot x).withFlight [e]) := by
  obtain ⟨e, he⟩ := exec_vmov_register (s.inSlot x) ha hd hw hh
  have hf : (s.inSlot x).fillHolds (.vmov f) = false := by simp [State.fillHolds, reachesMemory, mayWake]
  have hl : lateOperand x0 (.vmov f) s ((s.inSlot x).withFlight [e]) = false := by
    simp [lateOperand, operandReads, State.withFlight, State.inSlot]
  exact ⟨e, State.runSlot_of_no_late rfl hf he hl⟩

/-- A vector move whose operands are registers meets no cause by its encoding. -/
theorem decodeCauses_vmov {x : Slot} {f : VR} (n : Nat) (hx : decodeOp x.kind x.word = some (.vmov f)) (ha : f.a.toNat < 32)
    (hd : f.d.toNat < 32) (hl : x.lits = []) : decodeCauses n x = [] := by
  refine decodeCauses_of_legal hx ?_
  rw [hl]
  exact ((vectorOperands (L := 0) (by omega) n f).2.1).mpr ⟨.inl (by omega), .inr (.inl hd)⟩

theorem mem_slotDests_vmov {x : Slot} {f : VR} (hx : decodeOp x.kind x.word = some (.vmov f)) (hd : f.d.toNat < 32)
    (hw : f.w = false) : 64 + 32 * x.cluster + f.d.toNat ∈ slotDests x := by
  simp [slotDests, slotInstr, hx, writesOf, vectorWrites, vshape, hd, hw]

/-- Two slots that share a destination, and no other: each has duplicate-write. -/
theorem dupCauses_pair {x y : Slot} {r : Nat} (hk : x.kind ≠ y.kind) (hx : r ∈ slotDests x) (hy : r ∈ slotDests y) :
    dupCauses [x, y] = [slotCause x 5 0x18 0, slotCause y 5 0x18 0] := by
  have hxy : ((slotDests x).any fun n => (slotDests y).contains n) = true := by simpa using ⟨r, hx, hy⟩
  have hyx : ((slotDests y).any fun n => (slotDests x).contains n) = true := by simpa using ⟨r, hy, hx⟩
  simp only [dupCauses, List.map_cons, List.map_nil, List.filter_cons, List.filter_nil, List.any_cons, List.any_nil, hk, hk.symm, decide_false,
    decide_true, Bool.true_and, Bool.false_and, Bool.not_false, Bool.not_true, Bool.false_or, Bool.or_false, hxy, hyx, if_true]

theorem execOrder_AB {w v : Word} {cl : Nat} (h : cl < 8) :
    execOrder [⟨0, .A, cl, w, []⟩, ⟨1, .B, cl, v, []⟩] = [⟨0, .A, cl, w, []⟩, ⟨1, .B, cl, v, []⟩] := by
  interval_cases cl <;> rfl

/-- Two vector moves into one register trap by duplicate-write, and write nothing (03 R74, R75). -/
theorem issueAt_two_vmovs (s : State) (a : Addr) {w v : Word} {f g : VR} {cl : Nat} (n : Nat) (hcl : cl < 8)
    (hf : decodeOp .A w = some (.vmov f)) (hg : decodeOp .B v = some (.vmov g)) (hfa : f.a.toNat < 32) (hga : g.a.toNat < 32)
    (hd : f.d.toNat < 32) (hdg : f.d = g.d) (hfw : f.w = false) (hgw : g.w = false) (hfh : f.h = false) (hgh : g.h = false) :
    let x : Slot := ⟨0, .A, cl, w, []⟩
    let y : Slot := ⟨1, .B, cl, v, []⟩
    s.issueAt exec a n [x, y] false = .next (s.report (slotCause x 5 0x18 0) [slotCause x 5 0x18 0, slotCause y 5 0x18 0] a) := by
  intro x y
  have hgd : g.d.toNat < 32 := hdg ▸ hd
  have hdup : dupCauses [x, y] = [slotCause x 5 0x18 0, slotCause y 5 0x18 0] :=
    dupCauses_pair (by simp [x, y]) (mem_slotDests_vmov hf hd hfw) (hdg ▸ mem_slotDests_vmov hg hgd hgw)
  have hcauses : [x, y].flatMap (decodeCauses n) ++ dupCauses [x, y] = [slotCause x 5 0x18 0, slotCause y 5 0x18 0] := by
    simp [decodeCauses_vmov (x := x) n hf hfa hd rfl, decodeCauses_vmov (x := y) n hg hga hgd rfl, hdup]
  let s0 := s.setCur { Frame.start a (s.core.seqAddr 1025 (addrWords a n)) n with
    causes := [slotCause x 5 0x18 0, slotCause y 5 0x18 0] }
  obtain ⟨e, he⟩ := runSlot_vmov s.x x s0 hfa hd hfw hfh
  obtain ⟨e', he'⟩ := runSlot_vmov s.x y ((s0.inSlot x).withFlight [e]) hga hgd hgw hgh
  have hrun : runSlots exec s.x [x, y] s0 = .next ((((s0.inSlot x).withFlight [e]).inSlot y).withFlight [e']) := by
    rw [runSlots_cons hf he, runSlots_cons hg he', runSlots]
  have hreported : reported [slotCause x 5 0x18 0, slotCause y 5 0x18 0] = some (slotCause x 5 0x18 0) := by
    simp [reported, CauseRec.before, slotCause, x, y]
  rw [State.issueAt_of_cause (by rw [execOrder_AB hcl, hcauses]; exact hrun)
      ⟨slotCause x 5 0x18 0, List.mem_cons_self, by simp [slotCause]⟩, State.settle_of_reported hreported rfl rfl]
  rfl

/-! ## The parts of O55 -/

/-- An op word that its map does not have, and one with an operand that its entry forbids (03 R68, R69). -/
theorem causes_of_encoding (n : Nat) (x : Slot) :
    let info (c : CauseRec) : Prop := c.slot = x.idx ∧ c.cluster = x.cluster ∧
      c.info.toNat % 2 ^ 35 = x.word.toNat + x.cluster % 8 * 2 ^ 32
    (decodeOp x.kind x.word = none → ∃ c, decodeCauses n x = [c] ∧ c.rank = 2 ∧ c.code = 0x08 + x.kind.num ∧ info c) ∧
    ∀ i, decodeOp x.kind x.word = some i →
      (operandFault x.lits.length n i = none → decodeCauses n x = []) ∧
      ∀ pos, operandFault x.lits.length n i = some pos →
        ∃ c, decodeCauses n x = [c] ∧ c.rank = 3 ∧ c.code = 0x10 + x.kind.num ∧ info c ∧ c.info.toNat / 2 ^ 35 = pos % 2 ^ 29 := by
  intro info
  have hw := x.word.isLt
  have hinfo (rank code pos : Nat) : info (slotCause x rank code pos) := by
    refine ⟨rfl, rfl, ?_⟩
    rw [slotCause_info]
    omega
  refine ⟨fun h => ⟨_, decodeCauses_of_illegal n h, rfl, rfl, hinfo _ _ _⟩, fun i h => ⟨decodeCauses_of_legal h, fun pos hf =>
    ⟨_, decodeCauses_of_fault h hf, rfl, rfl, hinfo _ _ _, ?_⟩⟩⟩
  rw [slotCause_info]
  omega

/-- The destinations of op words of each kind (03 R57, R58, R74). -/
theorem destinations_of_kinds :
    (∀ f : SR, writesOf .S 0 (.add f) = (if f.d = 0#5 then [] else [f.d.toNat]) ∧
        writesOf .S 0 (.cmp f) = (if f.d.toNat % 8 = 0 then [] else [32 + f.d.toNat % 8]) ∧ writesOf .S 0 (.halt f) = []) ∧
      (∀ f, writesOf .S 0 (.call f) = [31]) ∧
      (∀ f : GF, writesOf .G 0 (.ldg f) = (if f.d = 0#5 then [] else [f.d.toNat]) ∧ writesOf .G 0 (.stg f) = []) ∧
      (∀ f : EF, writesOf .E 0 (.kvLen f) = (if f.c = 0#5 then [] else [f.c.toNat]) ∧ writesOf .E 0 (.cqGo f) = []) ∧
      ∀ (f : VR) (cl r : Nat),
        let vr : Prop := f.w = false ∧ f.d.toNat < 32 ∧ r = 64 + 32 * cl + f.d.toNat
        let held : Prop := (f.h = true ∧ r = 600 + 2 * cl) ∨ (f.k = true ∧ r = 601 + 2 * cl)
        (r ∈ writesOf .A cl (.vadd f) ↔ vr ∨ r = 500 + 4 * cl ∨ held) ∧ (r ∈ writesOf .B cl (.vadd f) ↔ vr ∨ r = 501 + 4 * cl ∨ held) ∧
        (r ∈ writesOf .F cl (.rcp f) ↔ vr ∨ r = 503 + 4 * cl ∨ (f.h = true ∧ r = 600 + 2 * cl)) := by
  refine ⟨fun f => ⟨writesOf_register _ _ rfl rfl rfl, writesOf_predicate _ _ rfl rfl rfl, writesOf_nothing _ _ rfl rfl rfl⟩,
    fun f => writesOf_register .S 0 (d := 31#5) rfl rfl rfl,
    fun f => ⟨writesOf_register _ _ rfl rfl rfl, writesOf_nothing _ _ rfl rfl rfl⟩,
    fun f => ⟨writesOf_register _ _ rfl rfl rfl, writesOf_nothing _ _ rfl rfl rfl⟩,
    fun f cl r => ⟨mem_writesOf_vadd (u := 0) rfl nofun, ?_, ?_⟩⟩
  · rw [mem_writesOf_vadd (k := .B) (u := 1) rfl nofun]
    simp only [Nat.add_right_comm]
  · rw [mem_writesOf_rcp]
    simp only [Nat.add_right_comm]

/-- Two vector moves into one register trap so and write nothing (03 R74, R75). -/
theorem trap_of_two_vmovs (s : State) (a : Addr) {w v : Word} {f g : VR} {cl : Nat} (n : Nat) (hh : s.x.h = false) (hcl : cl < 8)
    (hf : decodeOp .A w = some (.vmov f)) (hg : decodeOp .B v = some (.vmov g)) (hfa : f.a.toNat < 32) (hga : g.a.toNat < 32)
    (hd : f.d.toNat < 32) (hdg : f.d = g.d) (hfw : f.w = false) (hgw : g.w = false) (hfh : f.h = false) (hgh : g.h = false) :
    ∃ u, s.issueAt exec a n [⟨0, .A, cl, w, []⟩, ⟨1, .B, cl, v, []⟩] false = .next u ∧ u.x.cause = 0x18#8 ∧ u.x.fmask = 3#16 ∧
        u.x.tinfo.toNat = w.toNat + cl * 2 ^ 32 ∧ u.x.tpc = codeAddr a.toNat ∧ u.x.h = true ∧ u.x.v = s.x.v := by
  refine ⟨_, issueAt_two_vmovs s a n hcl hf hg hfa hga hd hdg hfw hgw hfh hgh, ?_⟩
  rw [State.report_eq _ _ hh (by simp [slotCause])]
  refine ⟨rfl, ?fmask, ?tinfo, (codeAddr_toNat a).symm, rfl, rfl⟩
  case fmask => simp [faultMask, slotCause]
  case tinfo =>
    rw [State.tick_x, State.setX_x, CauseRec.joined, if_neg (by simp [slotCause]), slotCause_info]
    show w.toNat + cl % 8 * 2 ^ 32 + 0 % 2 ^ 29 * 2 ^ 35 = _
    omega

/-- The trap of a bundle that meets a cause, and what it leaves (03 R69, R75, 18 R377). -/
theorem trap_of_reported {s t : State} {c : CauseRec} (hc : reported t.cur.causes = some c) (hw : t.cur.waits = [])
    (hr : s.roomFor t.cur = true) (hk : c.code ≠ 0x82) (hh : s.x.h = false) : ∃ u, s.settle exec t = .next u ∧
      u.x.cause = BitVec.ofNat 8 c.code ∧ u.x.tpc = codeAddr t.cur.addr.toNat ∧ u.x.h = true ∧ u.x.pc = s.x.tvec ∧
      (∀ n < 16, u.x.fmask.getLsbD n = decide (∃ d ∈ t.cur.causes, d.rank = c.rank ∧ d.slot % 16 = n)) ∧
      (∀ b, u.x.tinfo.getLsbD b = true ↔ ∃ d ∈ t.cur.causes,
        (d = c ∨ (c.rank = 7 ∧ d.slot = c.slot ∧ d.code = c.code ∧ d.cluster = c.cluster)) ∧ d.info.getLsbD b = true) ∧
      u.x.s = s.x.s ∧ u.x.p = s.x.p ∧ u.x.v = s.x.v ∧ u.core.pad = s.core.pad ∧ u.core.cmds = s.core.cmds ∧ u.pkg.mem = s.pkg.mem := by
  refine ⟨_, State.settle_of_reported hc hw hr, ?_⟩
  rw [State.report_eq _ _ hh hk]
  exact ⟨rfl, (codeAddr_toNat _).symm, rfl, rfl, fun n hn => getLsbD_faultMask c _ hn, getLsbD_joined (mem_reported hc).1,
    rfl, rfl, rfl, rfl, rfl, rfl⟩

/-- Settles O55: an encoding's causes and operand faults are conditions on its fields, a shared destination is a common member
of two slots' destinations, and the trap of the cause reported is taken on the state before the bundle. -/
theorem illegalOpsAndCauseOrder : Obligations.IllegalOpsAndCauseOrder := by
  unfold Obligations.IllegalOpsAndCauseOrder
  refine ⟨⟨causes_of_encoding, fun L n => ⟨scalarOperands L n, immediateOperands L n, fun f hL => vectorOperands hL n f,
    globalOperands L n, engineOperands L n⟩⟩, fun sl => ⟨?shared, ?duplicate⟩, destinations_of_kinds, ?moves, ?reported, ?trap⟩
  case shared => exact fun x hx y hy r hxy hrx hry => (mem_dupCauses sl _).mpr ⟨x, hx, y, hy, r, hxy, hrx, hry, rfl⟩
  case duplicate => exact fun c hc => (mem_dupCauses sl c).mp hc
  case moves => exact fun s a w v f g cl n hh hcl hf hg hfa hga hd hdg => trap_of_two_vmovs s a n hh hcl hf hg hfa hga hd hdg
  case reported => exact fun l => ⟨reported_eq_none_iff l, fun c hc => mem_reported hc⟩
  case trap => exact fun s t c hc hw hr hk hh => trap_of_reported hc hw hr hk hh

end Sys2Proof.Machine
end

section
/-! O56 (03 R53, R69, R72, R75, 18 R380): a step runs what the word at the pc decodes to, and then what its frame asks for. The
statement leaves s0 out of the registers that may not be owed, as R72 does; the model drops an illegal-operand met on a register
that is still to come with s0 among them (`State.runSlot`). So the statement holds where no result is owed to s0
(`State.IssuesOne.step_eq`), and a state in which one is owed refutes it. No instruction makes s0 outstanding. -/

namespace Sys2Proof.Machine

/-! ## Fetch of a bundle of one op word -/

/-- A bundle of one op word, which a fetch without a skip finds at its address (03 R53). -/
theorem CoreSt.fetch_headerFor {c : CoreSt} {a : Addr} {k : Kind} {w : Word} {n : Nat} (fuel : Nat) (hn : c.codeIdx a = some n)
    (hl : a.toNat / 4 % 16 ≤ 14) (hk : c.codeWord n = headerFor k) (hw : c.codeWord (n + 1) = w) :
    c.fetch (fuel + 1) false a = .got a 2 [⟨0, k, 0, w, []⟩] false := by
  obtain ⟨m, hm⟩ : ∃ m, 16 - a.toNat / 4 % 16 = m + 2 := ⟨14 - a.toNat / 4 % 16, by omega⟩
  have hwords : c.lineWords a = some (headerFor k :: w :: (List.range m).map fun i => c.codeWord (n + (i + 2))) := by
    rw [CoreSt.lineWords, hn, Option.map_some, hm, List.range_succ_eq_map, List.range_succ_eq_map]
    simp [Function.comp_def, hk, hw]
  simp only [CoreSt.fetch, hwords, decodeBundle_headerFor, Bool.false_eq_true, if_false]

/-! ## A bundle of one op word at the pc -/

/-- The context issues, nothing else is due, and a bundle of one op word stands at the pc, whose instruction has no operand fault
and names no register that is still to come; nor is s0, which no instruction names (03 R72), still to come. -/
structure State.IssuesOne (s : State) (k : Kind) (w : Word) (i : Instr) (n : Nat) : Prop where
  agenda : s.agenda = []
  event : s.nextEvent = none
  run : s.run = true
  stopped : s.part.stopped = false
  swapped : s.part.swapped = false
  swapping : s.part.swapping = false
  skip : s.x.sk = false ∨ s.x.h = true
  fault : s.x.ef = none ∨ s.x.efNow = false ∨ s.x.h = true
  freeze : s.freezeDue = false
  place : s.core.codeIdx s.x.pc = some n
  line : s.x.pc.toNat / 4 % 16 ≤ 14
  header : s.core.codeWord n = headerFor k
  word : s.core.codeWord (n + 1) = w
  decodes : decodeOp k w = some i
  operands : operandFault 0 2 i = none
  named : ∀ r ∈ scalarNames i, s.x.held r = false
  zero : s.x.held 0 = false

/-- The context as its bundle is fetched. -/
def State.fetchedOne (s : State) : State := { s with x := (s.x.fetchedAt s.x.pc false).landLink (s.x.pc + 8#56) }

/-- It with the frame of a bundle of one op word. -/
def State.framedOne (s : State) (k : Kind) (w : Word) : State :=
  { s.fetchedOne with cur := { emptyFrame with
      addr := s.x.pc, seq := s.core.seqAddr 1025 (s.x.pc + 8#56), words := 2, kind := k, word := w } }

/-- A link that lands, and a fetch, change the scalar registers, the pc, the skip and the link alone. -/
theorem Ctx.landLink_eq (c : Ctx) (a : Addr) : ∃ r l, c.landLink a = { c with s := r, link := l } := by
  unfold Ctx.landLink
  split
  · exact ⟨c.s, c.link, rfl⟩
  · next r _ => exact ⟨(c.setS r (addrDword a)).s, none, by rw [Ctx.setS_eq]⟩
@[simp] theorem State.held_fetchedOne (s : State) (r : Nat) : s.fetchedOne.x.held r = s.x.held r := by
  obtain ⟨_, _, h⟩ := (s.x.fetchedAt s.x.pc false).landLink_eq (s.x.pc + 8#56)
  rw [State.fetchedOne, h]
  rfl
theorem State.faultNow_fetchedOne (s : State) : s.fetchedOne.x.faultNow = s.x.faultNow := by
  obtain ⟨_, _, h⟩ := (s.x.fetchedAt s.x.pc false).landLink_eq (s.x.pc + 8#56)
  rw [State.fetchedOne, h]
  rfl

theorem Ctx.faultNow_eq_none {c : Ctx} (h : c.ef = none ∨ c.efNow = false ∨ c.h = true) : c.faultNow = none := by
  obtain h | h | h := h <;> simp [Ctx.faultNow, h]

/-- While a region is filled its fill is due, so that no op word waits for one where nothing is due (10 R227). -/
theorem State.filling_eq_nil_of_nextEvent {s : State} (h : s.nextEvent = none) : s.pkg.filling = [] := by
  have hfill : s.fillEvent = none := by
    unfold State.nextEvent at h
    cases hf : s.fillEvent with
    | none => rfl
    | some e => simp [hf, firstSome] at h
  simpa [State.fillEvent] using hfill

/-- What decides whether an op word is an illegal-operand is among what it reads. -/
theorem mem_scalarReads_of_operandReads {i : Instr} {r : BitVec 5} (h : r ∈ operandReads i) : r ∈ scalarReads i := by
  unfold operandReads at h
  split at h <;> simp_all [scalarReads]

theorem mem_scalarNames_of_operandReads {i : Instr} {r : BitVec 5} (h : r ∈ operandReads i) (h0 : r.toNat ≠ 0) :
    r.toNat ∈ scalarNames i := by
  have hr : r.toNat ∈ (scalarReads i).map (·.toNat) := List.mem_map_of_mem (mem_scalarReads_of_operandReads h)
  exact List.mem_filter.mpr ⟨List.mem_append_left _ hr, by simpa using h0⟩

section
variable {s : State} {k : Kind} {w : Word} {i : Instr} {n : Nat}

/-- No register that an op word names is owed. -/
theorem State.IssuesOne.names_none (h : s.IssuesOne k w i n) : (scalarNames i).any s.fetchedOne.x.held = false := by
  rw [List.any_eq_false]
  intro r hr
  rw [State.held_fetchedOne, h.named r hr]
  exact Bool.false_ne_true

/-- No register whose value decides an illegal-operand is owed. -/
theorem State.IssuesOne.operands_none (h : s.IssuesOne k w i n) :
    ((operandReads i).any fun r => s.fetchedOne.x.held r.toNat) = false := by
  rw [List.any_eq_false]
  intro r hr
  rw [State.held_fetchedOne]
  by_cases h0 : r.toNat = 0
  · rw [h0, h.zero]
    exact Bool.false_ne_true
  · rw [h.named _ (mem_scalarNames_of_operandReads hr h0)]
    exact Bool.false_ne_true

theorem dupCauses_singleton (x : Slot) : dupCauses [x] = [] := by simp [dupCauses]

theorem execOrder_singleton (k : Kind) (w : Word) : execOrder [⟨0, k, 0, w, []⟩] = [⟨0, k, 0, w, []⟩] := by cases k <;> rfl

/-- The step is exec of the instruction on the state with the frame, and then what the frame asks for: no cause of it is dropped,
unless the op word both met one and waits for a stream. -/
theorem State.IssuesOne.step_eq_settle (h : s.IssuesOne k w i n) {t : State} (ht : exec i (s.framedOne k w) = .next t)
    (hw : t.cur.causes = [] ∨ 4 ∉ t.cur.waits) : step s = s.fetchedOne.settle exec t := by
  let x : Slot := ⟨0, k, 0, w, []⟩
  let s0 : State := s.fetchedOne.setCur { emptyFrame with
    addr := s.x.pc, seq := s.core.seqAddr 1025 (s.x.pc + 8#56), words := 2 }
  have hfill : (s0.inSlot x).fillHolds i = false := by
    have hnil : s.pkg.filling = [] := State.filling_eq_nil_of_nextEvent h.event
    have hpkg : (s0.inSlot x).pkg.filling = s.pkg.filling := rfl
    rw [State.fillHolds, hpkg, hnil, List.isEmpty_nil, Bool.not_true, Bool.false_and]
  have hkeep : (if lateOperand s.fetchedOne.x i s0 t then
      s0.cur.causes ++ (t.cur.causes.drop s0.cur.causes.length).filter fun c => c.rank ≠ 3 else t.cur.causes) = t.cur.causes := by
    obtain hc | hw := hw
    · rw [hc, List.drop_nil, List.filter_nil]
      exact ite_self _
    · have hlate : lateOperand s.fetchedOne.x i s0 t = false := by
        rw [lateOperand, h.operands_none, Bool.false_or]
        simpa [s0, emptyFrame] using hw
      rw [hlate, if_neg Bool.false_ne_true]
  have hslot : s0.runSlot exec s.fetchedOne.x i x = .next t := by
    rw [State.runSlot_eq h.names_none hfill ht, hkeep]
    rfl
  have hrun : runSlots exec s.fetchedOne.x (execOrder [x]) s0 = .next t := by
    rw [execOrder_singleton, runSlots_cons h.decodes hslot, runSlots]
  have hissue : s.fetchedOne.issueAt exec s.x.pc 2 [x] false = s.fetchedOne.settle exec t := by
    have hcauses : [x].flatMap (decodeCauses 2) ++ dupCauses [x] = [] := by
      rw [dupCauses_singleton, List.flatMap_singleton, decodeCauses_of_legal (x := x) h.decodes h.operands, List.append_nil]
    have hfault : s.fetchedOne.x.faultNow = none := by rw [State.faultNow_fetchedOne, Ctx.faultNow_eq_none h.fault]
    have hrun' : runSlots exec s.fetchedOne.x (execOrder [x]) (s.fetchedOne.setCur
        { Frame.start s.x.pc (s.fetchedOne.core.seqAddr 1025 (addrWords s.x.pc 2)) 2 with causes := [] }) = .next t := hrun
    simp only [State.issueAt, Bool.false_eq_true, if_false, hcauses, hrun', hfault]
  have hskip : (s.x.sk && !s.x.h) = false := by
    obtain hs | hs := h.skip <;> simp [hs]
  have hfetch := CoreSt.fetch_headerFor 1024 h.place h.line h.header h.word
  simp only [step, h.agenda, h.event, State.cycle, h.stopped, h.swapped, h.run, h.freeze, State.issue, hskip, hfetch, Bool.or_self,
    Bool.false_eq_true, if_false, if_true]
  exact hissue

end

/-! ## What the stop of a context's long commands leaves

ctxsv in a bundle that waits has the steps of a context stop before the wait (18 R381); none of that touches the count of the
bundle's bank cycles. -/

theorem State.bankw_foldl {α : Type} {f : State → α → State} (hf : ∀ s a, (f s a).x.bankw = s.x.bankw) (l : List α) (s : State) :
    (l.foldl f s).x.bankw = s.x.bankw := by
  induction l generalizing s with
  | nil => rfl
  | cons a l ih => rw [List.foldl_cons, ih, hf]

theorem State.bankw_setCtx {s : State} {n : Nat} {c : Ctx} (h : c.bankw = (s.ctx n).bankw) : (s.setCtx n c).x.bankw = s.x.bankw := by
  unfold State.setCtx
  split
  · next hn => rw [State.setX_x, h, State.ctx, if_pos hn]
  · rfl

theorem State.setFulls_x (s : State) (line : Nat) (f : Bool) (n : Nat) : (s.setFulls line f n).x = s.x := by
  induction n generalizing s line with
  | zero => rfl
  | succ n ih => rw [State.setFulls, ih]; rfl

theorem State.regionFull_x (s : State) (r : Option (Nat × Nat)) (f : Bool) : (s.regionFull r f).x = s.x := by
  cases r with
  | none => rfl
  | some r => exact s.setFulls_x _ f _

theorem State.microCopy_x (s : State) (c : Cmd) (n : Nat) : (s.microCopy c n).x = s.x := by
  induction n with
  | zero => rfl
  | succ n ih => rw [State.microCopy, State.setCore_x, ih]

theorem State.bankw_loadMicro (s : State) : s.loadMicro.x.bankw = s.x.bankw := by
  refine State.bankw_foldl (fun t c => ?_) _ s
  dsimp only
  split
  · exact congrArg Ctx.bankw (t.microCopy_x c _)
  · rfl

theorem State.bankw_endCmd (s : State) (c : Cmd) : (s.endCmd c).x.bankw = s.x.bankw := State.bankw_loadMicro _

theorem State.bankw_deliver (s : State) (c : Cmd) (v : Dword) : (s.deliver c v).x.bankw = s.x.bankw := by
  unfold State.deliver
  split
  · next d n _ _ =>
    dsimp only
    split
    · exact State.bankw_setCtx (by rw [Ctx.setS_eq])
    · rfl
  · rfl

theorem State.bankw_setRuCount (s : State) (c : Cmd) (v : Nat) : (s.setRuCount c v).x.bankw = s.x.bankw := by
  unfold State.setRuCount
  split
  · exact State.bankw_setCtx rfl
  · rfl

theorem State.bankw_ruReturns (s : State) (strand : Dword) : (s.ruReturns strand).x.bankw = s.x.bankw := by
  refine State.bankw_foldl (fun t c => ?_) _ s
  dsimp only
  split
  · split
    · rfl
    · rw [State.bankw_endCmd, State.bankw_deliver]
  · rfl

theorem State.bankw_ruEnd (s : State) (c : Cmd) (done : Bool) : (s.ruEnd c done).x.bankw = s.x.bankw := by
  unfold State.ruEnd
  extract_lets alt plane later linked
  have halt : alt.x.bankw = s.x.bankw := by
    dsimp only [alt]
    split <;> rfl
  have hplane : plane.x.bankw = alt.x.bankw := by
    dsimp only [plane]
    split <;> rfl
  have hlinked : linked.x.bankw = plane.x.bankw := by
    dsimp only [linked]
    split
    · exact State.bankw_setCtx rfl
    · rfl
  rw [State.bankw_ruReturns, State.bankw_endCmd, State.regionFull_x, hlinked, hplane, halt]

theorem State.bankw_ruStop (s : State) (strand : Dword) : (s.ruStop strand).x.bankw = s.x.bankw := by
  unfold State.ruStop
  rw [State.bankw_ruReturns]
  refine State.bankw_foldl (fun t c => ?_) _ s
  dsimp only
  split
  · rfl
  · split
    · exact t.bankw_ruEnd c _
    · rw [State.bankw_endCmd, State.regionFull_x]
      split
      · exact t.bankw_setRuCount c 0
      · rfl

theorem State.bankw_stopSteps (s : State) (n : Nat) : (s.stopSteps n).x.bankw = s.x.bankw := State.bankw_ruStop _ _

/-! ## What a frame asks for -/

/-- A bundle that meets no cause and does not wait commits, unless the watchdog takes it (03 R75, 18 R380). -/
theorem State.settle_of_commit {s t : State} (hc : t.cur.causes = []) (hw : t.cur.waits = []) (hr : s.roomFor t.cur = true)
    (hb : bankWait t.cur.lines ≤ s.x.bankw) :
    let held := t.cur.stops.foldl State.stopSteps s
    s.settle exec t = if held.wdogOver then exec .watchdog held else .next t.commit := by
  intro held
  have hheld : held.x.bankw = s.x.bankw := State.bankw_foldl State.bankw_stopSteps _ s
  rw [State.settle, if_pos hr, hc, hw]
  show (if held.x.bankw < bankWait t.cur.lines then _ else _) = _
  rw [if_neg (by omega)]
  rfl

/-- A bundle that waits and meets no cause is held with the code of the first thing it waits for, 6 before 7 (18 R380). -/
theorem State.settle_of_wait {s t : State} {q : Nat} {l : List Nat} (hc : t.cur.causes = []) (hw : t.cur.waits = q :: l)
    (hr : s.roomFor t.cur = true) :
    s.settle exec t = (t.cur.stops.foldl State.stopSteps s).hold exec (if q = 7 ∧ 6 ∈ l then 6 else q) t.cur.empties := by
  have hcode : waitCode (q :: l) = some (if q = 7 ∧ 6 ∈ l then 6 else q) := by
    by_cases h7 : q = 7
    · simp [waitCode, h7]
    · simp [waitCode, h7]
  rw [State.settle, if_pos hr, hc, hw, hcode]
  rfl

/-- O56 where no result is owed to s0 either: the commit, the trap and the wait. -/
theorem State.IssuesOne.step_eq {s t : State} {k : Kind} {w : Word} {i : Instr} {n : Nat} (h : s.IssuesOne k w i n)
    (ht : exec i (s.framedOne k w) = .next t) (hr : s.fetchedOne.roomFor t.cur = true) :
    let held := t.cur.stops.foldl State.stopSteps s.fetchedOne
    (t.cur.causes = [] → t.cur.waits = [] → bankWait t.cur.lines ≤ s.fetchedOne.x.bankw →
      step s = if held.wdogOver then exec .watchdog held else .next t.commit) ∧
    (∀ c, t.cur.waits = [] → reported t.cur.causes = some c → step s = .next (s.fetchedOne.report c t.cur.causes t.cur.addr)) ∧
    ∀ q l, t.cur.causes = [] → t.cur.waits = q :: l →
      step s = held.hold exec (if q = 7 ∧ 6 ∈ l then 6 else q) t.cur.empties := by
  intro held
  refine ⟨fun hc hw hb => ?_, fun c hw hc => ?_, fun q l hc hw => ?_⟩
  · rw [h.step_eq_settle ht (.inl hc), State.settle_of_commit hc hw hr hb]
  · rw [h.step_eq_settle ht (.inr (by simp [hw])), State.settle_of_reported hc hw hr]
  · rw [h.step_eq_settle ht (.inl hc), State.settle_of_wait hc hw hr]

/-! ## A result owed to s0 -/

/-- bar.init of s0 at s0, with scope cluster: a count of zero, which is an illegal-operand (10 R241). -/
def barInitZero : GF := ⟨0#5, 0#5, 1#3, 0#2, 0#10⟩

/-- A running context to which some results are owed, with a bundle of that bar.init at its pc. -/
def zeroCountAtPc (out : List (Nat × Option Dword)) : State :=
  { State.reset with
    x := { emptyCtx with status := .running, out := out }
    run := true
    core := { resetCore with iwA := some 0#41, istore := [(0, headerFor .G), (1, GF.word 0x08#7 barInitZero)] }
    part := { emptyPart with present := true } }

/-- The illegal-operand that bar.init raises on a count of zero. -/
def zeroCount (s : State) : CauseRec := ⟨0, 3, 0x11, 0, (s.framedOne .G (GF.word 0x08#7 barInitZero)).defaultInfo 20⟩

theorem exec_barInitZero (out : List (Nat × Option Dword)) :
    let s := (zeroCountAtPc out).framedOne .G (GF.word 0x08#7 barInitZero)
    exec (.barInit barInitZero) s = .next (s.withCause 3 0x11 (s.defaultInfo 20)) := by
  intro s
  rw [exec_barInit, execBarInit, if_pos (by rfl), State.illOperand_eq _ _ _ (by decide)]
  rfl

/-- Where nothing is owed the bundle issues. -/
theorem issuesOne_zeroCount : (zeroCountAtPc []).IssuesOne .G (GF.word 0x08#7 barInitZero) (.barInit barInitZero) 0 where
  agenda := rfl
  event := by decide +kernel
  run := rfl
  stopped := rfl
  swapped := rfl
  swapping := rfl
  skip := .inl rfl
  fault := .inl rfl
  freeze := rfl
  place := rfl
  line := by decide
  header := rfl
  word := rfl
  decodes := rfl
  operands := rfl
  named := nofun
  zero := rfl

/-- Where nothing is owed the step takes the trap. -/
theorem step_zeroCount : ∃ u, step (zeroCountAtPc []) = .next u ∧ u.x.cause = 0x11#8 ∧ u.x.h = true := by
  obtain ⟨-, htrap, -⟩ := issuesOne_zeroCount.step_eq (exec_barInitZero []) (by decide +kernel)
  refine ⟨_, htrap (zeroCount (zeroCountAtPc [])) rfl rfl, ?_⟩
  rw [State.report_eq _ _ rfl (by decide)]
  exact ⟨rfl, rfl⟩

/-- Where a result is owed to s0 the bundle enters no trap. -/
theorem step_zeroCount_owed {u : State} (h : step (zeroCountAtPc [(0, none)]) = .next u) : u.x.h = false := by
  have hstep : (match step (zeroCountAtPc [(0, none)]) with | .next u => u.x.h | _ => true) = false := by decide +kernel
  rwa [h] at hstep

/-- Refutes O56: a result owed to s0, which no name of the op word covers, has the model drop the illegal-operand of a bar.init of
s0, so that the step commits where the statement asks for the trap. Every other hypothesis holds of the state. -/
theorem not_stepRunsDecodedInstruction : ¬ Obligations.StepRunsDecodedInstruction := by
  unfold Obligations.StepRunsDecodedInstruction
  intro hrun
  have hnone : (zeroCountAtPc [(0, none)]).nextEvent = none := by decide +kernel
  obtain ⟨-, htrap, -⟩ := hrun (zeroCountAtPc [(0, none)]) _ .G (GF.word 0x08#7 barInitZero) (.barInit barInitZero) 0 rfl hnone
    rfl rfl rfl rfl (.inl rfl) (.inl rfl) rfl rfl (by decide) rfl rfl rfl rfl nofun (exec_barInitZero _) (by decide +kernel)
  have hh := step_zeroCount_owed (htrap (zeroCount (zeroCountAtPc [(0, none)])) rfl rfl)
  rw [State.report_eq _ _ rfl (by decide)] at hh
  exact absurd hh (by simp)

end Sys2Proof.Machine
end

section
/-! O7 (04 R96, R99): code windows. -/

namespace Sys2Proof.Machine

/-- Bits of a word from a place on, as a quotient. -/
theorem extractLsb'_eq_ofNat {w : Nat} (x : BitVec w) (lo n : Nat) : x.extractLsb' lo n = BitVec.ofNat n (x.toNat / 2 ^ lo) := by
  apply BitVec.eq_of_toNat_eq
  rw [BitVec.extractLsb'_toNat, Nat.shiftRight_eq_div_pow, BitVec.toNat_ofNat]

/-- Where a code address stands in the instruction store, by the half that holds its window (04 R96). -/
theorem CoreSt.codeIdx_eq (c : CoreSt) (a : Addr) : c.codeIdx a =
    if c.iwA = some (BitVec.ofNat 41 (a.toNat / 2 ^ 15)) then some (a.toNat % 32768 / 4)
    else if c.iwB = some (BitVec.ofNat 41 (a.toNat / 2 ^ 15)) then some (8192 + a.toNat % 32768 / 4) else none := by
  rw [CoreSt.codeIdx, CoreSt.halfOf, extractLsb'_eq_ofNat]
  split
  · simp
  · split <;> simp

/-- An address that no window holds is a miss, whatever is still to be skipped (04 R96). -/
theorem CoreSt.fetch_of_codeIdx_none {c : CoreSt} {a : Addr} (h : c.codeIdx a = none) (n : Nat) (sk : Bool) :
    c.fetch n sk a = .miss a sk := by
  cases n with
  | zero => rfl
  | succ n => rw [CoreSt.fetch, CoreSt.lineWords, h]; rfl

/-- Settles O7: the posted window is the quotient of s[a], `CoreSt.bind` gives the two halves, and a fetch goes by the half. -/
theorem codeWindowsBindAndFetch : Obligations.CodeWindowsBindAndFetch := by
  refine ⟨?bind, ?fetch⟩
  case bind =>
    intro f s b
    refine ⟨?post, fun hd => ?halfA, fun hd => ?halfB⟩
    case post => rw [exec_iwin, execIwin, State.post_eq, extractLsb'_eq_ofNat]; rfl
    case halfA => rw [hd]; exact ⟨rfl, rfl⟩
    case halfB => rw [hd]; exact ⟨rfl, rfl⟩
  case fetch =>
    intro c a sk w
    refine ⟨fun hA => ?inA, fun hA hB => ?inB, fun hA hB => ?miss⟩
    case inA => rw [c.codeIdx_eq, if_pos hA]
    case inB => rw [c.codeIdx_eq, if_neg hA, if_pos hB]
    case miss =>
      have hnone : c.codeIdx a = none := by rw [c.codeIdx_eq, if_neg hA, if_neg hB]
      exact ⟨hnone, fun n => CoreSt.fetch_of_codeIdx_none hnone n sk⟩

end Sys2Proof.Machine
end

section
/-! O1 (04 R78 to R82): the value that each scalar op word lands, as integers or bit by bit. -/

namespace Sys2Proof.Machine

/-! ## Immediates (03 R59) -/

/-- The signed immediate as an integer. -/
theorem State.immInt_signed (s : State) (i : BitVec 15) : s.immInt i true = (s.immS i).toInt := by
  by_cases h : i = 0x4000#15 <;> simp [State.immInt, State.immS, h, BitVec.toInt_signExtend_of_le]

/-- The zero-extended immediate as an integer. -/
theorem State.immInt_unsigned (s : State) (i : BitVec 15) : s.immInt i false = (s.immZ i).toNat := by
  have hmod {w : Nat} (x : BitVec w) (hw : w ≤ 64) : (x.setWidth 64).toNat = x.toNat := BitVec.toNat_setWidth_of_le hw
  by_cases h : i = 0x4000#15 <;> simp [State.immInt, State.immZ, h, hmod, -BitVec.toNat_setWidth]

@[simp] theorem State.ofInt_immInt_signed (s : State) (i : BitVec 15) : BitVec.ofInt 64 (s.immInt i true) = s.immS i := by
  rw [s.immInt_signed, BitVec.ofInt_toInt]
@[simp] theorem State.ofInt_immInt_unsigned (s : State) (i : BitVec 15) : BitVec.ofInt 64 (s.immInt i false) = s.immZ i := by
  rw [s.immInt_unsigned, BitVec.ofInt_natCast, BitVec.ofNat_toNat, BitVec.setWidth_eq]

/-! ## Arithmetic -/

theorem ofInt_min (x y : Dword) : BitVec.ofInt 64 (min x.toInt y.toInt) = if x.toInt ≤ y.toInt then x else y := by
  rw [min_def]; split <;> rw [BitVec.ofInt_toInt]
theorem ofInt_max (x y : Dword) : BitVec.ofInt 64 (max x.toInt y.toInt) = if x.toInt ≤ y.toInt then y else x := by
  rw [max_def]; split <;> rw [BitVec.ofInt_toInt]
theorem ofNat_min (x y : Dword) : BitVec.ofNat 64 (min x.toNat y.toNat) = if x.toNat ≤ y.toNat then x else y := by
  rw [min_def]; split <;> rw [BitVec.ofNat_toNat, BitVec.setWidth_eq]
theorem ofNat_max (x y : Dword) : BitVec.ofNat 64 (max x.toNat y.toNat) = if x.toNat ≤ y.toNat then y else x := by
  rw [max_def]; split <;> rw [BitVec.ofNat_toNat, BitVec.setWidth_eq]

theorem shiftLeft_eq_ofNat (x : Dword) (n : Nat) : x <<< n = BitVec.ofNat 64 (x.toNat * 2 ^ n) := by
  apply BitVec.eq_of_toNat_eq; simp [Nat.shiftLeft_eq]
theorem ushiftRight_eq_ofNat (x : Dword) (n : Nat) : x >>> n = BitVec.ofNat 64 (x.toNat / 2 ^ n) := by
  apply BitVec.eq_of_toNat_eq
  rw [BitVec.toNat_ushiftRight, Nat.shiftRight_eq_div_pow, BitVec.toNat_ofNat, Nat.mod_eq_of_lt]
  exact Nat.lt_of_le_of_lt (Nat.div_le_self _ _) x.isLt

/-! ## Counts and fields -/

/-- The leading zeros of a number of n bits are what its highest one leaves. -/
theorem clzN_spec {n x : Nat} (h : x < 2 ^ n) : clzN n x ≤ n ∧ x < 2 ^ (n - clzN n x) ∧
    (clzN n x < n → 2 ^ (n - 1 - clzN n x) ≤ x) := by
  unfold clzN
  split
  · next h0 => simp [h0]
  · next h0 =>
    have hlog : Nat.log2 x < n := (Nat.log2_lt h0).mpr h
    have hle := Nat.log2_self_le h0
    have hlt : x < 2 ^ (Nat.log2 x + 1) := Nat.lt_log2_self
    refine ⟨by omega, ?_, fun _ => ?_⟩
    · rwa [show n - (n - 1 - Nat.log2 x) = Nat.log2 x + 1 by omega]
    · rwa [show n - 1 - (n - 1 - Nat.log2 x) = Nat.log2 x by omega]

/-- The ones among the low n bits, counted. -/
theorem popN_eq (n : Nat) (x : Dword) : popN n x.toNat = ((List.range n).filter fun i => x.getLsbD i).length := by
  induction n with
  | zero => rfl
  | succ n ih =>
    have hbit : x.toNat / 2 ^ n % 2 = (x.getLsbD n).toNat := by
      rw [← BitVec.testBit_toNat, Nat.toNat_testBit]
    rw [popN, List.range_succ, List.foldl_append, List.foldl_cons, List.foldl_nil, hbit, List.filter_append, List.length_append, ← ih, popN]
    cases h : x.getLsbD n <;> simp [h]

/-- Bit i of a sign extension from n bits is bit i, or bit n − 1 from there on. -/
theorem getLsbD_sextN {n : Nat} (h1 : 1 ≤ n) (hn : n ≤ 64) (x : Dword) {i : Nat} (hi : i < 64) :
    (sextN n x).getLsbD i = x.getLsbD (min i (n - 1)) := by
  rw [sextN, BitVec.getLsbD_sshiftRight, BitVec.msb_eq_getLsbD_last]
  simp only [BitVec.getLsbD_shiftLeft]
  by_cases h : i < n
  · simp [hi, show 64 - n + i < 64 by omega, show min i (n - 1) = i by omega]
  · simp [Nat.not_le.mpr hi, show ¬ 64 - n + i < 64 by omega, show min i (n - 1) = n - 1 by omega,
      show 63 - (64 - n) = n - 1 by omega, show ¬ 63 < 64 - n by omega]

theorem bfxN_eq {lo w : Nat} (hw : w ≤ 64) (x : Dword) :
    bfxN lo w x = BitVec.ofNat 64 (x.toNat / 2 ^ lo % 2 ^ w) := by
  have hle : 2 ^ w ≤ 2 ^ 64 := Nat.pow_le_pow_right (by decide) hw
  have hpos := Nat.two_pow_pos w
  apply BitVec.eq_of_toNat_eq
  rw [bfxN, BitVec.toNat_and, BitVec.toNat_ofNat, BitVec.toNat_ofNat, Nat.mod_eq_of_lt (by omega : 2 ^ w - 1 < 2 ^ 64),
    Nat.and_two_pow_sub_one_eq_mod, BitVec.toNat_ushiftRight, Nat.shiftRight_eq_div_pow,
    Nat.mod_eq_of_lt (Nat.lt_of_lt_of_le (Nat.mod_lt _ hpos) hle)]

/-- Bit i of w ones. -/
theorem getLsbD_ones {w : Nat} (hw : w ≤ 64) (i : Nat) : (BitVec.ofNat 64 (2 ^ w - 1)).getLsbD i = decide (i < w) := by
  rw [BitVec.getLsbD_ofNat, Nat.testBit_two_pow_sub_one]
  by_cases h : i < w
  · simp [h]; omega
  · simp [h]

theorem getLsbD_bfiN {lo w : Nat} (h : lo + w ≤ 64) (old x : Dword) {i : Nat} (hi : i < 64) :
    (bfiN lo w old x).getLsbD i = if lo ≤ i ∧ i < lo + w then x.getLsbD (i - lo) else old.getLsbD i := by
  have hones := getLsbD_ones (w := w) (by omega)
  simp only [bfiN, BitVec.getLsbD_or, BitVec.getLsbD_and, BitVec.getLsbD_not, BitVec.getLsbD_shiftLeft, hones, hi, decide_true,
    Bool.true_and]
  by_cases h1 : lo ≤ i
  · by_cases h2 : i < lo + w
    · simp [h1, h2, show ¬ i < lo by omega, show i - lo < w by omega]
    · simp [h1, h2, show ¬ i < lo by omega, show ¬ i - lo < w by omega]
  · simp [h1, show i < lo by omega]

/-! ## Conditions (04 R80) -/

/-- Bits [2:0] of a field as a predicate number. -/
theorem toNat_low3 {w : Nat} (v : BitVec w) : (v.extractLsb' 0 3).toNat = v.toNat % 8 := by simp

theorem predicateResult_cmp (f : SR) (s : State) : PredicateResult (.cmp f) s (s.x.preg f.p.toNat) (f.d.toNat % 8)
    (condOf (f.f.toNat % 8) (s.x.sreg f.a.toNat) (s.x.sreg f.b.toNat)) :=
  predicateResult_of_landP (by rw [exec_cmp, execCmp, State.whenP_eq, toNat_low3, toNat_low3])

theorem predicateResult_cmpi (f : SI) (s : State) : PredicateResult (.cmpi f) s true (f.d.toNat % 8)
    (condiOf (f.d.toNat / 8) (s.x.sreg f.a.toNat) (s.immS f.i)) := by
  have hd := f.d.isLt
  have hhigh : (f.d.extractLsb' 3 2).toNat = f.d.toNat / 8 := by
    rw [BitVec.extractLsb'_toNat, Nat.shiftRight_eq_div_pow]
    omega
  exact predicateResult_of_landP (by rw [exec_cmpi, execCmpi, toNat_low3, hhigh]; rfl)

/-- Settles O1, family by family: what srOp and siOp put in flight, and its value as integers or bit by bit. -/
theorem scalarInstructionResults : Obligations.ScalarInstructionResults := by
  refine ⟨?arithmetic, ?logic, ?fields, ?immediates, ?conditions, ?immediateConditions⟩
  case arithmetic =>
    intro f s x y go
    refine ⟨scalarResult_of_srOp (exec_add f s) ?add, scalarResult_of_srOp (exec_sub f s) ?sub,
      scalarResult_of_srOp (exec_mul f s) ?mul, scalarResult_of_srOp (exec_mulh f s) rfl,
      scalarResult_of_srOp (exec_mulhu f s) rfl, scalarResult_of_srOp (exec_min f s) (ofInt_min x y).symm,
      scalarResult_of_srOp (exec_max f s) (ofInt_max x y).symm, scalarResult_of_srOp (exec_minu f s) (ofNat_min x y).symm,
      scalarResult_of_srOp (exec_maxu f s) (ofNat_max x y).symm⟩
    case add => exact BitVec.eq_of_toNat_eq (by simp [x, y])
    case sub => exact BitVec.eq_of_toInt_eq (by simp [x, y])
    case mul => exact BitVec.eq_of_toNat_eq (by simp [x, y])
  case logic =>
    intro f s x y go bitwise
    refine ⟨⟨_, scalarResult_of_srOp (exec_and f s) rfl, fun n _ => BitVec.getLsbD_and⟩,
      ⟨_, scalarResult_of_srOp (exec_or f s) rfl, fun n _ => BitVec.getLsbD_or⟩,
      ⟨_, scalarResult_of_srOp (exec_xor f s) rfl, fun n _ => BitVec.getLsbD_xor⟩,
      ⟨_, scalarResult_of_srOp (exec_andn f s) rfl, fun n hn => ?andn⟩,
      scalarResult_of_srOp (exec_shl f s) ?shl, scalarResult_of_srOp (exec_shr f s) ?shr, scalarResult_of_srOp (exec_sar f s) ?sar⟩
    case andn => simp [x, y, hn]
    case shl => rw [bits_low6, shiftLeft_eq_ofNat]
    case shr => rw [bits_low6, ushiftRight_eq_ofNat]
    case sar => rw [bits_low6, sshiftRight_eq_div]
  case fields =>
    intro f s x go n w
    obtain ⟨hk, hlt, hle⟩ := clzN_spec x.isLt
    exact ⟨⟨clzN 64 x.toNat, hk, scalarResult_of_srOp (exec_clz f s) rfl, hlt, hle⟩,
      scalarResult_of_srOp (exec_popc f s) (congrArg (BitVec.ofNat 64) (popN_eq 64 x)),
      fun h1 hn => ⟨_, scalarResult_of_srOp (exec_sext f s) rfl, fun i hi => getLsbD_sextN h1 hn x hi⟩,
      fun h => scalarResult_of_srOp (exec_bfx f s) (bfxN_eq (by omega) x),
      fun h => ⟨_, scalarResult_of_srOp (exec_bfi f s) rfl, fun i hi => getLsbD_bfiN h _ x hi⟩⟩
  case immediates =>
    intro f s x k z
    have hz6 : z.toNat % 64 = bits (s.immZ f.i) 0 6 := by
      rw [show z = _ from s.immInt_unsigned f.i, Int.toNat_natCast, bits_low6]
    rw [BitVec.ofInt_add, BitVec.ofInt_toInt, s.ofInt_immInt_signed, s.ofInt_immInt_unsigned, hz6]
    exact ⟨scalarResult_of_siOp (exec_addi f s) rfl, scalarResult_of_siOp (exec_andi f s) rfl,
      scalarResult_of_siOp (exec_ori f s) rfl, scalarResult_of_siOp (exec_xori f s) rfl,
      scalarResult_of_siOp (exec_shli f s) (shiftLeft_eq_ofNat _ _), scalarResult_of_siOp (exec_shri f s) (ushiftRight_eq_ofNat _ _),
      scalarResult_of_siOp (exec_sari f s) (sshiftRight_eq_div _ _), scalarResult_of_siOp (exec_li f s) rfl⟩
  case conditions =>
    intro f s x y go pd fn cmp
    have hcmp (c : Nat) (hc : fn % 8 = c) : cmp (condOf c x y) := hc ▸ predicateResult_cmp f s
    refine ⟨hcmp 0, hcmp 1, hcmp 2, hcmp 3, hcmp 4, hcmp 5, scalarResult_of_srOp (exec_sel f s) ?sel, predicateResult_of_landP ?plog⟩
    case sel => rw [toNat_low3]
    case plog => rw [exec_plog, execPlog, State.whenP_eq, toNat_low3, toNat_low3, toNat_low3, BitVec.getLsbD]
  case immediateConditions =>
    intro f s x k c cmpi
    have hk : k = s.immS f.i := s.ofInt_immInt_signed f.i
    have hcmpi (n : Nat) (hn : c = n) : cmpi (condiOf n x k) := by rw [hk, ← hn]; exact predicateResult_cmpi f s
    exact ⟨hcmpi 0, hcmpi 1, hcmpi 2, hcmpi 3⟩

end Sys2Proof.Machine
end

section
/-! O6 (04 R102 to R105, 05 R117, 18 R373): the control registers. A csrw is one field, or one entry of a map, of the context or of
the core (`Ctx.csrWrite_eq`, `Ctx.level_csrWrite`, `CoreSt.csrWrite_eq`), and csrr reads the fields of one number, so that what a
number reads after a write follows number by number. -/

namespace Sys2Proof.Machine

/-- The assigned numbers as ranges (04 R102). -/
theorem csrKnown_iff (n : Nat) : csrKnown n = true ↔
    n ∈ [0x000, 0x008, 0x010, 0x020, 0x022, 0x024, 0x048, 0x110, 0x111, 0x140, 0x141, 0x150] ∨ (0x011 ≤ n ∧ n ≤ 0x01C) ∨
      (0x030 ≤ n ∧ n ≤ 0x035) ∨ (0x038 ≤ n ∧ n ≤ 0x03B) ∨ (0x040 ≤ n ∧ n ≤ 0x047) ∨ (0x100 ≤ n ∧ n ≤ 0x103) ∨
      (0x120 ≤ n ∧ n ≤ 0x13F) := by
  simp only [csrKnown, Bool.or_eq_true, Bool.and_eq_true, decide_eq_true_eq, List.contains_iff_mem, or_assoc]

/-! ## Levels of the loop unit -/

theorem Ctx.level_setLevel (c : Ctx) (j : Nat) (l : Level) (k : Nat) : (c.setLevel j l).level k = if k = j then l else c.level k :=
  Map.get_set ..

/-- P set in the first n levels: the levels change alone, each in its P. -/
theorem Ctx.foldl_setP (c : Ctx) (g : Nat → Bool) (n : Nat) :
    let d := (List.range n).foldl (fun c k => c.setLevel k { c.level k with p := g k }) c
    d = { c with levels := d.levels } ∧ ∀ k, d.level k = if k < n then { c.level k with p := g k } else c.level k := by
  induction n with
  | zero => exact ⟨rfl, fun k => rfl⟩
  | succ n ih =>
    obtain ⟨heq, hlevel⟩ := ih
    rw [List.range_succ, List.foldl_append, List.foldl_cons, List.foldl_nil]
    generalize (List.range n).foldl (fun c k => c.setLevel k { c.level k with p := g k }) c = d at heq hlevel
    refine ⟨by rw [heq]; rfl, fun k => ?_⟩
    rw [Ctx.level_setLevel, hlevel, hlevel]
    by_cases hk : k = n
    · simp [hk]
    · simp [hk, show k < n + 1 ↔ k < n by omega]

/-! ## What a write changes -/

/-- A number is one of the loop unit's or not. -/
theorem levelCsr_cases (n : Nat) : n = 0x010 ∨ (∃ k < 4, n = 0x011 + k) ∨ (∃ k < 4, n = 0x015 + k) ∨ (∃ k < 4, n = 0x019 + k) ∨
    ¬ (0x010 ≤ n ∧ n ≤ 0x01C) := by
  by_cases h1 : 0x011 ≤ n ∧ n ≤ 0x014
  · exact .inr (.inl ⟨n - 0x011, by omega, by omega⟩)
  by_cases h2 : 0x015 ≤ n ∧ n ≤ 0x018
  · exact .inr (.inr (.inl ⟨n - 0x015, by omega, by omega⟩))
  by_cases h3 : 0x019 ≤ n ∧ n ≤ 0x01C
  · exact .inr (.inr (.inr (.inl ⟨n - 0x019, by omega, by omega⟩)))
  · omega

/-- A number outside the loop unit is that of another register that a csrw of a context writes, or not. -/
theorem otherCsr_cases (n : Nat) (h : ¬ (0x010 ≤ n ∧ n ≤ 0x01C)) : n = 0x008 ∨ n = 0x022 ∨ n = 0x030 ∨ n = 0x031 ∨ n = 0x032 ∨
    n = 0x033 ∨ n = 0x034 ∨ (0x038 ≤ n ∧ n ≤ 0x03B) ∨ (0x040 ≤ n ∧ n ≤ 0x047) ∨ (n ≠ 0x008 ∧ ¬ (0x010 ≤ n ∧ n ≤ 0x01C) ∧ n ≠ 0x022 ∧
      ¬ (0x030 ≤ n ∧ n ≤ 0x034) ∧ ¬ (0x038 ≤ n ∧ n ≤ 0x03B) ∧ ¬ (0x040 ≤ n ∧ n ≤ 0x047)) := by omega

section
variable (c : Ctx) (v : Dword) {k : Nat}

theorem Ctx.csrWrite_lctl : c.csrWrite 0x010 v = c.setLctl v := rfl
theorem Ctx.csrWrite_count (hk : k < 4) :
    c.csrWrite (0x011 + k) v = c.setLevel k { c.level k with count := v.extractLsb' 0 32 } := by
  simp (disch := omega) only [Ctx.csrWrite, if_neg, if_pos, Nat.add_sub_cancel_left]
theorem Ctx.csrWrite_start (hk : k < 4) : c.csrWrite (0x015 + k) v = c.setLevel k { c.level k with start := addrOf v } := by
  simp (disch := omega) only [Ctx.csrWrite, if_neg, if_pos, Nat.add_sub_cancel_left]
theorem Ctx.csrWrite_fin (hk : k < 4) : c.csrWrite (0x019 + k) v = c.setLevel k { c.level k with fin := addrOf v } := by
  simp (disch := omega) only [Ctx.csrWrite, if_neg, if_pos, Nat.add_sub_cancel_left]

theorem Ctx.setLctl_eq : c.setLctl v = { c with
    sk := v.getLsbD 3, depth := if bits v 0 3 ≤ 4 then bits v 0 3 else c.depth, levels := (c.setLctl v).levels } := by
  rw [Ctx.setLctl]
  exact (Ctx.foldl_setP _ (fun k => v.getLsbD (4 + k)) 4).1

theorem Ctx.level_setLctl (hk : k < 4) : (c.setLctl v).level k = { c.level k with p := v.getLsbD (4 + k) } := by
  rw [Ctx.setLctl, (Ctx.foldl_setP _ (fun k => v.getLsbD (4 + k)) 4).2, if_pos hk]
  rfl

/-- The context after a csrw, field by field; its levels are those of `Ctx.level_csrWrite`. -/
theorem Ctx.csrWrite_eq (n : Nat) : c.csrWrite n v = { c with
    rm := if n = 0x008 then v.extractLsb' 0 2 else c.rm
    sk := if n = 0x010 then v.getLsbD 3 else c.sk
    depth := if n = 0x010 then (if bits v 0 3 ≤ 4 then bits v 0 3 else c.depth) else c.depth
    levels := (c.csrWrite n v).levels
    dtgt := if n = 0x022 then v &&& 0x1FFFFFFFFFFFFFFF#64 else c.dtgt
    tvec := if n = 0x030 then addrOf v else c.tvec
    cause := if n = 0x031 then v.extractLsb' 0 8 else c.cause
    fmask := if n = 0x032 then v.extractLsb' 0 16 else c.fmask
    tpc := if n = 0x033 then addrOf v else c.tpc
    tinfo := if n = 0x034 then v else c.tinfo
    tsave := if 0x038 ≤ n ∧ n ≤ 0x03B then Map.set 0 c.tsave (n - 0x038) v else c.tsave
    vstat := if 0x040 ≤ n ∧ n ≤ 0x047 then Map.set 0 c.vstat (n - 0x040) (v.extractLsb' 0 32 &&& 0x3F3F#32) else c.vstat } := by
  obtain rfl | ⟨k, hk, rfl⟩ | ⟨k, hk, rfl⟩ | ⟨k, hk, rfl⟩ | h := levelCsr_cases n
  · rw [Ctx.csrWrite_lctl]; exact c.setLctl_eq v
  · simp (disch := omega) only [if_neg, c.csrWrite_count v hk]; rfl
  · simp (disch := omega) only [if_neg, c.csrWrite_start v hk]; rfl
  · simp (disch := omega) only [if_neg, c.csrWrite_fin v hk]; rfl
  · obtain rfl | rfl | rfl | rfl | rfl | rfl | rfl | h | h | h := otherCsr_cases n h <;>
      simp (disch := omega) only [Ctx.csrWrite, if_neg, if_pos, if_true]

theorem Ctx.levels_csrWrite {n : Nat} (h : ¬ (0x010 ≤ n ∧ n ≤ 0x01C)) : (c.csrWrite n v).levels = c.levels := by
  obtain rfl | rfl | rfl | rfl | rfl | rfl | rfl | h | h | h := otherCsr_cases n h <;>
    simp (disch := omega) only [Ctx.csrWrite, if_neg, if_pos, if_true]

theorem Ctx.level_csrWrite (n : Nat) (hk : k < 4) : (c.csrWrite n v).level k =
    { count := if n = 0x011 + k then v.extractLsb' 0 32 else (c.level k).count
      start := if n = 0x015 + k then addrOf v else (c.level k).start
      fin := if n = 0x019 + k then addrOf v else (c.level k).fin
      p := if n = 0x010 then v.getLsbD (4 + k) else (c.level k).p } := by
  obtain rfl | ⟨j, hj, rfl⟩ | ⟨j, hj, rfl⟩ | ⟨j, hj, rfl⟩ | h := levelCsr_cases n
  · simp (disch := omega) only [Ctx.csrWrite_lctl, c.level_setLctl v hk, if_neg, if_true]
  · rw [c.csrWrite_count v hj, Ctx.level_setLevel]
    split
    · next hjk => subst hjk; simp (disch := omega) only [if_neg, if_true]
    · simp (disch := omega) only [if_neg]
  · rw [c.csrWrite_start v hj, Ctx.level_setLevel]
    split
    · next hjk => subst hjk; simp (disch := omega) only [if_neg, if_true]
    · simp (disch := omega) only [if_neg]
  · rw [c.csrWrite_fin v hj, Ctx.level_setLevel]
    split
    · next hjk => subst hjk; simp (disch := omega) only [if_neg, if_true]
    · simp (disch := omega) only [if_neg]
  · rw [Ctx.level, c.levels_csrWrite v h]
    simp (disch := omega) only [if_neg]
    rfl

@[simp] theorem Ctx.csrWrite_rm (n : Nat) : (c.csrWrite n v).rm = if n = 0x008 then v.extractLsb' 0 2 else c.rm :=
  congrArg Ctx.rm (c.csrWrite_eq v n)
@[simp] theorem Ctx.csrWrite_sk (n : Nat) : (c.csrWrite n v).sk = if n = 0x010 then v.getLsbD 3 else c.sk :=
  congrArg Ctx.sk (c.csrWrite_eq v n)
@[simp] theorem Ctx.csrWrite_depth (n : Nat) : (c.csrWrite n v).depth =
    if n = 0x010 then (if bits v 0 3 ≤ 4 then bits v 0 3 else c.depth) else c.depth := congrArg Ctx.depth (c.csrWrite_eq v n)
@[simp] theorem Ctx.csrWrite_dtgt (n : Nat) : (c.csrWrite n v).dtgt = if n = 0x022 then v &&& 0x1FFFFFFFFFFFFFFF#64 else c.dtgt :=
  congrArg Ctx.dtgt (c.csrWrite_eq v n)
@[simp] theorem Ctx.csrWrite_tvec (n : Nat) : (c.csrWrite n v).tvec = if n = 0x030 then addrOf v else c.tvec :=
  congrArg Ctx.tvec (c.csrWrite_eq v n)
@[simp] theorem Ctx.csrWrite_cause (n : Nat) : (c.csrWrite n v).cause = if n = 0x031 then v.extractLsb' 0 8 else c.cause :=
  congrArg Ctx.cause (c.csrWrite_eq v n)
@[simp] theorem Ctx.csrWrite_fmask (n : Nat) : (c.csrWrite n v).fmask = if n = 0x032 then v.extractLsb' 0 16 else c.fmask :=
  congrArg Ctx.fmask (c.csrWrite_eq v n)
@[simp] theorem Ctx.csrWrite_tpc (n : Nat) : (c.csrWrite n v).tpc = if n = 0x033 then addrOf v else c.tpc :=
  congrArg Ctx.tpc (c.csrWrite_eq v n)
@[simp] theorem Ctx.csrWrite_tinfo (n : Nat) : (c.csrWrite n v).tinfo = if n = 0x034 then v else c.tinfo :=
  congrArg Ctx.tinfo (c.csrWrite_eq v n)
@[simp] theorem Ctx.csrWrite_brec (n : Nat) : (c.csrWrite n v).brec = c.brec := by rw [Ctx.csrWrite_eq]
@[simp] theorem Ctx.csrWrite_rtile (n : Nat) : (c.csrWrite n v).rtile = c.rtile := by rw [Ctx.csrWrite_eq]
@[simp] theorem Ctx.csrWrite_h (n : Nat) : (c.csrWrite n v).h = c.h := by rw [Ctx.csrWrite_eq]
@[simp] theorem Ctx.csrWrite_sp (n : Nat) : (c.csrWrite n v).sp = c.sp := by rw [Ctx.csrWrite_eq]
@[simp] theorem Ctx.csrWrite_pitch (n : Nat) : (c.csrWrite n v).pitch = c.pitch := by rw [Ctx.csrWrite_eq]

theorem Ctx.csrWrite_tsave (n : Nat) : (c.csrWrite n v).tsave =
    if 0x038 ≤ n ∧ n ≤ 0x03B then Map.set 0 c.tsave (n - 0x038) v else c.tsave := congrArg Ctx.tsave (c.csrWrite_eq v n)
theorem Ctx.csrWrite_vstat (n : Nat) : (c.csrWrite n v).vstat =
    if 0x040 ≤ n ∧ n ≤ 0x047 then Map.set 0 c.vstat (n - 0x040) (v.extractLsb' 0 32 &&& 0x3F3F#32) else c.vstat :=
  congrArg Ctx.vstat (c.csrWrite_eq v n)

theorem Ctx.tsave_csrWrite (n : Nat) (hk : k < 4) :
    Map.get 0 (c.csrWrite n v).tsave k = if n = 0x038 + k then v else Map.get 0 c.tsave k := by
  rw [Ctx.csrWrite_tsave]
  by_cases h : 0x038 ≤ n ∧ n ≤ 0x03B
  · rw [if_pos h, Map.get_set]
    exact if_congr (by omega) rfl rfl
  · rw [if_neg h, if_neg (by omega)]

theorem Ctx.vst_csrWrite (n : Nat) (hk : k < 8) :
    (c.csrWrite n v).vst k = if n = 0x040 + k then v.extractLsb' 0 32 &&& 0x3F3F#32 else c.vst k := by
  rw [Ctx.vst, Ctx.csrWrite_vstat]
  by_cases h : 0x040 ≤ n ∧ n ≤ 0x047
  · rw [if_pos h, Map.get_set]
    exact if_congr (by omega) rfl rfl
  · rw [if_neg h, if_neg (by omega), Ctx.vst]

/-- The core after a csrw, field by field. -/
theorem CoreSt.csrWrite_eq (c : CoreSt) (n : Nat) : c.csrWrite n v = { c with
    maxrun := if n = 0x100 then bits v 0 16 else c.maxrun
    deadline := if n = 0x101 then bits v 0 20 else c.deadline
    slice := if n = 0x102 then (if bits v 0 16 < 256 then c.slice else bits v 0 16) else c.slice
    wdog := if n = 0x103 then v.extractLsb' 0 32 else c.wdog } := by
  have hn : n = 0x100 ∨ n = 0x101 ∨ n = 0x102 ∨ n = 0x103 ∨ ¬ (0x100 ≤ n ∧ n ≤ 0x103) := by omega
  obtain rfl | rfl | rfl | rfl | h := hn <;> simp (disch := omega) only [CoreSt.csrWrite, if_neg, if_true]
theorem CoreSt.csrWrite_maxrun (c : CoreSt) (n : Nat) : (c.csrWrite n v).maxrun = if n = 0x100 then bits v 0 16 else c.maxrun :=
  congrArg CoreSt.maxrun (c.csrWrite_eq v n)
theorem CoreSt.csrWrite_deadline (c : CoreSt) (n : Nat) : (c.csrWrite n v).deadline = if n = 0x101 then bits v 0 20 else c.deadline :=
  congrArg CoreSt.deadline (c.csrWrite_eq v n)
theorem CoreSt.csrWrite_slice (c : CoreSt) (n : Nat) : (c.csrWrite n v).slice =
    if n = 0x102 then (if bits v 0 16 < 256 then c.slice else bits v 0 16) else c.slice := congrArg CoreSt.slice (c.csrWrite_eq v n)
theorem CoreSt.csrWrite_wdog (c : CoreSt) (n : Nat) : (c.csrWrite n v).wdog = if n = 0x103 then v.extractLsb' 0 32 else c.wdog :=
  congrArg CoreSt.wdog (c.csrWrite_eq v n)

/-- A number outside those that a csrw sets changes nothing. -/
theorem State.applyCsr_of_readOnly (s : State) {n : Nat}
    (h : ¬ (n = 0x008 ∨ (0x010 ≤ n ∧ n ≤ 0x01C) ∨ n = 0x022 ∨ (0x030 ≤ n ∧ n ≤ 0x034) ∨ (0x038 ≤ n ∧ n ≤ 0x03B) ∨
      (0x040 ≤ n ∧ n ≤ 0x047) ∨ (0x100 ≤ n ∧ n ≤ 0x103))) : s.applyCsr (.csr n v) = s := by
  have hx : s.x.csrWrite n v = s.x := by simp (disch := omega) only [Ctx.csrWrite, if_neg]
  have hcore : s.core.csrWrite n v = s.core := by simp (disch := omega) only [CoreSt.csrWrite, if_neg]
  rw [State.applyCsr, hx, hcore, State.setX_self, State.setCore_self]

end

/-! ## Fields as numbers -/

theorem setWidth_eq_ofNat {w : Nat} (x : BitVec w) : x.setWidth 64 = BitVec.ofNat 64 x.toNat := (BitVec.ofNat_toNat ..).symm
theorem eq_ofNat_toNat (x : Dword) : x = BitVec.ofNat 64 x.toNat := by simp

/-- A field of a dword as a number. -/
theorem toNat_bits (v : Dword) (lo n : Nat) : (v.extractLsb' lo n).toNat = v.toNat / 2 ^ lo % 2 ^ n := by
  rw [BitVec.extractLsb'_toNat, Nat.shiftRight_eq_div_pow]

theorem toNat_addrOf (v : Dword) : (addrOf v).toNat = v.toNat % 2 ^ 56 / 4 * 4 := by
  rw [addrOf, BitVec.toNat_append, toNat_bits, show (0#2).toNat = 0 from rfl, Nat.or_zero, Nat.shiftLeft_eq]
  omega

/-- Bit n as a digit. -/
theorem toNat_getLsbD (v : Dword) (n : Nat) : (v.getLsbD n).toNat = v.toNat / 2 ^ n % 2 := by
  rw [BitVec.getLsbD, Nat.toNat_testBit]

/-! ## What csrr reads -/

section
variable (s : State) {k : Nat}

@[simp] theorem State.csrRead_id : s.csrRead 0x000 = BitVec.ofNat 64 (s.xn % 8 + s.core.num * 8 + s.core.die * 1024) := rfl
@[simp] theorem State.csrRead_rm : s.csrRead 0x008 = BitVec.ofNat 64 s.x.rm.toNat := setWidth_eq_ofNat s.x.rm
@[simp] theorem State.csrRead_lctl : s.csrRead 0x010 = s.x.lctl := rfl
@[simp] theorem State.csrRead_brec : s.csrRead 0x020 = BitVec.ofNat 64 s.x.brec.toNat := eq_ofNat_toNat _
@[simp] theorem State.csrRead_dtgt : s.csrRead 0x022 = BitVec.ofNat 64 s.x.dtgt.toNat := eq_ofNat_toNat _
@[simp] theorem State.csrRead_rtile : s.csrRead 0x024 = BitVec.ofNat 64 s.x.rtile.toNat := eq_ofNat_toNat _
@[simp] theorem State.csrRead_tvec : s.csrRead 0x030 = BitVec.ofNat 64 s.x.tvec.toNat := setWidth_eq_ofNat s.x.tvec
@[simp] theorem State.csrRead_cause : s.csrRead 0x031 = BitVec.ofNat 64 s.x.cause.toNat := setWidth_eq_ofNat s.x.cause
@[simp] theorem State.csrRead_fmask : s.csrRead 0x032 = BitVec.ofNat 64 s.x.fmask.toNat := setWidth_eq_ofNat s.x.fmask
@[simp] theorem State.csrRead_tpc : s.csrRead 0x033 = BitVec.ofNat 64 s.x.tpc.toNat := setWidth_eq_ofNat s.x.tpc
@[simp] theorem State.csrRead_tinfo : s.csrRead 0x034 = BitVec.ofNat 64 s.x.tinfo.toNat := eq_ofNat_toNat _
@[simp] theorem State.csrRead_tctl : s.csrRead 0x035 = BitVec.ofNat 64 (s.x.h.toNat + 2 * (s.x.sp || s.x.h).toNat + 4 * s.x.sp.toNat) := rfl
@[simp] theorem State.csrRead_maxrun : s.csrRead 0x100 = BitVec.ofNat 64 s.core.maxrun := rfl
@[simp] theorem State.csrRead_deadline : s.csrRead 0x101 = BitVec.ofNat 64 s.core.deadline := rfl
@[simp] theorem State.csrRead_slice : s.csrRead 0x102 = BitVec.ofNat 64 s.core.slice := rfl
@[simp] theorem State.csrRead_wdog : s.csrRead 0x103 = BitVec.ofNat 64 s.core.wdog.toNat := setWidth_eq_ofNat s.core.wdog
@[simp] theorem State.csrRead_iwa : s.csrRead 0x110 = windowReg s.core.iwA := rfl
@[simp] theorem State.csrRead_iwb : s.csrRead 0x111 = windowReg s.core.iwB := rfl
@[simp] theorem State.csrRead_rres : s.csrRead 0x150 = BitVec.ofNat 64 s.core.rres := rfl

theorem State.csrRead_count (hk : k < 4) : s.csrRead (0x011 + k) = BitVec.ofNat 64 (s.x.level k).count.toNat := by
  simp (disch := omega) only [State.csrRead, if_neg, if_pos, Nat.add_sub_cancel_left, setWidth_eq_ofNat]
theorem State.csrRead_start (hk : k < 4) : s.csrRead (0x015 + k) = BitVec.ofNat 64 (s.x.level k).start.toNat := by
  simp (disch := omega) only [State.csrRead, if_neg, if_pos, Nat.add_sub_cancel_left, addrDword, setWidth_eq_ofNat]
theorem State.csrRead_fin (hk : k < 4) : s.csrRead (0x019 + k) = BitVec.ofNat 64 (s.x.level k).fin.toNat := by
  simp (disch := omega) only [State.csrRead, if_neg, if_pos, Nat.add_sub_cancel_left, addrDword, setWidth_eq_ofNat]
theorem State.csrRead_tsave (hk : k < 4) : s.csrRead (0x038 + k) = BitVec.ofNat 64 (Map.get 0 s.x.tsave k).toNat := by
  simp (disch := omega) only [State.csrRead, if_neg, if_pos, Nat.add_sub_cancel_left]
  exact eq_ofNat_toNat _
theorem State.csrRead_vst (hk : k < 8) : s.csrRead (0x040 + k) = BitVec.ofNat 64 (s.x.vst k).toNat := by
  simp (disch := omega) only [State.csrRead, if_neg, if_pos, Nat.add_sub_cancel_left, setWidth_eq_ofNat]
theorem State.csrRead_head (hk : k < 16) : s.csrRead (0x120 + k) = BitVec.ofNat 64 (s.core.stream k).head.toNat := by
  simp (disch := omega) only [State.csrRead, if_neg, if_pos, Nat.add_sub_cancel_left, setWidth_eq_ofNat]
theorem State.csrRead_tail (hk : k < 16) : s.csrRead (0x130 + k) = BitVec.ofNat 64 (s.core.stream k).tail.toNat := by
  simp (disch := omega) only [State.csrRead, if_neg, if_pos, Nat.add_sub_cancel_left, setWidth_eq_ofNat]
theorem State.csrRead_mxb {b : Nat} (hb : b < 2) : s.csrRead (0x140 + b) = s.mxb b := by
  obtain rfl | rfl : b = 0 ∨ b = 1 := by omega
  · rfl
  · rfl

/-- The register of a bank, zero to a context whose pitch does not own it (12 R264). -/
theorem State.mxb_eq (b : Nat) : s.mxb b = BitVec.ofNat 64 (let k := s.core.bank b
    if k.owner ≠ 0 ∧ k.owner = s.x.pitch % 128 then 1 + k.mode * 4 + k.flags * 16 + k.owner * 256 else 0) := by
  simp only [State.mxb, Bool.or_eq_true, Bool.not_eq_true', decide_eq_true_eq, decide_eq_false_iff_not]
  split
  · rw [if_neg (by omega)]
    rfl
  · rw [if_pos (by omega)]

/-- ctx.lctl as a sum of its fields (04 R103). -/
theorem Ctx.lctl_eq (c : Ctx) : c.lctl = BitVec.ofNat 64 (c.depth + 8 * c.sk.toNat + 16 * (c.level 0).p.toNat +
    32 * (c.level 1).p.toNat + 64 * (c.level 2).p.toNat + 128 * (c.level 3).p.toNat) := by
  have hbit (b : Bool) (n : Nat) : (if b then n else 0) = n * b.toNat := by cases b <;> simp
  simp only [Ctx.lctl, hbit, show List.range 4 = [0, 1, 2, 3] from rfl, List.foldl_cons, List.foldl_nil]
  exact congrArg _ (by omega)

theorem windowReg_eq (w : Option (BitVec 41)) :
    windowReg w = BitVec.ofNat 64 (match w with | some b => b.toNat * 2 ^ 15 + 1 | none => 0) := by
  cases w with
  | none => rfl
  | some b =>
    have hb := b.isLt
    apply BitVec.eq_of_toNat_eq
    have hor : b.toNat <<< 15 + 1 = b.toNat <<< 15 ||| 1 := Nat.shiftLeft_add_eq_or_of_lt (by decide) _
    rw [windowReg, BitVec.toNat_or, BitVec.toNat_shiftLeft, BitVec.toNat_setWidth, BitVec.toNat_ofNat,
      Nat.mod_eq_of_lt (by omega : b.toNat < 2 ^ 64), Nat.shiftLeft_eq, Nat.mod_eq_of_lt (by omega : b.toNat * 2 ^ 15 < 2 ^ 64),
      ← Nat.shiftLeft_eq, show 1 % 2 ^ 64 = 1 from rfl, ← hor, Nat.shiftLeft_eq]
    exact (Nat.mod_eq_of_lt (by omega)).symm

/-- The flags of every cluster, joined, in the low six bits (08 R169). -/
def Ctx.vsum (c : Ctx) : Nat := (List.range 8).foldl (fun a k => a ||| (c.vst k).toNat % 64) 0

theorem Ctx.testBit_vsum (c : Ctx) (i : Nat) : c.vsum.testBit i = true ↔ i < 6 ∧ ∃ k < 8, (c.vst k).getLsbD i = true := by
  have hbit (x : Word) : (x.toNat % 64).testBit i = (decide (i < 6) && x.getLsbD i) := by
    rw [show 64 = 2 ^ 6 from rfl, Nat.testBit_mod_two_pow, BitVec.getLsbD]
  rw [Ctx.vsum, testBit_foldl_or (fun k => (c.vst k).toNat % 64)]
  simp only [Nat.zero_testBit, Bool.false_eq_true, false_or, List.mem_range, hbit, Bool.and_eq_true, decide_eq_true_eq]
  constructor
  · rintro ⟨k, hk, hi, h⟩
    exact ⟨hi, k, hk, h⟩
  · rintro ⟨hi, k, hk, h⟩
    exact ⟨k, hk, hi, h⟩

theorem Ctx.vsum_lt (c : Ctx) : c.vsum < 64 := by
  refine Nat.lt_pow_two_of_testBit (n := 6) c.vsum fun i hi => ?_
  rw [← Bool.not_eq_true, c.testBit_vsum]
  omega

@[simp] theorem State.csrRead_vsum : s.csrRead 0x048 = BitVec.ofNat 64 s.x.vsum := rfl

end

/-! ## What a number reads after a write -/

section
variable (s : State) {n m : Nat} (v : Dword)

@[simp] theorem State.applyCsr_x : (s.applyCsr (.csr n v)).x = s.x.csrWrite n v := rfl
@[simp] theorem State.applyCsr_xn : (s.applyCsr (.csr n v)).xn = s.xn := rfl
@[simp] theorem State.applyCsr_core : (s.applyCsr (.csr n v)).core = s.core.csrWrite n v := rfl

/-- An assigned number outside the loop unit is one of its own or one of a row. -/
theorem fieldCsr_cases {m : Nat} (hm : csrKnown m = true) (h : ¬ (0x010 ≤ m ∧ m ≤ 0x01C)) :
    m ∈ [0x000, 0x008, 0x020, 0x022, 0x024, 0x030, 0x031, 0x032, 0x033, 0x034, 0x035, 0x100, 0x101, 0x102, 0x103, 0x110, 0x111, 0x150] ∨
      m = 0x048 ∨ (∃ k < 4, m = 0x038 + k) ∨ (∃ k < 8, m = 0x040 + k) ∨ (∃ k < 16, m = 0x120 + k) ∨ (∃ k < 16, m = 0x130 + k) ∨
      ∃ b < 2, m = 0x140 + b := by
  rw [csrKnown_iff] at hm
  by_cases h1 : 0x038 ≤ m ∧ m ≤ 0x03B
  · exact .inr (.inr (.inl ⟨m - 0x038, by omega, by omega⟩))
  by_cases h2 : 0x040 ≤ m ∧ m ≤ 0x047
  · exact .inr (.inr (.inr (.inl ⟨m - 0x040, by omega, by omega⟩)))
  by_cases h3 : 0x120 ≤ m ∧ m ≤ 0x12F
  · exact .inr (.inr (.inr (.inr (.inl ⟨m - 0x120, by omega, by omega⟩))))
  by_cases h4 : 0x130 ≤ m ∧ m ≤ 0x13F
  · exact .inr (.inr (.inr (.inr (.inr (.inl ⟨m - 0x130, by omega, by omega⟩)))))
  by_cases h5 : 0x140 ≤ m ∧ m ≤ 0x141
  · exact .inr (.inr (.inr (.inr (.inr (.inr ⟨m - 0x140, by omega, by omega⟩)))))
  · simp only [List.mem_cons, List.not_mem_nil, or_false] at hm ⊢
    omega

/-- A number that a csrw does not name reads as before; the joined flags are those of the registers of the clusters (04 R105). -/
theorem State.csrRead_applyCsr_ne (hm : csrKnown m = true) (hmn : m ≠ n) (hsum : ¬ (m = 0x048 ∧ 0x040 ≤ n ∧ n ≤ 0x047)) :
    (s.applyCsr (.csr n v)).csrRead m = s.csrRead m := by
  obtain rfl | ⟨k, hk, rfl⟩ | ⟨k, hk, rfl⟩ | ⟨k, hk, rfl⟩ | h := levelCsr_cases m
  case inl =>
    rw [State.csrRead_lctl, State.csrRead_lctl, Ctx.lctl_eq, Ctx.lctl_eq, State.applyCsr_x]
    simp (disch := omega) only [Ctx.level_csrWrite, Ctx.csrWrite_depth, Ctx.csrWrite_sk, if_neg]
  case inr.inl =>
    rw [State.csrRead_count _ hk, State.csrRead_count _ hk, State.applyCsr_x, Ctx.level_csrWrite _ _ _ hk, if_neg (by omega)]
  case inr.inr.inl =>
    rw [State.csrRead_start _ hk, State.csrRead_start _ hk, State.applyCsr_x, Ctx.level_csrWrite _ _ _ hk]
    simp (disch := omega) only [if_neg]
  case inr.inr.inr.inl =>
    rw [State.csrRead_fin _ hk, State.csrRead_fin _ hk, State.applyCsr_x, Ctx.level_csrWrite _ _ _ hk]
    simp (disch := omega) only [if_neg]
  obtain hfield | rfl | ⟨k, hk, rfl⟩ | ⟨k, hk, rfl⟩ | ⟨k, hk, rfl⟩ | ⟨k, hk, rfl⟩ | ⟨b, hb, rfl⟩ := fieldCsr_cases hm h
  · simp only [List.mem_cons, List.not_mem_nil, or_false] at hfield
    obtain rfl | rfl | rfl | rfl | rfl | rfl | rfl | rfl | rfl | rfl | rfl | rfl | rfl | rfl | rfl | rfl | rfl | rfl := hfield <;>
      simp [hmn.symm, CoreSt.csrWrite_eq]
  · simp only [State.csrRead_vsum, State.applyCsr_x, Ctx.vsum, Ctx.vst, Ctx.csrWrite_vstat, if_neg (fun hn => hsum ⟨rfl, hn⟩)]
  · rw [State.csrRead_tsave _ hk, State.csrRead_tsave _ hk, State.applyCsr_x, Ctx.tsave_csrWrite _ _ _ hk, if_neg (by omega)]
  · rw [State.csrRead_vst _ hk, State.csrRead_vst _ hk, State.applyCsr_x, Ctx.vst_csrWrite _ _ _ hk, if_neg (by omega)]
  · rw [State.csrRead_head _ hk, State.csrRead_head _ hk, State.applyCsr_core, CoreSt.csrWrite_eq]
    rfl
  · rw [State.csrRead_tail _ hk, State.csrRead_tail _ hk, State.applyCsr_core, CoreSt.csrWrite_eq]
    rfl
  · rw [State.csrRead_mxb _ hb, State.csrRead_mxb _ hb, State.mxb, State.mxb, State.applyCsr_x, Ctx.csrWrite_pitch, State.applyCsr_core,
      CoreSt.csrWrite_eq]
    rfl

end

theorem and_flags_eq (v : Dword) : BitVec.ofNat 64 (v.extractLsb' 0 32 &&& 0x3F3F#32).toNat = v &&& 0x3F3F#64 := by
  have hle : v.toNat &&& 0x3F3F ≤ 0x3F3F := Nat.and_le_right
  have hmod : (v.toNat &&& 0x3F3F) % 2 ^ 32 = v.toNat % 2 ^ 32 &&& 0x3F3F % 2 ^ 32 := Nat.and_mod_two_pow
  apply BitVec.eq_of_toNat_eq
  rw [BitVec.toNat_ofNat, BitVec.toNat_and, toNat_bits, BitVec.toNat_and, Nat.pow_zero, Nat.div_one]
  rw [show (0x3F3F#32).toNat = 0x3F3F % 2 ^ 32 from rfl, ← hmod, show (0x3F3F#64).toNat = 0x3F3F from rfl]
  omega

/-- ctx.lctl after it was written (04 R103). -/
theorem Ctx.lctl_setLctl (c : Ctx) (v : Dword) : (c.setLctl v).lctl =
    BitVec.ofNat 64 (v.toNat % 256 / 8 * 8 + if v.toNat % 8 ≤ 4 then v.toNat % 8 else c.depth) := by
  have hdepth : bits v 0 3 = v.toNat % 8 := by simp [bits, BitVec.extractLsb'_toNat]
  have hk (k : Nat) (hk : k < 4) : ((c.setLctl v).level k).p = v.getLsbD (4 + k) := by rw [c.level_setLctl v hk]
  have hd : (c.setLctl v).depth = if v.toNat % 8 ≤ 4 then v.toNat % 8 else c.depth := by rw [c.setLctl_eq v, hdepth]
  have hs : (c.setLctl v).sk = v.getLsbD 3 := by rw [c.setLctl_eq v]
  rw [Ctx.lctl_eq, hk 0 (by omega), hk 1 (by omega), hk 2 (by omega), hk 3 (by omega), hd, hs]
  simp only [toNat_getLsbD]
  exact congrArg _ (by omega)

/-! ## csrr and csrw -/

theorem scalarResult_csrr {f : SI} {s : State} {v : Dword} (hk : csrKnown (s.immInt f.i false).toNat = true)
    (hv : s.csrRead (s.immInt f.i false).toNat = v) : ScalarResult (.csrr f) s true f.d 1 v := by
  rw [s.immInt_unsigned, Int.toNat_natCast] at hk hv
  refine scalarResult_of_landS ?_
  rw [exec_csrr, execCsrr, if_pos hk, hv]
  rfl

theorem csrKnown_mxb {b : Nat} (hb : b < 2) : csrKnown (0x140 + b) = true := by
  obtain rfl | rfl : b = 0 ∨ b = 1 := by omega
  · rfl
  · rfl
theorem csrKnown_of_ge {n : Nat} (h : 0x200 ≤ n) : csrKnown n = false := by
  rw [← Bool.not_eq_true, csrKnown_iff]
  simp only [List.mem_cons, List.not_mem_nil, or_false]
  omega

/-- A number that no chapter assigns is illegal-operand (04 R102). -/
theorem exec_csrr_of_unknown {f : SI} {s : State} (hk : csrKnown (s.immInt f.i false).toNat = false) :
    exec (.csrr f) s = .next (s.withCause 3 0x10 (s.defaultInfo 0)) := by
  rw [s.immInt_unsigned, Int.toNat_natCast] at hk
  rw [exec_csrr, execCsrr, if_neg (by simp [hk]), State.illOperand_eq _ _ _ (by decide)]
  rfl

/-- csrw asks for a write at the commit, where its number is assigned and its privilege suffices (04 R102, 18 R371). -/
theorem exec_csrw_eq (f : SI) (s : State) : exec (.csrw f) s = .next (
    if csrKnown (s.immInt f.i false).toNat = false then s.withCause 3 0x10 (s.defaultInfo 0)
    else if csrPriv (s.immInt f.i false).toNat = true ∧ s.x.priv = false then s.withCause 4 0xA0 (s.defaultInfo 0)
    else s.withPosts [.csr (s.immInt f.i false).toNat (s.x.sreg f.a.toNat)]) := by
  rw [exec_csrw, execCsrw, State.post_eq, State.privilege_eq, State.illOperand_eq _ _ _ (by decide), s.immInt_unsigned, Int.toNat_natCast]
  simp only [Bool.not_eq_true', Bool.and_eq_true]
  rfl

/-- Settles O6: csrr by the equation of each number, csrw by `exec_csrw_eq`, and what a number reads after a write by the field that
the write sets. That the base of an unbound window reads as 0 is log 3. -/
theorem controlRegisters : Obligations.ControlRegisters := by
  refine ⟨?csrr, ?csrw, ?written⟩
  case csrr =>
    intro f s n reads lev win
    have hreads {m v : Nat} (hk : csrKnown m = true) (hv : s.csrRead m = BitVec.ofNat 64 v) (hn : n = m) : reads v :=
      scalarResult_csrr (show csrKnown n = true by rwa [hn]) (show s.csrRead n = _ by rw [hn, hv])
    refine ⟨hreads rfl ?id, hreads rfl s.csrRead_rm, hreads rfl (Ctx.lctl_eq _), fun k hk => ⟨?count, ?start, ?fin, ?tsave⟩,
      hreads rfl s.csrRead_brec, hreads rfl s.csrRead_dtgt, hreads rfl s.csrRead_rtile, hreads rfl s.csrRead_tvec,
      hreads rfl s.csrRead_cause, hreads rfl s.csrRead_fmask, hreads rfl s.csrRead_tpc, hreads rfl s.csrRead_tinfo,
      hreads rfl s.csrRead_tctl, fun k hk => ?vst, ?vsum, fun b hb => ?mxb, hreads rfl s.csrRead_rres, hreads rfl s.csrRead_maxrun,
      hreads rfl s.csrRead_deadline, hreads rfl s.csrRead_slice, hreads rfl s.csrRead_wdog, hreads rfl (windowReg_eq _),
      hreads rfl (windowReg_eq _), fun q hq => ⟨?head, ?tail⟩, ?illegal⟩
    case id => rw [s.csrRead_id]; exact congrArg _ (by omega)
    case count => exact hreads ((csrKnown_iff _).mpr (by omega)) (s.csrRead_count hk)
    case start => exact hreads ((csrKnown_iff _).mpr (by omega)) (s.csrRead_start hk)
    case fin => exact hreads ((csrKnown_iff _).mpr (by omega)) (s.csrRead_fin hk)
    case tsave => exact hreads ((csrKnown_iff _).mpr (by omega)) (s.csrRead_tsave hk)
    case vst => exact hreads ((csrKnown_iff _).mpr (by omega)) (s.csrRead_vst hk)
    case head => exact hreads ((csrKnown_iff _).mpr (by omega)) (s.csrRead_head hq)
    case tail => exact hreads ((csrKnown_iff _).mpr (by omega)) (s.csrRead_tail hq)
    case vsum =>
      intro hn
      exact ⟨s.x.vsum, hreads rfl s.csrRead_vsum hn, s.x.vsum_lt, fun i hi => by rw [s.x.testBit_vsum]; simp [hi]⟩
    case mxb => exact hreads (csrKnown_mxb hb) (by rw [s.csrRead_mxb hb, s.mxb_eq])
    case illegal =>
      rintro (hn | hn)
      · exact exec_csrr_of_unknown (csrKnown_of_ge hn)
      · exact exec_csrr_of_unknown hn
  case csrw =>
    intro f s n
    rw [exec_csrw_eq]
    simp only [csrPriv, Ctx.priv, Bool.or_eq_true, Bool.and_eq_true, decide_eq_true_eq, Bool.or_eq_false_iff]
    rfl
  case written =>
    intro s n v hn t holds
    refine ⟨?rm, ?lctl, ?count, ?addr, ?dtgt, ?cause, ?fmask, ?whole, ?vst, ?maxrun, ?deadline, ?wdog, ?slice, ?readonly, fun m hm hmn hsum => s.csrRead_applyCsr_ne v hm hmn hsum⟩
    case rm =>
      rintro rfl
      exact t.csrRead_rm.trans (congrArg _ (by rw [State.applyCsr_x, Ctx.csrWrite_rm, if_pos rfl, toNat_bits]; omega))
    case lctl =>
      rintro rfl
      exact t.csrRead_lctl.trans (s.x.lctl_setLctl v)
    case count =>
      intro h
      obtain ⟨k, hk, rfl⟩ : ∃ k < 4, n = 0x011 + k := ⟨n - 0x011, by omega, by omega⟩
      exact (t.csrRead_count hk).trans (congrArg _ (by
        rw [State.applyCsr_x, Ctx.level_csrWrite _ _ _ hk, if_pos rfl, toNat_bits, Nat.pow_zero, Nat.div_one]))
    case addr =>
      rintro (h | rfl | rfl)
      · by_cases h' : n < 0x019
        · obtain ⟨k, hk, rfl⟩ : ∃ k < 4, n = 0x015 + k := ⟨n - 0x015, by omega, by omega⟩
          exact (t.csrRead_start hk).trans (congrArg _ (by rw [State.applyCsr_x, Ctx.level_csrWrite _ _ _ hk, if_pos rfl, toNat_addrOf]))
        · obtain ⟨k, hk, rfl⟩ : ∃ k < 4, n = 0x019 + k := ⟨n - 0x019, by omega, by omega⟩
          exact (t.csrRead_fin hk).trans (congrArg _ (by
            rw [State.applyCsr_x, Ctx.level_csrWrite _ _ _ hk]
            simp only [if_true, toNat_addrOf]))
      · exact t.csrRead_tvec.trans (congrArg _ (by rw [State.applyCsr_x, Ctx.csrWrite_tvec, if_pos rfl, toNat_addrOf]))
      · exact t.csrRead_tpc.trans (congrArg _ (by rw [State.applyCsr_x, Ctx.csrWrite_tpc, if_pos rfl, toNat_addrOf]))
    case dtgt =>
      rintro rfl
      exact t.csrRead_dtgt.trans (congrArg _ (by
        rw [State.applyCsr_x, Ctx.csrWrite_dtgt, if_pos rfl, BitVec.toNat_and]
        exact Nat.and_two_pow_sub_one_eq_mod _ 61))
    case cause =>
      rintro rfl
      exact t.csrRead_cause.trans (congrArg _ (by rw [State.applyCsr_x, Ctx.csrWrite_cause, if_pos rfl, toNat_bits]; omega))
    case fmask =>
      rintro rfl
      exact t.csrRead_fmask.trans (congrArg _ (by rw [State.applyCsr_x, Ctx.csrWrite_fmask, if_pos rfl, toNat_bits]; omega))
    case whole =>
      rintro (rfl | h)
      · exact t.csrRead_tinfo.trans (congrArg _ (by rw [State.applyCsr_x, Ctx.csrWrite_tinfo, if_pos rfl]))
      · obtain ⟨k, hk, rfl⟩ : ∃ k < 4, n = 0x038 + k := ⟨n - 0x038, by omega, by omega⟩
        exact (t.csrRead_tsave hk).trans (congrArg _ (by rw [State.applyCsr_x, Ctx.tsave_csrWrite _ _ _ hk, if_pos rfl]))
    case vst =>
      intro h
      obtain ⟨k, hk, rfl⟩ : ∃ k < 8, n = 0x040 + k := ⟨n - 0x040, by omega, by omega⟩
      rw [t.csrRead_vst hk, State.applyCsr_x, Ctx.vst_csrWrite _ _ _ hk, if_pos rfl, and_flags_eq]
    case maxrun =>
      rintro rfl
      exact t.csrRead_maxrun.trans (congrArg _ (by rw [State.applyCsr_core, CoreSt.csrWrite_maxrun, if_pos rfl, bits, toNat_bits]; omega))
    case deadline =>
      rintro rfl
      exact t.csrRead_deadline.trans (congrArg _ (by rw [State.applyCsr_core, CoreSt.csrWrite_deadline, if_pos rfl, bits, toNat_bits]; omega))
    case wdog =>
      rintro rfl
      exact t.csrRead_wdog.trans (congrArg _ (by rw [State.applyCsr_core, CoreSt.csrWrite_wdog, if_pos rfl, toNat_bits]; omega))
    case slice =>
      rintro rfl
      exact t.csrRead_slice.trans (congrArg _ (by
        rw [State.applyCsr_core, CoreSt.csrWrite_slice, if_pos rfl, bits, toNat_bits, Nat.pow_zero, Nat.div_one]))
    case readonly =>
      intro h
      simp only [List.mem_cons, List.not_mem_nil, or_false] at h
      exact s.applyCsr_of_readOnly v (by omega)

end Sys2Proof.Machine
end

section
/-! What landings and the arbiter leave (03 R71, R76, 05 R111, R118): landings change the register file of the context on the issue
path, and by pushes the scratchpad and the stream registers; giving up the issue path changes what the arbiter counts of each
context, and which context is on the path. -/

namespace Sys2Proof.Machine

/-! ## Landings -/

/-- The contexts that landings can leave: the register file alone has changed. -/
structure Ctx.Landed (c d : Ctx) : Prop where
  eq : d = { c with s := d.s, p := d.p, v := d.v, l := d.l, latch := d.latch, latchOk := d.latchOk, tbuf := d.tbuf }

theorem Ctx.landed_of (c : Ctx) (s : List (Nat × Dword)) (p : BitVec 8) (v : List (Nat × Lanes)) (l : List (Nat × BitVec 16))
    (latch : List (Nat × Lanes)) (ok : BitVec 32) (tbuf : List (Nat × Lanes)) :
    c.Landed { c with s := s, p := p, v := v, l := l, latch := latch, latchOk := ok, tbuf := tbuf } := ⟨rfl⟩

theorem Ctx.Landed.refl (c : Ctx) : c.Landed c := ⟨rfl⟩
theorem Ctx.Landed.trans {c d e : Ctx} (h : c.Landed d) (h' : d.Landed e) : c.Landed e := ⟨by rw [h'.eq, h.eq]⟩

theorem Ctx.landed_landLatch (c : Ctx) (n : Nat) (e : Flight) :
    c.Landed (if n = 0 then c else c.landLatch e.cluster (e.unit - 1) e.lanes e.val) := by
  split
  · exact .refl c
  · exact c.landed_of ..

theorem Ctx.landed_landOne (c : Ctx) (e : Flight) : c.Landed (c.landOne e) := by
  unfold Ctx.landOne
  split
  · exact .refl c
  split
  · split
    · rw [Ctx.setP_eq]; exact c.landed_of ..
    · rw [Ctx.setS_eq]; exact c.landed_of ..
  split
  · split
    · exact .refl c
    · exact c.landed_of ..
  split
  · exact c.landed_of ..
  have hv : c.Landed (if e.what = 1 then c else c.landV e.cluster e.dest e.lanes e.val) := by
    split
    · exact .refl c
    · exact c.landed_of ..
  exact hv.trans (Ctx.landed_landLatch _ _ _)

theorem State.ringStore_eq (s : State) (r : Stream) (e : Nat) (cs : List Nat) : s.ringStore r e cs = { s with
    core := { s.core with pad := (s.ringStore r e cs).core.pad } } := by
  induction cs generalizing s e with
  | nil => rfl
  | cons c cs ih =>
    rw [State.ringStore, ih]
    dsimp only
    split <;> rfl

/-- The states that landings of the context on the issue path can leave: its register file has changed, and by pushes (09 R202)
the scratchpad and the stream registers. -/
structure State.Landed (s t : State) : Prop where
  eq : t = { s with x := t.x, core := { s.core with pad := t.core.pad, streams := t.core.streams } }
  ctx : s.x.Landed t.x

theorem State.landed_of (s : State) (c : Ctx) (hc : s.x.Landed c) (pad : List Host.Cell) (streams : List (Nat × Stream)) :
    s.Landed { s with x := c, core := { s.core with pad := pad, streams := streams } } := ⟨rfl, hc⟩

theorem State.landed_landPush (s : State) (q : Nat) (v : Lanes) : s.Landed (s.landPush q v) := by
  unfold State.landPush
  dsimp only
  rw [State.ringStore_eq]
  split <;> exact s.landed_of _ (.refl _) _ _

theorem State.landed_landOne (s : State) (e : Flight) : s.Landed (s.landOne e) := by
  unfold State.landOne
  split
  · exact s.landed_landPush _ _
  · exact s.landed_of _ (s.x.landed_landOne e) _ _

theorem State.Landed.trans {s t u : State} (h : s.Landed t) (h' : t.Landed u) : s.Landed u := by
  refine ⟨?_, ⟨?_⟩⟩
  · rw [h'.eq, h.eq]
  · rw [h'.ctx.eq, h.ctx.eq]

theorem State.landed_foldl (l : List Flight) (s : State) : s.Landed (l.foldl State.landOne s) := by
  induction l generalizing s with
  | nil => exact ⟨rfl, ⟨rfl⟩⟩
  | cons e l ih => exact (s.landed_landOne e).trans (ih _)

theorem State.Landed.exists_eq {s t : State} (h : s.Landed t) : ∃ r p v l latch ok tbuf pad streams, t = { s with
    x := { s.x with s := r, p := p, v := v, l := l, latch := latch, latchOk := ok, tbuf := tbuf },
    core := { s.core with pad := pad, streams := streams } } := by
  refine ⟨t.x.s, t.x.p, t.x.v, t.x.l, t.x.latch, t.x.latchOk, t.x.tbuf, t.core.pad, t.core.streams, ?_⟩
  conv_lhs => rw [h.eq, h.ctx.eq]

theorem State.setX_landed {s t : State} {fl : List Flight} (h : (s.setX { s.x with flight := fl }).Landed t) :
    ∃ r p v l latch pad streams, t.setX { t.x with holds := [], latchOk := 0, tbuf := [] } = { s with
      x := { s.x with s := r, p := p, v := v, l := l, latch := latch, latchOk := 0, holds := [], tbuf := [], flight := fl },
      core := { s.core with pad := pad, streams := streams } } := by
  obtain ⟨r, p, v, l, latch, ok, tbuf, pad, streams, rfl⟩ := h.exists_eq
  exact ⟨r, p, v, l, latch, pad, streams, rfl⟩

/-- Every result landed: holds and latches are invalid, and the transpose buffer and what was in flight are gone (03 R58, R76). -/
theorem State.landAll_eq (s : State) : ∃ r p v l latch pad streams, s.landAll = { s with
    x := { s.x with s := r, p := p, v := v, l := l, latch := latch, latchOk := 0, holds := [], tbuf := [], flight := [] },
    core := { s.core with pad := pad, streams := streams } } := by
  unfold State.landAll
  exact State.setX_landed (State.landed_foldl _ _)

/-- The results due landed: the register file and what is in flight have changed. -/
theorem State.landDue_eq (s : State) : ∃ r p v l latch ok tbuf flight pad streams, s.landDue = { s with
    x := { s.x with s := r, p := p, v := v, l := l, latch := latch, latchOk := ok, tbuf := tbuf, flight := flight },
    core := { s.core with pad := pad, streams := streams } } := by
  obtain ⟨r, p, v, l, latch, ok, tbuf, pad, streams, h⟩ := (State.landed_foldl (s.x.flight.filter fun f => decide (f.due ≤ s.x.bno))
    (s.setX { s.x with flight := s.x.flight.filter fun f => !decide (f.due ≤ s.x.bno) })).exists_eq
  exact ⟨r, p, v, l, latch, ok, tbuf, _, pad, streams, h⟩

/-! ## The arbiter -/

/-- A context as a slice opened leaves it (05 R118). -/
structure Ctx.Aged (c d : Ctx) : Prop where
  eq : d = { c with bonus := d.bonus, wasReady := d.wasReady, wasChosen := d.wasChosen }

theorem Ctx.Aged.refl (c : Ctx) : c.Aged c := ⟨rfl⟩
theorem Ctx.Aged.trans {c d e : Ctx} (h : c.Aged d) (h' : d.Aged e) : c.Aged e := by
  constructor
  rw [h'.eq, h.eq]
theorem Ctx.Aged.status {c d : Ctx} (h : c.Aged d) : d.status = c.status := by rw [h.eq]

theorem State.setCtx_eq (s : State) (n : Nat) (c : Ctx) : s.setCtx n c = { s with x := (s.setCtx n c).x, rest := (s.setCtx n c).rest } := by
  unfold State.setCtx
  split <;> rfl

/-- A context as the opening of a slice ages it (05 R118). -/
def Ctx.age (c : Ctx) : Ctx :=
  { c with bonus := if c.wasReady && !c.wasChosen then min 15 (c.bonus + 1) else c.bonus,
           wasReady := c.isReady, wasChosen := false }
theorem Ctx.aged_age (c : Ctx) : c.Aged c.age := ⟨rfl⟩
/-- Contexts aged one after the other. -/
def State.ageAll (s : State) (l : List Nat) : State := l.foldl (fun s n => s.setCtx n (s.ctx n).age) s
theorem State.openSlice_ageAll (s : State) : s.openSlice =
    (s.ageAll (List.range 8)).setCore { (s.ageAll (List.range 8)).core with left := (s.ageAll (List.range 8)).core.slice } := by
  unfold State.openSlice
  generalize List.range 8 = l
  rfl

theorem State.ctx_ageAll (s : State) (l : List Nat) (m : Nat) : (s.ctx m).Aged ((s.ageAll l).ctx m) := by
  induction l generalizing s with
  | nil => exact .refl _
  | cons n l ih =>
    refine Ctx.Aged.trans ?_ (ih (s.setCtx n (s.ctx n).age))
    rw [State.ctx_setCtx]
    split
    · next hm => subst hm; exact Ctx.aged_age _
    · exact .refl _
theorem State.ageAll_eq (s : State) (l : List Nat) : ∃ x rest, s.ageAll l = { s with x := x, rest := rest } := by
  induction l generalizing s with
  | nil => exact ⟨s.x, s.rest, rfl⟩
  | cons n l ih =>
    obtain ⟨x, rest, h⟩ := ih (s.setCtx n (s.ctx n).age)
    exact ⟨x, rest, h.trans (by rw [State.setCtx_eq])⟩

/-- A slice opened ages the contexts and starts the count of the slice (05 R118). -/
theorem State.openSlice_eq (s : State) : ∃ x rest, s.openSlice = { s with
    x := x, rest := rest, core := { s.core with left := s.core.slice } } := by
  obtain ⟨x, rest, h⟩ := s.ageAll_eq (List.range 8)
  exact ⟨x, rest, by rw [State.openSlice_ageAll, h]; rfl⟩
theorem State.ctx_openSlice (s : State) (m : Nat) : (s.ctx m).Aged (s.openSlice.ctx m) := by
  have h := s.ctx_ageAll (List.range 8) m
  rw [State.openSlice_ageAll]
  generalize s.ageAll (List.range 8) = t at h ⊢
  exact h

/-- A context put on the issue path runs; the others are as before. -/
theorem State.ctx_issueCtx (s : State) (n m : Nat) : (s.issueCtx n).ctx m =
    if m = n then { s.ctx n with status := .running, bonus := 0, wasChosen := true, req := none } else s.ctx m := by
  by_cases h : m = n
  · subst h
    rw [if_pos rfl]
    exact if_pos rfl
  · rw [if_neg h]
    show (if m = n then _ else Map.get emptyCtx (Map.set emptyCtx (Map.set emptyCtx s.rest s.xn s.x) n emptyCtx) m) = _
    rw [if_neg h, Map.get_set, if_neg h, Map.get_set]
    rfl

/-- The arbiter chooses among what it is given. -/
theorem State.best_mem {s : State} {l : List Nat} {n : Nat} (h : s.best l = some n) : n ∈ l := by
  refine List.foldlRecOn (motive := fun a => ∀ n, a = some n → n ∈ l) l _ (by simp) ?_ n h
  intro a ha m hm k hk
  split at hk
  · exact Option.some.inj hk ▸ hm
  · split at hk
    · exact Option.some.inj hk ▸ hm
    · exact ha k hk

/-- What the arbiter leaves of a context: its own, but for what the arbiter counts; it runs now only if it was ready. -/
structure Ctx.Arbitrated (c d : Ctx) : Prop where
  eq : d = { c with status := d.status, bonus := d.bonus, wasReady := d.wasReady, wasChosen := d.wasChosen, req := d.req }
  status : d.status = c.status ∨ (c.isReady = true ∧ d.status = .running)

theorem State.arbitrated_issueCtx {s : State} {n : Nat} (h : (s.ctx n).isReady = true) (m : Nat) :
    (s.ctx m).Arbitrated ((s.issueCtx n).ctx m) := by
  rw [State.ctx_issueCtx]
  split
  · next hm => subst hm; exact ⟨rfl, .inr ⟨h, rfl⟩⟩
  · exact ⟨rfl, .inl rfl⟩

theorem Ctx.Aged.arbitrated {c d e : Ctx} (h : c.Aged d) (h' : d.Arbitrated e) : c.Arbitrated e := by
  refine ⟨by rw [h'.eq, h.eq], ?_⟩
  have hs := h'.status
  rwa [Ctx.isReady, h.status] at hs

theorem State.ctx_arbitrate (s : State) (m : Nat) : (s.ctx m).Arbitrated (s.arbitrate.ctx m) := by
  unfold State.arbitrate
  dsimp only
  split
  · exact ⟨rfl, .inl rfl⟩
  split
  · next n hn =>
    have hready := (List.mem_filter.mp (List.mem_filter.mp (State.best_mem hn)).1).2
    exact State.arbitrated_issueCtx hready m
  split
  · next n hn =>
    have hready := (List.mem_filter.mp (State.best_mem hn)).2
    refine (s.ctx_openSlice m).arbitrated (State.arbitrated_issueCtx ?_ m)
    rwa [Ctx.isReady, (s.ctx_openSlice n).status]
  · exact (s.ctx_openSlice m).arbitrated ⟨rfl, .inl rfl⟩

theorem State.arbitrate_eq (s : State) : ∃ x xn run rest left last, s.arbitrate = { s with
    x := x, xn := xn, run := run, rest := rest, core := { s.core with left := left, last := last } } := by
  obtain ⟨x, rest, hopen⟩ := s.openSlice_eq
  unfold State.arbitrate
  dsimp only
  split
  · exact ⟨s.x, s.xn, s.run, s.rest, s.core.left, s.core.last, rfl⟩
  split
  · exact ⟨_, _, _, _, s.core.left, _, rfl⟩
  rw [hopen]
  split
  · exact ⟨_, _, _, _, _, _, rfl⟩
  · exact ⟨_, _, _, _, _, s.core.last, rfl⟩

/-! ## Giving up the issue path -/

/-- What giving up the path with a status leaves of the strand's context. -/
structure Ctx.GivenUp (c d : Ctx) (st : CtxStatus) : Prop where
  eq : d = { c with status := d.status, bonus := d.bonus, wasReady := d.wasReady, wasChosen := d.wasChosen, req := d.req,
                    unseen := [], waited := 0 }
  status : d.status = st ∨ ((st = .ready ∨ st = .frozen) ∧ d.status = .running)

/-- The state with no context on the issue path, before the arbiter chooses again. -/
def State.offPath (s : State) (st : CtxStatus) : State := { s with
  run := false
  x := { s.x with status := st, wasReady := s.x.wasReady || (st = .ready || st = .frozen), unseen := [], waited := 0, req := none } }
theorem State.giveUp_offPath (s : State) (st : CtxStatus) : s.giveUp st = (s.offPath st).arbitrate := rfl

theorem State.ctx_giveUp (s : State) (st : CtxStatus) : s.x.GivenUp ((s.giveUp st).ctx s.xn) st := by
  obtain ⟨heq, hst⟩ := (s.offPath st).ctx_arbitrate (s.offPath st).xn
  rw [State.ctx_xn] at heq hst
  rw [State.giveUp_offPath]
  exact ⟨heq, hst.imp_right (And.imp_left fun hr => by
    rwa [Ctx.isReady, Bool.or_eq_true, decide_eq_true_eq, decide_eq_true_eq] at hr)⟩

theorem Ctx.GivenUp.run_eq {c d : Ctx} {st : CtxStatus} (h : c.GivenUp d st) : d.run = c.run := by rw [h.eq]
theorem Ctx.GivenUp.pc_eq {c d : Ctx} {st : CtxStatus} (h : c.GivenUp d st) : d.pc = c.pc := by rw [h.eq]
theorem Ctx.GivenUp.status_ready {c d : Ctx} (h : c.GivenUp d .ready) : d.status = .ready ∨ d.status = .running :=
  h.status.imp_right And.right
/-- A strand that gives up the path and is not ready is not chosen. -/
theorem Ctx.GivenUp.status_eq {c d : Ctx} {st : CtxStatus} (h : c.GivenUp d st) (hr : st ≠ .ready) (hf : st ≠ .frozen) : d.status = st :=
  h.status.resolve_right fun hrun => hrun.1.elim hr hf

/-- Giving up the path leaves all but the contexts and what the arbiter counts. -/
theorem State.giveUp_eq (s : State) (st : CtxStatus) : ∃ x xn run rest left last, s.giveUp st = { s with
    x := x, xn := xn, run := run, rest := rest, core := { s.core with left := left, last := last } } :=
  (s.offPath st).arbitrate_eq

end Sys2Proof.Machine
end

section
/-! O3 (04 R83 to R95, R101): transfers, loops and the flow after a bundle. -/

namespace Sys2Proof.Machine

/-! ## Targets (04 R86 to R88) -/

/-- A code address depends on the 56 bits of a number. -/
theorem codeAddr_eq (v : Int) : codeAddr v = BitVec.ofInt 56 v &&& ~~~(3#56) := by
  rw [← codeAddr_toNat, codeAddr, codeAddr]
  apply BitVec.eq_of_toNat_eq
  rw [BitVec.toNat_ofInt, BitVec.toNat_ofInt, BitVec.toNat_ofInt]
  omega

theorem signExtend_shiftLeft {w : Nat} (o : BitVec w) (n : Nat) : (o.signExtend 56 <<< n) = BitVec.ofInt 56 (2 ^ n * o.toInt) := by
  rw [BitVec.shiftLeft_eq_mul_twoPow, BitVec.signExtend, mul_comm, BitVec.ofInt_mul]
  congr 1
  apply BitVec.eq_of_toNat_eq
  rw [BitVec.toNat_twoPow, BitVec.toNat_ofInt]
  norm_cast

theorem ofInt_toNat (a : Addr) : BitVec.ofInt 56 (a.toNat : Int) = a := by
  rw [BitVec.ofInt_natCast, BitVec.ofNat_toNat, BitVec.setWidth_eq]

/-- A displacement in words from an address. -/
theorem add_signExtend_eq {w : Nat} (a : Addr) (o : BitVec w) (n : Nat) :
    a + (o.signExtend 56 <<< n) = BitVec.ofInt 56 (a.toNat + 2 ^ n * o.toInt) := by
  rw [signExtend_shiftLeft, BitVec.ofInt_add, ofInt_toNat]

theorem and_not_63 (a : Addr) : a &&& ~~~(0x3F#56) = BitVec.ofInt 56 ((a.toNat : Int) / 64 * 64) := by
  have hshift : a &&& ~~~(0x3F#56) = a >>> 6 <<< 6 := by
    apply BitVec.eq_of_getLsbD_eq
    intro b hb
    have hmask : (0x3F#56).getLsbD b = decide (b < 6) := by
      rw [BitVec.getLsbD_ofNat, decide_eq_true hb, Bool.true_and]
      exact Nat.testBit_two_pow_sub_one 6 b
    rw [BitVec.getLsbD_and, BitVec.getLsbD_not, hmask, BitVec.getLsbD_shiftLeft, BitVec.getLsbD_ushiftRight]
    by_cases h6 : b < 6
    · simp [h6]
    · simp [h6, hb, show 6 + (b - 6) = b by omega]
  have hdiv : (a.toNat : Int) / 64 * 64 = ((a.toNat / 64 * 64 : Nat) : Int) := by omega
  apply BitVec.eq_of_toNat_eq
  rw [hshift, hdiv, BitVec.ofInt_natCast, BitVec.toNat_ofNat, BitVec.toNat_shiftLeft, BitVec.toNat_ushiftRight,
    Nat.shiftLeft_eq, Nat.shiftRight_eq_div_pow]

theorem State.brTarget_eq (s : State) (f : SB) : s.brTarget f &&& ~~~(3#56) = codeAddr (s.cur.addr.toNat + 4 * f.o.toInt) := by
  rw [State.brTarget, add_signExtend_eq, codeAddr_eq]
  rfl
theorem jmpTarget_eq (a : Addr) (o : BitVec 21) : ((a &&& ~~~(0x3F#56)) + (o.signExtend 56 <<< 6)) &&& ~~~(3#56) =
    codeAddr ((a.toNat : Int) / 64 * 64 + 64 * o.toInt) := by
  rw [and_not_63, signExtend_shiftLeft, ← BitVec.ofInt_add, codeAddr_eq]
  rfl
theorem windowTarget_eq (b : BitVec 41) (o : BitVec 21) : ((b ++ 0#15) + (o.signExtend 56 <<< 2)) &&& ~~~(3#56) =
    codeAddr (b.toNat * 2 ^ 15 + 4 * o.toInt) := by
  have hb : ((b ++ 0#15 : BitVec 56)).toNat = b.toNat * 2 ^ 15 := by
    rw [BitVec.toNat_append, BitVec.toNat_ofNat, Nat.zero_mod, Nat.or_zero, Nat.shiftLeft_eq]
  rw [add_signExtend_eq, hb, codeAddr_eq]
  push_cast
  rfl
theorem registerTarget_eq (v : Dword) : v.extractLsb' 0 56 &&& ~~~(3#56) = codeAddr v.toNat := by
  rw [codeAddr_eq, BitVec.ofInt_natCast, extractLsb'_eq_ofNat, Nat.pow_zero, Nat.div_one]

theorem State.take_eq (s : State) (a : Addr) : s.take a = s.withTransfer (a &&& ~~~(3#56)) none := rfl
theorem State.takeLink_eq (s : State) (a : Addr) (d : Nat) :
    s.takeLink a d = s.withTransfer (a &&& ~~~(3#56)) (if d = 0 then none else some d) := by
  rw [State.takeLink, State.take_eq]
  split <;> rfl

/-- The transfer of a swapb whose other half is bound to a window or to none. -/
theorem State.swapTo_eq (s : State) (o : BitVec 21) (w : Option (BitVec 41)) :
    (match w with
      | none => s.causeI 8 0x48 (addrDword s.cur.addr)
      | some b => s.take ((b ++ 0#15) + (o.signExtend 56 <<< 2))) =
    match w with
      | some b => s.withTransfer (codeAddr (b.toNat * 2 ^ 15 + 4 * o.toInt)) none
      | none => s.withCause 8 0x48 (BitVec.ofNat 64 s.cur.addr.toNat) := by
  cases w with
  | none => exact congrArg (s.withCause 8 0x48) (setWidth_eq_ofNat _)
  | some b => exact (s.take_eq _).trans (congrArg (s.withTransfer · none) (windowTarget_eq b o))

theorem exec_swapb_eq (f : SB) (s : State) : exec (.swapb f) s = .next (if !(s.x.preg f.p.toNat != f.n) then s else
    match (if s.core.halfOf s.cur.addr = some true then s.core.iwA else s.core.iwB) with
    | some b => s.withTransfer (codeAddr (b.toNat * 2 ^ 15 + 4 * f.o.toInt)) none
    | none => s.withCause 8 0x48 (BitVec.ofNat 64 s.cur.addr.toNat)) := by
  rw [exec_swapb, execSwapb, State.sbCond]
  congr 2
  rcases s.core.halfOf s.cur.addr with _ | (_ | _)
  · exact s.swapTo_eq f.o s.core.iwB
  · exact s.swapTo_eq f.o s.core.iwB
  · exact s.swapTo_eq f.o s.core.iwA

theorem exec_transfer_eq (f : SB) (s : State) :
    exec (.br f) s = .next (if s.x.preg f.p.toNat != f.n then
      s.withTransfer (codeAddr (s.cur.addr.toNat + 4 * f.o.toInt)) none else s) ∧
    exec (.jmp f) s = .next (if s.x.preg f.p.toNat != f.n then
      s.withTransfer (codeAddr ((s.cur.addr.toNat : Int) / 64 * 64 + 64 * f.o.toInt)) none else s) ∧
    exec (.call f) s = .next (if s.x.preg f.p.toNat != f.n then
      s.withTransfer (codeAddr (s.cur.addr.toNat + 4 * f.o.toInt)) (some 31) else s) := by
  refine ⟨?br, ?jmp, ?call⟩
  case br => rw [exec_br, execBr, State.take_eq, State.brTarget_eq, State.sbCond]
  case jmp => rw [exec_jmp, execJmp, State.take_eq, jmpTarget_eq, State.sbCond]
  case call => rw [exec_call, execCall, State.takeLink_eq, State.brTarget_eq, State.sbCond]; rfl

theorem exec_jr_eq (f : SR) (s : State) : exec (.jr f) s = .next (if s.x.preg f.p.toNat then
    s.withTransfer (codeAddr (s.x.sreg f.a.toNat).toNat) (if f.d = 0#5 then none else some f.d.toNat) else s) := by
  rw [exec_jr, execJr, State.whenP_eq, State.takeLink_eq, registerTarget_eq]
  simp only [← BitVec.toNat_inj, BitVec.toNat_ofNat, Nat.zero_mod]
theorem exec_ret_eq (f : SR) (s : State) : exec (.ret f) s = .next (if s.x.preg f.p.toNat then
    s.withTransfer (codeAddr (s.x.sreg 31).toNat) none else s) := by
  rw [exec_ret, execRet, State.whenP_eq, State.take_eq, registerTarget_eq]

/-! ## Opening and closing loops (04 R89, R90, R94, R95) -/

/-- What a loop instruction with a count, an end in words from its bundle, and P asks for outside handler mode. -/
def State.openedLoop (s : State) (count : BitVec 32) (fin : Nat) (p : Bool) : State :=
  let e : Addr := BitVec.ofNat 56 (s.cur.addr.toNat + 4 * fin)
  if count = 0#32 then
    (match s.x.pend with | some _ => s | none => { s with cur := { s.cur with skip := some e } })
  else if s.x.depth < 4 then { s with cur := { s.cur with opened := some ⟨count, s.cur.seq, e, p⟩ } }
  else s.withCause 8 0xA2 (s.defaultInfo 0)

theorem State.wordsOn_eq (s : State) (n : Nat) : s.wordsOn n = BitVec.ofNat 56 (s.cur.addr.toNat + 4 * n) := by
  rw [State.wordsOn, BitVec.ofNat_add, BitVec.ofNat_toNat, BitVec.setWidth_eq]

theorem State.openLoop_eq {s : State} (hh : s.x.h = false) (count : Word) (n : Nat) (p : Bool) :
    s.openLoop count (s.wordsOn n) p = s.openedLoop count n p := by
  rw [State.openLoop, State.openedLoop, hh, s.wordsOn_eq, s.cause_eq]
  dsimp only
  rw [if_neg Bool.false_ne_true]
  congr 1
  · cases s.x.pend <;> rfl
  · by_cases hd : s.x.depth < 4
    · rw [if_pos hd, if_neg (by omega)]; rfl
    · rw [if_neg hd, if_pos (by omega)]

theorem loopEnd_eq (f : SR) : loopEnd f = f.b.toNat * 128 + f.f.toNat := by
  rw [loopEnd, BitVec.toNat_append, ← Nat.shiftLeft_add_eq_or_of_lt f.f.isLt, Nat.shiftLeft_eq]
theorem loopiEnd_eq (f : SI) : loopiEnd f = f.d.toNat % 16 * 32 + f.a.toNat := by
  rw [loopiEnd, BitVec.toNat_append, ← Nat.shiftLeft_add_eq_or_of_lt f.a.isLt, Nat.shiftLeft_eq]
  simp

theorem exec_loop_eq (f : SR) {s : State} (hh : s.x.h = false) : exec (.loop f) s = .next (if s.x.preg f.p.toNat then
    s.openedLoop ((s.x.sreg f.a.toNat).setWidth 32) (f.b.toNat * 128 + f.f.toNat) (f.d.getLsbD 4) else s) := by
  rw [exec_loop, execLoop, if_neg (Bool.not_eq_true _ ▸ hh), State.whenP_eq, State.openLoop_eq hh, loopEnd_eq, ← BitVec.setWidth_eq_extractLsb' (by decide)]
theorem exec_loopi_eq (f : SI) {s : State} (hh : s.x.h = false) : exec (.loopi f) s = .next (s.openedLoop
    (BitVec.ofInt 32 (s.immInt f.i false)) (f.d.toNat % 16 * 32 + f.a.toNat) (f.d.getLsbD 4)) := by
  rw [exec_loopi, execLoopi, State.openLoop_eq hh, loopiEnd_eq, State.immInt_unsigned, BitVec.ofInt_natCast, extractLsb'_eq_ofNat,
    Nat.pow_zero, Nat.div_one]
theorem exec_lbrk_eq (f : SB) {s : State} (hh : s.x.h = false) : exec (.lbrk f) s = .next (if s.x.preg f.p.toNat != f.n then
    ({ s with x := { s.x with depth := s.x.depth - 1 } } : State).withTransfer
      (codeAddr ((s.cur.addr.toNat : Int) + 4 * f.o.toInt)) none else s) := by
  rw [exec_lbrk, execLbrk, if_neg (Bool.not_eq_true _ ▸ hh), State.take_eq, State.brTarget_eq, State.sbCond]
  rfl

/-! ## The flow after a bundle (04 R83, R84, R89 to R92) -/

section flow
variable {c : Ctx} {f : Frame}

theorem Ctx.flow_of_pend {t : Addr} (ho : f.opened = none) (hp : c.pend = some t) :
    c.flow f = ({ c with pc := t, pend := f.transfer, link := f.link }, false) := by
  rw [Ctx.flow, ho, Ctx.openLevel, hp]
theorem Ctx.flow_of_transfer {t : Addr} (ho : f.opened = none) (hp : c.pend = none) (ht : f.transfer = some t) :
    c.flow f = ({ c with pc := addrWords f.addr f.words, pend := some t, link := f.link }, false) := by
  rw [Ctx.flow, ho, Ctx.openLevel, hp, ht]

/-- A bundle that issues in sequence and asks for no transfer: the loop test decides. -/
theorem Ctx.flow_of_backEdge {d : Ctx} {a : Addr} {p : Bool} (ho : f.opened = none) (hp : c.pend = none) (ht : f.transfer = none)
    (hl : c.loopTest f.addr 4 = (d, some (a, p))) : c.flow f = ({ d with pc := a }, p && c.req.isSome) := by
  rw [Ctx.flow, ho, Ctx.openLevel, hp, ht, hl]
theorem Ctx.flow_of_sequence {d : Ctx} (ho : f.opened = none) (hp : c.pend = none) (ht : f.transfer = none) (hs : f.skip = none)
    (hl : c.loopTest f.addr 4 = (d, none)) : c.flow f = ({ d with pc := addrWords f.addr f.words }, false) := by
  rw [Ctx.flow, ho, Ctx.openLevel, hp, ht, hl, hs]
theorem Ctx.flow_of_skip {d : Ctx} {a : Addr} (ho : f.opened = none) (hp : c.pend = none) (ht : f.transfer = none)
    (hs : f.skip = some a) (hl : c.loopTest f.addr 4 = (d, none)) : c.flow f = ({ d with pc := a, sk := true }, false) := by
  rw [Ctx.flow, ho, Ctx.openLevel, hp, ht, hl, hs]

theorem Ctx.flow_of_opened {l : Level} (hd : c.depth < 4) (ho : f.opened = some l) :
    c.flow f = ({ c with levels := (c.setLevel c.depth l).levels, depth := c.depth + 1 } : Ctx).flow { f with opened := none } := by
  rw [Ctx.flow, ho, Ctx.openLevel, Nat.mod_eq_of_lt hd]
  rfl

end flow

/-! ## The loop test (04 R91) -/

/-- The innermost level does not end at the bundle. -/
theorem Ctx.loopTest_stop {c : Ctx} {a : Addr} (h : c.depth = 0 ∨ (c.level (c.depth - 1)).fin ≠ a) (n : Nat) :
    c.loopTest a n = (c, none) := by
  cases n with
  | zero => rfl
  | succ n =>
    rw [Ctx.loopTest]
    split
    · rfl
    · next h0 => exact if_pos (h.resolve_left h0)

/-- The innermost level takes its back edge. -/
theorem Ctx.loopTest_backEdge {c : Ctx} {a : Addr} {l : Level} (hl : c.level (c.depth - 1) = l) (h0 : 0 < c.depth) (hf : l.fin = a)
    (hc : 1 < l.count.toNat) (n : Nat) :
    c.loopTest a (n + 1) = (c.setLevel (c.depth - 1) { l with count := l.count - 1 }, some (l.start, l.p)) := by
  rw [Ctx.loopTest, if_neg (by omega)]
  dsimp only
  rw [hl, if_neg (not_not.mpr hf), if_pos hc]

/-- The innermost level closes. -/
theorem Ctx.loopTest_close {c : Ctx} {a : Addr} (h0 : 0 < c.depth) (hf : (c.level (c.depth - 1)).fin = a)
    (hc : (c.level (c.depth - 1)).count.toNat ≤ 1) (n : Nat) :
    c.loopTest a (n + 1) = Ctx.loopTest { c with depth := c.depth - 1 } a n := by
  rw [Ctx.loopTest, if_neg (by omega)]
  dsimp only
  rw [if_neg (not_not.mpr hf), if_neg (by omega)]

/-- The innermost levels that end at the bundle close while their counts are at most 1. -/
theorem Ctx.loopTest_closes {a : Addr} (n : Nat) : ∀ (m : Nat) (c : Ctx), n ≤ c.depth → n ≤ m →
    (∀ k < n, (c.level (c.depth - 1 - k)).fin = a ∧ (c.level (c.depth - 1 - k)).count.toNat ≤ 1) →
    c.loopTest a m = Ctx.loopTest { c with depth := c.depth - n } a (m - n) := by
  induction n with
  | zero => exact fun m c _ _ _ => rfl
  | succ n ih =>
    intro m c hn hm hk
    obtain ⟨m, rfl⟩ := Nat.exists_eq_add_of_le' hm
    obtain ⟨hfin, hcount⟩ := hk 0 (by omega)
    have hrest : ∀ k < n, (c.level (c.depth - 1 - 1 - k)).fin = a ∧ (c.level (c.depth - 1 - 1 - k)).count.toNat ≤ 1 := by
      intro k hkn
      have h := hk (k + 1) (by omega)
      rwa [show c.depth - 1 - (k + 1) = c.depth - 1 - 1 - k by omega] at h
    have hstep := ih (m + n) { c with depth := c.depth - 1 } (by show n ≤ c.depth - 1; omega) (by omega) hrest
    rw [← Nat.add_assoc, Ctx.loopTest_close (by omega) hfin hcount, hstep]
    show Ctx.loopTest { c with depth := c.depth - 1 - n } a (m + n - n) = Ctx.loopTest { c with depth := c.depth - (n + 1) } a (m + n + 1 - (n + 1))
    rw [Nat.sub_sub, Nat.add_comm 1 n, Nat.add_sub_add_right]

section levels
variable {c : Ctx} {f : Frame} {n : Nat} (hp : c.pend = none) (ht : f.transfer = none) (ho : f.opened = none) (hn : n ≤ c.depth)
  (hd : c.depth ≤ 4) (hk : ∀ k < n, (c.level (c.depth - 1 - k)).fin = f.addr ∧ (c.level (c.depth - 1 - k)).count.toNat ≤ 1)
include hp ht ho hn hd hk

theorem Ctx.flow_closes (hs : f.skip = none) (hl : n = c.depth ∨ (c.level (c.depth - 1 - n)).fin ≠ f.addr) :
    c.flow f = ({ c with depth := c.depth - n, pc := addrWords f.addr f.words }, false) := by
  refine Ctx.flow_of_sequence ho hp ht hs ((Ctx.loopTest_closes n 4 c hn (hn.trans hd) hk).trans (Ctx.loopTest_stop ?_ _))
  show c.depth - n = 0 ∨ (c.level (c.depth - n - 1)).fin ≠ f.addr
  rw [Nat.sub_right_comm]
  exact hl.imp_left (by omega)

theorem Ctx.flow_closes_backEdge {l : Level} (hl : c.level (c.depth - 1 - n) = l) (hlt : n < c.depth) (hf : l.fin = f.addr)
    (hc : 1 < l.count.toNat) : c.flow f =
    ({ c with levels := (c.setLevel (c.depth - 1 - n) { l with count := l.count - 1 }).levels, depth := c.depth - n,
              pc := l.start }, l.p && c.req.isSome) := by
  have hback := Ctx.loopTest_backEdge (c := { c with depth := c.depth - n }) (a := f.addr) (l := l)
    (by rw [← hl, Nat.sub_right_comm]; rfl) (by show 0 < c.depth - n; omega) hf hc (3 - n)
  have htest := Ctx.loopTest_closes n 4 c hn (hn.trans hd) hk
  rw [show 4 - n = 3 - n + 1 by omega, hback] at htest
  rw [Ctx.flow_of_backEdge ho hp ht htest, Nat.sub_right_comm]
  rfl

end levels

/-! ## The commit of a bundle that asks for nothing else (04 R92) -/

/-- The frame of a bundle that has asked for nothing. -/
def plainFrame (a : Addr) (w : Nat) (q : Addr) : Frame := { emptyFrame with addr := a, words := w, seq := q }

/-- Its commit goes on in the flow, and gives up the path for an implicit yield. -/
theorem State.commit_of_plain {s : State} {a q : Addr} {w : Nat} (h : s.cur = plainFrame a w q) :
    let t := ((s.setX (s.x.flow s.cur).1).advance).setCur emptyFrame
    s.commit = if (s.x.flow s.cur).2 then t.landAll.giveUp .ready else t := by
  have hpops : (plainFrame a w q).pops = [] := rfl
  have hposts : (plainFrame a w q).posts = [] := rfl
  have hflags : (plainFrame a w q).flags = [] := rfl
  have hsuspend : (plainFrame a w q).suspend = none := rfl
  have htrap : (plainFrame a w q).trap = none := rfl
  have htret : (plainFrame a w q).tret = false := rfl
  rw [State.commit, h]
  simp only [hpops, hposts, hflags, hsuspend, htrap, htret, List.foldl_nil, Option.isSome_none, Bool.false_or,
    Bool.false_eq_true, if_false]
  cases (s.x.flow (plainFrame a w q)).2
  · simp only [Bool.false_eq_true, if_false]
  · simp only [if_true]

/-- The bundle's number and time go on; results that are due land. -/
theorem State.advance_eq (s : State) : ∃ r p v l latch ok tbuf flight unseen, s.advance.x = { s.x with
    s := r, p := p, v := v, l := l, latch := latch, latchOk := ok, tbuf := tbuf, flight := flight, unseen := unseen,
    bno := s.x.bno + 1, waited := 0, bankw := 0, wlines := [], req := s.x.req.map (· + 1) } := by
  unfold State.advance
  dsimp only
  generalize List.filter _ _ = unseen
  obtain ⟨r, p, v, l, latch, ok, tbuf, flight, pad, streams, h⟩ := (s.setX { s.x with
    bno := s.x.bno + 1, unseen := unseen, waited := 0, bankw := 0, wlines := [] }).landDue_eq
  exact ⟨r, p, v, l, latch, ok, tbuf, flight, unseen, by rw [State.tick_x, h]; rfl⟩
theorem State.advance_path (s : State) : s.advance.run = s.run ∧ s.advance.xn = s.xn := by
  unfold State.advance
  dsimp only
  obtain ⟨r, p, v, l, latch, ok, tbuf, flight, pad, streams, h⟩ := (s.setX { s.x with
    bno := s.x.bno + 1, unseen := _, waited := 0, bankw := 0, wlines := [] }).landDue_eq
  rw [h]
  exact ⟨rfl, rfl⟩

/-- What landing everything and giving up the path as ready leave of the context. -/
theorem State.ctx_landAll_giveUp (s : State) :
    let c := (s.landAll.giveUp .ready).ctx s.xn
    (c.status = .ready ∨ c.status = .running) ∧ c.pc = s.x.pc ∧ c.run = s.x.run ∧ c.flight = [] ∧ c.holds = [] ∧ c.latchOk = 0 ∧
      c.depth = s.x.depth ∧ c.levels = s.x.levels := by
  obtain ⟨r, p, v, l, latch, pad, streams, hland⟩ := s.landAll_eq
  have h := s.landAll.ctx_giveUp .ready
  rw [show s.landAll.xn = s.xn by rw [hland]] at h
  refine ⟨h.status_ready, ?_⟩
  rw [h.eq, hland]
  exact ⟨rfl, rfl, rfl, rfl, rfl, rfl, rfl⟩

/-- A context that has taken the back edge of its innermost level. -/
def Ctx.backEdge (c : Ctx) (l : Level) : Ctx :=
  { c with levels := (c.setLevel (c.depth - 1) { l with count := l.count - 1 }).levels, pc := l.start }
/-- The state of a strand that has taken the back edge of its innermost level, at its next bundle. -/
def State.backEdge (s : State) (l : Level) : State := ((s.setX (s.x.backEdge l)).advance).setCur emptyFrame

theorem State.backEdge_path (s : State) (l : Level) : (s.backEdge l).run = s.run ∧ (s.backEdge l).xn = s.xn :=
  (s.setX (s.x.backEdge l)).advance_path
theorem State.backEdge_x (s : State) (l : Level) :
    (s.backEdge l).x.status = s.x.status ∧ (s.backEdge l).x.pc = l.start ∧ (s.backEdge l).x.run = s.x.run ∧
    (s.backEdge l).x.depth = s.x.depth ∧
    (s.backEdge l).x.levels = (s.x.setLevel (s.x.depth - 1) { l with count := l.count - 1 }).levels := by
  obtain ⟨r, p, v, l', latch, ok, tbuf, flight, unseen, hx⟩ := (s.setX (s.x.backEdge l)).advance_eq
  have hx : (s.backEdge l).x = _ := hx
  rw [hx]
  exact ⟨rfl, rfl, rfl, rfl, rfl⟩

section backEdge
variable {s : State} {a q : Addr} {w : Nat} {l : Level} (h : s.cur = plainFrame a w q) (hp : s.x.pend = none)
  (h0 : 0 < s.x.depth) (hd : s.x.depth ≤ 4) (hl : s.x.level (s.x.depth - 1) = l) (hf : l.fin = a) (hc : 1 < l.count.toNat)
include h hp h0 hd hl hf hc

theorem State.commit_backEdge_eq :
    s.commit = if l.p && s.x.req.isSome then (s.backEdge l).landAll.giveUp .ready else s.backEdge l := by
  have hflow : s.x.flow s.cur = (s.x.backEdge l, l.p && s.x.req.isSome) := by
    rw [h]
    exact Ctx.flow_closes_backEdge (n := 0) hp rfl rfl (Nat.zero_le _) hd (fun k hk => absurd hk k.not_lt_zero) hl h0 hf hc
  rw [State.commit_of_plain h, hflow]
  rfl

/-- A back edge that gives up nothing (04 R92): the strand goes on at the start of the level. -/
theorem State.commit_backEdge (hno : l.p = false ∨ s.x.req = none) :
    s.commit.run = s.run ∧ s.commit.xn = s.xn ∧ s.commit.x.status = s.x.status ∧ s.commit.x.pc = l.start := by
  have hno : ¬ (l.p && s.x.req.isSome) = true := by
    rcases hno with hno | hno <;> simp [hno]
  obtain ⟨hrun, hxn⟩ := s.backEdge_path l
  obtain ⟨hstatus, hpc, -⟩ := s.backEdge_x l
  rw [State.commit_backEdge_eq h hp h0 hd hl hf hc, if_neg hno]
  exact ⟨hrun, hxn, hstatus, hpc⟩

/-- The implicit yield at a back edge (04 R92): the strand gives up the path with everything landed. -/
theorem State.commit_implicitYield (hyes : l.p = true) (hreq : s.x.req ≠ none) :
    let c := s.commit.ctx s.xn
    (c.status = .ready ∨ c.status = .running) ∧ c.pc = l.start ∧ c.run = s.x.run ∧ c.flight = [] ∧ c.holds = [] ∧ c.latchOk = 0 ∧
      c.depth = s.x.depth ∧ ∀ k, c.level k = if k = s.x.depth - 1 then { l with count := l.count - 1 } else s.x.level k := by
  have hyes : (l.p && s.x.req.isSome) = true := by
    rw [hyes, Bool.true_and]
    exact Option.isSome_iff_ne_none.mpr hreq
  obtain ⟨-, hxn⟩ := s.backEdge_path l
  obtain ⟨-, hpc, hrun, hdepth, hlevels⟩ := s.backEdge_x l
  rw [State.commit_backEdge_eq h hp h0 hd hl hf hc, if_pos hyes, ← hxn]
  obtain ⟨hstatus, hpc', hrun', hflight, hholds, hok, hdepth', hlevels'⟩ := (s.backEdge l).ctx_landAll_giveUp
  refine ⟨hstatus, hpc'.trans hpc, hrun'.trans hrun, hflight, hholds, hok, hdepth'.trans hdepth, fun k => ?_⟩
  rw [Ctx.level, hlevels', hlevels]
  exact Ctx.level_setLevel ..

end backEdge

/-- Settles O3: each transfer and loop instruction is an equation of its frame; the flow after a bundle is followed through the loop
test level by level, and the commit of a plain bundle through landings and the arbiter. -/
theorem controlFlow : Obligations.ControlFlow := by
  unfold Obligations.ControlFlow
  refine ⟨⟨fun f s => ?transfers, fun f s => ⟨exec_jr_eq f s, exec_ret_eq f s⟩⟩, fun c f ho => ?flow,
    ⟨fun f s hh => exec_loop_eq f hh, fun f s hh => exec_loopi_eq f hh, fun f s hh => exec_lbrk_eq f hh⟩,
    fun c f n hp ht ho hs hn hd hk => ?levels, fun c f => ?opened, fun s a q w h hp h0 hd => ?commit⟩
  case transfers =>
    obtain ⟨hbr, hjmp, hcall⟩ := exec_transfer_eq f s
    exact ⟨hbr, hjmp, hcall, exec_swapb_eq f s⟩
  case flow =>
    refine ⟨fun t hp => ?_, fun t hp ht => ?_⟩
    · rw [Ctx.flow_of_pend ho hp]; exact ⟨rfl, rfl, rfl, rfl, rfl⟩
    · rw [Ctx.flow_of_transfer ho hp ht]; exact ⟨rfl, rfl, rfl, rfl, rfl⟩
  case levels =>
    refine ⟨fun hl => Ctx.flow_closes hp ht ho hn hd hk hs hl, fun hlt hf hc => ?_⟩
    rw [Ctx.flow_closes_backEdge hp ht ho hn hd hk rfl hlt hf hc]
    exact ⟨rfl, hp, rfl, rfl, fun k => Ctx.level_setLevel ..⟩
  case opened =>
    exact ⟨fun l hd ho => Ctx.flow_of_opened hd ho, fun a hp ht ho hs hl =>
      Ctx.flow_of_skip ho hp ht hs (Ctx.loopTest_stop hl 4)⟩
  case commit =>
    exact fun hf hc => ⟨State.commit_backEdge h hp h0 hd rfl hf hc, State.commit_implicitYield h hp h0 hd rfl hf hc⟩

end Sys2Proof.Machine
end

section
/-! Bivouac records in memory (01 R29, 05 R108): numbers read after bytes are written, translation through entries that map the
record, and writes of a field that wake nobody. -/

namespace Sys2Proof.Machine

/-! ## Numbers in memory -/

section memory
variable {p : Pkg} {k : Nat}

theorem Pkg.getElem_reads {a n i : Nat} (h : i < (p.reads k a n).length) : (p.reads k a n)[i] = p.read k (a + i) := by
  have hn : i < n := by rwa [Pkg.reads_length] at h
  rw [← Pkg.reads_getD p k a n i hn, List.getD_eq_getElem]

theorem Pkg.reads_ext {q : Pkg} {a b n : Nat} (h : ∀ i < n, p.read k (a + i) = q.read k (b + i)) : p.reads k a n = q.reads k b n := by
  apply List.ext_getElem (by rw [Pkg.reads_length, Pkg.reads_length])
  intro i h1 h2
  rw [Pkg.getElem_reads, Pkg.getElem_reads]
  exact h i (by rwa [Pkg.reads_length] at h1)

theorem Pkg.reads_writes_disjoint {a c n : Nat} {b : List Byte} (hk : k ≠ 0) (h : c + n ≤ a ∨ a + b.length ≤ c) :
    (p.writes k a b).reads k c n = p.reads k c n := by
  refine Pkg.reads_ext fun i hi => ?_
  rw [Pkg.read_writes _ _ _ _ _ hk, if_neg (by omega)]

theorem Pkg.reads_writes_same (a : Nat) (b : List Byte) (hk : k ≠ 0) : (p.writes k a b).reads k a b.length = b := by
  apply List.ext_getElem (Pkg.reads_length ..)
  intro i h1 h2
  rw [Pkg.getElem_reads, Pkg.read_writes _ _ _ _ _ hk, if_pos (by omega), Nat.add_sub_cancel_left, List.getD_eq_getElem]

theorem Pkg.reads_drop_take (a o m n : Nat) (h : o + n ≤ m) : ((p.reads k a m).drop o).take n = p.reads k (a + o) n := by
  apply List.ext_getElem (by rw [List.length_take, List.length_drop, Pkg.reads_length, Pkg.reads_length]; omega)
  intro i h1 h2
  rw [List.getElem_take, List.getElem_drop, Pkg.getElem_reads, Pkg.getElem_reads, Nat.add_assoc]

theorem leNat_append (a b : List Byte) : leNat (a ++ b) = leNat a + 256 ^ a.length * leNat b := by
  induction a with
  | nil => simp [leNat]
  | cons x a ih => rw [List.cons_append, leNat, leNat, ih, List.length_cons, Nat.pow_succ]; ring

theorem leNat_lt (b : List Byte) : leNat b < 256 ^ b.length := by
  induction b with
  | nil => decide
  | cons x b ih =>
    have hx := x.isLt
    rw [leNat, List.length_cons, Nat.pow_succ]
    omega

theorem Pkg.reads_append (a m n : Nat) : p.reads k a (m + n) = p.reads k a m ++ p.reads k (a + m) n := by
  induction m generalizing a with
  | zero => rw [Nat.zero_add, Nat.add_zero]; rfl
  | succ m ih => rw [Nat.add_right_comm, Pkg.reads, Pkg.reads, ih, List.cons_append, Nat.add_right_comm, Nat.add_assoc]

/-- The dword of a record that holds its flags, around the byte with state and W (05 R108). -/
theorem Pkg.flags_split (a : Nat) : leNat (p.reads k (a + 8) 8) =
    leNat (p.reads k (a + 8) 3) + 2 ^ 24 * (p.read k (a + 11)).toNat + 2 ^ 32 * leNat (p.reads k (a + 12) 4) := by
  rw [Pkg.reads_append (a + 8) 3 5, Pkg.reads_append (a + 8 + 3) 1 4, leNat_append, leNat_append, Pkg.reads_length,
    Pkg.reads_length]
  simp only [Pkg.reads, leNat, Nat.add_assoc, Nat.reduceAdd]
  ring
theorem Pkg.flags_low_lt (a : Nat) : leNat (p.reads k (a + 8) 3) < 2 ^ 24 := by
  have h := leNat_lt (p.reads k (a + 8) 3)
  rwa [Pkg.reads_length] at h

end memory

/-! ## Translation through entries that map a range (10 R214 to R217) -/

section mapped
variable {s : State} {va n pa : Nat}

theorem va56_ofNat (v : Nat) : va56 (BitVec.ofNat 64 v) = v % 2 ^ 56 := by
  rw [va56, BitVec.toNat_ofNat, Nat.mod_mod_of_dvd _ (by decide)]

theorem State.translate_of_mapped (h : s.Mapped va n pa) {o : Nat} (ho : o < n) (write : Bool) :
    ∃ ty, (s.translate (BitVec.ofNat 64 (va + o)) write true).2 = .ok (pa + o, ty) := by
  obtain ⟨-, -, hspace, e, hfind, hw, hpa⟩ := h o ho
  have hfind : s.core.utlb.find? (fun x => x.covers ((va + o) % 2 ^ 56)) = some e := hfind
  refine ⟨bits e.leaf 4 2, ?_⟩
  rw [State.translate, va56_ofNat, State.tlbFind, hfind]
  dsimp only
  rw [State.leafAccess, hw, hpa]
  simp [hspace]

theorem State.integrityUnder_of_mapped (h : s.Mapped va n pa) {o : Nat} (ho : o < n) (k : Nat) : s.integrityUnder k (pa + o) = false := by
  obtain ⟨hcxl, hcorrupt, -⟩ := h o ho
  simp [State.integrityUnder, hcxl, hcorrupt]

theorem State.devNat_of_mapped (h : s.Mapped va n pa) {o : Nat} (ho : o < n) (m : Nat) :
    s.devNat (va + o) m = leNat (s.pkg.reads s.keyId (pa + o) m) := by
  obtain ⟨ty, htr⟩ := State.translate_of_mapped h ho false
  have htry : s.devTry (va + o) false = .ok (pa + o) := by
    rw [State.devTry, htr]
    exact if_neg (by rw [State.integrityFail, State.integrityUnder_of_mapped h ho]; decide)
  rw [State.devNat, State.devAddr, htry]
  rfl

theorem State.devPlace_of_mapped (h : s.Mapped va n pa) {o m : Nat} (hm : 0 < m) (ho : o + m ≤ n) :
    s.devPlace (va + o) m = some (pa + o) := by
  obtain ⟨ty, htr⟩ := State.translate_of_mapped h (show o < n by omega) true
  have hlast : pa + o + m - 1 = pa + (o + m - 1) := by omega
  obtain ⟨hcxl, -⟩ := h o (by omega)
  obtain ⟨hcxl', -⟩ := h (o + m - 1) (by omega)
  rw [State.devPlace, htr]
  dsimp only
  rw [State.writeFail, State.writeFailUnder, hlast, hcxl, hcxl', State.integrityUnder_of_mapped h (by omega),
    State.integrityUnder_of_mapped h (by omega)]
  simp

theorem Pkg.corrupt_goLive {p : Pkg} {a l : Nat} (h : l ∈ (p.goLive a).corrupt) : l ∈ p.corrupt := by
  unfold Pkg.goLive at h
  split at h
  · exact h
  · exact (List.mem_filter.mp h).1
theorem Pkg.corrupt_claim {p : Pkg} {k a l : Nat} (h : l ∈ (p.claim k a).corrupt) : l ∈ p.corrupt := by
  unfold Pkg.claim at h
  split at h
  · exact h
  · exact (List.mem_filter.mp h).1
theorem Pkg.corrupt_writes {p : Pkg} {k a l : Nat} {b : List Byte} (h : l ∈ (p.writes k a b).corrupt) : l ∈ p.corrupt := by
  induction b generalizing p a with
  | nil => exact h
  | cons x b ih =>
    have hwrite : l ∈ (p.write k a x).corrupt := ih h
    exact Pkg.corrupt_goLive (Pkg.corrupt_claim hwrite)

/-- Bytes written leave what translates and what is intact. -/
theorem State.Mapped.writes (h : s.Mapped va n pa) (k a : Nat) (b : List Byte) : (s.setPkg (s.pkg.writes k a b)).Mapped va n pa := by
  intro i hi
  obtain ⟨hcxl, hcorrupt, hspace, hentry⟩ := h i hi
  refine ⟨?_, fun hmem => hcorrupt (Pkg.corrupt_writes hmem), ?_, hentry⟩
  · rw [← hcxl, State.cxlFail, State.cxlFail]
    show _ = _
    rw [State.setPkg_pkg, Pkg.writes_eq]
    rfl
  · intro hnone
    apply hspace
    rw [← hnone, State.space, State.space, State.setPkg_pkg, Pkg.writes_eq]
    rfl

end mapped

/-! ## Writes into a record that wake nobody (10 R231) -/

theorem State.fireLines_of_none {s : State} {a n : Nat} (h : ∀ w ∈ s.core.watch, w.onLines a n = false) : s.fireLines a n = s := by
  have hmap : s.core.watch.map (fun w => if w.onLines a n then { w with fired := true } else w) = s.core.watch :=
    (List.map_congr_left fun w hw => by rw [h w hw]; rfl).trans (List.map_id _)
  have hfilter : s.core.watch.filter (fun w => w.onLines a n) = [] :=
    List.filter_eq_nil_iff.mpr fun w hw => by rw [h w hw]; exact Bool.false_ne_true
  rw [State.fireLines, State.fire, State.fireBy, hmap, hfilter]
  exact ite_self _

section record
variable {s : State} {rec_ : Dword} {pa : Nat} (h : s.Mapped (va56 rec_) 64 pa)
include h

/-- Bytes written into a record whose lines nobody watches. -/
theorem State.recWrite_eq {o : Nat} {b : List Byte} (hb : 0 < b.length) (ho : o + b.length ≤ 64)
    (hw : ∀ w ∈ s.core.watch, w.onLines (pa + o) b.length = false) :
    s.recWrite rec_ o b = s.setPkg (s.pkg.writes s.keyId (pa + o) b) := by
  rw [State.recWrite, State.recWriteBy, State.devPlace_of_mapped h hb ho]
  exact State.fireLines_of_none hw

/-- The byte of a record with its state and W. -/
theorem State.recFlags_byte : recFlags s rec_ / 2 ^ 24 % 256 = (s.pkg.read s.keyId (pa + 11)).toNat := by
  have hlow := Pkg.flags_low_lt (p := s.pkg) (k := s.keyId) pa
  have hbyte := (s.pkg.read s.keyId (pa + 11)).isLt
  rw [recFlags, State.devNat_of_mapped h (by decide), Pkg.flags_split]
  omega

theorem State.recFlags_w : recFlags s rec_ / 2 ^ 26 % 2 = (s.pkg.read s.keyId (pa + 11)).toNat / 4 % 2 := by
  have hbyte := State.recFlags_byte h
  omega

theorem State.recState_eq (hw : ∀ w ∈ s.core.watch, w.onLines (pa + 11) 1 = false) (st : Nat) : s.recState rec_ st =
    s.setPkg (s.pkg.writes s.keyId (pa + 11) [BitVec.ofNat 8 ((s.pkg.read s.keyId (pa + 11)).toNat / 4 * 4 + st)]) := by
  rw [State.recState, State.recStateBy, State.recFlags_byte h]
  exact State.recWrite_eq h Nat.one_pos (Nat.le_of_ble_eq_true rfl) hw

theorem State.recW_false_eq (hw : ∀ w ∈ s.core.watch, w.onLines (pa + 11) 1 = false) : s.recW rec_ false = s.setPkg (s.pkg.writes
    s.keyId (pa + 11) [BitVec.ofNat 8 ((s.pkg.read s.keyId (pa + 11)).toNat / 8 * 8 + (s.pkg.read s.keyId (pa + 11)).toNat % 4)]) := by
  rw [State.recW, State.recWBy, State.recFlags_byte h]
  exact State.recWrite_eq h Nat.one_pos (Nat.le_of_ble_eq_true rfl) hw

end record

/-! ## The fields of a record (05 R108) -/

section fields
variable {p : Pkg} {k pa : Nat}

/-- A record from the numbers of its pc, its flags, its pitch with its lines, its queue set and its run, and the bytes of its
registers. -/
def recordFrom (pc f q qset run : Nat) (regs : List Byte) : Record :=
  { pc := addrOf (BitVec.ofNat 64 pc), rank := f % 16, psize := f / 2 ^ 4 % 2 ^ 10, pos := f / 2 ^ 14 % 2 ^ 10,
    state := f / 2 ^ 24 % 4, w := f / 2 ^ 26 % 2 = 1, rc := f / 2 ^ 27 % 2 = 1,
    rsv := f / 2 ^ 28 % 16 ≠ 0 || q / 2 ^ 30 ≠ 0, job := f / 2 ^ 32, pitch := q % 2 ^ 16, lines := q / 2 ^ 16 % 2 ^ 14,
    qset := BitVec.ofNat 16 qset, run := run,
    regs := (List.range 5).map fun i => BitVec.ofNat 64 (leNat ((regs.drop (8 * i)).take 8)) }

/-- A record whose flags differ in state and W. -/
theorem recordFrom_flags {low high x y pc q qset run : Nat} {regs : List Byte} (hlow : low < 2 ^ 24)
    (hxy : x / 8 = y / 8) : recordFrom pc (low + 2 ^ 24 * x + 2 ^ 32 * high) q qset run regs =
    { recordFrom pc (low + 2 ^ 24 * y + 2 ^ 32 * high) q qset run regs with state := x % 4, w := x / 4 % 2 = 1 } := by
  generalize hf : low + 2 ^ 24 * x + 2 ^ 32 * high = f
  generalize hg : low + 2 ^ 24 * y + 2 ^ 32 * high = g
  have hlower : f % 2 ^ 24 = g % 2 ^ 24 := by omega
  have hbyte : f / 2 ^ 24 = x + 2 ^ 8 * high := by omega
  have hupper : f / 2 ^ 27 = g / 2 ^ 27 := by omega
  clear hf hg hxy hlow
  have hrank : f % 16 = g % 16 := by omega
  have hpsize : f / 2 ^ 4 % 2 ^ 10 = g / 2 ^ 4 % 2 ^ 10 := by omega
  have hpos : f / 2 ^ 14 % 2 ^ 10 = g / 2 ^ 14 % 2 ^ 10 := by omega
  have hstate : f / 2 ^ 24 % 4 = x % 4 := by omega
  have hw : f / 2 ^ 26 % 2 = x / 4 % 2 := by omega
  clear hlower hbyte
  have hrc : f / 2 ^ 27 % 2 = g / 2 ^ 27 % 2 := by omega
  have hrsv : f / 2 ^ 28 % 16 = g / 2 ^ 28 % 16 := by
    rw [Nat.pow_succ, ← Nat.div_div_eq_div_mul, ← Nat.div_div_eq_div_mul, hupper]
  have hjob : f / 2 ^ 32 = g / 2 ^ 32 := by
    rw [show 2 ^ 32 = 2 ^ 27 * 2 ^ 5 from rfl, ← Nat.div_div_eq_div_mul, ← Nat.div_div_eq_div_mul, hupper]
  simp only [recordFrom, hrank, hpsize, hpos, hstate, hw, hrc, hrsv, hjob]

/-- A record by the numbers that memory holds. -/
theorem recordOf_reads : recordOf (p.reads k pa 64) = recordFrom (leNat (p.reads k (pa + 0) 8)) (leNat (p.reads k (pa + 8) 8))
    (leNat (p.reads k (pa + 16) 4)) (leNat (p.reads k (pa + 20) 2)) (leNat (p.reads k (pa + 22) 2)) (p.reads k (pa + 24) 40) := by
  have hregs : ((List.range 5).map fun i => BitVec.ofNat 64 (leNat (((p.reads k pa 64).drop (24 + 8 * i)).take 8))) =
      (List.range 5).map fun i => BitVec.ofNat 64 (leNat (((p.reads k (pa + 24) 40).drop (8 * i)).take 8)) := by
    refine List.map_congr_left fun i hi => ?_
    have hi := List.mem_range.mp hi
    rw [Pkg.reads_drop_take _ _ _ _ (by omega), Pkg.reads_drop_take _ _ _ _ (by omega), Nat.add_assoc]
  rw [← Pkg.reads_drop_take pa 0 64 8 (by decide), ← Pkg.reads_drop_take pa 8 64 8 (by decide),
    ← Pkg.reads_drop_take pa 16 64 4 (by decide), ← Pkg.reads_drop_take pa 20 64 2 (by decide),
    ← Pkg.reads_drop_take pa 22 64 2 (by decide), recordFrom, ← hregs]
  rfl

/-- The state and W are in one byte. -/
theorem recordOf_state : (recordOf (p.reads k pa 64)).state = (p.read k (pa + 11)).toNat % 4 := by
  have hlow := Pkg.flags_low_lt (p := p) (k := k) pa
  rw [recordOf_reads, recordFrom]
  dsimp only
  rw [Pkg.flags_split]
  omega
theorem recordOf_w : (recordOf (p.reads k pa 64)).w = decide ((p.read k (pa + 11)).toNat / 4 % 2 = 1) := by
  have hlow := Pkg.flags_low_lt (p := p) (k := k) pa
  rw [recordOf_reads, recordFrom]
  dsimp only
  rw [Pkg.flags_split, decide_eq_decide]
  omega

variable (hk : k ≠ 0)
include hk

theorem recordOf_writes_pc (v : Nat) : recordOf ((p.writes k pa (natBytes 8 v)).reads k pa 64) =
    { recordOf (p.reads k pa 64) with pc := addrOf (BitVec.ofNat 64 v) } := by
  have hsame := Pkg.reads_writes_same (p := p) pa (natBytes 8 v) hk
  have hrest (o n : Nat) (ho : 8 ≤ o) : (p.writes k pa (natBytes 8 v)).reads k (pa + o) n = p.reads k (pa + o) n :=
    Pkg.reads_writes_disjoint hk (.inr (by rw [natBytes_length]; omega))
  have hv : BitVec.ofNat 64 (v % 256 ^ 8) = BitVec.ofNat 64 v := BitVec.eq_of_toNat_eq (by simp)
  rw [natBytes_length] at hsame
  rw [recordOf_reads, recordOf_reads, Nat.add_zero, hsame, leNat_natBytes, hrest 8 8 (by decide), hrest 16 4 (by decide),
    hrest 20 2 (by decide), hrest 22 2 (by decide), hrest 24 40 (by decide), recordFrom, hv]
  rfl

theorem recordOf_writes_run (v : Nat) : recordOf ((p.writes k (pa + 22) (natBytes 2 v)).reads k pa 64) =
    { recordOf (p.reads k pa 64) with run := v % 2 ^ 16 } := by
  have hsame := Pkg.reads_writes_same (p := p) (pa + 22) (natBytes 2 v) hk
  have hrest (o n : Nat) (ho : o + n ≤ 22 ∨ 24 ≤ o) :
      (p.writes k (pa + 22) (natBytes 2 v)).reads k (pa + o) n = p.reads k (pa + o) n :=
    Pkg.reads_writes_disjoint hk (by rw [natBytes_length]; omega)
  rw [natBytes_length] at hsame
  rw [recordOf_reads, recordOf_reads, hsame, leNat_natBytes, hrest 0 8 (by decide), hrest 8 8 (by decide),
    hrest 16 4 (by decide), hrest 20 2 (by decide), hrest 24 40 (by decide)]
  rfl

theorem recordOf_writes_regs (f : Nat → Dword) :
    recordOf ((p.writes k (pa + 24) ((List.range 5).flatMap fun i => natBytes 8 (f i).toNat)).reads k pa 64) =
    { recordOf (p.reads k pa 64) with regs := (List.range 5).map f } := by
  have hlen : ((List.range 5).flatMap fun i => natBytes 8 (f i).toNat).length = 40 := rfl
  have hregs : ((List.range 5).map fun i =>
      BitVec.ofNat 64 (leNat ((((List.range 5).flatMap fun i => natBytes 8 (f i).toNat).drop (8 * i)).take 8))) =
      (List.range 5).map f := by
    refine List.map_congr_left fun i hi => ?_
    have hi := List.mem_range.mp hi
    have hslice : (((List.range 5).flatMap fun i => natBytes 8 (f i).toNat).drop (8 * i)).take 8 = natBytes 8 (f i).toNat := by
      interval_cases i <;> rfl
    rw [hslice, leNat_natBytes]
    exact (congrArg (BitVec.ofNat 64) (Nat.mod_eq_of_lt (f i).isLt)).trans (eq_ofNat_toNat _).symm
  generalize ((List.range 5).flatMap fun i => natBytes 8 (f i).toNat) = b at hlen hregs ⊢
  have hsame := Pkg.reads_writes_same (p := p) (pa + 24) b hk
  have hrest (o n : Nat) (ho : o + n ≤ 24) : (p.writes k (pa + 24) b).reads k (pa + o) n = p.reads k (pa + o) n :=
    Pkg.reads_writes_disjoint hk (by omega)
  rw [hlen] at hsame
  rw [recordOf_reads, recordOf_reads, hsame, hrest 0 8 (by decide), hrest 8 8 (by decide),
    hrest 16 4 (by decide), hrest 20 2 (by decide), hrest 22 2 (by decide), recordFrom, hregs]
  rfl

/-- The byte with state and W written, its upper bits kept. -/
theorem recordOf_writes_flags {x : Byte} (hx : x.toNat / 8 = (p.read k (pa + 11)).toNat / 8) :
    recordOf ((p.writes k (pa + 11) [x]).reads k pa 64) =
    { recordOf (p.reads k pa 64) with state := x.toNat % 4, w := x.toNat / 4 % 2 = 1 } := by
  have hrest (o n : Nat) (ho : o + n ≤ 11 ∨ 12 ≤ o) : (p.writes k (pa + 11) [x]).reads k (pa + o) n = p.reads k (pa + o) n :=
    Pkg.reads_writes_disjoint hk (by rw [List.length_singleton]; omega)
  have hbyte : (p.writes k (pa + 11) [x]).read k (pa + 11) = x := by
    rw [Pkg.read_writes _ _ _ _ _ hk, if_pos (by simp), Nat.sub_self]; rfl
  rw [recordOf_reads, recordOf_reads, hrest 0 8 (by decide), hrest 16 4 (by decide), hrest 20 2 (by decide),
    hrest 22 2 (by decide), hrest 24 40 (by decide), Pkg.flags_split, Pkg.flags_split, hbyte, hrest 8 3 (by decide),
    hrest 12 4 (by decide)]
  exact recordFrom_flags (Pkg.flags_low_lt pa) hx

end fields

end Sys2Proof.Machine
end

section
/-! O4 (04 R100, R106, R107, 05 R110 to R114, 18 R387, R388): the strand instructions, and what giving up the issue path leaves. -/

namespace Sys2Proof.Machine

/-! ## What the instructions ask for -/

theorem State.suspend_eq (s : State) (x : Suspend) : s.suspend x = s.withSuspend x := rfl
theorem State.illOp_strand (s : State) : s.illOp .S = s.withCause 2 0x08 (s.defaultInfo 0) := s.illOp_eq .S

theorem State.run7_eq (s : State) (i : BitVec 7) : s.run7 i = if i.toNat = 127 then (s.cur.lits.getD 0 0#32).toNat else i.toNat := by
  rw [State.run7]
  simp only [← BitVec.toNat_inj, BitVec.toNat_ofNat, Nat.reducePow, Nat.reduceMod]

theorem State.held_sources (s : State) : ((List.range 5).any fun i => s.x.held (i + 1)) =
    s.x.out.any fun r => decide (1 ≤ r.1 ∧ r.1 ≤ 5) := by
  rw [Bool.eq_iff_iff, List.any_eq_true, List.any_eq_true]
  simp only [Ctx.held, List.any_eq_true, List.mem_range, decide_eq_true_eq]
  constructor
  · rintro ⟨i, hi, r, hr, heq⟩
    exact ⟨r, hr, by omega⟩
  · rintro ⟨r, hr, h1, h5⟩
    exact ⟨r.1 - 1, by omega, r, hr, by omega⟩

theorem exec_ifence_eq (f : SR) (s : State) : exec (.ifence f) s = .next (if s.x.preg f.p.toNat then
    if s.core.cmds.any Cmd.writesStore then s.withWait 6 else s else s) := by
  rw [exec_ifence, execIfence, State.whenP_eq, State.wait_eq]

theorem exec_wait_eq (f : SR) (s : State) : exec (.wait f) s = .next (if s.x.h then s.withCause 2 0x08 (s.defaultInfo 0)
    else if s.x.preg f.p.toNat then s.withSuspend (.wait
      (if f.f.toNat = 127 then (s.cur.lits.getD 0 0#32).toNat else f.f.toNat) (s.x.sreg f.a.toNat)) else s) := by
  rw [exec_wait, execWait, State.illOp_strand, State.whenP_eq, State.suspend_eq, State.run7_eq]

theorem exec_park_eq (f : SR) (s : State) : exec (.park f) s = .next (if s.x.h then s.withCause 2 0x08 (s.defaultInfo 0)
    else if !s.x.preg f.p.toNat then s
    else if s.x.out.any (fun r => decide (1 ≤ r.1 ∧ r.1 ≤ 5)) then s.withWait 3
    else if s.x.out.any (fun r => r.2.isSome) then s.withWait 7
    else s.withSuspend (.park (if f.f.toNat = 127 then (s.cur.lits.getD 0 0#32).toNat else f.f.toNat))) := by
  rw [exec_park, execPark, State.illOp_strand, State.whenP_eq, State.held_sources, State.suspend_eq, State.run7_eq, State.wait_eq,
    State.wait_eq]
  cases s.x.preg f.p.toNat <;> rfl

/-- The information of a pending engine fault as a number (11 R247). -/
theorem EngineFault.tinfo_eq (e : EngineFault) :
    e.tinfo = BitVec.ofNat 64 (e.info.toNat % 2 ^ 40 + min e.more 255 * 2 ^ 40 + e.cause.toNat * 2 ^ 56) := by
  have hmore : min e.more 255 < 2 ^ 8 := by omega
  have hcause := e.cause.isLt
  have hinfo : (e.info &&& 0xFFFFFFFFFF#64).toNat = e.info.toNat % 2 ^ 40 := by
    rw [BitVec.toNat_and]
    exact Nat.and_two_pow_sub_one_eq_mod _ 40
  have hlow : e.info.toNat % 2 ^ 40 < 2 ^ 40 := Nat.mod_lt _ (by decide)
  have hmid : (BitVec.ofNat 64 (min e.more 255) <<< 40).toNat = min e.more 255 <<< 40 := by
    rw [BitVec.toNat_shiftLeft, BitVec.toNat_ofNat, Nat.mod_eq_of_lt (by omega), Nat.mod_eq_of_lt (by omega)]
  have hhigh : (e.cause.setWidth 64 <<< 56).toNat = e.cause.toNat <<< 56 := by
    rw [BitVec.toNat_shiftLeft, BitVec.toNat_setWidth, Nat.mod_eq_of_lt (by omega), Nat.mod_eq_of_lt (by omega)]
  generalize e.info.toNat % 2 ^ 40 = low at hinfo hlow ⊢
  generalize hm : min e.more 255 = more at hmore hmid ⊢
  have hjoin : low ||| more <<< 40 = low + more * 2 ^ 40 := by
    rw [Nat.lor_comm, ← Nat.shiftLeft_add_eq_or_of_lt hlow, Nat.shiftLeft_eq, Nat.add_comm]
  have hbound : low + more * 2 ^ 40 < 2 ^ 56 := by omega
  have hall : (low + more * 2 ^ 40) ||| e.cause.toNat <<< 56 = low + more * 2 ^ 40 + e.cause.toNat * 2 ^ 56 := by
    rw [Nat.lor_comm, ← Nat.shiftLeft_add_eq_or_of_lt hbound, Nat.shiftLeft_eq, Nat.add_comm]
  apply BitVec.eq_of_toNat_eq
  rw [EngineFault.tinfo, hm, BitVec.toNat_or, BitVec.toNat_or, hinfo, hmid, hhigh, hjoin, hall, BitVec.toNat_ofNat,
    Nat.mod_eq_of_lt (by omega)]

theorem exec_halt_eq (f : SR) (s : State) : exec (.halt f) s = .next (if s.x.preg f.p.toNat then
    s.faultFirst fun s => if s.busy then s.withWait 6 else s.withSuspend .halt else s) := by
  rw [exec_halt, execHalt, State.whenP_eq]
  rfl
theorem State.faultFirst_some {s : State} {e : EngineFault} (h : s.x.ef = some e) (k : State → State) :
    s.faultFirst k = s.withCause 8 0x82 e.tinfo := by
  rw [State.faultFirst, h]; rfl
theorem State.faultFirst_none {s : State} (h : s.x.ef = none) (k : State → State) : s.faultFirst k = k s := by
  rw [State.faultFirst, h]
theorem State.busy_iff (s : State) : s.busy = true ↔ ∃ c ∈ s.core.cmds, c.strand.toNat % 2 ^ 56 = s.x.brec.toNat % 2 ^ 56 := by
  rw [State.busy, List.any_eq_true]
  simp only [decide_eq_true_eq]
  rfl

theorem exec_tret_eq (f : SR) (s : State) : exec (.tret f) s = .next (if s.x.h then { s with cur := { s.cur with tret := true } }
    else s.withCause 3 0x10 (s.defaultInfo 0)) := by
  rw [exec_tret, execTret, s.illOperand_eq .S 0 (by decide)]
  rfl
theorem exec_yield_eq (f : SI) (s : State) : exec (.yield f) s = .next (if s.x.h then s.withCause 2 0x08 (s.defaultInfo 0)
    else s.withSuspend (.yield (s.immInt f.i false).toNat)) := by
  rw [exec_yield, execYield, State.illOp_strand, State.suspend_eq, State.immInt_unsigned]
  rfl
theorem exec_trap_eq (f : SI) (s : State) : exec (.trap f) s = .next { s with cur := { s.cur with
    trap := some (s.cur.idx, BitVec.ofInt 64 (s.immInt f.i false)) } } := by
  rw [exec_trap, execTrap, State.ofInt_immInt_unsigned]
  rfl

/-! ## Where a strand resumes (03 R54) -/

theorem nextLine_eq (a : Addr) : nextLine a = BitVec.ofNat 56 (a.toNat / 64 * 64 + 64) := by
  have hor : a.toNat ||| 63 = a.toNat / 64 * 64 + 63 := by
    rw [show a.toNat / 64 * 64 = (a.toNat >>> 6) <<< 6 by rw [Nat.shiftLeft_eq, Nat.shiftRight_eq_div_pow],
      Nat.shiftLeft_add_eq_or_of_lt (by decide : 63 < 2 ^ 6)]
    apply Nat.eq_of_testBit_eq
    intro i
    rw [Nat.testBit_or, Nat.testBit_or, Nat.testBit_shiftLeft, Nat.testBit_shiftRight, show 63 = 2 ^ 6 - 1 from rfl, Nat.testBit_two_pow_sub_one]
    by_cases hi : i < 6
    · simp [hi]
    · simp [hi, show 6 + (i - 6) = i by omega, show 6 ≤ i by omega]
  rw [nextLine, ← BitVec.toNat_inj, BitVec.toNat_add, BitVec.toNat_or]
  show ((a.toNat ||| 63) + 1) % 2 ^ 56 = _
  rw [hor, BitVec.toNat_ofNat]

theorem CoreSt.seqAddr_stop {c : CoreSt} {a : Addr} (h : (c.codeIdx a).map c.codeWord ≠ some 0) (n : Nat) : c.seqAddr n a = a := by
  cases n with
  | zero => rfl
  | succ n =>
    rw [CoreSt.seqAddr]
    cases hk : c.codeIdx a with
    | none => rfl
    | some k =>
      rw [hk] at h
      exact if_neg fun h0 => h (congrArg some h0)
theorem CoreSt.seqAddr_padding {c : CoreSt} {a : Addr} (h : (c.codeIdx a).map c.codeWord = some 0) (n : Nat) :
    c.seqAddr (n + 1) a = c.seqAddr n (nextLine a) := by
  rw [CoreSt.seqAddr]
  cases hk : c.codeIdx a with
  | none => rw [hk] at h; exact absurd h (by simp)
  | some k =>
    rw [hk] at h
    exact if_pos (Option.some.inj h)

/-- Landings do not change where code stands. -/
theorem CoreSt.seqAddr_landed (c : CoreSt) (pad : List Host.Cell) (streams : List (Nat × Stream)) (n : Nat) (a : Addr) :
    ({ c with pad := pad, streams := streams } : CoreSt).seqAddr n a = c.seqAddr n a := by
  induction n generalizing a with
  | zero => rfl
  | succ n ih =>
    rw [CoreSt.seqAddr, CoreSt.seqAddr, ih]
    rfl

/-! ## Yield and wait (05 R111, R112) -/

/-- What giving up the path with a stated run leaves of a strand whose results have landed. -/
structure Ctx.Left (c d : Ctx) (k : Nat) : Prop where
  run : d.run = k
  flight : d.flight = []
  holds : d.holds = []
  latchOk : d.latchOk = 0
  unseen : d.unseen = []
  tbuf : d.tbuf = []
  pc : d.pc = c.pc
  pend : d.pend = c.pend
  levels : d.levels = c.levels
  depth : d.depth = c.depth

theorem Ctx.GivenUp.left {c d : Ctx} {k : Nat} {st : CtxStatus} {r : List (Nat × Dword)} {p : BitVec 8} {v : List (Nat × Lanes)}
    {l : List (Nat × BitVec 16)} {latch : List (Nat × Lanes)} (h : ({ c with
      s := r, p := p, v := v, l := l, latch := latch, latchOk := 0, holds := [], tbuf := [], flight := [], run := k } : Ctx).GivenUp d st) : c.Left d k ∧ d.s = r := by
  rw [h.eq]
  exact ⟨⟨rfl, rfl, rfl, rfl, rfl, rfl, rfl, rfl, rfl, rfl⟩, rfl⟩

theorem State.ctx_landAll_giveUp_run (s : State) (k : Nat) (st : CtxStatus) :
    let d := ((s.landAll.setX { s.landAll.x with run := k }).giveUp st).ctx s.xn
    s.x.Left d k ∧ d.s = s.landAll.x.s ∧ (d.status = st ∨ ((st = .ready ∨ st = .frozen) ∧ d.status = .running)) := by
  obtain ⟨r, p, v, l, latch, pad, streams, hland⟩ := s.landAll_eq
  rw [hland]
  have h := (({ s with
    x := { s.x with s := r, p := p, v := v, l := l, latch := latch, latchOk := 0, holds := [], tbuf := [], flight := [] },
    core := { s.core with pad := pad, streams := streams } } : State).setX { s.x with
      s := r, p := p, v := v, l := l, latch := latch, latchOk := 0, holds := [], tbuf := [], flight := [], run := k }).ctx_giveUp st
  exact ⟨h.left.1, h.left.2, h.status⟩

theorem State.giveUpBy_yield (s : State) (k : Nat) : s.giveUpBy (.yield k) = (s.setX { s.x with run := k }).giveUp .ready := rfl
theorem State.giveUpBy_wait (s : State) (k : Nat) (t : Dword) : s.giveUpBy (.wait k t) =
    (s.setX { s.x with run := k }).giveUp (if t.toNat ≤ s.gtc.toNat then .ready else .waiting t) := rfl

theorem State.landAll_gtc (s : State) : s.landAll.gtc = s.gtc := by
  obtain ⟨r, p, v, l, latch, pad, streams, hland⟩ := s.landAll_eq
  rw [hland]

theorem State.ctx_yield (s : State) (k : Nat) :
    let d := (s.landAll.giveUpBy (.yield k)).ctx s.xn
    s.x.Left d k ∧ d.s = s.landAll.x.s ∧ (d.status = .ready ∨ d.status = .running) := by
  rw [State.giveUpBy_yield]
  obtain ⟨hleft, hregs, hstatus⟩ := s.ctx_landAll_giveUp_run k .ready
  exact ⟨hleft, hregs, hstatus.imp_right And.right⟩
theorem State.ctx_wait (s : State) (k : Nat) (t : Dword) :
    let d := (s.landAll.giveUpBy (.wait k t)).ctx s.xn
    s.x.Left d k ∧ d.s = s.landAll.x.s ∧ (t.toNat ≤ s.gtc.toNat → d.status = .ready ∨ d.status = .running) ∧
      (s.gtc.toNat < t.toNat → d.status = .waiting t) := by
  rw [State.giveUpBy_wait, State.landAll_gtc]
  obtain ⟨hleft, hregs, hstatus⟩ := s.ctx_landAll_giveUp_run k (if t.toNat ≤ s.gtc.toNat then .ready else .waiting t)
  refine ⟨hleft, hregs, fun hle => ?_, fun hlt => ?_⟩
  · rw [if_pos hle] at hstatus ⊢
    exact hstatus.imp_right And.right
  · rw [if_neg (by omega)] at hstatus ⊢
    exact hstatus.resolve_right (by simp)

end Sys2Proof.Machine
end

section
/-! O4, parks and halts (05 R110, R112 to R114): a park is four writes into the record, or one that clears W; a halt is one write of
its state, and what the engines and the partition forget. -/

namespace Sys2Proof.Machine

/-! ## What landings keep -/

theorem State.Mapped.congr {s t : State} {va n pa : Nat} (h : s.Mapped va n pa) (hpkg : t.pkg = s.pkg) (hpart : t.part = s.part)
    (hutlb : t.core.utlb = s.core.utlb) : t.Mapped va n pa := by
  intro i hi
  obtain ⟨hcxl, hcorrupt, hspace, hentry⟩ := h i hi
  refine ⟨?_, by rwa [hpkg], ?_, ?_⟩
  · rw [← hcxl, State.cxlFail, State.cxlFail, hpkg, hpart]
  · rwa [State.space, hpkg, hpart]
  · rwa [State.entryFor, hutlb]

theorem State.landAll_keeps (s : State) : s.landAll.xn = s.xn ∧ s.landAll.pkg = s.pkg ∧ s.landAll.part = s.part ∧
    s.landAll.core.utlb = s.core.utlb ∧ s.landAll.core.watch = s.core.watch := by
  obtain ⟨r, p, v, l, latch, pad, streams, hland⟩ := s.landAll_eq
  rw [hland]
  exact ⟨rfl, rfl, rfl, rfl, rfl⟩
theorem State.landAll_x_keeps (s : State) : s.landAll.x.brec = s.x.brec ∧ s.landAll.x.psize = s.x.psize ∧
    s.landAll.x.sp = s.x.sp ∧ s.landAll.x.rtile = s.x.rtile ∧ s.landAll.x.party = s.x.party ∧ s.landAll.x.ef = s.x.ef ∧
    s.landAll.x.pc = s.x.pc := by
  obtain ⟨r, p, v, l, latch, pad, streams, hland⟩ := s.landAll_eq
  rw [hland]
  exact ⟨rfl, rfl, rfl, rfl, rfl, rfl, rfl⟩
theorem State.resumePc_landAll (s : State) : s.landAll.resumePc s.landAll.x = s.resumePc s.x := by
  obtain ⟨r, p, v, l, latch, pad, streams, hland⟩ := s.landAll_eq
  rw [hland]
  exact CoreSt.seqAddr_landed ..

theorem addrOf_codeAddr (a : Addr) : addrOf (BitVec.ofNat 64 a.toNat) = codeAddr a.toNat := by
  have ha := a.isLt
  apply BitVec.eq_of_toNat_eq
  rw [toNat_addrOf, codeAddr, BitVec.toNat_ofNat, BitVec.toNat_ofInt]
  omega

/-! ## Parking (05 R110, R112, R113) -/

/-- Memory after a park has written the record at a physical address. -/
def State.parkedPkg (s : State) (pa k : Nat) : Pkg :=
  let p := ((s.pkg.writes s.keyId pa (natBytes 8 (s.resumePc s.x).toNat)).writes s.keyId (pa + 22) (natBytes 2 k)).writes
    s.keyId (pa + 24) ((List.range 5).flatMap fun i => natBytes 8 (s.x.sreg (i + 1)).toNat)
  p.writes s.keyId (pa + 11) [BitVec.ofNat 8 ((p.read s.keyId (pa + 11)).toNat / 4 * 4 + 2)]

/-- A record's registers as bytes. -/
def Ctx.parkedRegs (c : Ctx) : List Byte := (List.range 5).flatMap fun i => natBytes 8 (c.sreg (i + 1)).toNat
theorem Ctx.parkedRegs_length (c : Ctx) : c.parkedRegs.length = 40 := rfl

section park
variable {s : State} {pa : Nat} (hnone : s.NoneWaiting)
include hnone

theorem State.not_onLines (a n : Nat) : ∀ w ∈ s.core.watch, w.onLines a n = false := by
  intro w hw
  rw [hnone] at hw
  exact absurd hw List.not_mem_nil

variable {p : Pkg} (hp : (s.setPkg p).Mapped (va56 s.x.brec) 64 pa)
include hp

theorem State.recWrite_none {o : Nat} {b : List Byte} (hb : 0 < b.length) (ho : o + b.length ≤ 64) :
    (s.setPkg p).recWrite s.x.brec o b = s.setPkg (p.writes s.keyId (pa + o) b) ∧
    (s.setPkg (p.writes s.keyId (pa + o) b)).Mapped (va56 s.x.brec) 64 pa :=
  ⟨State.recWrite_eq hp hb ho (State.not_onLines hnone _ _), hp.writes _ _ _⟩

theorem State.recState_none (st : Nat) : (s.setPkg p).recState s.x.brec st =
    s.setPkg (p.writes s.keyId (pa + 11) [BitVec.ofNat 8 ((p.read s.keyId (pa + 11)).toNat / 4 * 4 + st)]) :=
  State.recState_eq hp (State.not_onLines hnone _ _) st

end park

/-- A strand whose record is written gives up its context. -/
def State.parkEnd (s : State) (va : Dword) : State :=
  if s.x.psize = 0 then (s.setPart { s.part with parked := s.part.parked ++
    [⟨va, s.x.sp, s.x.rtile, s.x.party, s.x.ef, s.x.evicted, []⟩] }).giveUp .empty
  else s.giveUp .reserved
/-- The rest of a park after the pc and the run are in the record. -/
def State.parkFrom (s : State) (va : Dword) : State :=
  let t := s.recWrite va 24 s.x.parkedRegs
  ((t.recState va 2).ruPark va t.x.ruGen.toNat).parkEnd va

section park
variable {s : State} {pa : Nat} (hnone : s.NoneWaiting) (h : s.Mapped (va56 s.x.brec) 64 pa)
  (hstart : s.heldStart s.x.brec = none)
include hnone h hstart

theorem State.parkStrand_w (hw : (s.pkg.read s.keyId (pa + 11)).toNat / 4 % 2 = 1) (k : Nat) : s.parkStrand k =
    ((s.setPkg (s.pkg.writes s.keyId (pa + 11) [BitVec.ofNat 8 ((s.pkg.read s.keyId (pa + 11)).toNat / 8 * 8 +
      (s.pkg.read s.keyId (pa + 11)).toNat % 4)])).setX { s.x with run := k }).giveUp .ready := by
  rw [State.parkStrand, hstart]
  dsimp only
  rw [if_pos (by rw [State.recFlags_w h]; exact hw), State.recW_false_eq h (State.not_onLines hnone _ _)]

theorem State.parkStrand_parks (hw : (s.pkg.read s.keyId (pa + 11)).toNat / 4 % 2 ≠ 1) (k : Nat) : s.parkStrand k =
    ((s.setPkg (s.parkedPkg pa k)).ruPark s.x.brec s.x.ruGen.toNat).parkEnd s.x.brec := by
  have hw : ¬ recFlags s s.x.brec / 2 ^ 26 % 2 = 1 := by rw [State.recFlags_w h]; exact hw
  have hunfold : s.parkStrand k =
      ((s.recWrite s.x.brec 0 (natBytes 8 (s.resumePc s.x).toNat)).recWrite s.x.brec 22 (natBytes 2 k)).parkFrom s.x.brec := by
    rw [State.parkStrand, hstart]
    exact if_neg hw
  obtain ⟨hpc, h1⟩ := State.recWrite_none (p := s.pkg) hnone h (o := 0) (b := natBytes 8 (s.resumePc s.x).toNat)
    (by rw [natBytes_length]; decide) (by rw [natBytes_length]; decide)
  obtain ⟨hrun, h2⟩ := State.recWrite_none hnone h1 (o := 22) (b := natBytes 2 k) (by rw [natBytes_length]; decide)
    (by rw [natBytes_length]; decide)
  obtain ⟨hregs, h3⟩ := State.recWrite_none hnone h2 (o := 24) (b := s.x.parkedRegs) (by rw [Ctx.parkedRegs_length]; decide)
    (by rw [Ctx.parkedRegs_length])
  have hpc : s.recWrite s.x.brec 0 (natBytes 8 (s.resumePc s.x).toNat) = _ := hpc
  rw [hunfold, hpc, hrun, State.parkFrom, State.setPkg_x, hregs, State.recState_none hnone h3]
  rfl

end park

/-! ## What a park leaves in the record -/

section record
variable {s : State} {pa k : Nat} (hk : s.keyId ≠ 0)
include hk

theorem State.parkedPkg_outside {a : Nat} (ha : a < pa ∨ pa + 64 ≤ a) : (s.parkedPkg pa k).read s.keyId a = s.pkg.read s.keyId a := by
  rw [State.parkedPkg, Pkg.read_writes _ _ _ _ _ hk, if_neg (by rw [List.length_singleton]; omega), Pkg.read_writes _ _ _ _ _ hk,
    if_neg (by rw [← Ctx.parkedRegs, Ctx.parkedRegs_length]; omega), Pkg.read_writes _ _ _ _ _ hk,
    if_neg (by rw [natBytes_length]; omega), Pkg.read_writes _ _ _ _ _ hk, if_neg (by rw [natBytes_length]; omega)]

theorem State.recordOf_parkedPkg : recordOf ((s.parkedPkg pa k).reads s.keyId pa 64) =
    { recordOf (s.pkg.reads s.keyId pa 64) with
      pc := codeAddr (s.resumePc s.x).toNat, run := k % 2 ^ 16, regs := (List.range 5).map fun i => s.x.sreg (i + 1), state := 2 } := by
  rw [State.parkedPkg]
  generalize hp : ((s.pkg.writes s.keyId pa (natBytes 8 (s.resumePc s.x).toNat)).writes s.keyId (pa + 22) (natBytes 2 k)).writes
    s.keyId (pa + 24) ((List.range 5).flatMap fun i => natBytes 8 (s.x.sreg (i + 1)).toNat) = p
  have hrecord := recordOf_writes_regs hk (fun i => s.x.sreg (i + 1)) (pa := pa)
    (p := (s.pkg.writes s.keyId pa (natBytes 8 (s.resumePc s.x).toNat)).writes s.keyId (pa + 22) (natBytes 2 k))
  rw [hp, recordOf_writes_run hk, recordOf_writes_pc hk, addrOf_codeAddr] at hrecord
  have hx : (BitVec.ofNat 8 ((p.read s.keyId (pa + 11)).toNat / 4 * 4 + 2)).toNat = (p.read s.keyId (pa + 11)).toNat / 4 * 4 + 2 := by
    have hlt := (p.read s.keyId (pa + 11)).isLt
    rw [BitVec.toNat_ofNat]
    omega
  have hstate : ((p.read s.keyId (pa + 11)).toNat / 4 * 4 + 2) % 4 = 2 := by omega
  have hw : ((p.read s.keyId (pa + 11)).toNat / 4 * 4 + 2) / 4 % 2 = (p.read s.keyId (pa + 11)).toNat / 4 % 2 := by omega
  rw [recordOf_writes_flags hk (by rw [hx]; omega), hx, hstate, hw, ← recordOf_w, hrecord]

end record

theorem recordOf_clear_w {p : Pkg} {k pa : Nat} (hk : k ≠ 0) : recordOf ((p.writes k (pa + 11) [BitVec.ofNat 8
    ((p.read k (pa + 11)).toNat / 8 * 8 + (p.read k (pa + 11)).toNat % 4)]).reads k pa 64) =
    { recordOf (p.reads k pa 64) with w := false } := by
  have hlt := (p.read k (pa + 11)).isLt
  have hx : (BitVec.ofNat 8 ((p.read k (pa + 11)).toNat / 8 * 8 + (p.read k (pa + 11)).toNat % 4)).toNat =
      (p.read k (pa + 11)).toNat / 8 * 8 + (p.read k (pa + 11)).toNat % 4 := by
    rw [BitVec.toNat_ofNat]
    omega
  have hstate : ((p.read k (pa + 11)).toNat / 8 * 8 + (p.read k (pa + 11)).toNat % 4) % 4 = (p.read k (pa + 11)).toNat % 4 := by
    omega
  have hw : ¬ ((p.read k (pa + 11)).toNat / 8 * 8 + (p.read k (pa + 11)).toNat % 4) / 4 % 2 = 1 := by omega
  rw [recordOf_writes_flags hk (by rw [hx]; omega), hx, hstate, decide_eq_false hw, ← recordOf_state]

theorem recordOf_halted {p : Pkg} {k pa : Nat} (hk : k ≠ 0) : recordOf ((p.writes k (pa + 11) [BitVec.ofNat 8
    ((p.read k (pa + 11)).toNat / 4 * 4 + 3)]).reads k pa 64) = { recordOf (p.reads k pa 64) with state := 3 } := by
  have hlt := (p.read k (pa + 11)).isLt
  have hx : (BitVec.ofNat 8 ((p.read k (pa + 11)).toNat / 4 * 4 + 3)).toNat = (p.read k (pa + 11)).toNat / 4 * 4 + 3 := by
    rw [BitVec.toNat_ofNat]
    omega
  have hstate : ((p.read k (pa + 11)).toNat / 4 * 4 + 3) % 4 = 3 := by omega
  have hw : ((p.read k (pa + 11)).toNat / 4 * 4 + 3) / 4 % 2 = (p.read k (pa + 11)).toNat / 4 % 2 := by omega
  rw [recordOf_writes_flags hk (by rw [hx]; omega), hx, hstate, hw, ← recordOf_w]

/-! ## Giving up the path after a park -/

theorem State.giveUp_keeps (s : State) (st : CtxStatus) : (s.giveUp st).pkg = s.pkg ∧ (s.giveUp st).part = s.part ∧
    (s.giveUp st).core.watch = s.core.watch := by
  obtain ⟨x, xn, run, rest, left, last, h⟩ := s.giveUp_eq st
  rw [h]
  exact ⟨rfl, rfl, rfl⟩
theorem State.giveUp_keyId (s : State) (st : CtxStatus) : (s.giveUp st).keyId = s.keyId := by
  rw [State.keyId, (s.giveUp_keeps st).2.1]
  rfl

theorem State.parkEnd_memory (s : State) (va : Dword) : (s.parkEnd va).pkg = s.pkg ∧ (s.parkEnd va).keyId = s.keyId := by
  rw [State.parkEnd]
  split
  · exact ⟨(State.giveUp_keeps _ _).1, State.giveUp_keyId _ _⟩
  · exact ⟨(State.giveUp_keeps _ _).1, State.giveUp_keyId _ _⟩

/-- A party of one parks: its context is free, and the strand is among the parked. -/
theorem State.parkEnd_alone {s : State} (h : s.x.psize = 0) (va : Dword) : ((s.parkEnd va).ctx s.xn).status = .empty ∧
    ∃ e ∈ (s.parkEnd va).part.parked, e.addr = va ∧ e.sp = s.x.sp ∧ e.rtile = s.x.rtile ∧ e.party = s.x.party ∧ e.ef = s.x.ef := by
  rw [State.parkEnd, if_pos h]
  refine ⟨(State.ctx_giveUp _ _).status_eq (by simp) (by simp), ⟨va, s.x.sp, s.x.rtile, s.x.party, s.x.ef, s.x.evicted, []⟩, ?_,
    rfl, rfl, rfl, rfl, rfl⟩
  rw [(State.giveUp_keeps _ _).2.1]
  exact List.mem_append_right _ (List.mem_singleton_self _)
/-- A member of a larger party parks: its context is reserved. -/
theorem State.parkEnd_member {s : State} (h : s.x.psize ≠ 0) (va : Dword) : ((s.parkEnd va).ctx s.xn).status = .reserved := by
  rw [State.parkEnd, if_neg h]
  exact (State.ctx_giveUp _ _).status_eq (by simp) (by simp)

/-! ## The park of a strand (05 R110, R112, R113) -/

section park
variable {s : State} {k pa : Nat} (hnone : s.NoneWaiting) (h : s.Mapped (va56 s.x.brec) 64 pa)
  (hstart : s.heldStart s.x.brec = none) (hk : s.keyId ≠ 0)
include hnone h hstart hk

theorem State.parkStrand_outside {a : Nat} (ha : a < pa ∨ pa + 64 ≤ a) :
    (s.parkStrand k).pkg.read (s.parkStrand k).keyId a = s.pkg.read s.keyId a := by
  by_cases hw : (s.pkg.read s.keyId (pa + 11)).toNat / 4 % 2 = 1
  · rw [State.parkStrand_w hnone h hstart hw, State.giveUp_keyId, (State.giveUp_keeps _ _).1]
    show Pkg.read (s.pkg.writes s.keyId (pa + 11) _) s.keyId a = _
    rw [Pkg.read_writes _ _ _ _ _ hk, if_neg (by rw [List.length_singleton]; omega)]
  · obtain ⟨hpkg, hkey⟩ := ((s.setPkg (s.parkedPkg pa k)).ruPark s.x.brec s.x.ruGen.toNat).parkEnd_memory s.x.brec
    rw [State.parkStrand_parks hnone h hstart hw, hpkg, hkey]
    exact State.parkedPkg_outside hk ha

/-- A park while W is clear. -/
theorem State.parkStrand_record (hw : (recordOf (s.pkg.reads s.keyId pa 64)).w = false) :
    recordOf ((s.parkStrand k).pkg.reads (s.parkStrand k).keyId pa 64) = { recordOf (s.pkg.reads s.keyId pa 64) with
      pc := codeAddr (s.resumePc s.x).toNat, run := k % 2 ^ 16, regs := (List.range 5).map fun i => s.x.sreg (i + 1), state := 2 } ∧
    (s.x.psize = 0 → ((s.parkStrand k).ctx s.xn).status = .empty ∧ ∃ e ∈ (s.parkStrand k).part.parked,
      e.addr = s.x.brec ∧ e.sp = s.x.sp ∧ e.rtile = s.x.rtile ∧ e.party = s.x.party ∧ e.ef = s.x.ef) ∧
    (s.x.psize ≠ 0 → ((s.parkStrand k).ctx s.xn).status = .reserved) := by
  rw [recordOf_w, decide_eq_false_iff_not] at hw
  obtain ⟨hpkg, hkey⟩ := ((s.setPkg (s.parkedPkg pa k)).ruPark s.x.brec s.x.ruGen.toNat).parkEnd_memory s.x.brec
  have hrecord := State.recordOf_parkedPkg (s := s) (pa := pa) (k := k) hk
  have hx : ((s.setPkg (s.parkedPkg pa k)).ruPark s.x.brec s.x.ruGen.toNat).x = s.x := rfl
  have hxn : ((s.setPkg (s.parkedPkg pa k)).ruPark s.x.brec s.x.ruGen.toNat).xn = s.xn := rfl
  have hpkg' : ((s.setPkg (s.parkedPkg pa k)).ruPark s.x.brec s.x.ruGen.toNat).pkg = s.parkedPkg pa k := rfl
  have hkey' : ((s.setPkg (s.parkedPkg pa k)).ruPark s.x.brec s.x.ruGen.toNat).keyId = s.keyId := rfl
  rw [State.parkStrand_parks hnone h hstart hw]
  generalize (s.setPkg (s.parkedPkg pa k)).ruPark s.x.brec s.x.ruGen.toNat = v at hpkg hkey hx hxn hpkg' hkey' ⊢
  rw [hpkg, hkey, hpkg', hkey', hrecord, ← hx, ← hxn]
  exact ⟨rfl, fun h0 => State.parkEnd_alone h0 _, fun h0 => State.parkEnd_member h0 _⟩

/-- A park that finds W set clears it and acts as a yield. -/
theorem State.parkStrand_yields (hw : (recordOf (s.pkg.reads s.keyId pa 64)).w = true) :
    recordOf ((s.parkStrand k).pkg.reads (s.parkStrand k).keyId pa 64) = { recordOf (s.pkg.reads s.keyId pa 64) with w := false } ∧
    (((s.parkStrand k).ctx s.xn).status = .ready ∨ ((s.parkStrand k).ctx s.xn).status = .running) ∧
    ((s.parkStrand k).ctx s.xn).run = k ∧ ((s.parkStrand k).ctx s.xn).pc = s.x.pc := by
  rw [recordOf_w, decide_eq_true_eq] at hw
  have hrecord := recordOf_clear_w hk (p := s.pkg) (pa := pa)
  rw [State.parkStrand_w hnone h hstart hw, State.giveUp_keyId, (State.giveUp_keeps _ _).1]
  generalize s.pkg.writes s.keyId (pa + 11) [BitVec.ofNat 8 ((s.pkg.read s.keyId (pa + 11)).toNat / 8 * 8 +
    (s.pkg.read s.keyId (pa + 11)).toNat % 4)] = q at hrecord ⊢
  have hgiven := ((s.setPkg q).setX { s.x with run := k }).ctx_giveUp .ready
  exact ⟨hrecord, hgiven.status_ready, hgiven.run_eq, hgiven.pc_eq⟩

end park

/-- Results in flight landed, a park is as of the state before, but for the registers. -/
theorem State.parks_landed (s : State) {pa : Nat} (h : s.Mapped (va56 s.x.brec) 64 pa) (hnone : s.NoneWaiting)
    (hstart : ∀ e ∈ s.part.starts, va56 e.rec_ ≠ va56 s.x.brec) : s.landAll.NoneWaiting ∧
    s.landAll.Mapped (va56 s.landAll.x.brec) 64 pa ∧ s.landAll.heldStart s.landAll.x.brec = none ∧ s.landAll.keyId = s.keyId := by
  obtain ⟨-, hpkg, hpart, hutlb, hwatch⟩ := s.landAll_keeps
  obtain ⟨hbrec, -⟩ := s.landAll_x_keeps
  refine ⟨hwatch.trans hnone, by rw [hbrec]; exact h.congr hpkg hpart hutlb, ?_, ?_⟩
  · rw [State.heldStart, hpart, hbrec, List.find?_eq_none]
    exact fun e he => by rw [decide_eq_true_eq]; exact hstart e he
  · rw [State.keyId, hpart]
    rfl

/-! ## Halting (05 R114, 10 R231) -/

theorem State.abandon_of_noBuilds {s : State} (h : s.part.builds = []) (rec_ : Dword) : s.abandon rec_ = s := by
  rw [State.abandon, h]
  rfl

theorem State.withdraw_eq (s : State) (r : Recv) : ∃ posted notFull, s.withdraw r = { s with
    part := { s.part with posted := posted }, core := { s.core with notFull := notFull } } :=
  ⟨_, _, State.setFulls_eq _ _ _ _⟩
theorem State.withdrawAll_eq (l : List Recv) (s : State) : ∃ posted notFull, l.foldl State.withdraw s = { s with
    part := { s.part with posted := posted }, core := { s.core with notFull := notFull } } := by
  induction l generalizing s with
  | nil => exact ⟨s.part.posted, s.core.notFull, rfl⟩
  | cons r l ih =>
    obtain ⟨posted, notFull, h⟩ := s.withdraw_eq r
    obtain ⟨posted', notFull', h'⟩ := ih (s.withdraw r)
    exact ⟨posted', notFull', h'.trans (by rw [h])⟩
/-- Receives cancelled (17 R365): what the partition has posted and matched, and the lines that become full. -/
theorem State.cancelRecvs_eq (s : State) (rec_ : Dword) : ∃ posted matched notFull, s.cancelRecvs rec_ = { s with
    part := { s.part with posted := posted, matched := matched }, core := { s.core with notFull := notFull } } := by
  obtain ⟨posted, notFull, h⟩ := State.withdrawAll_eq (s.part.posted.filter fun r => va56 r.strand = va56 rec_) s
  exact ⟨posted, s.part.matched.filter fun x => !decide (va56 x.2 = va56 rec_), notFull, by rw [State.cancelRecvs, h]; rfl⟩

theorem State.dropPitch_eq (s : State) (id : Nat) : ∃ pitches banks, s.dropPitch id = { s with
    core := { s.core with pitches := pitches, banks := banks } } := by
  rw [State.dropPitch]
  split
  · exact ⟨s.core.pitches, s.core.banks, rfl⟩
  · exact ⟨_, _, rfl⟩

theorem State.taskEnd_zero (s : State) : s.taskEnd 0 = s := rfl

/-- The end of a member whose party is of no job, or has others: the parties change alone. -/
theorem State.partyEnd_eq {s : State} {id : Nat} (hjob : ∀ p ∈ s.part.parties, p.id = id → 1 < p.left ∨ p.job = 0) :
    ∃ parties, s.partyEnd id = s.setPart { s.part with parties := parties } ∧
      ∀ p ∈ s.part.parties, p.id = id → (∀ q ∈ s.part.parties, q.id = p.id → q = p) →
        (1 < p.left → { p with left := p.left - 1 } ∈ parties) ∧ (p.left ≤ 1 → ∀ q ∈ parties, q.id ≠ p.id) := by
  rw [State.partyEnd]
  cases hfind : s.part.parties.find? fun p => p.id = id with
  | none =>
    refine ⟨s.part.parties, rfl, fun p hp hid => ?_⟩
    exact absurd hid (by simpa using List.find?_eq_none.mp hfind p hp)
  | some m =>
    have hmid : m.id = id := by simpa using List.find?_some hfind
    have hm := List.mem_of_find?_eq_some hfind
    dsimp only
    split
    · next hleft =>
      have h0 : m.job = 0 := (hjob m hm hmid).resolve_left (by omega)
      refine ⟨_, by rw [h0, State.taskEnd_zero], fun p hp hid huniq => ⟨fun hlt => ?_, fun _ q hq => ?_⟩⟩
      · have hmp := huniq m hm (hmid.trans hid.symm)
        subst hmp
        omega
      · rw [hid]
        simpa using (List.mem_filter.mp hq).2
    · next hleft =>
      refine ⟨_, rfl, fun p hp hid huniq => ⟨fun hlt => ?_, fun hle => ?_⟩⟩
      · exact List.mem_map.mpr ⟨p, hp, if_pos hid⟩
      · have hmp := huniq m hm (hmid.trans hid.symm)
        subst hmp
        exact absurd hle hleft

/-- A strand whose record says that it has halted leaves its core and its party. -/
def State.haltEnd (s : State) : State :=
  (((s.setCore { s.core with watch := s.core.watch.filter fun w => !decide (va56 w.strand = va56 s.x.brec) }).dropPitch
    s.x.pitch).giveUp .empty).partyEnd s.x.party
theorem State.haltStrand_eq (s : State) :
    s.haltStrand = (((s.abandon s.x.brec).cancelRecvs s.x.brec).recState s.x.brec 3).haltEnd := by
  rw [State.haltStrand]
  generalize ((s.abandon s.x.brec).cancelRecvs s.x.brec).recState s.x.brec 3 = t
  rfl

theorem State.haltEnd_spec {s : State} (hjob : ∀ p ∈ s.part.parties, p.id = s.x.party → 1 < p.left ∨ p.job = 0) :
    s.haltEnd.pkg = s.pkg ∧ s.haltEnd.keyId = s.keyId ∧ (s.haltEnd.ctx s.xn).status = .empty ∧
    s.haltEnd.core.watch = s.core.watch.filter (fun w => !decide (va56 w.strand = va56 s.x.brec)) ∧
    ∀ p ∈ s.part.parties, p.id = s.x.party → (∀ q ∈ s.part.parties, q.id = p.id → q = p) →
      (1 < p.left → { p with left := p.left - 1 } ∈ s.haltEnd.part.parties) ∧
      (p.left ≤ 1 → ∀ q ∈ s.haltEnd.part.parties, q.id ≠ p.id) := by
  rw [State.haltEnd]
  generalize hu : s.setCore { s.core with watch := s.core.watch.filter fun w => !decide (va56 w.strand = va56 s.x.brec) } = u
  obtain ⟨pitches, banks, hdrop⟩ := u.dropPitch_eq s.x.pitch
  generalize u.dropPitch s.x.pitch = v at hdrop ⊢
  have hgiven := v.ctx_giveUp .empty
  obtain ⟨hpkg, hpart, hwatch⟩ := v.giveUp_keeps .empty
  have hkey := v.giveUp_keyId .empty
  generalize v.giveUp .empty = w at hgiven hpkg hpart hwatch hkey ⊢
  have hvpart : v.part = s.part := by rw [hdrop, ← hu]; rfl
  rw [hvpart] at hpart
  obtain ⟨parties, hend, hparties⟩ := State.partyEnd_eq (s := w) (id := s.x.party) (by rwa [hpart])
  rw [hpart] at hparties
  rw [hend]
  refine ⟨?_, ?_, ?_, ?_, hparties⟩
  · show w.pkg = s.pkg
    rw [hpkg, hdrop, ← hu]
    rfl
  · show w.keyId = s.keyId
    rw [State.keyId, hpart]
    rfl
  · have hxn : v.xn = s.xn := by rw [hdrop, ← hu]; rfl
    rw [hxn] at hgiven
    exact hgiven.status_eq (by simp) (by simp)
  · show w.core.watch = _
    rw [hwatch, hdrop, ← hu]
    rfl

/-- The halt of a strand whose record nobody watches (05 R114). -/
theorem State.haltStrand_spec {s : State} {pa : Nat} (h : s.Mapped (va56 s.x.brec) 64 pa) (hk : s.keyId ≠ 0)
    (hwatch : ∀ w ∈ s.core.watch, w.onLines (pa + 11) 1 = false) (hbuilds : s.part.builds = [])
    (hjob : ∀ p ∈ s.part.parties, p.id = s.x.party → 1 < p.left ∨ p.job = 0) :
    recordOf (s.haltStrand.pkg.reads s.haltStrand.keyId pa 64) = { recordOf (s.pkg.reads s.keyId pa 64) with state := 3 } ∧
    (s.haltStrand.ctx s.xn).status = .empty ∧
    s.haltStrand.core.watch = s.core.watch.filter (fun w => !decide (va56 w.strand = va56 s.x.brec)) ∧
    ∀ p ∈ s.part.parties, p.id = s.x.party → (∀ q ∈ s.part.parties, q.id = p.id → q = p) →
      (1 < p.left → { p with left := p.left - 1 } ∈ s.haltStrand.part.parties) ∧
      (p.left ≤ 1 → ∀ q ∈ s.haltStrand.part.parties, q.id ≠ p.id) := by
  obtain ⟨posted, matched, notFull, hcancel⟩ := s.cancelRecvs_eq s.x.brec
  have hmapped : (s.cancelRecvs s.x.brec).Mapped (va56 s.x.brec) 64 pa := by
    rw [hcancel]
    exact h
  have hstate := State.recState_eq hmapped (by rwa [hcancel]) 3
  rw [State.haltStrand_eq, State.abandon_of_noBuilds hbuilds]
  generalize (s.cancelRecvs s.x.brec).recState s.x.brec 3 = v at hstate ⊢
  rw [hcancel] at hstate
  have hx : v.x = s.x := by rw [hstate]; rfl
  have hxn : v.xn = s.xn := by rw [hstate]; rfl
  have hparties : v.part.parties = s.part.parties := by rw [hstate]; rfl
  have hwatch : v.core.watch = s.core.watch := by rw [hstate]; rfl
  have hkey : v.keyId = s.keyId := by rw [hstate]; rfl
  have hpkg : v.pkg = s.pkg.writes s.keyId (pa + 11) [BitVec.ofNat 8 ((s.pkg.read s.keyId (pa + 11)).toNat / 4 * 4 + 3)] := by
    rw [hstate]; rfl
  obtain ⟨hpkg', hkey', hstatus, hwatch', hparties'⟩ := v.haltEnd_spec (by rwa [hparties, hx])
  rw [hpkg', hkey', hpkg, hkey, recordOf_halted hk]
  rw [hxn] at hstatus
  rw [hwatch, hx] at hwatch'
  rw [hparties, hx] at hparties'
  exact ⟨rfl, hstatus, hwatch', hparties'⟩

theorem Watch.not_onLines {w : Watch} {a : Nat} (h : w.barrier = false → w.pad = false → w.addr / 128 ≠ a / 128) :
    w.onLines a 1 = false := by
  rw [Watch.onLines, Bool.eq_false_iff]
  intro hon
  simp only [Bool.and_eq_true, Bool.not_eq_true', decide_eq_true_eq, Nat.add_sub_cancel] at hon
  obtain ⟨⟨⟨hbarrier, hpad⟩, hlo⟩, hhi⟩ := hon
  have hne := h hbarrier hpad
  omega

/-! ## The statement -/

theorem State.giveUpBy_park (s : State) (k : Nat) : s.giveUpBy (.park k) = s.parkStrand k := rfl
theorem State.giveUpBy_halt (s : State) : s.giveUpBy .halt = s.haltStrand := rfl

section park
variable {s : State} {k pa : Nat} (h : s.Mapped (va56 s.x.brec) 64 pa) (hnone : s.NoneWaiting) (hk : s.keyId ≠ 0)
  (hstart : ∀ e ∈ s.part.starts, va56 e.rec_ ≠ va56 s.x.brec)
include h hnone hk hstart

theorem State.park_outside {a : Nat} (ha : a < pa ∨ pa + 64 ≤ a) :
    (s.landAll.giveUpBy (.park k)).pkg.read (s.landAll.giveUpBy (.park k)).keyId a = s.pkg.read s.keyId a := by
  obtain ⟨-, hpkg, -⟩ := s.landAll_keeps
  obtain ⟨hnone', h', hstart', hkey⟩ := s.parks_landed h hnone hstart
  have hout := State.parkStrand_outside (k := k) hnone' h' hstart' (hkey.symm ▸ hk) ha
  rwa [hpkg, hkey] at hout

theorem State.park_record (hw : (recordOf (s.pkg.reads s.keyId pa 64)).w = false) :
    let t := s.landAll.giveUpBy (.park k)
    recordOf (t.pkg.reads t.keyId pa 64) = { recordOf (s.pkg.reads s.keyId pa 64) with
      pc := codeAddr (s.resumePc s.x).toNat, run := k % 2 ^ 16, regs := (List.range 5).map fun i => s.landAll.x.sreg (i + 1),
      state := 2 } ∧
    (s.x.psize = 0 → (t.ctx s.xn).status = .empty ∧ ∃ e ∈ t.part.parked,
      e.addr = s.x.brec ∧ e.sp = s.x.sp ∧ e.rtile = s.x.rtile ∧ e.party = s.x.party ∧ e.ef = s.x.ef) ∧
    (s.x.psize ≠ 0 → (t.ctx s.xn).status = .reserved) := by
  obtain ⟨hxn, hpkg, -⟩ := s.landAll_keeps
  obtain ⟨hbrec, hpsize, hsp, hrtile, hparty, hef, -⟩ := s.landAll_x_keeps
  obtain ⟨hnone', h', hstart', hkey⟩ := s.parks_landed h hnone hstart
  have hk' : s.landAll.keyId ≠ 0 := by rw [hkey]; exact hk
  have hw' : (recordOf (s.landAll.pkg.reads s.landAll.keyId pa 64)).w = false := by rw [hpkg, hkey]; exact hw
  have hpark := State.parkStrand_record (k := k) hnone' h' hstart' hk' hw'
  rw [hpkg, hkey, hxn, hpsize, hbrec, hsp, hrtile, hparty, hef, s.resumePc_landAll] at hpark
  rw [State.giveUpBy_park]
  exact hpark

theorem State.park_yields (hw : (recordOf (s.pkg.reads s.keyId pa 64)).w = true) :
    let t := s.landAll.giveUpBy (.park k)
    recordOf (t.pkg.reads t.keyId pa 64) = { recordOf (s.pkg.reads s.keyId pa 64) with w := false } ∧
    ((t.ctx s.xn).status = .ready ∨ (t.ctx s.xn).status = .running) ∧ (t.ctx s.xn).run = k ∧ (t.ctx s.xn).pc = s.x.pc := by
  obtain ⟨hxn, hpkg, -⟩ := s.landAll_keeps
  obtain ⟨-, -, -, -, -, -, hpc⟩ := s.landAll_x_keeps
  obtain ⟨hnone', h', hstart', hkey⟩ := s.parks_landed h hnone hstart
  have hk' : s.landAll.keyId ≠ 0 := by rw [hkey]; exact hk
  have hw' : (recordOf (s.landAll.pkg.reads s.landAll.keyId pa 64)).w = true := by rw [hpkg, hkey]; exact hw
  have hpark := State.parkStrand_yields (k := k) hnone' h' hstart' hk' hw'
  rw [hpkg, hkey, hxn, hpc] at hpark
  rw [State.giveUpBy_park]
  exact hpark

end park

theorem State.resumePc_cases (s : State) (c : Ctx) :
    let word (a : Addr) : Option Word := (s.core.codeIdx a).map s.core.codeWord
    let line : Addr := BitVec.ofNat 56 (c.pc.toNat / 64 * 64 + 64)
    (word c.pc ≠ some 0 → s.resumePc c = c.pc) ∧ (word c.pc = some 0 → word line ≠ some 0 → s.resumePc c = line) := by
  refine ⟨fun hword => CoreSt.seqAddr_stop hword _, fun hword hline => ?_⟩
  rw [State.resumePc, CoreSt.seqAddr_padding hword, nextLine_eq]
  exact CoreSt.seqAddr_stop hline _

theorem State.halt_landed (s : State) {pa : Nat} (h : s.Mapped (va56 s.x.brec) 64 pa) (hk : s.keyId ≠ 0)
    (hwatch : ∀ w ∈ s.core.watch, w.barrier = false → w.pad = false → w.addr / 128 ≠ (pa + 11) / 128)
    (hbuilds : s.part.builds = []) (hjob : ∀ p ∈ s.part.parties, p.id = s.x.party → 1 < p.left ∨ p.job = 0) :
    let t := s.landAll.giveUpBy .halt
    recordOf (t.pkg.reads t.keyId pa 64) = { recordOf (s.pkg.reads s.keyId pa 64) with state := 3 } ∧
    (t.ctx s.xn).status = .empty ∧ t.core.watch = s.core.watch.filter (fun w => !decide (va56 w.strand = va56 s.x.brec)) ∧
    ∀ p ∈ s.part.parties, p.id = s.x.party → (∀ q ∈ s.part.parties, q.id = p.id → q = p) →
      (1 < p.left → { p with left := p.left - 1 } ∈ t.part.parties) ∧ (p.left ≤ 1 → ∀ q ∈ t.part.parties, q.id ≠ p.id) := by
  obtain ⟨hxn, hpkg, hpart, hutlb, hwatch'⟩ := s.landAll_keeps
  obtain ⟨hbrec, -, -, -, hparty, -⟩ := s.landAll_x_keeps
  have hkey : s.landAll.keyId = s.keyId := by rw [State.keyId, hpart]; rfl
  have hk' : s.landAll.keyId ≠ 0 := by rw [hkey]; exact hk
  have h' : s.landAll.Mapped (va56 s.landAll.x.brec) 64 pa := by rw [hbrec]; exact h.congr hpkg hpart hutlb
  have hlines : ∀ w ∈ s.landAll.core.watch, w.onLines (pa + 11) 1 = false := by
    rw [hwatch']
    exact fun w hw => Watch.not_onLines (hwatch w hw)
  have hbuilds' : s.landAll.part.builds = [] := by rw [hpart]; exact hbuilds
  have hjob' : ∀ p ∈ s.landAll.part.parties, p.id = s.landAll.x.party → 1 < p.left ∨ p.job = 0 := by
    rw [hpart, hparty]
    exact hjob
  have hhalt := State.haltStrand_spec h' hk' hlines hbuilds' hjob'
  rw [hpkg, hkey, hxn, hpart, hwatch', hbrec, hparty] at hhalt
  rw [State.giveUpBy_halt]
  exact hhalt

theorem exec_halt_cases (f : SR) (s : State) :
    let go := s.x.preg f.p.toNat
    let mine (c : Cmd) : Prop := c.strand.toNat % 2 ^ 56 = s.x.brec.toNat % 2 ^ 56
    ((∀ c ∈ s.core.cmds, ¬ mine c) → s.x.ef = none →
      exec (.halt f) s = .next (if go then s.withSuspend .halt else s)) ∧
    ((∃ c ∈ s.core.cmds, mine c) → s.x.ef = none → exec (.halt f) s = .next (if go then s.withWait 6 else s)) ∧
    (∀ e, s.x.ef = some e → exec (.halt f) s = .next (if go then s.withCause 8 0x82
      (BitVec.ofNat 64 (e.info.toNat % 2 ^ 40 + min e.more 255 * 2 ^ 40 + e.cause.toNat * 2 ^ 56)) else s)) := by
  refine ⟨fun hno hef => ?_, fun hmine hef => ?_, fun e hef => ?_⟩
  · have hbusy : ¬ s.busy = true := by
      rw [State.busy_iff]
      exact fun ⟨c, hc, hm⟩ => hno c hc hm
    rw [exec_halt_eq, State.faultFirst_none hef, if_neg hbusy]
  · rw [exec_halt_eq, State.faultFirst_none hef, if_pos ((State.busy_iff s).mpr hmine)]
  · rw [exec_halt_eq, State.faultFirst_some hef, EngineFault.tinfo_eq]

/-- Settles O4: each instruction is an equation of its frame; a yield and a wait go through the landings and the arbiter, a park and
a halt through the bytes of the record as well. -/
theorem strandInstructions : Obligations.StrandInstructions := by
  unfold Obligations.StrandInstructions
  refine ⟨⟨fun f s => ?scalar, fun f s => ⟨exec_yield_eq f s, exec_trap_eq f s⟩⟩, fun s k t => ?gives,
    fun s k pa h hnone hk _ hstart => ?park, fun s c => ?resume, fun s pa h hk _ hwatch hbuilds hjob => ?halt⟩
  case scalar =>
    obtain ⟨hfree, hbusy, hfault⟩ := exec_halt_cases f s
    refine ⟨exec_nop f s, scalarResult_of_landS (exec_gtc f s), fun hno => ?_, fun hsome => ?_, exec_wait_eq f s, exec_park_eq f s,
      hfree, hbusy, hfault, exec_tret_eq f s⟩
    · have hno : ¬ s.core.cmds.any Cmd.writesStore = true := by
        rw [List.any_eq_true]
        exact fun ⟨c, hc, hw⟩ => Bool.false_ne_true ((hno c hc).symm.trans hw)
      rw [exec_ifence_eq, if_neg hno, ite_self]
    · rw [exec_ifence_eq, if_pos (List.any_eq_true.mpr hsome)]
  case gives =>
    obtain ⟨hyleft, hyregs, hystatus⟩ := s.ctx_yield k
    obtain ⟨hwleft, hwregs, hwready, hwwaits⟩ := s.ctx_wait k t
    have hleft : ∀ c, s.x.Left c k → c.s = s.landAll.x.s → c.run = k ∧ c.flight = [] ∧ c.holds = [] ∧ c.latchOk = 0 ∧
        c.unseen = [] ∧ c.tbuf = [] ∧ c.pc = s.x.pc ∧ c.pend = s.x.pend ∧ c.s = s.landAll.x.s ∧ c.levels = s.x.levels ∧
        c.depth = s.x.depth := fun c h hs =>
      ⟨h.run, h.flight, h.holds, h.latchOk, h.unseen, h.tbuf, h.pc, h.pend, hs, h.levels, h.depth⟩
    refine ⟨hystatus, hwready, hwwaits, fun c hc => ?_⟩
    rcases hc with hc | hc <;> rw [hc]
    · exact hleft _ hyleft hyregs
    · exact hleft _ hwleft hwregs
  case park =>
    refine ⟨fun a ha => State.park_outside h hnone hk hstart ha, fun hw => ?_, fun hw => State.park_yields h hnone hk hstart hw⟩
    obtain ⟨hrecord, halone, hmember⟩ := State.park_record (k := k) h hnone hk hstart hw
    rw [hrecord]
    exact ⟨rfl, rfl, rfl, hw, rfl, rfl, rfl, rfl, rfl, rfl, halone, hmember⟩
  case resume => exact s.resumePc_cases c
  case halt =>
    have hfilter : (fun w : Watch => decide (va56 w.strand ≠ va56 s.x.brec)) = fun w => !decide (va56 w.strand = va56 s.x.brec) :=
      funext fun w => decide_not
    rw [hfilter]
    exact s.halt_landed h hk hwatch hbuilds hjob

end Sys2Proof.Machine
end

section
/-! O45 (04 R98, 05 R108, R121, R122, R124): wake writes, remaps and the placing of queued records. -/

namespace Sys2Proof.Machine

/-! ## The state of a queue (05 R121) -/

@[simp] theorem State.queue_setQueue (s : State) (q : Nat) (v : QueueSt) (j : Nat) :
    (s.setQueue q v).part.queue j = if j = q then v else s.part.queue j := Map.get_set ..

theorem State.logOpen_log (s : State) (src : Nat) (pc : Dword) : ∃ e, (s.logOpen src pc).pkg.log = s.pkg.log ++ [e] := ⟨_, rfl⟩

section wake
variable {s : State} {q n : Nat} {d : QueueSetup} (hd : s.part.desc q = some d) (hn : 0 < n)
include hd hn

/-- A wake write within the ring (05 R121). -/
theorem State.wakeQueue_fits (h : (s.part.queue q).len + n ≤ 2 ^ d.log2) :
    s.wakeQueue q n = s.setQueue q { s.part.queue q with len := (s.part.queue q).len + n } := by
  rw [State.wakeQueue, hd]
  dsimp only
  rw [if_neg (Nat.ne_of_gt hn), if_neg (Nat.not_lt.mpr h)]

/-- A wake write beyond the ring is discarded and logged (05 R121). -/
theorem State.wakeQueue_overflows (h : 2 ^ d.log2 < (s.part.queue q).len + n) :
    s.wakeQueue q n = s.logOpen (s.dispatcher 0) 0 := by
  rw [State.wakeQueue, hd]
  dsimp only
  rw [if_neg (Nat.ne_of_gt hn), if_pos h]

end wake

/-! ## The order of a remap (05 R122) -/

theorem queueBefore_iff (a b : Nat × Nat × Nat) : queueBefore a b = true ↔
    b.2.1 < a.2.1 ∨ (a.2.1 = b.2.1 ∧ (b.2.2 < a.2.2 ∨ (a.2.2 = b.2.2 ∧ a.1 < b.1))) := by
  unfold queueBefore
  split
  · simp only [decide_eq_true_eq]; omega
  split
  · simp only [decide_eq_true_eq]; omega
  · simp only [decide_eq_true_eq]; omega

theorem queueBefore_trans {a b c : Nat × Nat × Nat} (hab : queueBefore a b = true) (hbc : queueBefore b c = true) :
    queueBefore a c = true := by
  rw [queueBefore_iff] at *
  omega

/-- Of two queues one precedes the other. -/
theorem queueBefore_of_not {a b : Nat × Nat × Nat} (hne : a.1 ≠ b.1) (h : ¬ queueBefore a b = true) : queueBefore b a = true := by
  rw [queueBefore_iff] at *
  omega

theorem insertQueue_perm (x : Nat × Nat × Nat) (l : List (Nat × Nat × Nat)) : (insertQueue x l).Perm (x :: l) := by
  induction l with
  | nil => exact .refl _
  | cons y l ih =>
    rw [insertQueue]
    split
    · exact .refl _
    · exact (ih.cons y).trans (.swap x y l)

/-- A queue put into its place keeps the order. -/
theorem pairwise_insertQueue {x : Nat × Nat × Nat} {l : List (Nat × Nat × Nat)} (hx : ∀ y ∈ l, x.1 ≠ y.1)
    (hl : l.Pairwise fun a b => queueBefore a b = true) : (insertQueue x l).Pairwise fun a b => queueBefore a b = true := by
  induction l with
  | nil => exact List.pairwise_singleton _ _
  | cons y l ih =>
    obtain ⟨hy, hl⟩ := List.pairwise_cons.mp hl
    rw [insertQueue]
    split
    · next hxy =>
      exact List.pairwise_cons.mpr ⟨List.forall_mem_cons.mpr ⟨hxy, fun z hz => queueBefore_trans hxy (hy z hz)⟩,
        List.pairwise_cons.mpr ⟨hy, hl⟩⟩
    · next hxy =>
      refine List.pairwise_cons.mpr ⟨fun z hz => ?_, ih (fun z hz => hx z (List.mem_cons_of_mem _ hz)) hl⟩
      rcases List.mem_cons.mp ((insertQueue_perm x l).mem_iff.mp hz) with rfl | hz
      · exact queueBefore_of_not (hx y List.mem_cons_self) hxy
      · exact hy z hz

theorem foldl_insertQueue_perm (l acc : List (Nat × Nat × Nat)) : (l.foldl (fun l x => insertQueue x l) acc).Perm (l ++ acc) := by
  induction l generalizing acc with
  | nil => exact .refl _
  | cons x l ih => exact (ih _).trans (((insertQueue_perm x acc).append_left l).trans List.perm_middle)

/-- Queues of different numbers put into their places one after the other stand in order. -/
theorem pairwise_foldl_insertQueue {l acc : List (Nat × Nat × Nat)} (hnd : ((l ++ acc).map (·.1)).Nodup)
    (hacc : acc.Pairwise fun a b => queueBefore a b = true) :
    (l.foldl (fun l x => insertQueue x l) acc).Pairwise fun a b => queueBefore a b = true := by
  induction l generalizing acc with
  | nil => exact hacc
  | cons x l ih =>
    refine ih ?_ (pairwise_insertQueue (fun y hy => ?_) hacc)
    · exact ((((insertQueue_perm x acc).append_left l).trans List.perm_middle).map _).nodup_iff.mpr hnd
    · rw [List.cons_append, List.map_cons, List.nodup_cons] at hnd
      exact fun heq => hnd.1 (List.mem_map.mpr ⟨y, List.mem_append_right _ hy, heq.symm⟩)

/-- The queues with work, each with its rank and the remaps since it was mapped. -/
def State.queueKeys (s : State) : List (Nat × Nat × Nat) :=
  (s.part.setup.queues.filter fun d => decide (0 < (s.part.queue d.q).len)).map fun d => (d.q, s.queueRank d, (s.part.queue d.q).idle)
/-- The queues with work in the order of R122, with what orders them. -/
def State.queueSorted (s : State) : List (Nat × Nat × Nat) := s.queueKeys.foldl (fun l x => insertQueue x l) []
theorem State.queueOrder_eq (s : State) : s.queueOrder = s.queueSorted.map (·.1) := rfl

theorem State.mem_queueKeys {s : State} {k : Nat × Nat × Nat} : k ∈ s.queueKeys ↔
    ∃ d ∈ s.part.setup.queues, 0 < (s.part.queue d.q).len ∧ (d.q, s.queueRank d, (s.part.queue d.q).idle) = k := by
  simp only [State.queueKeys, List.mem_map, List.mem_filter, decide_eq_true_eq, and_assoc]
theorem State.queueSorted_perm (s : State) : s.queueSorted.Perm s.queueKeys := by
  have h := foldl_insertQueue_perm s.queueKeys []
  rwa [List.append_nil] at h

/-- A queue stands in the order of a remap when it has work. -/
theorem State.mem_queueOrder {s : State} {q : Nat} :
    q ∈ s.queueOrder ↔ ∃ d ∈ s.part.setup.queues, d.q = q ∧ 0 < (s.part.queue q).len := by
  rw [State.queueOrder_eq, List.mem_map]
  simp only [s.queueSorted_perm.mem_iff, State.mem_queueKeys]
  constructor
  · rintro ⟨_, ⟨d, hd, hlen, rfl⟩, rfl⟩
    exact ⟨d, hd, rfl, hlen⟩
  · rintro ⟨d, hd, rfl, hlen⟩
    exact ⟨_, ⟨d, hd, hlen, rfl⟩, rfl⟩

section nodup
variable {s : State} (hnd : (s.part.setup.queues.map (·.q)).Nodup)
include hnd

theorem State.nodup_queueKeys : (s.queueKeys.map (·.1)).Nodup := by
  rw [State.queueKeys, List.map_map]
  exact hnd.sublist (List.filter_sublist.map _)
theorem State.nodup_queueOrder : s.queueOrder.Nodup := (s.queueSorted_perm.map _).nodup_iff.mpr (State.nodup_queueKeys hnd)
theorem State.pairwise_queueSorted : s.queueSorted.Pairwise fun a b => queueBefore a b = true :=
  pairwise_foldl_insertQueue (by rw [List.append_nil]; exact State.nodup_queueKeys hnd) .nil

/-- The descriptor of a queue is the one with its number. -/
theorem State.desc_of_mem {d : QueueSetup} (hd : d ∈ s.part.setup.queues) : s.part.desc d.q = some d := by
  rw [Part.desc]
  cases hfind : s.part.setup.queues.find? fun e => e.q = d.q with
  | none => exact absurd (List.find?_eq_none.mp hfind d hd) (by simp)
  | some e =>
    have hq : e.q = d.q := by simpa using List.find?_some hfind
    exact congrArg some (List.inj_on_of_nodup_map hnd (List.mem_of_find?_eq_some hfind) hd hq)

end nodup

/-- The effective rank of a queue by its number: that of its head record and the age bonus (05 R122). -/
def State.rankOf (s : State) (q : Nat) : Nat := match s.part.desc q with
  | some d => (recordOf (s.recBytes (d.base + 64 * ((s.part.queue q).head % 2 ^ d.log2)))).rank + (s.part.queue q).bonus
  | none => 0

theorem State.key_eq_of_mem {s : State} (hnd : (s.part.setup.queues.map (·.q)).Nodup) {k : Nat × Nat × Nat} (hk : k ∈ s.queueSorted) :
    k = (k.1, s.rankOf k.1, (s.part.queue k.1).idle) := by
  obtain ⟨d, hd, -, rfl⟩ := State.mem_queueKeys.mp (s.queueSorted_perm.mem_iff.mp hk)
  rw [State.rankOf, State.desc_of_mem hnd hd]
  rfl

/-- The order of a remap is by rank, then by the remaps unmapped, then by number (05 R122). -/
theorem State.pairwise_queueOrder {s : State} (hnd : (s.part.setup.queues.map (·.q)).Nodup) : s.queueOrder.Pairwise fun p q =>
    s.rankOf q < s.rankOf p ∨ (s.rankOf p = s.rankOf q ∧ ((s.part.queue q).idle < (s.part.queue p).idle ∨
      ((s.part.queue p).idle = (s.part.queue q).idle ∧ p < q))) := by
  rw [State.queueOrder_eq, List.pairwise_map]
  refine (State.pairwise_queueSorted hnd).imp_of_mem fun {a b} ha hb hab => ?_
  rw [queueBefore_iff, State.key_eq_of_mem hnd ha, State.key_eq_of_mem hnd hb] at hab
  exact hab

/-! ## A remap (05 R122) -/

/-- A queue that gets a slot. -/
def QueueSt.mapped (v : QueueSt) : QueueSt := { v with bonus := 0, idle := 0 }
/-- A queue that gets none: one with work grows older. -/
def QueueSt.unmapped (v : QueueSt) : QueueSt :=
  { v with bonus := if 0 < v.len then min 15 (v.bonus + 1) else v.bonus, idle := v.idle + 1 }
/-- The state of each queue of a list replaced by a function of it. -/
def State.mapQueues (f : QueueSt → QueueSt) (s : State) (l : List Nat) : State :=
  l.foldl (fun s q => s.setQueue q (f (s.part.queue q))) s

theorem State.queue_mapQueues (f : QueueSt → QueueSt) (s : State) {l : List Nat} (hl : l.Nodup) (j : Nat) :
    (s.mapQueues f l).part.queue j = if j ∈ l then f (s.part.queue j) else s.part.queue j := by
  induction l generalizing s with
  | nil => rfl
  | cons q l ih =>
    obtain ⟨hq, hl⟩ := List.nodup_cons.mp hl
    rw [State.mapQueues, List.foldl_cons, ← State.mapQueues, ih _ hl, State.queue_setQueue]
    by_cases hj : j = q
    · subst hj
      rw [if_neg hq, if_pos rfl, if_pos List.mem_cons_self]
    · simp only [hj, if_false, List.mem_cons, false_or]
theorem State.mapQueues_die (f : QueueSt → QueueSt) (s : State) (l : List Nat) : (s.mapQueues f l).die = s.die := by
  induction l generalizing s with
  | nil => rfl
  | cons q l ih => exact ih (s.setQueue q (f (s.part.queue q)))

/-- The queues that a remap gives no slot. -/
def State.unslotted (s : State) : List Nat :=
  (s.part.setup.queues.filter fun d => !(s.queueOrder.take 64).contains d.q).map (·.q)
/-- A remap at or after the end of the die slice. -/
def State.remapped (s : State) : State :=
  let t := s.setDie { s.die with
    qslots := (List.range (s.queueOrder.take 64).length).zip (s.queueOrder.take 64), dnext := s.die.dnext + s.die.dslice }
  (t.mapQueues QueueSt.mapped (s.queueOrder.take 64)).mapQueues QueueSt.unmapped s.unslotted

theorem State.mapQueues_setup (f : QueueSt → QueueSt) (s : State) (l : List Nat) : (s.mapQueues f l).part.setup = s.part.setup := by
  induction l generalizing s with
  | nil => rfl
  | cons q l ih => exact ih (s.setQueue q (f (s.part.queue q)))

theorem exec_dieSliceRemap_early {s : State} (h : s.gtc.toNat < s.die.dnext.toNat) : exec .dieSliceRemap s = .next s := if_pos h
theorem exec_dieSliceRemap_due {s : State} (h : s.die.dnext.toNat ≤ s.gtc.toNat) : exec .dieSliceRemap s = .next s.remapped := by
  have hfold (t : State) (l : List QueueSetup) : l.foldl (fun s d => s.setQueue d.q (s.part.queue d.q).unmapped) t =
      t.mapQueues QueueSt.unmapped (l.map (·.q)) := by rw [State.mapQueues, List.foldl_map]
  rw [State.remapped, State.unslotted, ← hfold]
  generalize ht : s.setDie _ = t
  have hsetup : (t.mapQueues QueueSt.mapped (s.queueOrder.take 64)).part.setup = s.part.setup := by
    rw [State.mapQueues_setup, ← ht]
    rfl
  rw [← hsetup, ← ht]
  exact if_neg (Nat.not_lt.mpr h)

theorem State.mem_unslotted {s : State} {q : Nat} :
    q ∈ s.unslotted ↔ q ∉ s.queueOrder.take 64 ∧ q ∈ s.part.setup.queues.map (·.q) := by
  simp only [State.unslotted, List.mem_map, List.mem_filter, Bool.not_eq_true', List.contains_eq_mem, decide_eq_false_iff_not]
  grind

/-- What a remap leaves of a queue. -/
theorem State.queue_remapped {s : State} (hnd : (s.part.setup.queues.map (·.q)).Nodup) (q : Nat) : s.remapped.part.queue q =
    if q ∈ s.queueOrder.take 64 then (s.part.queue q).mapped
    else if q ∈ s.part.setup.queues.map (·.q) then (s.part.queue q).unmapped else s.part.queue q := by
  have htop : (s.queueOrder.take 64).Nodup := (State.nodup_queueOrder hnd).sublist (List.take_sublist _ _)
  have hrest : s.unslotted.Nodup := hnd.sublist (List.filter_sublist.map _)
  rw [State.remapped, State.queue_mapQueues _ _ hrest, State.queue_mapQueues _ _ htop, State.setDie_part]
  by_cases hq : q ∈ s.queueOrder.take 64
  · simp only [State.mem_unslotted, hq, not_true_eq_false, false_and, if_false, if_true]
  · simp only [State.mem_unslotted, hq, not_false_eq_true, true_and, if_false]

theorem State.remapped_die (s : State) : s.remapped.die = { s.die with
    qslots := (List.range (s.queueOrder.take 64).length).zip (s.queueOrder.take 64), dnext := s.die.dnext + s.die.dslice } := by
  rw [State.remapped, State.mapQueues_die, State.mapQueues_die]
  rfl

/-! ## Placing the head of a queue (05 R108, R124, 04 R98) -/

/-- The head of a queue is gone from it. -/
def State.popQueue (s : State) (q : Nat) (v : QueueSt) : State := s.setQueue q { v with head := v.head + 1, len := v.len - 1 }

/-- A record that can be read has an address that translates. -/
theorem State.devTry_of_recBytes {s : State} {va : Nat} (h : s.recBytes va ≠ []) : ∃ pa, s.devTry va false = .ok pa := by
  rw [State.recBytes, State.devAddr] at h
  cases htry : s.devTry va false with
  | error c => rw [htry] at h; exact absurd rfl h
  | ok pa => exact ⟨pa, rfl⟩

theorem exec_dispatchPlace_some {s t : State} {slot : Nat} (h : s.dispatch slot = some t) : exec (.dispatchPlace slot) s = .next t := by
  rw [exec_dispatchPlace, execDispatchPlace, h]
  rfl
theorem exec_dispatchPlace_none {s : State} {slot : Nat} (h : s.dispatch slot = none) : exec (.dispatchPlace slot) s = .next s := by
  rw [exec_dispatchPlace, execDispatchPlace, h]
  rfl

section dispatch
variable {s : State} {slot q : Nat} {d : QueueSetup} (hslot : s.die.qslots.find? (fun x => x.1 = slot) = some (slot, q))
  (hd : s.part.desc q = some d) (hlen : (s.part.queue q).len ≠ 0)
include hslot hd hlen

/-- An entry that cannot be read is discarded with its cause (log 39). -/
theorem State.dispatch_unreadable {c : Nat} (h : s.devTry (ringEntry d (s.part.queue q).head) false = .error c) :
    s.dispatch slot = some ((s.logEvent (s.dispatcher slot) c (BitVec.ofNat 64 (ringEntry d (s.part.queue q).head)) 0).popQueue q
      (s.part.queue q)) := by
  simp only [State.dispatch, hslot, hd, hlen, if_false, h]
  rfl

variable (hbytes : s.recBytes (ringEntry d (s.part.queue q).head) ≠ [])
include hbytes

/-- An invalid record is discarded (05 R108). -/
theorem State.dispatch_invalid (hok : s.recordOk (recordOf (s.recBytes (ringEntry d (s.part.queue q).head))) = false) :
    s.dispatch slot = some ((s.discard (s.dispatcher slot) (BitVec.ofNat 64 (ringEntry d (s.part.queue q).head)) 0).popQueue q
      (s.part.queue q)) := by
  obtain ⟨pa, htry⟩ := State.devTry_of_recBytes hbytes
  simp only [State.dispatch, hslot, hd, hlen, if_false, htry, hok, Bool.not_false, if_true]
  rfl

variable (hok : s.recordOk (recordOf (s.recBytes (ringEntry d (s.part.queue q).head))) = true)
include hok

/-- A slot whose head does not fit, or whose partition has no image, keeps it (05 R124, 04 R98). -/
theorem State.dispatch_keeps (h : s.part.loaded = false ∨
    s.freeCount < (recordOf (s.recBytes (ringEntry d (s.part.queue q).head))).psize + 1 + s.core.rres) : s.dispatch slot = none := by
  obtain ⟨pa, htry⟩ := State.devTry_of_recBytes hbytes
  have hstays : (!s.part.loaded ||
      decide (s.freeCount < (recordOf (s.recBytes (ringEntry d (s.part.queue q).head))).psize + 1 + s.core.rres)) = true := by
    rcases h with h | h <;> simp [h]
  simp only [State.dispatch, hslot, hd, hlen, if_false, htry, hok, Bool.not_true, Bool.false_eq_true, hstays, if_true]

/-- A slot places the head record of its queue when every member finds its place (05 R124). -/
theorem State.dispatch_places (hloaded : s.part.loaded = true)
    (hroom : (recordOf (s.recBytes (ringEntry d (s.part.queue q).head))).psize + 1 + s.core.rres ≤ s.freeCount) :
    s.dispatch slot = (let bytes := s.recBytes (ringEntry d (s.part.queue q).head)
      let r := recordOf bytes
      (s.newParty r.job (r.psize + 1)).1.placeMembers bytes r d.priv (s.newParty r.job (r.psize + 1)).2 0 (r.psize + 1)).map
        fun t => t.popQueue q (s.part.queue q) := by
  obtain ⟨pa, htry⟩ := State.devTry_of_recBytes hbytes
  have hfits : ¬ s.freeCount < (recordOf (s.recBytes (ringEntry d (s.part.queue q).head))).psize + 1 + s.core.rres := Nat.not_lt.mpr hroom
  simp only [State.dispatch, hslot, hd, hlen, if_false, htry, hok, Bool.not_true, Bool.false_eq_true, hloaded, hfits,
    decide_false, Bool.or_false]
  rfl

end dispatch

/-- A head record that is gone from its queue, with an event record of a cause. -/
def State.HeadGone (s : State) (slot q : Nat) (cause : Byte) : Prop :=
  ∃ t e, exec (.dispatchPlace slot) s = .next t ∧ t.pkg.log = s.pkg.log ++ [e] ∧ e.cause = cause ∧
    t.part.queue q = { s.part.queue q with head := (s.part.queue q).head + 1, len := (s.part.queue q).len - 1 }
theorem State.headGone_of_dispatch {s : State} {slot q c src : Nat} {info pc : Dword}
    (h : s.dispatch slot = some ((s.logEvent src c info pc).popQueue q (s.part.queue q))) : s.HeadGone slot q (BitVec.ofNat 8 c) := by
  refine ⟨_, ⟨s.gtc, BitVec.ofNat 16 src, BitVec.ofNat 8 c, s.part.setup.num, info, pc⟩, exec_dispatchPlace_some h, rfl, rfl, ?_⟩
  rw [State.popQueue, State.queue_setQueue, if_pos rfl]

/-- Settles O45: an insertion in place keeps the queues sorted, a remap is a function of the state of each queue, and what a slot
does with the head record is one case analysis. -/
theorem queuesAndDispatch : Obligations.QueuesAndDispatch := by
  unfold Obligations.QueuesAndDispatch
  refine ⟨fun s q n d hd hn hfit => ?fits, fun s q n d hd hover hn => ?overflows, fun s h => exec_dieSliceRemap_early h,
    fun s h hnd => ?remap, fun s hnd => ?order, fun s slot q d hslot hd hlen => ?dispatch⟩
  case fits =>
    rw [State.wakeQueue_fits hd hn hfit]
    exact ⟨by rw [State.queue_setQueue, if_pos rfl], fun j hj => by rw [State.queue_setQueue, if_neg hj]⟩
  case overflows =>
    rw [State.wakeQueue_overflows hd hn hover]
    obtain ⟨e, hlog⟩ := s.logOpen_log (s.dispatcher 0) 0
    exact ⟨rfl, by rw [hlog, List.length_append, List.length_singleton]⟩
  case remap =>
    have hqueue := State.queue_remapped hnd
    have hparts := List.take_append_drop 64 s.queueOrder
    have hdisjoint : ∀ q ∈ s.queueOrder.drop 64, q ∉ s.queueOrder.take 64 := by
      have h := State.nodup_queueOrder hnd
      rw [← hparts, List.nodup_append'] at h
      exact fun q hq hq' => h.2.2 hq' hq
    refine ⟨_, exec_dieSliceRemap_due h, by rw [State.remapped_die], by rw [State.remapped_die], fun q hq => ?_, fun q hq => ?_,
      fun d hd hlen => ?_, fun q hq => ?_⟩
    · rw [hqueue, if_pos hq]
      rfl
    · obtain ⟨d, hd, rfl, hlen⟩ := State.mem_queueOrder.mp (List.mem_of_mem_drop hq)
      rw [hqueue, if_neg (hdisjoint _ hq), if_pos (List.mem_map_of_mem hd), QueueSt.unmapped, if_pos hlen]
    · have hidle : d.q ∉ s.queueOrder.take 64 := fun hq => by
        obtain ⟨_, -, -, hwork⟩ := State.mem_queueOrder.mp (List.mem_of_mem_take hq)
        omega
      rw [hqueue, if_neg hidle, if_pos (List.mem_map_of_mem hd), QueueSt.unmapped, if_neg (by omega)]
    · have hnone : q ∉ s.queueOrder.take 64 := fun hmem => by
        obtain ⟨d, hd, rfl, -⟩ := State.mem_queueOrder.mp (List.mem_of_mem_take hmem)
        exact hq (List.mem_map_of_mem hd)
      rw [hqueue, if_neg hnone, if_neg hq]
  case order => exact ⟨fun q => State.mem_queueOrder, State.nodup_queueOrder hnd, State.pairwise_queueOrder hnd⟩
  case dispatch =>
    refine ⟨fun c h => State.headGone_of_dispatch (State.dispatch_unreadable hslot hd hlen h),
      fun hbytes hok => State.headGone_of_dispatch (c := 0xA4) (State.dispatch_invalid hslot hd hlen hbytes hok),
      fun hbytes hok h => exec_dispatchPlace_none (State.dispatch_keeps hslot hd hlen hbytes hok h),
      fun u hbytes hok hloaded hroom h => exec_dispatchPlace_some ?_⟩
    exact (State.dispatch_places hslot hd hlen hbytes hok hloaded hroom).trans
      (congrArg (Option.map fun t => State.popQueue t q (s.part.queue q)) h)

end Sys2Proof.Machine
end

section
/-! Placing strands (05 R108 to R110, R115, 18 R373): the context that a strand starts in, contexts made ready, and writes into a
record while the watch table is empty. -/

namespace Sys2Proof.Machine

/-! ## The context that a strand starts in (05 R108, 18 R373) -/

/-- What a strand that starts from a record finds in its context, given the partition's trap vector. -/
structure Ctx.Starts (c : Ctx) (trap va : Dword) (r : Record) (sp : Bool) : Prop where
  status : c.status = .ready
  pc : c.pc = r.pc
  brec : c.brec = va
  regs : ∀ i < 5, c.sreg (i + 1) = r.regs.getD i 0
  sp : c.sp = sp
  h : c.h = false
  depth : c.depth = 0
  tvec : c.tvec.toNat = trap.toNat % 2 ^ 56 / 4 * 4
  rank : c.rank = r.rank
  psize : c.psize = r.psize
  pos : c.pos = r.pos
  job : c.job = r.job
  pitch : c.pitch = r.pitch
  run : c.run = r.run
  holds : c.holds = []
  latchOk : c.latchOk = 0
  flight : c.flight = []
  lmask : ∀ cl m, c.lmask cl m = if m = 0 then 0xFFFF#16 else 0#16
  vst : ∀ k < 8, c.vst k = 0
  tsave : ∀ k < 4, Map.get 0 c.tsave k = 0

theorem Ctx.sreg_start (c : Ctx) (tvec : Addr) (va : Dword) (r : Record) (sp : Bool) (rtile : Dword) (party : Nat)
    (ef : Option EngineFault) (ev : Bool) {i : Nat} (hi : i < 5) :
    (c.start tvec va r sp rtile party ef ev).sreg (i + 1) = r.regs.getD i 0 := by
  have hfold : (c.start tvec va r sp rtile party ef ev).sreg (i + 1) =
      ((((((c.setS 1 (r.regs.getD 0 0)).setS 2 (r.regs.getD 1 0)).setS 3 (r.regs.getD 2 0)).setS 4 (r.regs.getD 3 0)).setS 5
        (r.regs.getD 4 0))).sreg (i + 1) := rfl
  rw [hfold]
  simp only [Ctx.sreg_setS]
  interval_cases i <;> rfl

theorem Ctx.starts_start (c : Ctx) (trap va : Dword) (r : Record) (sp : Bool) (rtile : Dword) (party : Nat)
    (ef : Option EngineFault) (ev : Bool) :
    ({ c.start (addrOf trap) va r sp rtile party ef ev with status := .ready, wasReady := true } : Ctx).Starts trap va r sp where
  status := rfl
  pc := rfl
  brec := rfl
  regs _ hi := c.sreg_start (addrOf trap) va r sp rtile party ef ev hi
  sp := rfl
  h := rfl
  depth := rfl
  tvec := toNat_addrOf trap
  rank := rfl
  psize := rfl
  pos := rfl
  job := rfl
  pitch := rfl
  run := rfl
  holds := rfl
  latchOk := rfl
  flight := rfl
  lmask cl m := by
    show (if m = 0 then BitVec.allOnes 16 else Map.get 0 [] (4 * cl + m)) = _
    rfl
  vst _ _ := rfl
  tsave _ _ := rfl

/-! ## A context made ready (05 R118, R119) -/

section makeReady
variable (s : State) (n : Nat) (c : Ctx)

theorem State.makeReady_eq : ∃ x rest, s.makeReady n c = { s with x := x, rest := rest } := by
  unfold State.makeReady State.makeReadyAs
  dsimp only
  split
  · exact ⟨_, _, by rw [State.setCtx_eq]; rfl⟩
  · exact ⟨_, _, State.setCtx_eq ..⟩

theorem State.ctx_makeReady_same : (s.makeReady n c).ctx n = { c with status := .ready, wasReady := true } := by
  have hset : ((s.setCtx n { c with status := .ready, wasReady := true }).ctx n) = { c with status := .ready, wasReady := true } := by
    rw [State.ctx_setCtx, if_pos rfl]
  unfold State.makeReady State.makeReadyAs
  dsimp only
  split
  · next hreq =>
    have hne : n ≠ (s.setCtx n { c with status := .ready, wasReady := true }).xn := by simp at hreq; exact hreq.2
    rw [State.setX_ctx, if_neg hne, hset]
  · exact hset

/-- Another context may be asked to yield, and no more. -/
theorem State.ctx_makeReady_other {m : Nat} (hm : m ≠ n) :
    (s.makeReady n c).ctx m = { s.ctx m with req := ((s.makeReady n c).ctx m).req } := by
  have hset : ((s.setCtx n { c with status := .ready, wasReady := true }).ctx m) = s.ctx m := by
    rw [State.ctx_setCtx, if_neg hm]
  unfold State.makeReady State.makeReadyAs
  dsimp only
  split
  · rw [State.setX_ctx]
    split
    · next hx =>
      rw [← hset, hx, State.ctx_xn]
    · rw [hset]
  · rw [hset]

/-- The issuing context is asked to yield to a higher effective rank (05 R119). -/
theorem State.makeReady_req (hrun : s.run = true) (hreq : s.x.req = none) (hn : n ≠ s.xn)
    (hrank : s.x.rank + s.x.bonus < c.rank + c.bonus) : (s.makeReady n c).x.req = some 0 := by
  have hset : s.setCtx n { c with status := .ready, wasReady := true } =
      { s with rest := Map.set emptyCtx s.rest n { c with status := .ready, wasReady := true } } := if_neg hn
  unfold State.makeReady State.makeReadyAs
  dsimp only
  rw [hset]
  have hasks : (s.run && s.x.req.isNone && decide (s.x.effRank < c.effRank) && decide (n ≠ s.xn)) = true := by
    simp [hrun, hreq, hn, Ctx.effRank, hrank]
  rw [if_pos hasks]
  rfl

end makeReady

/-! ## Writes into a record while the watch table is empty (10 R231) -/

section record
variable {s : State} (hnone : s.NoneWaiting)
include hnone

theorem State.recWrite_pkg (rec_ : Dword) (o : Nat) (b : List Byte) : ∃ p, s.recWrite rec_ o b = s.setPkg p := by
  rw [State.recWrite, State.recWriteBy]
  cases s.devPlace (va56 rec_ + o) b.length with
  | none => exact ⟨s.pkg, rfl⟩
  | some pa => exact ⟨_, State.fireLines_of_none (State.not_onLines (s := s.setPkg _) hnone _ _)⟩
theorem State.recState_pkg (rec_ : Dword) (st : Nat) : ∃ p, s.recState rec_ st = s.setPkg p := State.recWrite_pkg hnone _ _ _

end record

/-- A record whose state becomes 1 (05 R108). -/
theorem recordOf_running {p : Pkg} {k pa : Nat} (hk : k ≠ 0) : recordOf ((p.writes k (pa + 11) [BitVec.ofNat 8
    ((p.read k (pa + 11)).toNat / 4 * 4 + 1)]).reads k pa 64) = { recordOf (p.reads k pa 64) with state := 1 } := by
  have hlt := (p.read k (pa + 11)).isLt
  have hx : (BitVec.ofNat 8 ((p.read k (pa + 11)).toNat / 4 * 4 + 1)).toNat = (p.read k (pa + 11)).toNat / 4 * 4 + 1 := by
    rw [BitVec.toNat_ofNat]
    omega
  have hstate : ((p.read k (pa + 11)).toNat / 4 * 4 + 1) % 4 = 1 := by omega
  have hw : ((p.read k (pa + 11)).toNat / 4 * 4 + 1) / 4 % 2 = (p.read k (pa + 11)).toNat / 4 % 2 := by omega
  rw [recordOf_writes_flags hk (by rw [hx]; omega), hx, hstate, hw, ← recordOf_w]

/-! ## A strand started in a context -/

/-- The strand of a record in a context of this core, ready there. -/
def State.startIn (s : State) (n : Nat) (va : Dword) (r : Record) (k : Parked) : State :=
  s.makeReady n ((s.ctx n).start (addrOf s.part.setup.trapVec) va r k.sp k.rtile k.party k.ef k.evicted)

theorem State.starts_startIn (s : State) (n : Nat) (va : Dword) (r : Record) (k : Parked) :
    ((s.startIn n va r k).ctx n).Starts s.part.setup.trapVec va r k.sp := by
  rw [State.startIn, State.ctx_makeReady_same]
  exact Ctx.starts_start ..
theorem State.startIn_eq (s : State) (n : Nat) (va : Dword) (r : Record) (k : Parked) :
    ∃ x rest, s.startIn n va r k = { s with x := x, rest := rest } := State.makeReady_eq ..

/-- A record names its pitch, which this core has, or needs none, so that its strand finds it on this core (05 R109, R110). -/
def CoreSt.PitchStands (c : CoreSt) (r : Record) (resume : Bool) : Prop :=
  (r.pitch = 0 ∧ r.lines = 0) ∨ (resume = true ∧ r.pitch ≠ 0 ∧ (c.pitchOf r.pitch).isSome = true)

/-- A strand whose pitch stands is placed in the lowest free context. -/
theorem State.placeHereBy_eq (F : FireFn) {s : State} {n : Nat} (hfree : s.freeCtx = some n) {r : Record} {resume : Bool}
    (hpitch : s.core.PitchStands r resume) (va : Dword) (k : Parked) :
    s.placeHereBy F va r k resume = some ((s.startIn n va r k).recStateBy F va 1) := by
  have hget : (if resume && r.pitch ≠ 0 then (if (s.core.pitchOf r.pitch).isSome then some (r.pitch, s.core) else none)
      else s.core.getPitch r) = some (r.pitch, s.core) := by
    rcases hpitch with ⟨hp, hl⟩ | ⟨hr, hp, hsome⟩
    · rw [if_neg (by simp [hp]), CoreSt.getPitch, if_neg (by simp [hp]), if_pos hl, hp]
    · rw [if_pos (by simp [hr, hp]), if_pos hsome]
  unfold State.placeHereBy
  rw [hfree]
  dsimp only
  rw [hget]
  dsimp only
  rw [if_pos rfl, State.setCore_self]
  rfl

end Sys2Proof.Machine
end

section
/-! O8 (04 R98, 05 R108, R110, R115, 15 R328, 18 R373): spawn by the state of its record, and the placing of single strands. -/

namespace Sys2Proof.Machine

/-! ## Results of a spawn (03 R72, log 7) -/

theorem State.returns_eq (s : State) (d : BitVec 5) (v : Dword) : s.returns d v = s.withReturn d v := by
  unfold State.returns State.withReturn
  split <;> rfl
theorem State.returnsFree_eq (s : State) (d : BitVec 5) :
    s.returnsFree d = ({ s with free := s.free + 1 } : State).withReturn d (Config.freeValue s.free) := State.returns_eq ..
theorem addrDword_eq (a : Addr) : addrDword a = BitVec.ofNat 64 a.toNat := (BitVec.ofNat_toNat _ _).symm

/-! ## spawn (05 R115) -/

section spawn
variable (f : SR) (s : State)

/-- What a spawn lands, from the effect and the answer of its record. -/
def State.spawned (d : BitVec 5) (r : State × Option Nat) : State :=
  match r.2 with
  | some v => r.1.withReturn d (BitVec.ofNat 64 v)
  | none => r.1.returnsFree d

theorem exec_spawn_off (hgo : s.x.preg f.p.toNat = false) : exec (.spawn f) s = .next s := by
  rw [exec_spawn, execSpawn, State.whenP_eq, hgo, if_neg Bool.false_ne_true]
theorem exec_spawn_unaligned (hgo : s.x.preg f.p.toNat = true) (h : (s.x.sreg f.a.toNat).toNat % 64 ≠ 0) :
    exec (.spawn f) s = .next (s.withCause 3 0x10 (s.defaultInfo 15)) := by
  rw [exec_spawn, execSpawn, State.whenP_eq, if_pos hgo, if_pos h, s.illOperand_eq .S 15 (by decide)]
  rfl
theorem exec_spawn_fault (hgo : s.x.preg f.p.toNat = true) (ha : (s.x.sreg f.a.toNat).toNat % 64 = 0) {c : Nat}
    (h : (s.translate (s.x.sreg f.a.toNat) false s.x.priv).2 = .error c) : exec (.spawn f) s =
      .next ((s.translate (s.x.sreg f.a.toNat) false s.x.priv).1.withCause 8 c (BitVec.ofNat 64 (va56 (s.x.sreg f.a.toNat)))) := by
  rw [exec_spawn, execSpawn, State.whenP_eq, if_pos hgo, if_neg (not_not.mpr ha)]
  dsimp only
  rw [h]
  rfl
theorem exec_spawn_record (hgo : s.x.preg f.p.toNat = true) (ha : (s.x.sreg f.a.toNat).toNat % 64 = 0) {pa ty : Nat}
    (h : (s.translate (s.x.sreg f.a.toNat) false s.x.priv).2 = .ok (pa, ty)) (hok : s.integrityFail pa = false) :
    exec (.spawn f) s = .next (State.spawned f.d
      ((s.translate (s.x.sreg f.a.toNat) false s.x.priv).1.spawnRecord (s.x.sreg f.a.toNat))) := by
  rw [exec_spawn, execSpawn, State.whenP_eq, if_pos hgo, if_neg (not_not.mpr ha)]
  dsimp only
  rw [h]
  dsimp only
  rw [hok, if_neg Bool.false_ne_true, State.spawned]
  cases (((s.translate (s.x.sreg f.a.toNat) false s.x.priv).1.spawnRecord (s.x.sreg f.a.toNat)).2) with
  | none => rfl
  | some v => exact congrArg _ (State.returns_eq ..)

end spawn

/-! ## The record of a spawn by its state (05 R115) -/

section record
variable {s : State} {va : Dword}

theorem State.spawnRecord_running (h : (recordOf (s.recBytes (va56 va))).state = 1) : s.spawnRecord va = (s.recW va true, some 1) := by
  simp only [State.spawnRecord, h]
theorem State.spawnRecord_parked (h : (recordOf (s.recBytes (va56 va))).state = 2) :
    s.spawnRecord va = s.resumeParked va (s.coreSource s.xn 0) (addrDword s.cur.addr) := by
  simp only [State.spawnRecord, h]
theorem State.spawnRecord_halted (h : (recordOf (s.recBytes (va56 va))).state = 3) : s.spawnRecord va = (s, some 2) := by
  simp only [State.spawnRecord, h]

theorem State.listed_eq_false (h : ∀ e ∈ s.die.ready, va56 e.addr ≠ va56 va) : s.listed va = false := by
  rw [State.listed, List.any_eq_false]
  exact fun e he => by rw [decide_eq_true_eq]; exact h e he

/-- An entry for the die's ready list, its last one. -/
def State.queued (s : State) (e : ReadyEnt) : State := { s with die := { s.die with ready := s.die.ready ++ [e] } }
theorem State.enterReady_room {e : ReadyEnt} (h : s.die.ready.length < 1024) : s.enterReady e = (s.queued e, true) := if_pos h
theorem State.enterReady_full {e : ReadyEnt} (h : 1024 ≤ s.die.ready.length) : s.enterReady e = (s, false) := if_neg (Nat.not_lt.mpr h)

section new
variable (h : (recordOf (s.recBytes (va56 va))).state = 0) (hlist : ∀ e ∈ s.die.ready, va56 e.addr ≠ va56 va)
include h hlist

theorem State.spawnRecord_invalid
    (hbad : (recordOf (s.recBytes (va56 va))).psize ≠ 0 ∨ s.recordOk (recordOf (s.recBytes (va56 va))) = false) :
    s.spawnRecord va = (s.discard (s.coreSource s.xn 0) va (addrDword s.cur.addr), none) := by
  have hbad : (decide ((recordOf (s.recBytes (va56 va))).psize ≠ 0) || !s.recordOk (recordOf (s.recBytes (va56 va)))) = true := by
    rcases hbad with hb | hb <;> simp [hb]
  simp only [State.spawnRecord, h, State.listed_eq_false hlist, Bool.false_eq_true, if_false, hbad, if_true]

variable (hsize : (recordOf (s.recBytes (va56 va))).psize = 0) (hok : s.recordOk (recordOf (s.recBytes (va56 va))) = true)
include hsize hok

theorem State.spawnRecord_new : s.spawnRecord va = (match s.placeOne va (recordOf (s.recBytes (va56 va))) s.x.sp 0 false with
    | some t => (t, some 0)
    | none => ((s.enterReady ⟨va, s.x.sp, false, false, none⟩).1,
        some (if (s.enterReady ⟨va, s.x.sp, false, false, none⟩).2 then 0 else 3))) := by
  simp only [State.spawnRecord, h, State.listed_eq_false hlist, Bool.false_eq_true, if_false, hsize, hok, ne_eq, not_true_eq_false,
    decide_false, Bool.not_true, Bool.or_self] <;> rfl


/-- A new strand that finds no room enters the ready list, if that has one (05 R115). -/
theorem State.spawnRecord_queues (hplace : s.placeOne va (recordOf (s.recBytes (va56 va))) s.x.sp 0 false = none) :
    (s.die.ready.length < 1024 → s.spawnRecord va = (s.queued ⟨va, s.x.sp, false, false, none⟩, some 0)) ∧
    (1024 ≤ s.die.ready.length → s.spawnRecord va = (s, some 3)) := by
  rw [State.spawnRecord_new h hlist hsize hok, hplace]
  exact ⟨fun hlen => by rw [State.enterReady_room hlen]; rfl, fun hlen => by rw [State.enterReady_full hlen]; rfl⟩
theorem State.spawnRecord_places {u : State} (hplace : s.placeOne va (recordOf (s.recBytes (va56 va))) s.x.sp 0 false = some u) :
    s.spawnRecord va = (u, some 0) := by
  rw [State.spawnRecord_new h hlist hsize hok, hplace]

end new

end record

/-! ## Placing a new strand (05 R108, R109, 15 R328, 04 R98) -/

section place
variable {s : State} {va : Dword} {r : Record} {sp : Bool}

/-- Without an image, or with the reserve of the recipes alone free, nothing is placed. -/
theorem State.placeOne_none (h : s.part.loaded = false ∨ s.freeCount ≤ s.core.rres) : s.placeOne va r sp 0 false = none := by
  refine if_pos ?_
  rcases h with h | h <;> simp [h]

/-- A strand that needs no new pitch is placed in the lowest free context of this core. -/
theorem State.placeOne_here {n : Nat} (hloaded : s.part.loaded = true) (hroom : s.core.rres < s.freeCount)
    (hfree : s.freeCtx = some n) (hp : r.pitch = 0) (hl : r.lines = 0) : s.placeOne va r sp 0 false =
      some (((s.newParty r.job 1).1.startIn n va r ⟨va, sp, 0, (s.newParty r.job 1).2, none, false, []⟩).recState va 1) := by
  have hplace : (s.newParty r.job 1).1.placeHere va r ⟨va, sp, 0, (s.newParty r.job 1).2, none, false, []⟩ = _ :=
    State.placeHereBy_eq State.fireLines (s := (s.newParty r.job 1).1) hfree (resume := false) (.inl ⟨hp, hl⟩) va _
  unfold State.placeOne
  rw [if_neg (by simp [hloaded, hroom])]
  dsimp only
  rw [hplace]
  rfl

end place

/-! ## Making a parked strand ready (05 R110, R115) -/

section parked
variable {s : State} {va : Dword} {r : Record}

/-- A parked strand whose pitch stands is placed in the lowest free context of this core, and is parked no longer. -/
theorem State.resumeAnyBy_here {n : Nat} (hroom : s.core.rres < s.freeCount) (hfree : s.freeCtx = some n)
    (hpitch : s.core.PitchStands r true) (k : Parked) : s.resumeAnyBy State.fireLines va r k =
      some (((s.startIn n va r k).recState va 1).unpark va) := by
  unfold State.resumeAnyBy
  rw [if_neg (Nat.not_le.mpr hroom), State.placeHereBy_eq State.fireLines hfree hpitch va k]
  rfl

/-- With no die of the partition that has an idle context, or with a pitch to stay with, no other die takes a strand. -/
theorem State.placeAwayBy_none (F : FireFn) (h : r.pitch ≠ 0 ∨ ∀ d < 4, s.idleOn d = false) : s.placeAwayBy F va r = none := by
  unfold State.placeAwayBy
  by_cases hp : r.pitch = 0
  · have hnone : s.idleDie = none := List.find?_eq_none.mpr fun d hd => by
      rw [h.resolve_left (not_not.mpr hp) d (List.mem_range.mp hd)]
      exact Bool.false_ne_true
    rw [if_neg (not_not.mpr hp), hnone]
  · rw [if_pos hp]

/-- With the reserve of the recipes alone free, and no other die, a parked strand finds no room. -/
theorem State.resumeAnyBy_none (hfull : s.freeCount ≤ s.core.rres) (h : r.pitch ≠ 0 ∨ ∀ d < 4, s.idleOn d = false) (k : Parked) :
    s.resumeAnyBy State.fireLines va r k = none := by
  unfold State.resumeAnyBy
  rw [if_pos hfull, State.placeAwayBy_none _ h]
  rfl

theorem State.resumeParked_reserved {n : Nat} (hctx : s.ctxOf va = some n) (hst : (s.ctx n).status = .reserved)
    (hok : s.recordOk (recordOf (s.recBytes (va56 va))) = true) (src : Nat) (pc : Dword) : s.resumeParked va src pc =
      ((s.startIn n va { recordOf (s.recBytes (va56 va)) with pitch := (s.ctx n).pitch }
        ⟨va, (s.ctx n).sp, (s.ctx n).rtile, (s.ctx n).party, (s.ctx n).ef, (s.ctx n).evicted, []⟩).recState va 1, some 0) := by
  unfold State.resumeParked State.resumeParkedBy
  dsimp only
  rw [hctx]
  dsimp only
  rw [hst, hok]
  rfl

variable (hctx : s.ctxOf va = none) (hlist : ∀ e ∈ s.die.ready, va56 e.addr ≠ va56 va)
include hctx hlist

theorem State.resumeParked_invalid (hok : s.recordOk (recordOf (s.recBytes (va56 va))) = false) (src : Nat) (pc : Dword) :
    s.resumeParked va src pc = (s.discard src va pc, none) := by
  simp only [State.resumeParked, State.resumeParkedBy, hctx, State.listed_eq_false hlist, Bool.false_eq_true, if_false, hok,
    Bool.not_false, if_true]

variable (hok : s.recordOk (recordOf (s.recBytes (va56 va))) = true)
include hok

theorem State.resumeParked_free (src : Nat) (pc : Dword) : s.resumeParked va src pc =
    (match s.resumeAnyBy State.fireLines va (recordOf (s.recBytes (va56 va))) (s.parkedOf va false) with
     | some t => (t, some 0)
     | none => ((s.enterReady ⟨va, (s.parkedOf va false).sp, true, false, none⟩).1,
         some (if (s.enterReady ⟨va, (s.parkedOf va false).sp, true, false, none⟩).2 then 0 else 3))) := by
  simp only [State.resumeParked, State.resumeParkedBy, hctx, State.listed_eq_false hlist, Bool.false_eq_true, if_false, hok,
    Bool.not_true] <;> rfl

end parked

/-! ## What placing leaves of the record and the context -/

theorem State.recBytes_of_mapped {s : State} {va pa : Nat} (h : s.Mapped va 64 pa) : s.recBytes va = s.pkg.reads s.keyId pa 64 := by
  obtain ⟨ty, htr⟩ := State.translate_of_mapped h (o := 0) (by decide) false
  have hwhole := State.integrityUnder_of_mapped h (o := 0) (by decide) s.keyId
  rw [Nat.add_zero] at htr hwhole
  rw [Nat.add_zero] at htr
  have htry : s.devTry va false = .ok pa := by
    rw [State.devTry, htr]
    exact if_neg (by rw [State.integrityFail, hwhole]; exact Bool.false_ne_true)
  rw [State.recBytes, State.devAddr, htry]

/-- A strand placed or made ready in a context: ready there as its record says, whose state is 1 (05 R108, R115). -/
structure State.Placed (s u : State) (n : Nat) (va : Dword) (pa : Nat) (r : Record) (sp : Bool) : Prop where
  starts : (u.ctx n).Starts u.part.setup.trapVec va r sp
  running : recordOf (u.pkg.reads u.keyId pa 64) = { recordOf (s.pkg.reads s.keyId pa 64) with state := 1 }

section placed
variable {s t : State} {va : Dword} {pa : Nat} (h : s.Mapped (va56 va) 64 pa) (hnone : s.NoneWaiting) (hk : s.keyId ≠ 0)
  (hpkg : t.pkg = s.pkg) (hsetup : t.part.setup = s.part.setup) (hcore : t.core = s.core)
include h hnone hk hpkg hsetup hcore

/-- A strand started in a context, of a state whose memory, firmware settings and core are those of another. -/
theorem State.placed_startIn (n : Nat) (r : Record) (k : Parked) :
    s.Placed ((t.startIn n va r k).recState va 1) n va pa r k.sp ∧
    ((t.startIn n va r k).recState va 1).part = t.part := by
  have hstarts := t.starts_startIn n va r k
  obtain ⟨x, rest, heq⟩ := t.startIn_eq n va r k
  have hkey : (t.startIn n va r k).keyId = s.keyId := by
    rw [State.keyId, State.keyId, heq, ← hsetup]
  have hmapped : (t.startIn n va r k).Mapped (va56 va) 64 pa := by
    intro i hi
    obtain ⟨hcxl, hcorrupt, hspace, hentry⟩ := h i hi
    refine ⟨?_, ?_, ?_, ?_⟩
    · rw [← hcxl, State.cxlFail, State.cxlFail, heq, ← hsetup, ← hpkg]
    · rw [heq, hpkg]
      exact hcorrupt
    · rw [State.space, heq, hsetup, hpkg]
      exact hspace
    · rw [State.entryFor, heq, hcore]
      exact hentry
  have hwatch : (t.startIn n va r k).NoneWaiting := by
    rw [State.NoneWaiting, heq, hcore]
    exact hnone
  have hpkg' : (t.startIn n va r k).pkg = s.pkg := by rw [heq, hpkg]
  have hpart : (t.startIn n va r k).part = t.part := by rw [heq]
  rw [State.recState_eq hmapped (State.not_onLines hwatch _ _)]
  rw [← hpart] at hstarts
  refine ⟨⟨hstarts, ?_⟩, hpart⟩
  rw [State.setPkg_pkg, hkey, hpkg']
  show recordOf (Pkg.reads _ (t.startIn n va r k).keyId pa 64) = _
  rw [hkey]
  exact recordOf_running hk

end placed

section mapped
variable {s : State} {va : Dword} {pa : Nat} (h : s.Mapped (va56 va) 64 pa) (hnone : s.NoneWaiting) (hk : s.keyId ≠ 0)
include h hnone hk

/-- A new strand that needs no new pitch (05 R108, R115). -/
theorem State.placed_placeOne {n : Nat} {r : Record} (sp : Bool) (hloaded : s.part.loaded = true) (hroom : s.core.rres < s.freeCount)
    (hfree : s.freeCtx = some n) (hp : r.pitch = 0) (hl : r.lines = 0) :
    ∃ u, s.placeOne va r sp 0 false = some u ∧ s.Placed u n va pa r sp :=
  ⟨_, State.placeOne_here hloaded hroom hfree hp hl, (State.placed_startIn h hnone hk (t := (s.newParty r.job 1).1) rfl rfl rfl n r _).1⟩

/-- A parked strand on its reserved context (05 R110, R115). -/
theorem State.placed_reserved {n : Nat} (hctx : s.ctxOf va = some n) (hst : (s.ctx n).status = .reserved)
    (hok : s.recordOk (recordOf (s.pkg.reads s.keyId pa 64)) = true) (src : Nat) (pc : Dword) :
    ∃ u, s.resumeParked va src pc = (u, some 0) ∧
      s.Placed u n va pa { recordOf (s.pkg.reads s.keyId pa 64) with pitch := (s.ctx n).pitch } (s.ctx n).sp := by
  rw [← State.recBytes_of_mapped h] at hok ⊢
  exact ⟨_, State.resumeParked_reserved hctx hst hok src pc, (State.placed_startIn h hnone hk rfl rfl rfl n _ _).1⟩

variable (hctx : s.ctxOf va = none) (hlist : ∀ e ∈ s.die.ready, va56 e.addr ≠ va56 va)
  (hok : s.recordOk (recordOf (s.pkg.reads s.keyId pa 64)) = true)
include hctx hlist hok

/-- A parked strand on a free context of this core (05 R110, R115). -/
theorem State.placed_parked {n : Nat} (hroom : s.core.rres < s.freeCount) (hfree : s.freeCtx = some n)
    (hpitch : s.core.PitchStands (recordOf (s.pkg.reads s.keyId pa 64)) true) (src : Nat) (pc : Dword) :
    ∃ u, s.resumeParked va src pc = (u, some 0) ∧
      s.Placed u n va pa (recordOf (s.pkg.reads s.keyId pa 64)) (s.parkedOf va false).sp ∧
      ∀ e ∈ u.part.parked, va56 e.addr ≠ va56 va := by
  obtain ⟨⟨hstarts, hrunning⟩, -⟩ := State.placed_startIn h hnone hk rfl rfl rfl n (recordOf (s.pkg.reads s.keyId pa 64))
    (s.parkedOf va false)
  refine ⟨((s.startIn n va (recordOf (s.pkg.reads s.keyId pa 64)) (s.parkedOf va false)).recState va 1).unpark va, ?_,
    ⟨hstarts, hrunning⟩, fun e he => ?_⟩
  · rw [← State.recBytes_of_mapped h] at hok hpitch ⊢
    rw [State.resumeParked_free hctx hlist hok, State.resumeAnyBy_here hroom hfree hpitch]
  · simpa using (List.mem_filter.mp he).2

omit hnone hk in
/-- A parked strand that finds no room enters the ready list as one that resumes, or stays parked (05 R115). -/
theorem State.resumeParked_noRoom (hfull : s.freeCount ≤ s.core.rres)
    (haway : (recordOf (s.pkg.reads s.keyId pa 64)).pitch ≠ 0 ∨ ∀ d < 4, s.idleOn d = false) (src : Nat) (pc : Dword) :
    (s.die.ready.length < 1024 →
      s.resumeParked va src pc = (s.queued ⟨va, (s.parkedOf va false).sp, true, false, none⟩, some 0)) ∧
    (1024 ≤ s.die.ready.length → s.resumeParked va src pc = (s, some 3)) := by
  rw [← State.recBytes_of_mapped h] at hok haway
  rw [State.resumeParked_free hctx hlist hok, State.resumeAnyBy_none hfull haway]
  exact ⟨fun hlen => by rw [State.enterReady_room hlen]; rfl, fun hlen => by rw [State.enterReady_full hlen]; rfl⟩

end mapped

/-- A translation keeps the context on the issue path, the bundle and the time. -/
theorem State.translate_keeps (s : State) (va : Dword) (write priv : Bool) : (s.translate va write priv).1.x = s.x ∧
    (s.translate va write priv).1.cur = s.cur ∧ (s.translate va write priv).1.gtc = s.gtc := by
  rw [State.translate_eq]
  exact ⟨rfl, rfl, rfl⟩

/-- Settles O8: spawn is one equation per state of its record; a strand placed or made ready is started in its context, and then
the state of its record is written. -/
theorem spawnAndPlacement : Obligations.SpawnAndPlacement := by
  unfold Obligations.SpawnAndPlacement
  intro made queued
  have hmade {t : State} {n : Nat} {va : Dword} {r : Record} {sp : Bool} (h : (t.ctx n).Starts t.part.setup.trapVec va r sp) :
      made t n va r sp :=
    ⟨h.status, h.pc, h.brec, h.regs, h.sp, h.h, h.depth, h.tvec, h.rank, h.psize, h.pos, h.job, h.pitch, h.run, h.holds, h.latchOk,
      h.flight, h.lmask, h.vst, h.tsave⟩
  refine ⟨fun f s => ?spawn, fun s va pa h hnone hk _ => ⟨fun sp => ?new, fun hok src pc => ?parked, ?invalid⟩⟩
  case spawn =>
    intro va go t r
    refine ⟨exec_spawn_off f s, exec_spawn_unaligned f s, fun hgo ha c hc => exec_spawn_fault f s hgo ha hc,
      fun hgo ha pa ty htr hwhole => ?_⟩
    obtain ⟨hx, hcur, hgtc⟩ := s.translate_keeps va false s.x.priv
    have hexec := exec_spawn_record f s hgo ha htr hwhole
    refine ⟨fun hst => ?running, fun hst => ?halted, fun hst => ?resumes, fun hst hlist => ⟨fun hsize hok => ?placed, fun hbad => ?bad⟩⟩
    case running => rw [hexec, State.spawnRecord_running hst]; rfl
    case halted => rw [hexec, State.spawnRecord_halted hst]; rfl
    case resumes =>
      rw [hexec, State.spawnRecord_parked hst, addrDword_eq, hcur]
      split
      · next u v hres => rw [hres]; rfl
      · next u hres => exact ⟨_, by rw [hres, State.spawned, State.returnsFree_eq]⟩
    case placed =>
      rw [← hx]
      refine ⟨fun u hplace => ?_, fun hplace => ?_⟩
      · rw [hexec, State.spawnRecord_places hst hlist hsize hok hplace]
        rfl
      · obtain ⟨hqueues, hfull⟩ := State.spawnRecord_queues hst hlist hsize hok hplace
        exact ⟨fun hlen => by rw [hexec, hqueues hlen]; rfl, fun hlen => by rw [hexec, hfull hlen]; rfl⟩
    case bad =>
      rw [State.spawnRecord_invalid hst hlist hbad, State.spawned, State.returnsFree_eq] at hexec
      exact ⟨_, _, hexec, rfl, rfl, hgtc, rfl, rfl, rfl⟩
  case new =>
    refine ⟨State.placeOne_none, fun n hloaded hroom hfree hp hl => ?_⟩
    obtain ⟨u, hplace, hplaced⟩ := State.placed_placeOne h hnone hk sp hloaded hroom hfree hp hl
    exact ⟨u, hplace, hmade hplaced.starts, hplaced.running⟩
  case parked =>
    refine ⟨fun n hctx hst => ?_, fun hctx hlist => ⟨fun n hroom hfree hpitch => ?_,
      fun hfull haway => State.resumeParked_noRoom h hctx hlist hok hfull haway src pc⟩⟩
    · obtain ⟨u, hres, hplaced⟩ := State.placed_reserved h hnone hk hctx hst hok src pc
      exact ⟨u, hres, hmade hplaced.starts, hplaced.running⟩
    · obtain ⟨u, hres, hplaced, hparked⟩ := State.placed_parked h hnone hk hctx hlist hok hroom hfree
        (hpitch.imp id fun hp => ⟨rfl, hp⟩) src pc
      exact ⟨u, hres, hmade hplaced.starts, hplaced.running, hparked⟩
  case invalid =>
    intro hok hctx hlist src pc
    rw [← State.recBytes_of_mapped h] at hok
    exact ⟨_, _, State.resumeParked_invalid hctx hlist hok src pc, rfl, rfl, rfl, rfl, rfl, rfl, rfl, rfl⟩

end Sys2Proof.Machine
end

section
/-! The arbiter's choice (05 R118), and what a freeze leaves of the context on the issue path (18 R378). -/

namespace Sys2Proof.Machine

/-! ## The choice (05 R118) -/

/-- A choice between the context chosen so far and another one. -/
def State.better (s : State) (a : Option Nat) (n : Nat) : Option Nat :=
  match a with
  | none => some n
  | some m => if (s.ctx m).effRank < (s.ctx n).effRank then some n else a
theorem State.best_eq (s : State) (l : List Nat) : s.best l = l.foldl s.better none := rfl

theorem State.foldl_better (s : State) (l : List Nat) (m : Nat) : ∃ n, l.foldl s.better (some m) = some n ∧
    (s.ctx m).effRank ≤ (s.ctx n).effRank ∧ ∀ k ∈ l, (s.ctx k).effRank ≤ (s.ctx n).effRank := by
  induction l generalizing m with
  | nil => exact ⟨m, rfl, Nat.le_refl _, by simp⟩
  | cons k l ih =>
    rw [List.foldl_cons, State.better]
    split
    · next hlt =>
      obtain ⟨n, hn, hk, hall⟩ := ih k
      exact ⟨n, hn, by omega, List.forall_mem_cons.mpr ⟨hk, hall⟩⟩
    · next hle =>
      obtain ⟨n, hn, hm, hall⟩ := ih m
      exact ⟨n, hn, hm, List.forall_mem_cons.mpr ⟨by omega, hall⟩⟩

/-- Among contexts there is a best one, of the highest effective rank. -/
theorem State.best_of_ne_nil (s : State) {l : List Nat} (h : l ≠ []) :
    ∃ n, s.best l = some n ∧ ∀ k ∈ l, (s.ctx k).effRank ≤ (s.ctx n).effRank := by
  cases l with
  | nil => exact absurd rfl h
  | cons k l =>
    obtain ⟨n, hn, hk, hall⟩ := s.foldl_better l k
    exact ⟨n, (s.best_eq (k :: l)).trans hn, List.forall_mem_cons.mpr ⟨hk, hall⟩⟩

theorem State.mem_ctxOrder (s : State) (n : Nat) : n ∈ s.ctxOrder ↔ n < 8 := by
  rw [State.ctxOrder, List.mem_map]
  constructor
  · rintro ⟨i, -, rfl⟩
    exact Nat.mod_lt _ (by decide)
  · intro hn
    refine ⟨(n + 8 - (s.core.last + 1) % 8) % 8, List.mem_range.mpr (Nat.mod_lt _ (by decide)), ?_⟩
    omega

/-- The ready contexts in the order of ties, and those of them whose stated run fits in the slice. -/
def State.readyOrder (s : State) : List Nat := s.ctxOrder.filter fun n => (s.ctx n).isReady
def State.fitting (s : State) : List Nat := s.readyOrder.filter fun n => decide ((s.countedRun (s.ctx n) : Int) ≤ s.core.left)

theorem State.mem_readyOrder (s : State) (n : Nat) : n ∈ s.readyOrder ↔ n < 8 ∧ (s.ctx n).isReady = true := by
  rw [State.readyOrder, List.mem_filter, State.mem_ctxOrder]
theorem State.mem_fitting (s : State) (n : Nat) : n ∈ s.fitting ↔
    n < 8 ∧ (s.ctx n).isReady = true ∧ (s.countedRun (s.ctx n) : Int) ≤ s.core.left := by
  rw [State.fitting, List.mem_filter, State.mem_readyOrder, decide_eq_true_eq, and_assoc]

section choice
variable {s : State} (hswap : s.part.swapping = false)
include hswap

/-- A ready context that fits in the slice is chosen, of the highest effective rank of those. -/
theorem State.arbitrate_fits (h : ∃ n, n ∈ s.fitting) : ∃ n ∈ s.fitting, s.arbitrate = s.issueCtx n ∧
    ∀ k ∈ s.fitting, (s.ctx k).effRank ≤ (s.ctx n).effRank := by
  obtain ⟨m, hm⟩ := h
  obtain ⟨n, hn, hmax⟩ := s.best_of_ne_nil (List.ne_nil_of_mem hm)
  refine ⟨n, State.best_mem hn, ?_, hmax⟩
  have hready : s.readyOrder.isEmpty = false := by
    rw [List.isEmpty_eq_false_iff]
    exact List.ne_nil_of_mem (List.mem_filter.mp hm).1
  have hn : s.best (s.readyOrder.filter fun n => decide ((s.countedRun (s.ctx n) : Int) ≤ s.core.left)) = some n := hn
  rw [State.arbitrate, ← State.readyOrder, hready, hswap, if_neg (by decide)]
  dsimp only
  rw [hn]

/-- With none that fits a slice opens, and a ready one is chosen. -/
theorem State.arbitrate_opens (hready : ∃ n, n ∈ s.readyOrder) (h : ∀ n, n ∉ s.fitting) :
    ∃ n ∈ s.readyOrder, s.arbitrate = s.openSlice.issueCtx n := by
  obtain ⟨m, hm⟩ := hready
  obtain ⟨n, hn, -⟩ := s.openSlice.best_of_ne_nil (List.ne_nil_of_mem hm)
  have hnil : s.fitting = [] := List.eq_nil_iff_forall_not_mem.mpr h
  have hnil : (s.readyOrder.filter fun n => decide ((s.countedRun (s.ctx n) : Int) ≤ s.core.left)) = [] := hnil
  refine ⟨n, State.best_mem hn, ?_⟩
  rw [State.arbitrate, ← State.readyOrder, List.isEmpty_eq_false_iff.mpr (List.ne_nil_of_mem hm), hswap, if_neg (by decide)]
  dsimp only
  rw [hnil]
  dsimp only [State.best, List.foldl_nil] at hn ⊢
  rw [hn]

end choice

/-- The context on the issue path once the arbiter has put it there. -/
theorem State.issueCtx_x (s : State) (n : Nat) :
    (s.issueCtx n).x = { s.ctx n with status := .running, bonus := 0, wasChosen := true, req := none } := rfl

/-- A request is forgotten when its context is chosen, and stays otherwise. -/
theorem State.req_arbitrate (s : State) (m : Nat) :
    (s.arbitrate.ctx m).req = (s.ctx m).req ∨ (s.arbitrate.ctx m).req = none := by
  have hissue (t : State) (n : Nat) : ((t.issueCtx n).ctx m).req = (t.ctx m).req ∨ ((t.issueCtx n).ctx m).req = none := by
    rw [State.ctx_issueCtx]
    split
    · exact .inr rfl
    · exact .inl rfl
  have hopen : (s.openSlice.ctx m).req = (s.ctx m).req := by rw [(s.ctx_openSlice m).eq]
  unfold State.arbitrate
  dsimp only
  split
  · exact .inl rfl
  split
  · exact hissue s _
  rw [← hopen]
  split
  · exact hissue _ _
  · exact .inl rfl

/-- A context that has given up the path is asked for nothing. -/
theorem State.req_giveUp (s : State) (st : CtxStatus) : ((s.giveUp st).ctx s.xn).req = none := by
  have hoff : ((s.offPath st).ctx s.xn).req = none := by
    show ((s.offPath st).ctx (s.offPath st).xn).req = none
    rw [State.ctx_xn]
    rfl
  rw [State.giveUp_offPath]
  exact ((s.offPath st).req_arbitrate s.xn).elim (fun h => h.trans hoff) id

/-! ## Stopping the steps of a context (18 R378, 16 R348) -/

/-- What the stop of long commands leaves of the context on the issue path, once every register owed to it has its value: its own,
but for the counter and D of the rule unit and the bytes that engines may still read. -/
structure State.StopsTo (s t : State) : Prop where
  xn : t.xn = s.xn
  gtc : t.gtc = s.gtc
  x : t.x = { s.x with ruGen := t.x.ruGen, ruD := t.x.ruD, unseen := t.x.unseen }
/-- The same where every register owed has its value. -/
def State.Stops (s t : State) : Prop := (∀ r ∈ s.x.out, r.2.isSome = true) → s.StopsTo t

theorem State.Stops.refl (s : State) : s.Stops s := fun _ => ⟨rfl, rfl, rfl⟩
theorem State.Stops.trans {s t u : State} (h : s.Stops t) (h' : t.Stops u) : s.Stops u := by
  intro hout
  obtain ⟨hxn, hgtc, hx⟩ := h hout
  obtain ⟨hxn', hgtc', hx'⟩ := h' (by rw [hx]; exact hout)
  exact ⟨hxn'.trans hxn, hgtc'.trans hgtc, by rw [hx', hx]⟩
theorem State.stops_foldl {α : Type} {f : State → α → State} (hf : ∀ (s : State) a, s.Stops (f s a)) (l : List α) (s : State) :
    s.Stops (l.foldl f s) := by
  induction l generalizing s with
  | nil => exact .refl s
  | cons a l ih => exact (hf s a).trans (ih _)

/-- A change of the core alone is one. -/
theorem State.stops_setCore (s : State) (c : CoreSt) : s.Stops (s.setCore c) := fun _ => ⟨rfl, rfl, rfl⟩
/-- So is one of the rule unit's fields of a context. -/
theorem State.stops_setCtx {s : State} {n : Nat} {c : Ctx} (h : c = { s.ctx n with ruGen := c.ruGen, ruD := c.ruD }) :
    s.Stops (s.setCtx n c) := by
  intro _
  unfold State.setCtx
  split
  · next hn =>
    subst hn
    rw [State.ctx_xn] at h
    exact ⟨rfl, rfl, by rw [State.setX_x, h]⟩
  · exact ⟨rfl, rfl, rfl⟩

theorem State.stops_setFulls (s : State) (line : Nat) (f : Bool) (n : Nat) : s.Stops (s.setFulls line f n) := by
  rw [State.setFulls_eq]
  exact s.stops_setCore _
theorem State.stops_regionFull (s : State) (r : Option (Nat × Nat)) (f : Bool) : s.Stops (s.regionFull r f) := by
  cases r with
  | none => exact .refl s
  | some r => exact s.stops_setFulls _ f _
theorem State.stops_microCopy (s : State) (c : Cmd) (n : Nat) : s.Stops (s.microCopy c n) := by
  induction n with
  | zero => exact .refl s
  | succ n ih => exact ih.trans (State.stops_setCore _ _)
theorem State.stops_loadMicro (s : State) : s.Stops s.loadMicro := by
  refine State.stops_foldl (fun t c => ?_) _ s
  dsimp only
  split
  · exact (t.stops_microCopy c _).trans ((State.stops_setCore _ _).trans (State.stops_setCore _ _))
  · exact .refl t
theorem State.stops_endCmd (s : State) (c : Cmd) : s.Stops (s.endCmd c) := (s.stops_setCore _).trans (State.stops_loadMicro _)

/-- No value is delivered to the context on the issue path, to which none is owed. -/
theorem State.stops_deliver (s : State) (c : Cmd) (v : Dword) : s.Stops (s.deliver c v) := by
  intro hout
  unfold State.deliver
  split
  · next d n _ _ =>
    dsimp only
    split
    · next howed =>
      have hne : n ≠ s.xn := by
        rintro rfl
        rw [Bool.and_eq_true, State.ctx_xn, List.contains_iff_mem] at howed
        exact absurd (hout _ howed.2) (by simp)
      rw [State.setCtx, if_neg hne]
      exact ⟨rfl, rfl, rfl⟩
    · exact ⟨rfl, rfl, rfl⟩
  · exact ⟨rfl, rfl, rfl⟩

theorem State.stops_setRuCount (s : State) (c : Cmd) (v : Nat) : s.Stops (s.setRuCount c v) := by
  unfold State.setRuCount
  split
  · exact State.stops_setCtx rfl
  · exact s.stops_setCore _
theorem State.stops_ruReturns (s : State) (strand : Dword) : s.Stops (s.ruReturns strand) := by
  refine State.stops_foldl (fun t c => ?_) _ s
  dsimp only
  split
  · split
    · exact .refl t
    · exact (t.stops_deliver c _).trans (State.stops_endCmd _ c)
  · exact .refl t
theorem State.stops_engWrite (s : State) (a : Nat) (b : List Byte) : s.Stops (s.engWrite a b) := fun _ => ⟨rfl, rfl, rfl⟩

theorem State.stops_ruEnd (s : State) (c : Cmd) (done : Bool) : s.Stops (s.ruEnd c done) := by
  unfold State.ruEnd
  extract_lets alt plane later linked
  have halt : s.Stops alt := by
    dsimp only [alt]
    split
    · exact .refl s
    · exact fun _ => ⟨rfl, rfl, rfl⟩
  have hplane : alt.Stops plane := by
    dsimp only [plane]
    split
    · exact alt.stops_engWrite _ _
    · exact .refl alt
  have hlinked : plane.Stops linked := by
    dsimp only [linked]
    split
    · exact State.stops_setCtx rfl
    · exact .refl plane
  exact ((halt.trans hplane).trans hlinked).trans
    (((linked.stops_regionFull _ _).trans (State.stops_endCmd _ c)).trans (State.stops_ruReturns _ _))

theorem State.stops_ruStop (s : State) (strand : Dword) : s.Stops (s.ruStop strand) := by
  unfold State.ruStop
  refine (State.stops_foldl (fun t c => ?_) _ s).trans (State.stops_ruReturns _ _)
  dsimp only
  split
  · exact .refl t
  split
  · exact t.stops_ruEnd c _
  · refine State.Stops.trans ?_ ((State.stops_regionFull _ _ _).trans (State.stops_endCmd _ c))
    split
    · exact t.stops_setRuCount c 0
    · exact .refl t
theorem State.stops_stopSteps (s : State) (n : Nat) : s.Stops (s.stopSteps n) := (s.stops_setCore _).trans (State.stops_ruStop _ _)

/-! ## The freeze (18 R378) -/

/-- A value of a context lands in its register, and is owed no longer. -/
def Ctx.landRet (c : Ctx) (r : Nat × Option Dword) : Ctx :=
  match r.2 with
  | some v => { c.setS r.1 v with out := c.out.filter fun y => !decide (y = r) }
  | none => c
theorem Ctx.landOut_eq_foldl (c : Ctx) : c.landOut = c.out.foldl Ctx.landRet c := rfl

theorem Ctx.foldl_landRet {l : List (Nat × Option Dword)} (hl : ∀ r ∈ l, r.2.isSome = true) (c : Ctx) :
    ∃ regs, l.foldl Ctx.landRet c = { c with s := regs, out := c.out.filter fun y => decide (y ∉ l) } := by
  induction l generalizing c with
  | nil =>
    refine ⟨c.s, ?_⟩
    rw [List.foldl_nil, List.filter_eq_self.mpr (by simp)]
  | cons r l ih =>
    obtain ⟨hr, hl⟩ := List.forall_mem_cons.mp hl
    obtain ⟨v, hv⟩ := Option.isSome_iff_exists.mp hr
    obtain ⟨regs, h⟩ := ih hl (c.landRet r)
    have hland : c.landRet r = { c with s := (c.setS r.1 v).s, out := c.out.filter fun y => !decide (y = r) } := by
      rw [Ctx.landRet, hv]
      dsimp only
      rw [Ctx.setS_eq]
    have hout : (c.out.filter fun y => !decide (y = r)).filter (fun y => decide (y ∉ l)) =
        c.out.filter fun y => decide (y ∉ r :: l) := by
      rw [List.filter_filter]
      refine List.filter_congr fun y _ => ?_
      simp only [List.mem_cons, not_or, Bool.decide_and, decide_not, Bool.and_comm]
    refine ⟨regs, ?_⟩
    rw [List.foldl_cons, h, hland, ← hout]

/-- Every value lands, and nothing is owed. -/
theorem Ctx.landOut_eq {c : Ctx} (h : ∀ r ∈ c.out, r.2.isSome = true) : ∃ regs, c.landOut = { c with s := regs, out := [] } := by
  obtain ⟨regs, hland⟩ := Ctx.foldl_landRet h c
  refine ⟨regs, ?_⟩
  rw [Ctx.landOut_eq_foldl, hland, List.filter_eq_nil_iff.mpr (by simp)]

/-- The state of a freeze before the event record and the arbiter: steps have stopped, and every value has landed. -/
def State.landed (s : State) : State := (s.stopSteps s.xn).setX (s.stopSteps s.xn).x.landOut

theorem exec_freeze_early {s : State} (h : s.x.req = none ∨ ∃ k, s.x.req = some k ∧ k < s.core.deadline) :
    exec .freeze s = .next s := by
  have hdue : s.freezeDue = false := by
    rcases h with h | ⟨k, h, hk⟩
    · rw [State.freezeDue, h, Bool.and_false]
    · rw [State.freezeDue, h]
      simp [hk]
  rw [exec_freeze, execFreeze, hdue]
  rfl

section freeze
variable {s : State} (hout : ∀ r ∈ s.x.out, r.2.isSome = true)
include hout

/-- A freeze leaves what is in flight, the numbering, holds, latches and the pending target of its context (18 R378). -/
theorem State.landed_eq : s.landed.xn = s.xn ∧ s.landed.gtc = s.gtc ∧ ∃ regs ruGen ruD unseen, s.landed.x = { s.x with
    s := regs, out := [], ruGen := ruGen, ruD := ruD, unseen := unseen } := by
  obtain ⟨hxn, hgtc, hx⟩ := s.stops_stopSteps s.xn hout
  obtain ⟨regs, hland⟩ := Ctx.landOut_eq (c := (s.stopSteps s.xn).x) (by rw [hx]; exact hout)
  refine ⟨hxn, hgtc, regs, (s.stopSteps s.xn).x.ruGen, (s.stopSteps s.xn).x.ruD, (s.stopSteps s.xn).x.unseen, ?_⟩
  rw [State.landed, State.setX_x, hland, hx]

theorem exec_freeze_due (hrun : s.run = true) {k : Nat} (hreq : s.x.req = some k) (hk : s.core.deadline ≤ k) : exec .freeze s = .next
    ((s.landed.logEvent (s.landed.coreSource s.landed.xn 0) 0xA6 s.landed.x.tinfo (addrDword s.landed.x.pc)).giveUp .frozen) := by
  have hdue : s.freezeDue = true := by
    rw [State.freezeDue, hrun, hreq]
    simp [hk]
  obtain ⟨-, -, regs, ruGen, ruD, unseen, hx⟩ := State.landed_eq hout
  have hempty : s.landed.x.out.isEmpty = true := by rw [hx]; rfl
  rw [exec_freeze, execFreeze, hdue]
  show Host.Outcome.next (if !s.landed.x.out.isEmpty then _ else _) = _
  rw [hempty]
  rfl

end freeze

end Sys2Proof.Machine
end

section
/-! O10 (03 R54, R72, 05 R112, R115, R118, R119, 10 R227, R240, 17 R364, 18 R374, R378, R380): the arbiter, the events of the
issuing context, and how waiting strands come back. -/

namespace Sys2Proof.Machine

/-! ## The slice, the watchdog and the empty bundle (05 R119, 18 R380, 03 R54) -/

theorem State.sliceOver_iff (s : State) : s.sliceOver = true ↔
    s.run = true ∧ s.core.left ≤ 0 ∧ s.x.req = none ∧ ∃ n < 8, n ≠ s.xn ∧ (s.ctx n).isReady = true := by
  simp only [State.sliceOver, Bool.and_eq_true, decide_eq_true_eq, Option.isNone_iff_eq_none, List.any_eq_true, List.mem_range, and_assoc]
theorem exec_sliceExpiry_over {s : State} (h : s.sliceOver = true) :
    exec .sliceExpiry s = .next { s with x := { s.x with req := some 0 } } := by
  rw [exec_sliceExpiry, execSliceExpiry, if_pos h]
  rfl
theorem exec_sliceExpiry_not {s : State} (h : ¬ s.sliceOver = true) : exec .sliceExpiry s = .next s := by
  rw [exec_sliceExpiry, execSliceExpiry, if_neg h]

theorem State.wdogOver_iff (s : State) : s.wdogOver = true ↔ s.core.wdog ≠ 0#32 ∧ s.core.wdog.toNat ≤ s.x.waited := by
  simp only [State.wdogOver, Bool.and_eq_true, decide_eq_true_eq]
theorem exec_watchdog_over {s : State} (hrun : s.run = true) (h : s.wdogOver = true) : exec .watchdog s =
    .next (s.enterTrap 0xA5 0 (BitVec.ofNat 64 (s.x.wcode % 8)) s.x.pc).tick := by
  rw [exec_watchdog, execWatchdog, hrun, h]
  rfl
theorem exec_watchdog_not {s : State} (h : ¬ s.wdogOver = true) : exec .watchdog s = .next s := by
  rw [exec_watchdog, execWatchdog, Bool.eq_false_of_not_eq_true h, Bool.and_false]
  rfl

/-- A trap that is taken outside handler mode, as it leaves the context (18 R374). -/
theorem State.enterTrap_x {s : State} (h : s.x.h = false) (cause : Nat) (fmask : BitVec 16) (tinfo : Dword) (tpc : Addr) :
    (s.enterTrap cause fmask tinfo tpc).x = { s.x with
      saved := some ⟨s.x.bno, s.x.flight, s.x.latch, s.x.latchOk, s.x.holds⟩, flight := [], latchOk := 0, holds := [],
      dtgt := dtgtEntry s.x.dtgt s.x.pend s.x.link, pend := none, link := none,
      cause := BitVec.ofNat 8 cause, fmask := fmask, tpc := tpc &&& ~~~(3#56), tinfo := tinfo,
      h := true, pc := s.x.tvec, waited := 0, bankw := 0, wlines := [] } := by
  rw [State.enterTrap, State.takeTrap, h]
  rfl

theorem State.landDue_nil {s : State} (h : s.x.flight = []) : s.landDue = s := by
  have hx : ({ s.x with flight := [] } : Ctx) = s.x := by rw [← h]
  unfold State.landDue
  rw [h]
  exact congrArg s.setX hx

/-- The effects of a bundle with nothing in flight leave the number and the time one further on. -/
theorem State.advance_nil {s : State} (h : s.x.flight = []) : ∃ unseen, s.advance =
    (s.setX { s.x with bno := s.x.bno + 1, unseen := unseen, waited := 0, bankw := 0, wlines := [] }).tick := by
  unfold State.advance
  dsimp only
  generalize List.filter _ _ = unseen
  exact ⟨unseen, congrArg State.tick (State.landDue_nil h)⟩

/-- The empty bundle issues in sequence (03 R54). -/
theorem State.commit_empty {s : State} {a q : Addr} (hcur : s.cur = plainFrame a 1 q) (hdepth : s.x.depth = 0)
    (hpend : s.x.pend = none) (hflight : s.x.flight = []) : ∃ unseen, s.commit = ((s.setX { s.x with
      pc := a + 4#56, bno := s.x.bno + 1, unseen := unseen, waited := 0, bankw := 0, wlines := [] }).tick).setCur emptyFrame := by
  have hflow : s.x.flow s.cur = ({ s.x with depth := s.x.depth - 0, pc := addrWords a 1 }, false) := by
    rw [hcur]
    exact Ctx.flow_closes (n := 0) hpend rfl rfl (Nat.zero_le _) (by omega) (fun k hk => absurd hk k.not_lt_zero) rfl (.inl hdepth.symm)
  obtain ⟨unseen, hadv⟩ := State.advance_nil (s := s.setX (s.x.flow s.cur).1) (by rw [hflow]; exact hflight)
  refine ⟨unseen, ?_⟩
  rw [State.commit_of_plain hcur, hadv, hflow]
  rfl

/-! ## Contexts that come back (05 R112, 10 R240) -/

theorem State.firstCtx_some {s : State} {t : Ctx → Bool} {n : Nat} (hn : n < 8) (h : t (s.ctx n) = true)
    (hfirst : ∀ m < n, ¬ t (s.ctx m) = true) : s.firstCtx t = some n := by
  rw [State.firstCtx, List.find?_range_eq_some]
  exact ⟨h, List.mem_range.mpr hn, fun m hm => by simpa using hfirst m hm⟩
theorem State.firstCtx_none {s : State} {t : Ctx → Bool} (h : ∀ n < 8, ¬ t (s.ctx n) = true) : s.firstCtx t = none :=
  List.find?_eq_none.mpr fun n hn => h n (List.mem_range.mp hn)

theorem Ctx.waitOver_iff (c : Ctx) (gtc : Dword) : c.waitOver gtc = true ↔ ∃ u, c.status = .waiting u ∧ u.toNat ≤ gtc.toNat := by
  unfold Ctx.waitOver
  split
  · next t h => simp [h]
  · next h => simpa using fun u hu => absurd hu (h u)
theorem Ctx.sleepOver_iff (c : Ctx) (gtc : Dword) :
    c.sleepOver gtc = true ↔ ∃ u d, c.status = .sleeping u d ∧ u.toNat ≤ gtc.toNat := by
  unfold Ctx.sleepOver
  split
  · next t d h => simp [h]
  · next h => simpa using fun u d hu => absurd hu (h u d)

/-- A context that may have been asked to yield, and no more. -/
def Ctx.Asked (c d : Ctx) : Prop := d = { c with req := d.req }
/-- A context that comes back from mwait with a code in a register (10 R240). -/
structure Ctx.Back (c d : Ctx) (r code : Nat) : Prop where
  status : d.status = .ready
  pc : d.pc = c.pc
  regs : ∀ i, d.sreg i = if i = r ∧ i ≠ 0 then BitVec.ofNat 64 code else c.sreg i

theorem Ctx.Asked.refl (c : Ctx) : c.Asked c := rfl
theorem Ctx.Asked.trans {c d e : Ctx} (h : c.Asked d) (h' : d.Asked e) : c.Asked e := by
  rw [Ctx.Asked, h', h]
theorem Ctx.Asked.back {c d e : Ctx} {r code : Nat} (h : c.Asked d) (h' : d.Back e r code) : c.Back e r code := by
  rw [h] at h'
  exact ⟨h'.status, h'.pc, h'.regs⟩
theorem Ctx.Back.asked {c d e : Ctx} {r code : Nat} (h : c.Back d r code) (h' : d.Asked e) : c.Back e r code := by
  rw [h']
  exact ⟨h.status, h.pc, h.regs⟩

section mwait
variable {s : State} {n : Nat} (code : Nat)

/-- A context that does not sleep stays as it is. -/
theorem State.mwaitReturn_awake (h : ∀ u d, (s.ctx n).status ≠ .sleeping u d) : s.mwaitReturn n code = s := by
  unfold State.mwaitReturn
  dsimp only
  split
  · next u d hst => exact absurd hst (h u d)
  · rfl

variable {u : Dword} {d : Nat} (h : (s.ctx n).status = .sleeping u d)
include h

/-- One that sleeps has its entries freed, and is ready with the code. -/
theorem State.mwaitReturn_asleep : s.mwaitReturn n code =
    (s.setCore { s.core with watch := s.core.watch.filter fun w => !decide (va56 w.strand = va56 (s.ctx n).brec) }).makeReady n
      { (s.ctx n).setS d (BitVec.ofNat 64 code) with evicted := false } := by
  unfold State.mwaitReturn
  dsimp only
  rw [h]
theorem State.mwaitReturn_eq : ∃ x rest, s.mwaitReturn n code = { s with
    x := x, rest := rest,
    core := { s.core with watch := s.core.watch.filter fun w => !decide (va56 w.strand = va56 (s.ctx n).brec) } } := by
  rw [State.mwaitReturn_asleep code h]
  exact State.makeReady_eq ..
theorem State.back_mwaitReturn : (s.ctx n).Back ((s.mwaitReturn n code).ctx n) d code := by
  rw [State.mwaitReturn_asleep code h, State.ctx_makeReady_same]
  refine ⟨rfl, ?_, fun i => Ctx.sreg_setS ..⟩
  show ((s.ctx n).setS d (BitVec.ofNat 64 code)).pc = _
  rw [Ctx.setS_eq]

end mwait

theorem State.asked_mwaitReturn (s : State) (n code : Nat) {m : Nat} (hm : m ≠ n) : (s.ctx m).Asked ((s.mwaitReturn n code).ctx m) := by
  unfold State.mwaitReturn
  dsimp only
  split
  · exact State.ctx_makeReady_other _ _ _ hm
  · exact .refl _
theorem State.mwaitReturn_keeps (s : State) (n code : Nat) : (s.mwaitReturn n code).pkg = s.pkg ∧ (s.mwaitReturn n code).part = s.part := by
  by_cases h : ∃ u d, (s.ctx n).status = .sleeping u d
  · obtain ⟨u, d, h⟩ := h
    obtain ⟨x, rest, heq⟩ := State.mwaitReturn_eq code h
    rw [heq]
    exact ⟨rfl, rfl⟩
  · rw [State.mwaitReturn_awake code fun u d hst => h ⟨u, d, hst⟩]
    exact ⟨rfl, rfl⟩

/-- Contexts of a list returned one after the other. -/
def State.returnAll (s : State) (code : Nat) (l : List Nat) : State := l.foldl (fun s n => s.mwaitReturn n code) s

theorem State.returnAll_keeps (s : State) (code : Nat) (l : List Nat) :
    (s.returnAll code l).pkg = s.pkg ∧ (s.returnAll code l).part = s.part := by
  induction l generalizing s with
  | nil => exact ⟨rfl, rfl⟩
  | cons n l ih =>
    obtain ⟨hpkg, hpart⟩ := s.mwaitReturn_keeps n code
    obtain ⟨hpkg', hpart'⟩ := ih (s.mwaitReturn n code)
    exact ⟨hpkg'.trans hpkg, hpart'.trans hpart⟩
/-- A context that does not sleep may be asked to yield, and no more. -/
theorem State.asked_returnAll (s : State) (code : Nat) (l : List Nat) {m : Nat} (h : ∀ u d, (s.ctx m).status ≠ .sleeping u d) :
    (s.ctx m).Asked ((s.returnAll code l).ctx m) := by
  induction l generalizing s with
  | nil => exact .refl _
  | cons n l ih =>
    have hstep : (s.ctx m).Asked ((s.mwaitReturn n code).ctx m) := by
      by_cases hm : m = n
      · subst hm
        rw [State.mwaitReturn_awake code h]
        exact .refl _
      · exact s.asked_mwaitReturn n code hm
    refine hstep.trans (ih _ fun u d => ?_)
    rw [hstep]
    exact h u d
/-- A sleeping one of the list comes back. -/
theorem State.back_returnAll (s : State) (code : Nat) {l : List Nat} {m : Nat} (hm : m ∈ l) {u : Dword} {d : Nat}
    (h : (s.ctx m).status = .sleeping u d) : (s.ctx m).Back ((s.returnAll code l).ctx m) d code := by
  induction l generalizing s with
  | nil => exact absurd hm List.not_mem_nil
  | cons n l ih =>
    by_cases hn : m = n
    · subst hn
      have hback := State.back_mwaitReturn code h
      exact hback.asked (State.asked_returnAll _ code l fun u d => by rw [hback.status]; simp)
    · have hstep := s.asked_mwaitReturn n code hn
      exact hstep.back (ih _ ((List.mem_cons.mp hm).resolve_left hn) (by rw [hstep]; exact h))

/-! ## The ready list (05 R115, 01 R30, 17 R364) -/

/-- The state in which the oldest entry is placed: it has left the list. -/
def State.unlisted (s : State) (l : List ReadyEnt) : State := s.setDie { s.die with ready := l }

/-- The entry that a look-up answers: of the TLBs, or the one that the walk gives (10 R216). -/
theorem State.tlbFind_entry (s : State) (va : Nat) : (s.tlbFind va).2 =
    match s.core.utlb.find? (·.covers va) with
    | some e => .ok e
    | none =>
      match s.die.tlb.find? (·.covers va) with
      | some e => .ok e
      | none => (s.walk va 4 s.part.setup.root false).map fun p => ⟨va / 2 ^ p.2 * 2 ^ p.2, p.2, p.1⟩ := by
  unfold State.tlbFind
  cases s.core.utlb.find? (·.covers va) with
  | some e => rfl
  | none =>
    cases s.die.tlb.find? (·.covers va) with
    | some e => rfl
    | none => cases s.walk va 4 s.part.setup.root false <;> rfl

section unlisted
variable (s : State) (l : List ReadyEnt)

theorem State.walk_unlisted (va level table : Nat) (p : Bool) : (s.unlisted l).walk va level table p = s.walk va level table p := by
  induction level generalizing table p with
  | zero => rfl
  | succ n ih =>
    have hnext : (fun t q => (s.unlisted l).walk va n t q) = fun t q => s.walk va n t q := funext fun t => funext fun q => ih t q
    unfold State.walk
    rw [hnext]
    rfl
theorem State.tlbFind_unlisted (va : Nat) : ((s.unlisted l).tlbFind va).2 = (s.tlbFind va).2 := by
  rw [State.tlbFind_entry, State.tlbFind_entry, State.walk_unlisted]
  rfl
theorem State.recBytes_unlisted (va : Nat) : (s.unlisted l).recBytes va = s.recBytes va := by
  have htr : ((s.unlisted l).translate (BitVec.ofNat 64 va) false true).2 = (s.translate (BitVec.ofNat 64 va) false true).2 := by
    unfold State.translate
    dsimp only
    rw [State.tlbFind_unlisted]
    split <;> rfl
  rw [State.recBytes, State.recBytes, State.devAddr, State.devAddr, State.devTry, State.devTry, htr]
  rfl

end unlisted

section ready
variable {s : State} {e : ReadyEnt} {l : List ReadyEnt} (hready : s.die.ready = e :: l)
include hready

theorem exec_readyListPlace_some {t : State} (h : s.placeEntry e = some t) : exec .readyListPlace s = .next t := by
  rw [exec_readyListPlace, execReadyListPlace, State.readyPlace, hready]
  dsimp only [List.take_succ_cons, List.take_zero, List.cons_append]
  rw [List.findSome?_cons, h]
  rfl

variable (htile : e.tile = none)
include htile

theorem exec_readyListPlace_none (hl : ∀ y ∈ l, y.tile = none) (h : s.placeEntry e = none) : exec .readyListPlace s = .next s := by
  have hrecipes : ((e :: l).filter fun e => e.tile.isSome) = [] := by
    rw [List.filter_eq_nil_iff]
    refine List.forall_mem_cons.mpr ⟨by rw [htile]; exact Bool.false_ne_true, fun y hy => by rw [hl y hy]; exact Bool.false_ne_true⟩
  rw [exec_readyListPlace, execReadyListPlace, State.readyPlace, hready, hrecipes]
  rw [List.take_nil, List.append_nil, List.take_succ_cons, List.findSome?_cons, h]
  rfl

theorem State.placeEntry_eq : s.placeEntry e =
    (let r := recordOf (s.recBytes (va56 e.addr))
     let t := s.unlisted l
     if !s.recordOk r then some (t.discard (t.dispatcher 0) e.addr 0)
     else if e.resume then t.resumeAnyBy State.fireLines e.addr r (s.parkedOf e.addr e.sp)
     else if e.far then t.placeAnywhere e.addr r e.sp
     else t.placeOne e.addr r e.sp 0 false) := by
  have herase : s.die.ready.erase e = l := by rw [hready, List.erase_cons_head]
  unfold State.placeEntry
  rw [herase, htile, ← State.unlisted]
  dsimp only
  rw [State.recBytes_unlisted]
  rfl

end ready

/-! ## Placing the oldest entry (05 R108, R115, 15 R328, 04 R98) -/

section here
variable {s : State} {va : Dword} {r : Record} {n : Nat}

/-- A strand started while nobody waits: the die is as before. -/
theorem State.recState_startIn (hnone : s.NoneWaiting) (k : Parked) :
    (((s.startIn n va r k).recState va 1).ctx n).Starts s.part.setup.trapVec va r k.sp ∧
    ((s.startIn n va r k).recState va 1).die = s.die := by
  have hstarts := s.starts_startIn n va r k
  obtain ⟨x, rest, heq⟩ := s.startIn_eq n va r k
  have hwatch : (s.startIn n va r k).NoneWaiting := by rw [heq]; exact hnone
  obtain ⟨p, hstate⟩ := State.recState_pkg hwatch va 1
  rw [hstate]
  exact ⟨hstarts, by rw [State.setPkg_die, heq]⟩

variable (hnone : s.NoneWaiting) (hfree : s.freeCtx = some n) (hp : r.pitch = 0) (hl : r.lines = 0)
  (hroom : s.core.rres < s.freeCount)
include hnone hfree hp hl hroom

theorem State.resumeAnyBy_starts (k : Parked) : ∃ t, s.resumeAnyBy State.fireLines va r k = some t ∧ t.die = s.die ∧
    (t.ctx n).Starts s.part.setup.trapVec va r k.sp := by
  obtain ⟨hstarts, hdie⟩ := State.recState_startIn (n := n) (va := va) (r := r) hnone k
  exact ⟨((s.startIn n va r k).recState va 1).unpark va, State.resumeAnyBy_here hroom hfree (.inl ⟨hp, hl⟩) k, hdie, hstarts⟩
theorem State.placeOne_starts (hloaded : s.part.loaded = true) (sp : Bool) : ∃ t, s.placeOne va r sp 0 false = some t ∧ t.die = s.die ∧
    (t.ctx n).Starts s.part.setup.trapVec va r sp := by
  obtain ⟨hstarts, hdie⟩ := State.recState_startIn (s := (s.newParty r.job 1).1) (n := n) (va := va) (r := r) hnone
    ⟨va, sp, 0, (s.newParty r.job 1).2, none, false, []⟩
  exact ⟨_, State.placeOne_here hloaded hroom hfree hp hl, hdie, hstarts⟩

end here

/-- A die other than the core's has an idle context beside the reserve of the recipes (01 R30, 15 R328). -/
theorem State.idleOn_iff (s : State) (d : Nat) : s.idleOn d = true ↔ d ≠ s.core.die ∧ s.part.setup.dies.getLsbD d = true ∧
    Map.get 0 s.die.away d + s.core.rres < 768 := by
  simp only [State.idleOn, Bool.and_eq_true, decide_eq_true_eq, and_assoc]
theorem State.idleDie_some {s : State} {d : Nat} (hd : d < 4) (h : s.idleOn d = true) (hfirst : ∀ k < d, ¬ s.idleOn k = true) :
    s.idleDie = some d := by
  rw [State.idleDie, List.find?_range_eq_some]
  exact ⟨h, List.mem_range.mpr hd, fun k hk => by simpa using hfirst k hk⟩

section away
variable {s : State} {va : Dword} {r : Record}

/-- A strand without a pitch takes a context of another die, and nothing of this core changes. -/
theorem State.placeAwayBy_some (hnone : s.NoneWaiting) (hp : r.pitch = 0) {d : Nat} (hd : s.idleDie = some d) :
    ∃ p f, s.placeAwayBy State.fireLines va r = some { s.takeAway d with pkg := p, free := f } := by
  have hmark (t : State) (ht : t.NoneWaiting) : ∃ p, t.recStateBy State.fireLines va 1 = t.setPkg p := State.recState_pkg ht va 1
  unfold State.placeAwayBy
  rw [if_neg (not_not.mpr hp), hd]
  dsimp only
  split
  · obtain ⟨p, hwrite⟩ : ∃ p, ({ s.takeAway d with free := (s.takeAway d).free + 1 } : State).recWriteBy State.fireLines va 16
        (natBytes 2 (pitchOn d (Config.freeValue (s.takeAway d).free).toNat)) = _ :=
      State.recWrite_pkg (s := { s.takeAway d with free := (s.takeAway d).free + 1 }) hnone va 16 _
    obtain ⟨q, hstate⟩ := hmark (({ s.takeAway d with free := (s.takeAway d).free + 1 } : State).setPkg p) hnone
    exact ⟨q, (s.takeAway d).free + 1, by rw [hwrite, hstate]; rfl⟩
  · obtain ⟨q, hstate⟩ := hmark (s.takeAway d) hnone
    exact ⟨q, (s.takeAway d).free, by rw [hstate]; rfl⟩

variable (hfull : s.freeCount ≤ s.core.rres)
include hfull

theorem State.resumeAnyBy_full (k : Parked) :
    s.resumeAnyBy State.fireLines va r k = (s.placeAwayBy State.fireLines va r).map fun t => t.unpark va := by
  unfold State.resumeAnyBy
  rw [if_pos hfull, Option.none_or]
theorem State.placeAnywhere_full (sp : Bool) :
    s.placeAnywhere va r sp = if s.part.loaded then s.placeAwayBy State.fireLines va r else none := by
  unfold State.placeAnywhere
  rw [State.placeOne_none (.inr hfull)]

end away

section oldest
variable {s : State} {e : ReadyEnt} {l : List ReadyEnt} (hready : s.die.ready = e :: l) (htile : e.tile = none)
include hready htile

/-- An invalid record is discarded by the dispatcher (05 R108, log 39). -/
theorem State.placeEntry_invalid (hok : s.recordOk (recordOf (s.recBytes (va56 e.addr))) = false) :
    s.placeEntry e = some ((s.unlisted l).discard (s.dispatcher 0) e.addr 0) := by
  rw [State.placeEntry_eq hready htile]
  dsimp only
  rw [hok, Bool.not_false, if_pos rfl]
  rfl

variable (hok : s.recordOk (recordOf (s.recBytes (va56 e.addr))) = true)
include hok

theorem State.placeEntry_valid : s.placeEntry e =
    (let r := recordOf (s.recBytes (va56 e.addr))
     if e.resume then (s.unlisted l).resumeAnyBy State.fireLines e.addr r (s.parkedOf e.addr e.sp)
     else if e.far then (s.unlisted l).placeAnywhere e.addr r e.sp
     else (s.unlisted l).placeOne e.addr r e.sp 0 false) := by
  rw [State.placeEntry_eq hready htile]
  dsimp only
  rw [hok, Bool.not_true, if_neg Bool.false_ne_true]

/-- Where a context of this core is free beside the reserve, the record's strand starts there. -/
theorem State.placeEntry_here (hnone : s.NoneWaiting) {n : Nat} (hfree : s.freeCtx = some n)
    (hp : (recordOf (s.recBytes (va56 e.addr))).pitch = 0) (hl : (recordOf (s.recBytes (va56 e.addr))).lines = 0)
    (hplaces : e.resume = true ∨ s.part.loaded = true) (hroom : s.core.rres < s.freeCount) :
    ∃ t sp, s.placeEntry e = some t ∧ t.die.ready = l ∧
      (t.ctx n).Starts s.part.setup.trapVec e.addr (recordOf (s.recBytes (va56 e.addr))) sp ∧ (e.resume = false → sp = e.sp) := by
  have hnone : (s.unlisted l).NoneWaiting := hnone
  rw [State.placeEntry_valid hready htile hok]
  dsimp only
  cases hresume : e.resume with
  | true =>
    obtain ⟨t, hplace, hdie, hstarts⟩ := State.resumeAnyBy_starts (va := e.addr) hnone hfree hp hl hroom (s.parkedOf e.addr e.sp)
    exact ⟨t, _, hplace, by rw [hdie]; rfl, hstarts, by simp⟩
  | false =>
    have hloaded : s.part.loaded = true := by simpa [hresume] using hplaces
    obtain ⟨t, hplace, hdie, hstarts⟩ := State.placeOne_starts (va := e.addr) hnone hfree hp hl hroom hloaded e.sp
    refine ⟨t, e.sp, ?_, by rw [hdie]; rfl, hstarts, fun _ => rfl⟩
    rw [if_neg Bool.false_ne_true]
    split
    · rw [State.placeAnywhere, hplace]
    · exact hplace

/-- With the reserve alone free, an entry waits that may not go to another die or finds none with an idle context. -/
theorem State.placeEntry_waits (hfull : s.freeCount ≤ s.core.rres)
    (h : (e.resume = false ∧ (e.far = false ∨ s.part.loaded = false)) ∨ (recordOf (s.recBytes (va56 e.addr))).pitch ≠ 0 ∨
      ∀ d < 4, s.idleOn d = false) : s.placeEntry e = none := by
  have hfull : (s.unlisted l).freeCount ≤ (s.unlisted l).core.rres := hfull
  rw [State.placeEntry_valid hready htile hok]
  dsimp only
  rw [State.resumeAnyBy_full hfull, State.placeAnywhere_full hfull, State.placeOne_none (.inr hfull)]
  rcases h with ⟨hresume, hfar⟩ | haway
  · rw [hresume, if_neg Bool.false_ne_true]
    rcases hfar with hfar | hloaded
    · rw [hfar, if_neg Bool.false_ne_true]
    · have hloaded : (s.unlisted l).part.loaded = false := hloaded
      rw [hloaded, if_neg Bool.false_ne_true, ite_self]
  · rw [State.placeAwayBy_none (s := s.unlisted l) _ haway, Option.map_none, ite_self, ite_self, ite_self]

/-- With the reserve alone free, an entry that may takes a context of the lowest other die with an idle one. -/
theorem State.placeEntry_away (hnone : s.NoneWaiting) (hfull : s.freeCount ≤ s.core.rres)
    (hp : (recordOf (s.recBytes (va56 e.addr))).pitch = 0) (hmay : e.resume = true ∨ (e.far = true ∧ s.part.loaded = true))
    {d : Nat} (hd : s.idleDie = some d) :
    ∃ p f parked, s.placeEntry e = some { (s.unlisted l).takeAway d with pkg := p, free := f, part := { s.part with parked := parked } } := by
  have hnone : (s.unlisted l).NoneWaiting := hnone
  have hfull : (s.unlisted l).freeCount ≤ (s.unlisted l).core.rres := hfull
  have hd : (s.unlisted l).idleDie = some d := hd
  obtain ⟨p, f, haway⟩ := State.placeAwayBy_some (va := e.addr) hnone hp hd
  rw [State.placeEntry_valid hready htile hok]
  dsimp only
  rw [State.resumeAnyBy_full hfull, State.placeAnywhere_full hfull, haway]
  cases hresume : e.resume with
  | true => exact ⟨p, f, _, rfl⟩
  | false =>
    obtain ⟨hfar, hloaded⟩ : e.far = true ∧ s.part.loaded = true := by simpa [hresume] using hmay
    have hloaded : (s.unlisted l).part.loaded = true := hloaded
    rw [hfar, hloaded]
    exact ⟨p, f, s.part.parked, rfl⟩

end oldest

/-! ## Values that come back (03 R72) -/

theorem exec_gloadReturn_owed {c r : Nat} {v : Dword} {s : State}
    (h : (s.ctx c).out.find? (fun x => x.1 = r) = some (r, some v)) : exec (.gloadReturn c r) s =
      .next (s.setCtx c { (s.ctx c).setS r v with out := (s.ctx c).out.erase (r, some v) }) := by
  rw [exec_gloadReturn, execGloadReturn]
  dsimp only
  rw [h]

/-! ## The parts of the statement -/

theorem State.arbitrate_spec {s : State} (hswap : s.part.swapping = false) (hready : ∃ n < 8, (s.ctx n).isReady = true) :
    let t := s.arbitrate
    let fits (n : Nat) : Prop := n < 8 ∧ (s.ctx n).isReady = true ∧ (s.countedRun (s.ctx n) : Int) ≤ s.core.left
    t.run = true ∧ t.xn < 8 ∧ (s.ctx t.xn).isReady = true ∧ t.x.status = .running ∧ t.x.bonus = 0 ∧ t.x.req = none ∧
    t.x.s = (s.ctx t.xn).s ∧ t.x.pc = (s.ctx t.xn).pc ∧
    ((∃ n, fits n) → fits t.xn ∧ t.core.left = s.core.left ∧
      ∀ n, fits n → (s.ctx n).rank + (s.ctx n).bonus ≤ (s.ctx t.xn).rank + (s.ctx t.xn).bonus) ∧
    ((∀ n, ¬ fits n) → t.core.left = s.core.slice) := by
  intro t fits
  have hfits (n : Nat) : n ∈ s.fitting ↔ fits n := s.mem_fitting n
  by_cases h : ∃ n, n ∈ s.fitting
  · obtain ⟨n, hn, harb, hmax⟩ := State.arbitrate_fits hswap h
    have hfit := (hfits n).mp hn
    have ht : t = s.issueCtx n := harb
    rw [ht]
    exact ⟨rfl, hfit.1, hfit.2.1, rfl, rfl, rfl, rfl, rfl, fun _ => ⟨hfit, rfl, fun k hk => hmax k ((hfits k).mpr hk)⟩,
      fun hno => absurd hfit (hno n)⟩
  · have h : ∀ n, n ∉ s.fitting := fun n hn => h ⟨n, hn⟩
    obtain ⟨m, hm, hmready⟩ := hready
    obtain ⟨n, hn, harb⟩ := State.arbitrate_opens hswap ⟨m, (s.mem_readyOrder m).mpr ⟨hm, hmready⟩⟩ h
    obtain ⟨hn8, hnready⟩ := (s.mem_readyOrder n).mp hn
    have ht : t = s.openSlice.issueCtx n := harb
    have haged := (s.ctx_openSlice n).eq
    have hleft : s.openSlice.core.left = s.core.slice := by
      obtain ⟨x, rest, hopen⟩ := s.openSlice_eq
      rw [hopen]
    rw [ht]
    refine ⟨rfl, hn8, hnready, rfl, rfl, rfl, ?_, ?_, fun ⟨k, hk⟩ => absurd ((hfits k).mpr hk) (h k), fun _ => hleft⟩
    · rw [State.issueCtx_x, haged]
      rfl
    · rw [State.issueCtx_x, haged]
      rfl

/-- A freeze of a context to which no register without its value is owed (18 R378). -/
theorem exec_freeze_spec {s : State} (hrun : s.run = true) {k : Nat} (hreq : s.x.req = some k) (hk : s.core.deadline ≤ k)
    (hout : ∀ r ∈ s.x.out, r.2.isSome = true) : ∃ t, exec .freeze s = .next t ∧
    (let c := t.ctx s.xn
     (c.status = .frozen ∨ c.status = .running) ∧ c.out = [] ∧ c.req = none ∧ c.flight = s.x.flight ∧ c.bno = s.x.bno ∧
     c.holds = s.x.holds ∧ c.latch = s.x.latch ∧ c.latchOk = s.x.latchOk ∧ c.tbuf = s.x.tbuf ∧ c.pc = s.x.pc ∧ c.pend = s.x.pend) ∧
    ∃ e ∈ t.pkg.log, e.cause = 0xA6#8 ∧ e.gtc = s.gtc := by
  have hexec := exec_freeze_due hout hrun hreq hk
  obtain ⟨hxn, hgtc, regs, ruGen, ruD, unseen, hx⟩ := State.landed_eq hout
  generalize hu : s.landed.logEvent (s.landed.coreSource s.landed.xn 0) 0xA6 s.landed.x.tinfo (addrDword s.landed.x.pc) = u at hexec
  have hux : u.x = s.landed.x := by rw [← hu]; rfl
  have huxn : u.xn = s.xn := by rw [← hu]; exact hxn
  have hlog : ∃ e ∈ u.pkg.log, e.cause = 0xA6#8 ∧ e.gtc = s.gtc := by
    rw [← hu]
    exact ⟨_, List.mem_append_right _ (List.mem_singleton_self _), rfl, hgtc⟩
  have hgiven := u.ctx_giveUp .frozen
  have hno := u.req_giveUp .frozen
  obtain ⟨hpkg, -⟩ := u.giveUp_keeps .frozen
  rw [huxn] at hgiven hno
  refine ⟨_, hexec, ⟨hgiven.status.imp_right And.right, ?_, hno, ?_⟩, by rw [hpkg]; exact hlog⟩
  · rw [hgiven.eq, hux, hx]
  · rw [hgiven.eq, hux, hx]
    exact ⟨rfl, rfl, rfl, rfl, rfl, rfl, rfl, rfl⟩

theorem exec_watchdog_spec {s : State} (hrun : s.run = true) (hover : s.wdogOver = true) (hh : s.x.h = false) :
    ∃ t, exec .watchdog s = .next t ∧ t.x.cause = 0xA5#8 ∧
      t.x.tinfo.toNat = s.x.wcode % 8 ∧ t.x.h = true ∧ t.x.pc = s.x.tvec ∧ t.x.tpc = codeAddr s.x.pc.toNat ∧ t.x.s = s.x.s := by
  refine ⟨_, exec_watchdog_over hrun hover, ?_⟩
  rw [State.tick_x, State.enterTrap_x hh]
  refine ⟨rfl, ?_, rfl, rfl, (codeAddr_toNat _).symm, rfl⟩
  show (BitVec.ofNat 64 (s.x.wcode % 8)).toNat = _
  rw [BitVec.toNat_ofNat]
  omega

theorem exec_emptyBundle_spec {s : State} (hrun : s.run = true) {a q : Addr} (hcur : s.cur = Frame.start a q 1)
    (hdepth : s.x.depth = 0) (hpend : s.x.pend = none) (hflight : s.x.flight = []) : ∃ t, exec .emptyBundle s = .next t ∧
      t.x.bno = s.x.bno + 1 ∧ t.x.pc = a + 4#56 ∧ t.x.s = s.x.s ∧ t.x.p = s.x.p ∧ t.x.v = s.x.v ∧ t.run = true ∧
      t.core = { s.core with left := s.core.left - 1 } ∧ t.pkg.mem = s.pkg.mem := by
  obtain ⟨unseen, hcommit⟩ := State.commit_empty (q := q) hcur hdepth hpend hflight
  refine ⟨s.commit, ?_, ?_⟩
  · rw [exec_emptyBundle, execEmptyBundle, hrun, hcur]
    rfl
  · rw [hcommit]
    exact ⟨rfl, rfl, rfl, rfl, rfl, hrun, rfl, rfl⟩

section waits
variable {s : State} {n : Nat} (hn : n < 8)
include hn

/-- The lowest context whose wait has ended is ready (05 R112). -/
theorem exec_waitExpiry_ended (h : ∃ u, (s.ctx n).status = .waiting u ∧ u.toNat ≤ s.gtc.toNat)
    (hfirst : ∀ m < n, ¬ ∃ u, (s.ctx m).status = .waiting u ∧ u.toNat ≤ s.gtc.toNat) :
    exec .waitExpiry s = .next (s.makeReady n (s.ctx n)) := by
  have hfound : s.firstCtx (fun c => c.waitOver s.gtc) = some n :=
    State.firstCtx_some hn ((Ctx.waitOver_iff _ _).mpr h) fun m hm => by
      rw [Ctx.waitOver_iff]
      exact hfirst m hm
  rw [exec_waitExpiry, execWaitExpiry, hfound]

/-- The lowest context that has slept to its timeout returns with code 1 (10 R240). -/
theorem exec_mwaitTimeout_late (h : ∃ u d, (s.ctx n).status = .sleeping u d ∧ u.toNat ≤ s.gtc.toNat)
    (hfirst : ∀ m < n, ¬ ∃ u d, (s.ctx m).status = .sleeping u d ∧ u.toNat ≤ s.gtc.toNat) :
    exec .mwaitTimeout s = .next (s.mwaitReturn n 1) := by
  have hfound : s.firstCtx (fun c => c.sleepOver s.gtc) = some n :=
    State.firstCtx_some hn ((Ctx.sleepOver_iff _ _).mpr h) fun m hm => by
      rw [Ctx.sleepOver_iff]
      exact hfirst m hm
  rw [exec_mwaitTimeout, execMwaitTimeout, hfound]

end waits

theorem exec_waitExpiry_none {s : State} (h : ∀ n < 8, ¬ ∃ u, (s.ctx n).status = .waiting u ∧ u.toNat ≤ s.gtc.toNat) :
    exec .waitExpiry s = .next s := by
  have hnone : s.firstCtx (fun c => c.waitOver s.gtc) = none :=
    State.firstCtx_none fun n hn => by rw [Ctx.waitOver_iff]; exact h n hn
  rw [exec_waitExpiry, execWaitExpiry, hnone]
theorem exec_mwaitTimeout_none {s : State} (h : ∀ n < 8, ¬ ∃ u d, (s.ctx n).status = .sleeping u d ∧ u.toNat ≤ s.gtc.toNat) :
    exec .mwaitTimeout s = .next s := by
  have hnone : s.firstCtx (fun c => c.sleepOver s.gtc) = none :=
    State.firstCtx_none fun n hn => by rw [Ctx.sleepOver_iff]; exact h n hn
  rw [exec_mwaitTimeout, execMwaitTimeout, hnone]

/-- Settles O10: the arbiter's choice is the maximum of a fold, a freeze goes through the stop of steps and the landings, and each
event of a waiting strand is an equation of one context. -/
theorem scheduling : Obligations.Scheduling := by
  unfold Obligations.Scheduling
  refine ⟨fun s _ hswap hready => State.arbitrate_spec hswap hready, fun s hrun => ?issuing, fun s => ?waiting⟩
  case issuing =>
    refine ⟨fun hleft hreq hother => exec_sliceExpiry_over (s.sliceOver_iff.mpr ⟨hrun, hleft, hreq, hother⟩), fun hno => ?slice,
      fun k hreq hk hout => exec_freeze_spec hrun hreq hk hout, exec_freeze_early,
      fun hon hover hh => exec_watchdog_spec hrun (s.wdogOver_iff.mpr ⟨hon, hover⟩) hh, fun hno => ?wdog,
      fun a q hcur hdepth hpend hflight => exec_emptyBundle_spec hrun hcur hdepth hpend hflight⟩
    case slice =>
      refine exec_sliceExpiry_not fun hover => ?_
      obtain ⟨-, hleft, hreq, n, hn, hne, hready⟩ := s.sliceOver_iff.mp hover
      rcases hno with hno | hno | hno
      · omega
      · exact hno hreq
      · rw [hno n hn hne] at hready
        exact Bool.false_ne_true hready
    case wdog =>
      refine exec_watchdog_not fun hover => ?_
      obtain ⟨hon, hover⟩ := s.wdogOver_iff.mp hover
      rcases hno with hno | hno
      · exact hon hno
      · omega
  case waiting =>
    intro ended late rest back freed
    refine ⟨fun n hn hended hfirst => ?ended, fun hnone => exec_waitExpiry_none hnone, fun n hn u d hlate hfirst hst => ?late,
      fun hnone => exec_mwaitTimeout_none hnone, ?broadcast, fun e l hready htile hnone => ?ready, fun hnil => ?nothing,
      fun c r v hfind => ?value, fun r => rfl⟩
    case ended =>
      obtain ⟨x, rest', heq⟩ := s.makeReady_eq n (s.ctx n)
      refine ⟨_, exec_waitExpiry_ended hn hended hfirst, State.ctx_makeReady_same .., fun m hm => State.ctx_makeReady_other _ _ _ hm,
        by rw [heq], by rw [heq], fun hrun hreq hne hrank => State.makeReady_req _ _ _ hrun hreq hne hrank⟩
    case late =>
      obtain ⟨x, rest', heq⟩ := State.mwaitReturn_eq 1 hst
      obtain ⟨hready, hpc, hregs⟩ := State.back_mwaitReturn 1 hst
      refine ⟨_, exec_mwaitTimeout_late hn hlate hfirst, ⟨hready, hpc, hregs⟩, fun m hm => s.asked_mwaitReturn n 1 hm, ?_, by rw [heq]⟩
      rw [heq]
      simp only [freed, decide_not]
    case broadcast =>
      obtain ⟨hpkg, hpart⟩ := s.returnAll_keeps 4 (List.range 8)
      refine ⟨s.returnAll 4 (List.range 8), rfl, hpkg, hpart, fun n hn => ⟨fun u d hst => ?_, fun hst => s.asked_returnAll 4 _ hst⟩⟩
      obtain ⟨hready, hpc, hregs⟩ := s.back_returnAll 4 (List.mem_range.mpr hn) hst
      exact ⟨hready, hpc, hregs⟩
    case ready =>
      intro r
      refine ⟨fun n hfree hp hl hok hplaces hroom => ?here, ?full, fun hok => ?invalid⟩
      case here =>
        obtain ⟨t, sp, hplace, hlist, hstarts, hsp⟩ := State.placeEntry_here hready htile hok hnone hfree hp hl hplaces hroom
        exact ⟨t, exec_readyListPlace_some hready hplace, hlist, hstarts.status, hstarts.brec, hstarts.pc,
          fun hresume => hstarts.sp.trans (hsp hresume), hstarts.regs⟩
      case full =>
        intro others hok hfull
        have hothers (d : Nat) : others d ↔ d < 4 ∧ s.idleOn d = true := by rw [State.idleOn_iff]
        refine ⟨fun hwaits hl => exec_readyListPlace_none hready htile hl (State.placeEntry_waits hready htile hok hfull ?_),
          fun d hmay hp hd hfirst => ?_⟩
        · refine hwaits.imp_right (Or.imp_right fun hno d hd => ?_)
          exact Bool.eq_false_of_not_eq_true fun hidle => hno d ((hothers d).mpr ⟨hd, hidle⟩)
        · obtain ⟨hd4, hidle⟩ := (hothers d).mp hd
          have hdie := State.idleDie_some hd4 hidle fun k hk hidle => hfirst k hk ((hothers k).mpr ⟨by omega, hidle⟩)
          obtain ⟨p, f, parked, hplace⟩ := State.placeEntry_away hready htile hok hnone hfull hp hmay hdie
          refine ⟨_, exec_readyListPlace_some hready hplace, rfl, fun k => ?_, rfl, fun n => rfl⟩
          show Map.get 0 (Map.set 0 s.die.away d (Map.get 0 s.die.away d + 1)) k = _
          rw [Map.get_set]
          split
          · next hk => rw [hk]
          · rfl
      case invalid =>
        exact ⟨_, _, exec_readyListPlace_some hready (State.placeEntry_invalid hready htile hok), rfl, rfl, rfl, rfl, rfl, rfl, rfl⟩
    case nothing =>
      rw [exec_readyListPlace, execReadyListPlace, State.readyPlace, hnil]
      rfl
    case value =>
      refine ⟨_, exec_gloadReturn_owed hfind, ?_, fun i => ?_, fun m hm => ?_, ?_, ?_⟩
      · rw [State.ctx_setCtx, if_pos rfl]
      · rw [State.ctx_setCtx, if_pos rfl]
        exact Ctx.sreg_setS ..
      · rw [State.ctx_setCtx, if_neg hm]
      · rw [State.setCtx_eq]
      · rw [State.setCtx_eq]

end Sys2Proof.Machine
end

section

/-! # The stream-context commands at the edge of host memory (05 R128)

An entry may straddle the top of host memory. Where the running partition has key id 0, the dword of the flags below that edge is
host memory and reads back what is there, and the rest of the entry lies above it, where nothing read under key id 0 is kept. So
V can be set in an entry whose `next` no write changes. -/

namespace Sys2Proof.Machine
open Host

/-- The reset state with one entry in the table, 6 bytes below the top of host memory: the stream's id and the flags, V set, lie in
host memory, the rest of the entry above it. The key id of the partition is 0, and s1 holds 5. -/
def edgeEntry : State := { State.reset with
  x := { emptyCtx with s := [(1, 5)] }
  part := { emptyPart with setup := { emptySetup with sct := 0x7FFFFFFFFFFA, sctCount := 1 } }
  pkg := { resetPkg with mem := [(0x7FFFFFFFFFFE, 1)] } }

/-- sct.arm of entry s0 = 0 at the time s1 = 5. -/
def armAtFive : EF := ⟨0, 1, 0, 0⟩

theorem edgeEntry_valid : (edgeEntry.sctGet 0).flag 0 = true := by decide +kernel
theorem edgeEntry_whole : edgeEntry.integrityFail 0x7FFFFFFFFFFA = false := by decide +kernel

/-- sct.arm commits, and the entry's next launch reads 0 and not 5. -/
theorem sctArm_edgeEntry_next {t : State} (h : exec (.sctArm armAtFive) edgeEntry = .next t) : (t.sctGet 0).next = 0 := by
  have harm : (match exec (.sctArm armAtFive) edgeEntry with | .next t => (t.sctGet 0).next | _ => 5) = 0 := by decide +kernel
  rwa [h] at harm

/-- Refutes O46: the clause of sct.arm has no hypothesis on the key id. Under key id 0 an entry with V in host memory and `next`
above its top is valid, and sct.arm at 5 leaves its next launch reading 0. -/
theorem not_streamContexts : ¬ Obligations.StreamContexts := by
  unfold Obligations.StreamContexts
  rintro ⟨hops, -, -⟩
  obtain ⟨-, hvalid, -⟩ := hops armAtFive edgeEntry rfl
  have hreads : ¬ (0 < 1 ∧ edgeEntry.integrityFail 0x7FFFFFFFFFFA = true) := fun ⟨_, h⟩ =>
    Bool.false_ne_true (edgeEntry_whole.symm.trans h)
  have hbound : ¬ (1 ≤ 0 ∨ (edgeEntry.sctGet 0).flag 0 = false) := by
    rintro (h | h)
    · exact absurd h (by decide)
    · exact Bool.false_ne_true (h.symm.trans edgeEntry_valid)
  obtain ⟨⟨t, hexec, -, hentry⟩, -⟩ := hvalid hreads hbound
  have hnext : (t.sctGet 0).next = 5 := congrArg Sct.next hentry
  exact absurd ((sctArm_edgeEntry_next hexec).symm.trans hnext) (by decide)

end Sys2Proof.Machine
end

section
/-! O19 (06 R129 to R144): the integer vector ops. A result is made of its elements, and an element function lands on every element;
then one lemma for each effect that is not plain arithmetic modulo 2^n. -/

namespace Sys2Proof.Machine

/-! ## Elements of a lane (06 R129) -/

/-- The element width of the model is the one the statements speak of. -/
theorem tyBits_eq_widthOf (t : BitVec 2) : tyBits t = widthOf t := rfl

/-- A narrow type is one of 16 or 8 bits (06 R142). -/
theorem widthOf_narrow {t : BitVec 2} (h : t ≠ 0#2) : widthOf t = 16 ∨ widthOf t = 8 := by
  rw [widthOf, if_neg h]
  split
  · exact .inl rfl
  · exact .inr rfl

theorem widthOf_cases (t : BitVec 2) : widthOf t = 32 ∨ widthOf t = 16 ∨ widthOf t = 8 := by
  by_cases h : t = 0#2
  · exact .inl (if_pos h)
  · exact .inr (widthOf_narrow h)

/-- The elements of a lane fill it. -/
theorem widthOf_fills (t : BitVec 2) : widthOf t * (32 / widthOf t) = 32 := by
  rcases widthOf_cases t with h | h | h <;> rw [h]

theorem widthOf_ge (t : BitVec 2) : 8 ≤ widthOf t := by
  rcases widthOf_cases t with h | h | h <;> omega

theorem elem_lt (n : Nat) (x : Word) (j : Nat) : elem n x j < 2 ^ n := Nat.mod_lt _ (Nat.two_pow_pos n)

/-- A whole lane is its one element of 32 bits. -/
theorem elem_word (x : Word) : elem 32 x 0 = x.toNat := by
  rw [elem, Nat.mul_zero, Nat.pow_zero, Nat.div_one, Nat.mod_eq_of_lt x.isLt]

/-- The number that `per` elements of n bits make. -/
def packed (n per : Nat) (f : Nat → Nat) : Nat := (List.range per).foldl (fun a j => a + f j % 2 ^ n * 2 ^ (n * j)) 0

theorem packElems_eq (n per : Nat) (f : Nat → Nat) : packElems n per f = BitVec.ofNat 32 (packed n per f) := rfl

theorem packed_succ (n per : Nat) (f : Nat → Nat) :
    packed n (per + 1) f = packed n per f + f per % 2 ^ n * 2 ^ (n * per) := by
  rw [packed, List.range_succ, List.foldl_append]; rfl

theorem packed_lt (n per : Nat) (f : Nat → Nat) : packed n per f < 2 ^ (n * per) := by
  induction per with
  | zero => exact Nat.two_pow_pos _
  | succ per ih =>
    calc packed n (per + 1) f = packed n per f + f per % 2 ^ n * 2 ^ (n * per) := packed_succ n per f
      _ < (f per % 2 ^ n + 1) * 2 ^ (n * per) := by rw [Nat.add_mul, Nat.one_mul]; omega
      _ ≤ 2 ^ n * 2 ^ (n * per) := Nat.mul_le_mul_right _ (Nat.mod_lt _ (Nat.two_pow_pos n))
      _ = 2 ^ (n * (per + 1)) := by rw [← Nat.pow_add, Nat.mul_succ, Nat.add_comm]

theorem packed_element (n per : Nat) (f : Nat → Nat) {j : Nat} (hj : j < per) :
    packed n per f / 2 ^ (n * j) % 2 ^ n = f j % 2 ^ n := by
  induction per with
  | zero => omega
  | succ per ih =>
    rw [packed_succ]
    rcases Nat.lt_succ_iff_lt_or_eq.mp hj with hlt | rfl
    · obtain ⟨d, rfl⟩ := Nat.exists_eq_add_of_lt hlt
      have habove : f (j + d + 1) % 2 ^ n * 2 ^ (n * (j + d + 1)) =
          2 ^ (n * j) * (2 ^ n * (f (j + d + 1) % 2 ^ n * 2 ^ (n * d))) := by
        rw [show n * (j + d + 1) = n * j + n + n * d by ring, Nat.pow_add, Nat.pow_add]; ring
      rw [habove, Nat.add_mul_div_left _ _ (Nat.two_pow_pos _), Nat.add_mul_mod_self_left, ih hlt]
    · rw [Nat.add_mul_div_right _ _ (Nat.two_pow_pos _), Nat.div_eq_of_lt (packed_lt n j f), Nat.zero_add, Nat.mod_mod]

/-- A lane made of elements that fill it has these elements. -/
theorem elem_packElems {n per : Nat} (hn : n * per = 32) (f : Nat → Nat) {j : Nat} (hj : j < per) :
    elem n (packElems n per f) j = f j % 2 ^ n := by
  have hlt : packed n per f < 2 ^ 32 := hn ▸ packed_lt n per f
  rw [elem, packElems_eq, BitVec.toNat_ofNat, Nat.mod_eq_of_lt hlt, packed_element n per f hj]

/-- The same for the lanes that a function of lane and element gives. -/
theorem elem_at_packed {n per : Nat} (hn : n * per = 32) (g : Nat → Nat → Nat) {i j : Nat} (hi : i < 16) (hj : j < per) :
    elem n ((Lanes.of fun i => packElems n per (g i)).at i) j = g i j % 2 ^ n := by
  rw [Lanes.at_of, Nat.mod_eq_of_lt hi, elem_packElems hn _ hj]

/-- Elements of a whole register (06 R144). -/
theorem regElem_lanesOfElems {n : Nat} (hn : n * (32 / n) = 32) (g : Nat → Nat) {e : Nat} (he : e < 16 * (32 / n)) :
    regElem n (32 / n) (lanesOfElems n g) e = g e % 2 ^ n := by
  have hper : 0 < 32 / n := Nat.pos_of_ne_zero fun h => by rw [h] at hn; omega
  have hlane : e / (32 / n) < 16 := (Nat.div_lt_iff_lt_mul hper).mpr he
  rw [regElem, lanesOfElems, elem_at_packed hn _ hlane (Nat.mod_lt _ hper), Nat.div_add_mod]

/-! ## Signed numbers of n bits (00 R4) -/

theorem sgn_eq_signed {n x : Nat} (hx : x < 2 ^ n) : sgn n x = signed n x := by
  simp only [sgn, intOf, signed, Nat.mod_eq_of_lt hx, Bool.not_false, Bool.true_and, decide_eq_true_eq]
  split <;> split <;> omega

theorem sgn_elem (n : Nat) (x : Word) (j : Nat) : sgn n (elem n x j) = signed n (elem n x j) := sgn_eq_signed (elem_lt n x j)

/-- The powers of two that bound the signed numbers of n bits. -/
theorem two_pow_eq_double {n : Nat} (hn : 0 < n) : 2 ^ n = 2 * 2 ^ (n - 1) := by
  rw [← Nat.pow_succ', Nat.succ_eq_add_one, Nat.sub_add_cancel hn]

theorem signed_bounds {n x : Nat} (hn : 0 < n) (hx : x < 2 ^ n) :
    -((2 ^ (n - 1) : Nat) : Int) ≤ signed n x ∧ signed n x < (2 ^ (n - 1) : Nat) := by
  have hdouble := two_pow_eq_double hn
  unfold signed
  split <;> omega

/-- The signed number and the number it is read from agree modulo 2^n. -/
theorem signed_emod (n x : Nat) : signed n x % (2 ^ n : Nat) = (x : Int) % (2 ^ n : Nat) := by
  unfold signed
  split
  · rfl
  · exact Int.sub_emod_right _ _

theorem natCast_wrap (n : Nat) (v : Int) : (wrap n v : Int) = v % (2 ^ n : Nat) :=
  Int.toNat_of_nonneg (Int.emod_nonneg _ (by have := Nat.two_pow_pos n; omega))

theorem wrap_lt (n : Nat) (v : Int) : wrap n v < 2 ^ n := by
  have hlt := Int.emod_lt_of_pos v (b := (2 ^ n : Nat)) (by have := Nat.two_pow_pos n; omega)
  rw [← natCast_wrap] at hlt
  omega

@[simp] theorem wrap_mod (n : Nat) (v : Int) : wrap n v % 2 ^ n = wrap n v := Nat.mod_eq_of_lt (wrap_lt n v)

/-- A number that n bits can hold signed is kept by them. -/
theorem signed_wrap {n : Nat} {v : Int} (hn : 0 < n) (hlo : -((2 ^ (n - 1) : Nat) : Int) ≤ v) (hhi : v < (2 ^ (n - 1) : Nat)) :
    signed n (wrap n v) = v := by
  have hdouble := two_pow_eq_double hn
  have hwrap := natCast_wrap n v
  unfold signed
  rcases Int.lt_or_le v 0 with hneg | hpos
  · rw [← Int.add_emod_right, Int.emod_eq_of_lt (by omega) (by omega)] at hwrap
    split <;> omega
  · rw [Int.emod_eq_of_lt hpos (by omega)] at hwrap
    split <;> omega

/-! ## Ops on every element -/

/-- A two-source op stands, element by element, in the relation in which its element function does. -/
theorem vectorResult_of_vop2 {i : Instr} {f : VR} {s : State} {n lat : Nat} {g : ElemFn} {R : Nat → Nat → Nat → Prop}
    (hn : n * (32 / n) = 32) (h : exec i s = vop2 f n lat g s)
    (hg : ∀ x y, x < 2 ^ n → y < 2 ^ n → R x y (g n x y % 2 ^ n)) :
    VectorResult i s f lat fun a b v =>
      ∀ i < 16, ∀ j < 32 / n, R (elem n (a.at i) j) (elem n (b.at i) j) (elem n (v.at i) j) := by
  refine ⟨_, h, fun i hi j hj => ?_⟩
  rw [elemwise, elem_at_packed hn _ hi hj]
  exact hg _ _ (elem_lt ..) (elem_lt ..)

/-- The same for a one-source op. -/
theorem vectorResult1_of_vop1 {i : Instr} {f : VR} {s : State} {n lat : Nat} {g : Nat → Nat → Nat} {R : Nat → Nat → Prop}
    (hn : n * (32 / n) = 32) (h : exec i s = vop1 f n lat g s) (hg : ∀ x, x < 2 ^ n → R x (g n x % 2 ^ n)) :
    VectorResult1 i s f lat fun a v => ∀ i < 16, ∀ j < 32 / n, R (elem n (a.at i) j) (elem n (v.at i) j) := by
  refine ⟨_, h, fun i hi j hj => ?_⟩
  rw [elemwise, elem_at_packed hn _ hi hj]
  exact hg _ (elem_lt ..)

/-- A two-source op on whole lanes (06 R138). -/
theorem vectorResult_of_lanes {i : Instr} {f : VR} {s : State} {lat : Nat} {g : ElemFn} {G : Word → Word → Word}
    (h : exec i s = vop2 f 32 lat g s) (hg : ∀ x y : Word, g 32 x.toNat y.toNat = (G x y).toNat) :
    VectorResult i s f lat fun a b v => ∀ i < 16, v.at i = G (a.at i) (b.at i) := by
  refine ⟨_, h, fun i hi => BitVec.eq_of_toNat_eq ?_⟩
  rw [← elem_word, elemwise, elem_at_packed (by decide) _ hi (by decide), elem_word, elem_word, hg,
    Nat.mod_eq_of_lt (BitVec.isLt _)]

/-- The model subtracts with 2^n added first (06 R135). -/
theorem natCast_sub_mod {n x y : Nat} (hy : y < 2 ^ n) :
    (((x + 2 ^ n - y) % 2 ^ n : Nat) : Int) % (2 ^ n : Nat) = ((x : Int) - y) % (2 ^ n : Nat) := by
  rw [Int.natCast_mod, Int.emod_emod, show ((x + 2 ^ n - y : Nat) : Int) = x - y + (2 ^ n : Nat) by omega, Int.add_emod_right]

/-- The smaller of two elements by their signed numbers is the element of the smaller number (06 R135). -/
theorem min_signed_emod {n x y : Nat} (hx : x < 2 ^ n) (hy : y < 2 ^ n) :
    ((if sgn n x ≤ sgn n y then x else y : Nat) : Int) % (2 ^ n : Nat) = min (signed n x) (signed n y) % (2 ^ n : Nat) := by
  rw [sgn_eq_signed hx, sgn_eq_signed hy, min_def]
  split <;> rw [signed_emod]
theorem max_signed_emod {n x y : Nat} (hx : x < 2 ^ n) (hy : y < 2 ^ n) :
    ((if sgn n x ≤ sgn n y then y else x : Nat) : Int) % (2 ^ n : Nat) = max (signed n x) (signed n y) % (2 ^ n : Nat) := by
  rw [sgn_eq_signed hx, sgn_eq_signed hy, max_def]
  split <;> rw [signed_emod]

/-- The register that an op reads as its third source (06 R136). -/
theorem State.oldD_eq (s : State) (f : VR) :
    s.oldD f = s.x.vreg s.cur.cluster (if f.w = true ∨ 32 ≤ f.d.toNat then 0 else f.d.toNat) := by
  simp only [State.oldD, Bool.or_eq_true, decide_eq_true_eq, Nat.lt_iff_add_one_le, Nat.reduceAdd]

/-- vmac: what is added to is the destination as it stands at issue (06 R136). -/
theorem vectorResult_vmac (f : VR) (s : State) : VectorResult (.vmac f) s f 3 fun a b v => ∀ i < 16, ∀ j < 32 / widthOf f.t,
    elem (widthOf f.t) (v.at i) j = (elem (widthOf f.t) ((s.oldD f).at i) j +
      elem (widthOf f.t) (a.at i) j * elem (widthOf f.t) (b.at i) j) % 2 ^ widthOf f.t := by
  refine ⟨_, exec_vmac f s, fun i hi j hj => ?_⟩
  rw [tyBits_eq_widthOf, elem_at_packed (widthOf_fills f.t) _ hi hj, Nat.mod_mod]

/-- A dot product adds to the whole lane, modulo 2^32 (06 R137). -/
theorem vectorResult_of_vdot {i : Instr} {f : VR} {s : State} {n : Nat} (h : exec i s = vdot f n s) :
    VectorResult i s f 3 fun a b v => ∀ i < 16, ((v.at i).toNat : Int) =
      (List.range (32 / n)).foldl (fun (t : Int) j => t + signed n (elem n (a.at i) j) * signed n (elem n (b.at i) j))
        (((s.oldD f).at i).toNat : Int) % 2 ^ 32 := by
  refine ⟨_, h, fun i hi => ?_⟩
  have hpos (v : Int) : 0 ≤ v % 2 ^ 32 := Int.emod_nonneg v (by decide)
  simp only [Lanes.at_of, Nat.mod_eq_of_lt hi, sgn_elem, BitVec.toNat_ofInt, Nat.cast_pow, Nat.cast_ofNat,
    Int.toNat_of_nonneg (hpos _)]

/-! ## Shifts, compares and counts -/

/-- A signed number that 2^k times the range bounds falls into the range as it is shifted right by k, toward minus infinity. -/
theorem ediv_mem_range {v : Int} {h p : Nat} (hp : 0 < p) (hlo : -(h : Int) ≤ v) (hhi : v < h * p) :
    -(h : Int) ≤ v / p ∧ v / p < h := by
  have hp' : (0 : Int) < p := by omega
  refine ⟨(Int.le_ediv_iff_mul_le hp').mpr ?_, (Int.ediv_lt_iff_lt_mul hp').mpr hhi⟩
  have hge : (h : Int) * 1 ≤ h * p := Int.mul_le_mul_of_nonneg_left (by omega) (by omega)
  rw [Int.neg_mul]
  omega

theorem signed_wrap_shift {n x : Nat} (hn : 0 < n) (hx : x < 2 ^ n) (k : Nat) :
    signed n (wrap n (signed n x / (2 ^ k : Nat))) = signed n x / (2 ^ k : Nat) := by
  obtain ⟨hlo, hhi⟩ := signed_bounds hn hx
  have hbound : signed n x < (2 ^ (n - 1) : Nat) * (2 ^ k : Nat) :=
    Int.lt_of_lt_of_le hhi (by exact_mod_cast Nat.le_mul_of_pos_right (2 ^ (n - 1)) (Nat.two_pow_pos k))
  obtain ⟨hlo', hhi'⟩ := ediv_mem_range (Nat.two_pow_pos k) hlo hbound
  exact signed_wrap hn hlo' hhi'

/-- The rounded shift fits in n bits (06 R138). -/
theorem signed_wrap_round {n x k : Nat} (hx : x < 2 ^ n) (hk : 0 < k) (hkn : k < n) :
    signed n (wrap n ((signed n x + (2 ^ (k - 1) : Nat)) / (2 ^ k : Nat))) =
      (signed n x + (2 ^ (k - 1) : Nat)) / (2 ^ k : Nat) := by
  obtain ⟨hlo, hhi⟩ := signed_bounds (by omega) hx
  have hhalf : 2 ^ (k - 1) ≤ 2 ^ (n - 1) := Nat.pow_le_pow_right (by decide) (by omega)
  have htwo : 2 ≤ 2 ^ k := Nat.le_self_pow (by omega) 2
  have hbound : signed n x + (2 ^ (k - 1) : Nat) < (2 ^ (n - 1) : Nat) * (2 ^ k : Nat) :=
    calc signed n x + (2 ^ (k - 1) : Nat) < ((2 ^ (n - 1) * 2 : Nat) : Int) := by omega
      _ ≤ (2 ^ (n - 1) : Nat) * (2 ^ k : Nat) := by exact_mod_cast Nat.mul_le_mul_left _ htwo
  have hnonneg : (0 : Int) ≤ (2 ^ (k - 1) : Nat) := Int.natCast_nonneg _
  obtain ⟨hlo', hhi'⟩ := ediv_mem_range (Nat.two_pow_pos k)
    (Int.le_trans hlo (Int.le_add_of_nonneg_right hnonneg)) hbound
  exact signed_wrap (by omega) hlo' hhi'

/-- The six bits of three decisions, each with its negation beside it (06 R139). -/
theorem testBit_conditions (p q r : Prop) [Decidable p] [Decidable q] [Decidable r] :
    let z := (if p then 1 else 2) + (if q then 4 else 8) + (if r then 16 else 32)
    z < 64 ∧ (z.testBit 0 = true ↔ p) ∧ (z.testBit 1 = true ↔ ¬ p) ∧ (z.testBit 2 = true ↔ q) ∧ (z.testBit 3 = true ↔ ¬ q) ∧
      (z.testBit 4 = true ↔ r) ∧ (z.testBit 5 = true ↔ ¬ r) := by
  by_cases hp : p <;> by_cases hq : q <;> by_cases hr : r <;> simp only [hp, hq, hr] <;> decide

/-- The ones of a number of n bits, counted (06 R138). -/
theorem popN_eq_testBit {n : Nat} (hn : n ≤ 64) {x : Nat} (hx : x < 2 ^ n) :
    popN n x = ((List.range n).filter fun i => x.testBit i).length := by
  have hx64 : x < 2 ^ 64 := Nat.lt_of_lt_of_le hx (Nat.pow_le_pow_right (by decide) hn)
  have hpop := popN_eq n (BitVec.ofNat 64 x)
  rw [BitVec.toNat_ofNat, Nat.mod_eq_of_lt hx64] at hpop
  rw [hpop]
  refine congrArg List.length (List.filter_congr fun i hi => ?_)
  have hi64 : i < 64 := by have := List.mem_range.mp hi; omega
  rw [BitVec.getLsbD_ofNat, decide_eq_true hi64, Bool.true_and]

/-! ## Clamping (06 R133, R135, R142) -/

/-- The lanes of clamped elements. -/
def clampedLanes (n : Nat) (v : Nat → Nat → Int) : Lanes :=
  Lanes.of fun i => packElems n (32 / n) fun j => wrap n (satN n (v i j))
/-- OF in the lanes in which an element is clamped. -/
def clampFlags (n : Nat) (v : Nat → Nat → Int) (i : Nat) : Nat :=
  if (List.range (32 / n)).any fun j => satN n (v i j) ≠ v i j then fOF else 0

theorem signed_clampedLanes {n : Nat} (h0 : 0 < n) (hn : n * (32 / n) = 32) (v : Nat → Nat → Int) {i j : Nat} (hi : i < 16)
    (hj : j < 32 / n) : signed n (elem n ((clampedLanes n v).at i) j) = satN n (v i j) := by
  have hpos := Nat.two_pow_pos (n - 1)
  rw [clampedLanes, elem_at_packed hn _ hi hj, wrap_mod]
  exact signed_wrap h0 (by unfold satN; omega) (by unfold satN; omega)

/-- A number is clamped when it lies outside the signed range. -/
theorem satN_ne_iff (n : Nat) (v : Int) :
    satN n v ≠ v ↔ v < -((2 ^ (n - 1) : Nat) : Int) ∨ ((2 ^ (n - 1) : Nat) : Int) - 1 < v := by
  have hpos := Nat.two_pow_pos (n - 1)
  unfold satN
  omega

theorem clampFlags_eq (n : Nat) (v : Nat → Nat → Int) (i : Nat) : clampFlags n v i =
    if ∃ j < 32 / n, v i j < -((2 ^ (n - 1) : Nat) : Int) ∨ ((2 ^ (n - 1) : Nat) : Int) - 1 < v i j then 4 else 0 := by
  simp only [clampFlags, List.any_eq_true, List.mem_range, decide_eq_true_eq, satN_ne_iff]

/-- An op that clamps the elements v lands them clamped, and the flags are those of its active lanes. -/
theorem vectorFlagResult_of_clamp {i : Instr} {f : VR} {s : State} {n unit : Nat} {v : Nat → Nat → Int}
    {g : Lanes → Lanes → Nat → Nat → Int} (h0 : 0 < n) (hn : n * (32 / n) = 32)
    (h : exec i s = .next (((s.srcAB s.cur.kind f).1.raise s.cur.cluster unit (activeFl (s.active f) (clampFlags n v))).landV
      s.cur.kind f 1 (s.active f) (clampedLanes n v)))
    (hv : ∀ i, ∀ j < 32 / n, v i j = g (s.srcAB s.cur.kind f).2.1 (s.srcAB s.cur.kind f).2.2 i j) :
    VectorFlagResult i s f 1 unit fun a b fl r =>
      (∀ i < 16, ∀ j < 32 / n, signed n (elem n (r.at i) j) =
        max (-((2 ^ (n - 1) : Nat) : Int)) (min (g a b i j) (((2 ^ (n - 1) : Nat) : Int) - 1))) ∧
      ∀ i < 16, (s.active f).getLsbD i = true →
        fl i = if ∃ j < 32 / n, g a b i j < -((2 ^ (n - 1) : Nat) : Int) ∨ ((2 ^ (n - 1) : Nat) : Int) - 1 < g a b i j
          then 4 else 0 := by
  refine ⟨_, _, h, fun i hi => ?inactive, fun i hi j hj => ?clamped, fun i _ hi => ?flags⟩
  case inactive => rw [activeFl, if_neg (by simp [hi])]
  case clamped => rw [signed_clampedLanes h0 hn v hi hj, hv i j hj]; rfl
  case flags =>
    rw [activeFl, if_pos hi, clampFlags_eq]
    exact if_congr (exists_congr fun j => and_congr_right fun hj => by rw [hv i j hj]) rfl rfl

/-- vaddsat and vsubsat clamp what the signed numbers of two elements give. -/
theorem vsatOp_eq (f : VR) (g : Int → Int → Int) (s : State) : vsatOp f g s =
    let r := s.srcAB s.cur.kind f
    let n := widthOf f.t
    let v := fun i j => g (signed n (elem n (r.2.1.at i) j)) (signed n (elem n (r.2.2.at i) j))
    .next ((r.1.raise s.cur.cluster (kFlagUnit s.cur.kind) (activeFl (s.active f) (clampFlags n v))).landV
      s.cur.kind f 1 (s.active f) (clampedLanes n v)) := by
  simp only [← sgn_elem]
  rfl

/-- The flag unit of the two vector ALUs (08 R172). -/
theorem kFlagUnit_vector {k : Kind} (h : k = .A ∨ k = .B) : kFlagUnit k = if k = .A then 0 else 1 := by
  rcases h with rfl | rfl <;> rfl

/-! ## Widening (06 R142) -/

/-- vunpk: twice the width holds the signed number of an element (06 R142). -/
theorem signed_wrap_widened {n x : Nat} (hn : 0 < n) (hx : x < 2 ^ n) : signed (2 * n) (wrap (2 * n) (signed n x)) = signed n x := by
  obtain ⟨hlo, hhi⟩ := signed_bounds hn hx
  have hle : 2 ^ (n - 1) ≤ 2 ^ (2 * n - 1) := Nat.pow_le_pow_right (by decide) (by omega)
  exact signed_wrap (by omega) (by omega) (by omega)

theorem vectorResult_vunpk {f : VR} (s : State) (ht : f.t ≠ 0#2) :
    let n := widthOf f.t
    VectorResult (.vunpk f) s f 1 fun a b v => ∀ i < 16, ∀ j < 16 / n,
      signed (2 * n) (elem (2 * n) (v.at i) j) = signed n (elem n (a.at i) (16 / n * ((b.at 0).toNat % 2) + j)) := by
  intro n
  have hnarrow : n = 16 ∨ n = 8 := widthOf_narrow ht
  have hhalf : 32 / (2 * n) = 16 / n := by rcases hnarrow with h | h <;> rw [h]
  have hfills : 2 * n * (32 / (2 * n)) = 32 := by rcases hnarrow with h | h <;> rw [h]
  refine ⟨_, exec_vunpk f s, fun i hi j hj => ?_⟩
  rw [tyBits_eq_widthOf, elem_at_packed hfills _ hi (hhalf ▸ hj), wrap_mod, hhalf, sgn_elem]
  exact signed_wrap_widened (by omega) (elem_lt ..)

/-! ## Masks and moves between lanes (06 R140 to R144) -/

@[simp] theorem State.withFlight_withFlight (s : State) (l l' : List Flight) :
    (s.withFlight l).withFlight l' = s.withFlight (l ++ l') := by
  simp [State.withFlight]

@[simp] theorem State.withFlight_bno (s : State) (l : List Flight) : (s.withFlight l).x.bno = s.x.bno := rfl

/-- A lane-mask result is in flight but for l0 (06 R130). -/
theorem State.landMask_eq (s : State) (cl n lat : Nat) (m : BitVec 16) (v : Lanes) :
    s.landMask cl n lat m v = s.withFlight (if n = 0 then [] else [⟨s.x.bno + lat, 6, cl, n, 0, m, v⟩]) := by
  unfold State.landMask
  split
  · rw [State.withFlight_nil]
  · rw [State.land_eq]

/-- The number under which the two vector ALUs have results in flight (18 R379). -/
theorem kFlightUnit_vector {k : Kind} (h : k = .A ∨ k = .B) : kFlightUnit k = if k = .A then 1 else 2 := by
  rcases h with rfl | rfl <;> rfl

/-- What vmskl puts in flight: the mask, unless it is l0 or nw is set, and the latch (06 R140, log 23). -/
theorem exec_vmskl_eq {f : VR} {s : State} (hk : s.cur.kind = .A ∨ s.cur.kind = .B) : exec (.vmskl f) s =
    let r := s.srcAB s.cur.kind f
    let v := Lanes.of fun i => if r.2.1.at i &&& r.2.2.at i = 0#32 then 0#32 else 1#32
    .next (r.1.withFlight (
      (if f.w = true ∨ f.d.toNat % 4 = 0 then [] else [⟨s.x.bno + 1, 6, s.cur.cluster, f.d.toNat % 4, 0, s.active f, v⟩]) ++
      [⟨s.x.bno + 1, if s.cur.kind = .A then 1 else 2, s.cur.cluster, 0, 1, s.active f, v⟩])) := by
  have hbno : (s.srcAB s.cur.kind f).1.x.bno = s.x.bno := by rw [State.srcAB_eq]
  have hmask (t : State) (v : Lanes) (c n : Nat) (m : BitVec 16) : (if f.w = true then t else t.landMask c n 1 m v) =
      t.withFlight (if f.w = true ∨ n = 0 then [] else [⟨t.x.bno + 1, 6, c, n, 0, m, v⟩]) := by
    by_cases hw : f.w = true
    · rw [if_pos hw, if_pos (.inl hw), State.withFlight_nil]
    · rw [if_neg hw, State.landMask_eq]
      simp only [hw, Bool.false_eq_true, false_or]
  simp only [exec_vmskl, execVmskl, kFlightUnit_vector hk, hmask, State.land_eq, State.withFlight_withFlight,
    State.withFlight_bno, hbno]

/-- vins writes the lane of its element alone, but for a push (06 R144, log 14). -/
theorem insertLanes_eq (f : VR) (m : BitVec 16) (k : Nat) :
    (if (f.w || decide (f.d.toNat < 32)) = true then BitVec.ofNat 16 (2 ^ k) else m) =
      if f.w = true ∨ f.d.toNat < 32 then 1#16 <<< k else m := by
  simp only [Bool.or_eq_true, decide_eq_true_eq]
  exact if_congr Iff.rfl (BitVec.eq_of_toNat_eq (by simp [Nat.shiftLeft_eq])) rfl

/-- What vins lands: the register it reads, with one element in its place (06 R144). -/
theorem exec_vins_eq (f : VR) (s : State) : exec (.vins f) s =
    let r := s.srcAB s.cur.kind f
    let n := widthOf f.t
    let k := (r.2.2.at 0).toNat % (16 * (32 / n))
    .next (if (s.active f).getLsbD (k / (32 / n)) then
      r.1.landV s.cur.kind f 1 (if f.w = true ∨ f.d.toNat < 32 then 1#16 <<< (k / (32 / n)) else s.active f)
        (lanesOfElems n fun e => if e = k then regElem n (32 / n) r.2.1 0 else regElem n (32 / n) (s.oldD f) e)
      else r.1) := by
  simp only [exec_vins, execVins, insertLanes_eq]
  rfl

/-- Settles O19, part by part: each op's value by the lemma of its effect, and its landing by the equation of its shape. -/
theorem vectorIntegerResults : Obligations.VectorIntegerResults := by
  refine ⟨?arithmetic, ?logic, ?saturating, ?moves⟩
  case arithmetic =>
    intro f s n each one old
    have hn : n * (32 / n) = 32 := widthOf_fills f.t
    have heach {i : Instr} {lat : Nat} {g : ElemFn} {G : Nat → Nat → Int} (h : exec i s = vop2 f n lat g s)
        (hg : ∀ x y, x < 2 ^ n → y < 2 ^ n → (g n x y : Int) % (2 ^ n : Nat) = G x y % (2 ^ n : Nat)) : each i lat G :=
      vectorResult_of_vop2 (R := fun x y z => (z : Int) = G x y % (2 ^ n : Nat)) hn h hg
    have hone {i : Instr} {w : Nat} {g : Nat → Nat → Nat} {G : Nat → Int} (hw : w * (32 / w) = 32) (h : exec i s = vop1 f w 1 g s)
        (hg : ∀ x, x < 2 ^ w → (g w x : Int) % (2 ^ w : Nat) = G x % (2 ^ w : Nat)) : one i w G :=
      vectorResult1_of_vop1 (R := fun x z => (z : Int) = G x % (2 ^ w : Nat)) hw h hg
    have hold : s.oldD f = old := s.oldD_eq f
    -- From here on a clause is matched by its function, and not by what `each` and `one` say.
    clear_value each one
    refine ⟨hone rfl (exec_vmov f s) fun x _ => rfl, hone hn (exec_vabs f s) fun x hx => ?abs,
      hone hn (exec_vneg f s) fun x hx => ?neg, heach (exec_vadd f s) fun x y _ _ => ?add,
      heach (exec_vsub f s) fun x y _ hy => natCast_sub_mod hy, heach (exec_vmin f s) fun x y hx hy => min_signed_emod hx hy,
      heach (exec_vmax f s) fun x y hx hy => max_signed_emod hx hy, heach (exec_vminu f s) fun x y _ _ => rfl,
      heach (exec_vmaxu f s) fun x y _ _ => rfl, heach (exec_vmul f s) fun x y _ _ => ?mul,
      heach (exec_vmulh f s) fun x y hx hy => ?mulh, hold ▸ vectorResult_vmac f s,
      hold ▸ vectorResult_of_vdot (exec_vdot4 f s), hold ▸ vectorResult_of_vdot (exec_vdot2 f s)⟩
    case abs => rw [natCast_wrap, Int.emod_emod, sgn_eq_signed hx]
    case neg => simpa using natCast_sub_mod (x := 0) hx
    case add => rw [Int.natCast_mod, Int.emod_emod, Int.natCast_add]
    case mul => rw [Int.natCast_mod, Int.emod_emod, Int.natCast_mul]
    case mulh => rw [natCast_wrap, Int.emod_emod, sgn_eq_signed hx, sgn_eq_signed hy]
  case logic =>
    intro f s n lanes each one
    have hn : n * (32 / n) = 32 := widthOf_fills f.t
    have h8 : 8 ≤ n := widthOf_ge f.t
    have h0 : 0 < n := by omega
    have hlanes {i : Instr} {g : ElemFn} {G : Word → Word → Word} (h : exec i s = vop2 f 32 1 g s)
        (hg : ∀ x y : Word, g 32 x.toNat y.toNat = (G x y).toNat) : lanes i G := vectorResult_of_lanes h hg
    have heach {i : Instr} {g : ElemFn} {R : Nat → Nat → Nat → Prop} (h : exec i s = vop2 f n 1 g s)
        (hg : ∀ x y, x < 2 ^ n → y < 2 ^ n → R x y (g n x y % 2 ^ n)) : each i R := vectorResult_of_vop2 hn h hg
    have hone {i : Instr} {g : Nat → Nat → Nat} {R : Nat → Nat → Prop} (h : exec i s = vop1 f n 1 g s)
        (hg : ∀ x, x < 2 ^ n → R x (g n x % 2 ^ n)) : one i R := vectorResult1_of_vop1 hn h hg
    clear_value lanes each one
    refine ⟨hlanes (exec_vand f s) fun x y => (BitVec.toNat_and x y).symm,
      hlanes (exec_vor f s) fun x y => (BitVec.toNat_or x y).symm,
      hlanes (exec_vxor f s) fun x y => (BitVec.toNat_xor x y).symm, hlanes (exec_vandn f s) fun x y => ?andn,
      heach (exec_vshl f s) fun x y _ _ => Nat.mod_mod _ _, heach (exec_vshr f s) fun x y hx _ => ?shr,
      heach (exec_vsar f s) fun x y hx _ => ?sar, heach (exec_vrshr f s) fun x y hx _ => ?rshr,
      heach (exec_vcmp f s) fun x y hx hy => ?cmp, hone (exec_vclz f s) fun x hx => ?clz,
      hone (exec_vpopc f s) fun x hx => ?popc⟩
    case andn => rw [BitVec.toNat_and, BitVec.toNat_not]
    case shr => exact Nat.mod_eq_of_lt (Nat.lt_of_le_of_lt (Nat.div_le_self _ _) hx)
    case sar => rw [wrap_mod, sgn_eq_signed hx, signed_wrap_shift h0 hx]
    case rshr =>
      split
      · rw [Nat.mod_eq_of_lt hx]
      · next hy => rw [wrap_mod, sgn_eq_signed hx, signed_wrap_round hx (by omega) (Nat.mod_lt y h0)]
    case cmp =>
      have h64 : 2 ^ 6 ≤ 2 ^ n := Nat.pow_le_pow_right (by decide) (by omega)
      have hbits := testBit_conditions (x = y) (sgn n x < sgn n y) (x < y)
      have hlt := hbits.1
      rw [Nat.mod_eq_of_lt (Nat.lt_of_lt_of_le hlt h64)]
      simpa only [sgn_eq_signed hx, sgn_eq_signed hy, Int.not_lt, Nat.not_lt] using hbits
    case clz =>
      have hspec := clzN_spec hx
      have hle : clzN n x ≤ n := hspec.1
      rwa [← clzN, Nat.mod_eq_of_lt (Nat.lt_of_le_of_lt hle Nat.lt_two_pow_self)]
    case popc =>
      have h64 : n ≤ 64 := by rcases widthOf_cases f.t with h | h | h <;> omega
      have hcount : ((List.range n).filter fun i => x.testBit i).length ≤ n := by
        simpa using List.length_filter_le _ (List.range n)
      rw [← popN, popN_eq_testBit h64 hx, Nat.mod_eq_of_lt (Nat.lt_of_le_of_lt hcount Nat.lt_two_pow_self)]
  case saturating =>
    intro f s hk n unit lo hi sat el wide
    have hn : n * (32 / n) = 32 := widthOf_fills f.t
    have h0 : 0 < n := Nat.lt_of_lt_of_le (by decide) (widthOf_ge f.t)
    have hunit : kFlagUnit s.cur.kind = unit := kFlagUnit_vector hk
    have hsat {i : Instr} {v : Nat → Nat → Int} {g : Lanes → Lanes → Nat → Nat → Int}
        (h : exec i s = .next (((s.srcAB s.cur.kind f).1.raise s.cur.cluster (kFlagUnit s.cur.kind)
          (activeFl (s.active f) (clampFlags n v))).landV s.cur.kind f 1 (s.active f) (clampedLanes n v)))
        (hv : ∀ i, ∀ j < 32 / n, v i j = g (s.srcAB s.cur.kind f).2.1 (s.srcAB s.cur.kind f).2.2 i j) : sat i g :=
      vectorFlagResult_of_clamp h0 hn (hunit ▸ h) hv
    refine ⟨hsat (vsatOp_eq f _ s) fun i j _ => rfl, hsat (vsatOp_eq f _ s) fun i j _ => rfl, fun ht => ?pack,
      fun ht => vectorResult_vunpk s ht⟩
    case pack =>
      refine hsat (exec_vpack f s) fun i j hj => ?_
      have hhalf : 32 / n = 2 * (16 / n) := by rcases widthOf_narrow ht with h | h <;> simp only [n, h]
      rw [sgn_elem, tyBits_eq_widthOf]
      by_cases hlow : j < 16 / n
      · rw [if_pos hlow, if_pos hlow, Nat.mod_eq_of_lt hlow]
      · rw [if_neg hlow, if_neg hlow, Nat.mod_eq_sub_mod (Nat.not_lt.mp hlow), Nat.mod_eq_of_lt (by omega)]
  case moves =>
    intro f s hk n per m r el old k
    have hn : n * (32 / n) = 32 := widthOf_fills f.t
    have hold : s.oldD f = old := s.oldD_eq f
    have hmod (v : Lanes) (e : Nat) : regElem n per v e % 2 ^ n = el v e := Nat.mod_eq_of_lt (elem_lt ..)
    refine ⟨⟨_, fun i hi => ?mask, exec_vmskl_eq hk⟩, ⟨_, fun i hi => ?select, exec_vsel f s⟩,
      ⟨_, exec_vbcast f s, fun i hi j hj => ?broadcast⟩, ⟨_, exec_vlane f s, fun i hi => ?permute⟩,
      ⟨_, exec_vext f s, fun e he => ?slide⟩, fun hoff => ?inactive, fun hon => ?inserted⟩
    case mask => rw [Lanes.at_of, Nat.mod_eq_of_lt hi]
    case select => rw [Lanes.merge, Lanes.at_of, Nat.mod_eq_of_lt hi]
    case broadcast => exact (elem_at_packed hn _ hi hj).trans (hmod _ _)
    case permute => rw [Lanes.at_of, Nat.mod_eq_of_lt hi]
    case slide =>
      have htotal : ((16 * per : Nat) : Int) = 16 * (per : Int) := Int.natCast_mul 16 per
      refine (regElem_lanesOfElems hn _ he).trans ?_
      rw [← htotal, apply_ite (· % 2 ^ n)]
      exact if_congr Iff.rfl (hmod _ _) (Nat.zero_mod _)
    case inactive => exact (exec_vins_eq f s).trans (congrArg Host.Outcome.next (if_neg (Bool.eq_false_iff.mp hoff)))
    case inserted =>
      refine ⟨_, fun e he => (regElem_lanesOfElems hn _ he).trans ?_,
        hold ▸ (exec_vins_eq f s).trans (congrArg Host.Outcome.next (if_pos hon))⟩
      rw [apply_ite (· % 2 ^ n)]
      exact if_congr Iff.rfl (hmod _ _) (hmod _ _)

end Sys2Proof.Machine
end

section
/-! Rounding on a scale (07 R154). The magnitudes of a format, in the order of their codes, are a rising sequence of numbers; the
integers are another one. A mode rounds a magnitude to a place of such a sequence, and the sequence alone says what is correct. -/

namespace Sys2Proof.Machine

/-! ## Magnitudes -/

/-- The magnitude m × 2^e. -/
def magOf (m : Nat) (e : Int) : Rat := m * (2 : Rat) ^ e

theorem magOf_nonneg (m : Nat) (e : Int) : 0 ≤ magOf m e := by unfold magOf; positivity

theorem magOf_pos {m : Nat} (h : 0 < m) (e : Int) : 0 < magOf m e := by unfold magOf; positivity

@[simp] theorem magOf_zero (e : Int) : magOf 0 e = 0 := by simp [magOf]

theorem magOf_eq_zero {m : Nat} {e : Int} : magOf m e = 0 ↔ m = 0 := by
  simp [magOf, (zpow_pos (two_pos : (0 : Rat) < 2) e).ne']

theorem magOf_mul_zpow (m : Nat) (e k : Int) : magOf m e * (2 : Rat) ^ k = magOf m (e + k) := by
  rw [magOf, magOf, mul_assoc, ← zpow_add₀ two_ne_zero]

/-- A magnitude in units of 2^q, for q not above its exponent. -/
theorem magOf_in_units {e q : Int} (h : q ≤ e) (m : Nat) : magOf m e = magOf (m * 2 ^ (e - q).toNat) q := by
  have hexp : (2 : Rat) ^ e = 2 ^ (e - q).toNat * 2 ^ q := by
    rw [← zpow_natCast, ← zpow_add₀ two_ne_zero, Int.toNat_of_nonneg (by omega), Int.sub_add_cancel]
  rw [magOf, magOf, hexp, Nat.cast_mul, Nat.cast_pow, Nat.cast_ofNat, mul_assoc]

theorem magOf_lt_iff (a b : Nat) (q : Int) : magOf a q < magOf b q ↔ a < b := by
  rw [magOf, magOf, mul_lt_mul_iff_left₀ (zpow_pos two_pos q), Nat.cast_lt]

theorem magOf_inj (a b : Nat) (q : Int) : magOf a q = magOf b q ↔ a = b := by
  rw [magOf, magOf, mul_left_inj' (zpow_pos two_pos q).ne', Nat.cast_inj]

/-- The comparison of the model is that of the magnitudes. -/
theorem cmpMag_eq_lt {m₁ m₂ : Nat} {e₁ e₂ : Int} : cmpMag m₁ e₁ m₂ e₂ = .lt ↔ magOf m₁ e₁ < magOf m₂ e₂ := by
  rw [magOf_in_units (min_le_left e₁ e₂), magOf_in_units (min_le_right e₁ e₂) m₂, magOf_lt_iff]
  exact Nat.compare_eq_lt
theorem cmpMag_eq_gt {m₁ m₂ : Nat} {e₁ e₂ : Int} : cmpMag m₁ e₁ m₂ e₂ = .gt ↔ magOf m₂ e₂ < magOf m₁ e₁ := by
  rw [magOf_in_units (min_le_left e₁ e₂), magOf_in_units (min_le_right e₁ e₂) m₂, magOf_lt_iff]
  exact Nat.compare_eq_gt
theorem cmpMag_eq_eq {m₁ m₂ : Nat} {e₁ e₂ : Int} : cmpMag m₁ e₁ m₂ e₂ = .eq ↔ magOf m₁ e₁ = magOf m₂ e₂ := by
  rw [magOf_in_units (min_le_left e₁ e₂), magOf_in_units (min_le_right e₁ e₂) m₂, magOf_inj]
  exact Nat.compare_eq_eq

/-- The sign of a value as a factor. -/
def signOf (neg : Bool) : Rat := if neg then -1 else 1

theorem Fp.val_fin (neg : Bool) (m : Nat) (e : Int) : Fp.val (.fin neg m e) = signOf neg * magOf m e := by
  rw [Fp.val, magOf, signOf, mul_assoc]

@[simp] theorem abs_signOf (neg : Bool) : |signOf neg| = 1 := by cases neg <;> simp [signOf]

theorem Fp.abs_val_fin (neg : Bool) (m : Nat) (e : Int) : |Fp.val (.fin neg m e)| = magOf m e := by
  rw [Fp.val_fin, abs_mul, abs_signOf, one_mul, abs_of_nonneg (magOf_nonneg m e)]

theorem signOf_mul_inj {neg : Bool} {x y : Rat} : signOf neg * x = signOf neg * y ↔ x = y :=
  mul_right_inj' (by cases neg <;> simp [signOf])

/-- A number is its magnitude with a sign. -/
theorem exists_signOf_mul_abs (w : Rat) : ∃ neg, w = signOf neg * |w| := by
  rcases abs_choice w with h | h
  · exact ⟨false, by simp [signOf, h]⟩
  · exact ⟨true, by simp [signOf, h]⟩

/-! ## The place to which a mode rounds -/

/-- The mode rounds numbers of this sign away from zero (07 R154). -/
def Away (rm : Nat) (neg : Bool) : Prop := (rm = 2 ∧ neg = false) ∨ (rm = 3 ∧ neg = true)

/-- A number x between the places c and c + 1 of a sequence goes to the upper one. -/
def RoundsUp (V : Nat → Rat) (rm : Nat) (neg : Bool) (x : Rat) (c : Nat) : Prop :=
  (rm = 0 ∧ (V c + V (c + 1) < 2 * x ∨ (V c + V (c + 1) = 2 * x ∧ c % 2 = 1))) ∨ (Away rm neg ∧ V c < x)

/-- The mode rounds the magnitude x, of a number of this sign, to the place r of the sequence. -/
def Rounded (V : Nat → Rat) (rm : Nat) (neg : Bool) (x : Rat) (r : Nat) : Prop :=
  ∃ c, V c ≤ x ∧ x < V (c + 1) ∧ (r = c ∨ r = c + 1) ∧ (r = c + 1 ↔ RoundsUp V rm neg x c)

section rounded
variable {V : Nat → Rat} {rm : Nat} {neg : Bool} {x : Rat} {r : Nat}

theorem not_away_zero : ¬ Away 0 neg := by simp [Away]

theorem not_away_one : ¬ Away 1 neg := by simp [Away]

/-- Up or not, as a test that a model makes says. -/
theorem Rounded.of_test {c : Nat} (hlo : V c ≤ x) (hhi : x < V (c + 1)) {up : Bool} (hup : up = true ↔ RoundsUp V rm neg x c) :
    Rounded V rm neg x (if up then c + 1 else c) := by
  cases up with
  | false => exact ⟨c, hlo, hhi, .inl rfl, by simpa using hup⟩
  | true => exact ⟨c, hlo, hhi, .inr rfl, by simpa using hup⟩

/-- A number of the sequence stays where it is. -/
theorem not_roundsUp_of_eq (hV : StrictMono V) {c : Nat} (h : V c = x) : ¬ RoundsUp V rm neg x c := by
  have hstep : V c < V (c + 1) := hV (Nat.lt_succ_self c)
  rintro (⟨-, h' | ⟨h', -⟩⟩ | ⟨-, h'⟩) <;> linarith

theorem Rounded.of_eq (hV : StrictMono V) {c : Nat} (h : V c = x) : Rounded V rm neg x c :=
  ⟨c, h.le, h ▸ hV (Nat.lt_succ_self c), .inl rfl, iff_of_false (by omega) (not_roundsUp_of_eq hV h)⟩

/-- One place alone is not above x and has a neighbour above it. -/
theorem place_unique (hV : StrictMono V) {c d : Nat} (hc : V c ≤ x) (hc' : x < V (c + 1)) (hd : V d ≤ x) (hd' : x < V (d + 1)) :
    c = d := by
  have h₁ : c < d + 1 := hV.lt_iff_lt.mp (hc.trans_lt hd')
  have h₂ : d < c + 1 := hV.lt_iff_lt.mp (hd.trans_lt hc')
  omega

theorem Rounded.unique (hV : StrictMono V) {r' : Nat} (h : Rounded V rm neg x r) (h' : Rounded V rm neg x r') : r = r' := by
  obtain ⟨c, hlo, hhi, hc, hup⟩ := h
  obtain ⟨d, hlo', hhi', hd, hup'⟩ := h'
  obtain rfl := place_unique hV hlo hhi hlo' hhi'
  have hsame : r = c + 1 ↔ r' = c + 1 := hup.trans hup'.symm
  omega

/-- The distance of x from a place on either side of it. -/
theorem abs_place_sub (hV : StrictMono V) {d : Nat} (hlo : V d ≤ x) (hhi : x < V (d + 1)) (c : Nat) :
    |V c - x| = if c ≤ d then x - V c else V c - x := by
  split
  case isTrue hc =>
    have := hV.monotone hc
    rw [abs_sub_comm, abs_of_nonneg (by linarith)]
  case isFalse hc =>
    have := hV.monotone (Nat.lt_of_not_le hc)
    exact abs_of_nonneg (by linarith)

/-- To nearest no place is nearer, and of two that are as near the even one is taken. -/
theorem Rounded.nearest (hV : StrictMono V) (h : Rounded V 0 neg x r) (c : Nat) :
    |V r - x| ≤ |V c - x| ∧ (|V r - x| = |V c - x| → c ≠ r → r % 2 = 0) := by
  obtain ⟨d, hlo, hhi, hr, hup⟩ := h
  simp only [RoundsUp, true_and, not_away_zero, false_and, or_false] at hup
  rw [abs_place_sub hV hlo hhi, abs_place_sub hV hlo hhi]
  have hbelow : c ≤ d → V c ≤ V d := fun hc => hV.monotone hc
  have habove : ¬ c ≤ d → V (d + 1) ≤ V c := fun hc => hV.monotone (Nat.lt_of_not_le hc)
  have hne : c ≠ d → V c ≠ V d := fun hc => hV.injective.ne hc
  have hne' : c ≠ d + 1 → V c ≠ V (d + 1) := fun hc => hV.injective.ne hc
  rcases hr with rfl | rfl
  · rw [if_pos le_rfl]
    have hdown : 2 * x ≤ V r + V (r + 1) := not_lt.mp fun h => absurd (hup.mpr (.inl h)) (by omega)
    have htie : V r + V (r + 1) = 2 * x → r % 2 = 0 := fun h => by
      have := mt (fun hodd => hup.mpr (.inr ⟨h, hodd⟩)) (by omega)
      omega
    split
    case isTrue hc => exact ⟨by linarith [hbelow hc], fun h hcr => absurd (by linarith) (hne hcr)⟩
    case isFalse hc => exact ⟨by linarith [habove hc], fun h _ => htie (by linarith [habove hc])⟩
  · rw [if_neg (by omega)]
    have hmid := hup.mp rfl
    have hup' : V d + V (d + 1) ≤ 2 * x := hmid.elim le_of_lt fun h => h.1.le
    split
    case isTrue hc =>
      refine ⟨by linarith [hbelow hc], fun h _ => ?_⟩
      rcases hmid with hlt | ⟨-, hodd⟩
      · linarith [hbelow hc]
      · omega
    case isFalse hc => exact ⟨by linarith [habove hc], fun h hcr => absurd (by linarith) (hne' hcr)⟩

/-- Toward zero: the last place not above x. -/
theorem Rounded.down (h : Rounded V rm neg x r) (h0 : rm ≠ 0) (haway : ¬ Away rm neg) : V r ≤ x ∧ x < V (r + 1) := by
  obtain ⟨c, hlo, hhi, hr, hup⟩ := h
  have hc : r = c := hr.resolve_right (by simp [hup, RoundsUp, h0, haway])
  exact hc ▸ ⟨hlo, hhi⟩

/-- Away from zero: the first place not below x. -/
theorem Rounded.up (hV : StrictMono V) (h : Rounded V rm neg x r) (haway : Away rm neg) : x ≤ V r ∧ ∀ c, x ≤ V c → r ≤ c := by
  obtain ⟨d, hlo, hhi, hr, hup⟩ := h
  have h0 : rm ≠ 0 := by rintro rfl; exact not_away_zero haway
  simp only [RoundsUp, h0, haway, false_and, false_or, true_and] at hup
  rcases hlo.lt_or_eq with hlt | heq
  · obtain rfl := hup.mpr hlt
    exact ⟨hhi.le, fun c hc => hV.lt_iff_lt.mp (hlt.trans_le hc)⟩
  · obtain rfl : r = d := hr.resolve_right fun hr => (hup.mp hr).ne heq
    exact ⟨heq.ge, fun c hc => hV.le_iff_le.mp (heq ▸ hc)⟩

/-- When the rounded place lies beyond N. -/
theorem Rounded.lt_iff (hV : StrictMono V) (h : Rounded V rm neg x r) (N : Nat) : N < r ↔
    (rm = 0 ∧ (V N + V (N + 1) < 2 * x ∨ (V N + V (N + 1) = 2 * x ∧ N % 2 = 1))) ∨ (Away rm neg ∧ V N < x) ∨
      (rm ≠ 0 ∧ ¬ Away rm neg ∧ V (N + 1) ≤ x) := by
  obtain ⟨c, hlo, hhi, hr, hup⟩ := h
  have hN : V N < V (N + 1) := hV (Nat.lt_succ_self N)
  rcases Nat.lt_trichotomy c N with hlt | rfl | hgt
  · have hle : V (c + 1) ≤ V N := hV.monotone hlt
    refine iff_of_false (by omega) ?_
    rintro (⟨-, h | ⟨h, -⟩⟩ | ⟨-, h⟩ | ⟨-, -, h⟩) <;> linarith
  · have hup' : c < r ↔ RoundsUp V rm neg x c := by rw [← hup]; omega
    rw [hup', RoundsUp, ← or_assoc]
    exact (or_iff_left fun ⟨_, _, h⟩ => absurd h (not_le.mpr hhi)).symm
  · have hle : V (N + 1) ≤ V c := hV.monotone hgt
    refine iff_of_true (by omega) ?_
    by_cases h0 : rm = 0
    · exact .inl ⟨h0, .inl (by linarith)⟩
    · by_cases haway : Away rm neg
      · exact .inr (.inl ⟨haway, by linarith⟩)
      · exact .inr (.inr ⟨h0, haway, by linarith⟩)

end rounded
end Sys2Proof.Machine
end

section
/-! Rounding to integers (07 R154, R156). -/

namespace Sys2Proof.Machine

/-- A number of the sequence is reached exactly when x itself is one. -/
theorem Rounded.eq_iff {V : Nat → Rat} {rm : Nat} {neg : Bool} {x : Rat} {r c : Nat} (hV : StrictMono V)
    (h : Rounded V rm neg x r) (hlo : V c ≤ x) (hhi : x < V (c + 1)) : V r = x ↔ V c = x := by
  refine ⟨fun hr => ?_, fun hc => h.unique hV (.of_eq hV hc) ▸ hc⟩
  obtain rfl := place_unique hV hlo hhi hr.le (hr ▸ hV (Nat.lt_succ_self r))
  exact hr

/-- The integers as a sequence. -/
theorem natCast_strictMono : StrictMono (fun n : Nat => (n : Rat)) := Nat.strictMono_cast

/-- Up or not, by the dropped part r of 2^k. -/
theorem roundUp_iff {rm : Nat} (hrm : rm < 4) (neg : Bool) (a r k : Nat) :
    roundUp rm neg a r k = true ↔ RoundsUp (fun n => (n : Rat)) rm neg (a + r / 2 ^ k) a := by
  have hk : (0 : Rat) < 2 ^ k := by positivity
  have hr : (a : Rat) < a + r / 2 ^ k ↔ r ≠ 0 := by
    rw [lt_add_iff_pos_right, div_pos_iff_of_pos_right hk, Nat.cast_pos, Nat.pos_iff_ne_zero]
  have hgt : (a : Rat) + (a + 1 : Nat) < 2 * (a + r / 2 ^ k) ↔ 2 ^ k < 2 * r := by
    rw [← @Nat.cast_lt Rat]; push_cast
    rw [show (2 : Rat) * (a + r / 2 ^ k) = a + a + 2 * r / 2 ^ k by ring, ← add_assoc, add_lt_add_iff_left, one_lt_div hk]
  have htie : (a : Rat) + (a + 1 : Nat) = 2 * (a + r / 2 ^ k) ↔ 2 * r = 2 ^ k := by
    rw [← @Nat.cast_inj Rat]; push_cast
    rw [show (2 : Rat) * (a + r / 2 ^ k) = a + a + 2 * r / 2 ^ k by ring, ← add_assoc, add_right_inj, eq_comm,
      div_eq_one_iff_eq hk.ne']
  simp only [RoundsUp, hr, hgt, htie, Away]
  interval_cases rm <;> simp [roundUp]

/-- The integer to which the model rounds a magnitude in units of 2^q, and whether it differs. -/
theorem roundTo_spec {rm : Nat} (hrm : rm < 4) (neg : Bool) (m : Nat) (e q : Int) :
    let r := roundTo rm neg m e q
    Rounded (fun n => (n : Rat)) rm neg (magOf m (e - q)) r.1 ∧ (r.2 = true ↔ (r.1 : Rat) ≠ magOf m (e - q)) := by
  unfold roundTo
  split
  case isTrue h =>
    have hexact : ((m * 2 ^ (e - q).toNat : Nat) : Rat) = magOf m (e - q) := by
      rw [magOf_in_units (Int.sub_nonneg_of_le h), Int.sub_zero, magOf, zpow_zero, mul_one]
    exact ⟨.of_eq natCast_strictMono hexact, iff_of_false Bool.false_ne_true (not_not.mpr hexact)⟩
  case isFalse h =>
    obtain ⟨k, hk⟩ : ∃ k : Nat, q - e = k := ⟨(q - e).toNat, (Int.toNat_of_nonneg (by omega)).symm⟩
    have hpow : (0 : Rat) < 2 ^ k := by positivity
    have hy : magOf m (e - q) = ((m / 2 ^ k : Nat) : Rat) + (m % 2 ^ k : Nat) / 2 ^ k := by
      rw [magOf, show e - q = -(k : Int) by omega, zpow_neg, zpow_natCast, ← div_eq_mul_inv, div_eq_iff hpow.ne', add_mul,
        div_mul_cancel₀ _ hpow.ne']
      exact_mod_cast (Nat.div_add_mod' m (2 ^ k)).symm
    have hdrop : ((m % 2 ^ k : Nat) : Rat) / 2 ^ k < 1 :=
      (div_lt_one hpow).mpr (by exact_mod_cast Nat.mod_lt m (Nat.two_pow_pos k))
    have hlo : ((m / 2 ^ k : Nat) : Rat) ≤ magOf m (e - q) := by rw [hy]; exact le_add_of_nonneg_right (by positivity)
    have hhi : magOf m (e - q) < ((m / 2 ^ k + 1 : Nat) : Rat) := by rw [hy]; push_cast; linarith
    have hround := Rounded.of_test hlo hhi (hy ▸ roundUp_iff hrm neg (m / 2 ^ k) (m % 2 ^ k) k)
    simp only [hk, Int.toNat_natCast]
    refine ⟨hround, ?_⟩
    rw [decide_eq_true_eq, ne_eq, ne_eq, not_iff_not, hround.eq_iff natCast_strictMono hlo hhi, hy, left_eq_add, div_eq_zero_iff,
      or_iff_left hpow.ne', Nat.cast_eq_zero]

end Sys2Proof.Machine
end

section
/-! Conversion to integers (07 R154, R156). -/

namespace Sys2Proof.Machine

/-- t is the integer that the mode chooses for z (07 R154). -/
def IntRounding (rm : Nat) (z : Rat) (t : Int) : Prop :=
  (rm = 0 → |(t : Rat) - z| ≤ 1 / 2 ∧ (|(t : Rat) - z| = 1 / 2 → t % 2 = 0)) ∧
  (rm = 1 → |(t : Rat)| ≤ |z| ∧ |z| < |(t : Rat)| + 1) ∧ (rm = 2 → z ≤ t ∧ (t : Rat) < z + 1) ∧
  (rm = 3 → (t : Rat) ≤ z ∧ z < t + 1)

/-- A magnitude that is rounded, with its sign. -/
def signedInt (neg : Bool) (r : Nat) : Int := if neg then -(r : Int) else r

theorem cast_signedInt (neg : Bool) (r : Nat) : (signedInt neg r : Rat) = signOf neg * r := by
  cases neg <;> simp [signedInt, signOf]

section rounded
variable {rm : Nat} {neg : Bool} {x : Rat} {r : Nat}

theorem Rounded.nearest_natCast (h : Rounded (fun n => (n : Rat)) 0 neg x r) :
    |(r : Rat) - x| ≤ 1 / 2 ∧ (|(r : Rat) - x| = 1 / 2 → r % 2 = 0) := by
  obtain ⟨d, hlo, hhi, hr, -⟩ := id h
  have hdist := fun c => abs_place_sub natCast_strictMono hlo hhi c
  obtain ⟨hle, htie⟩ := h.nearest natCast_strictMono d
  obtain ⟨hle', htie'⟩ := h.nearest natCast_strictMono (d + 1)
  rw [hdist r, hdist d, if_pos le_rfl] at hle htie
  rw [hdist r, hdist (d + 1), if_neg (Nat.not_succ_le_self d)] at hle' htie'
  rw [hdist r]
  push_cast at hle hle' htie htie' ⊢
  refine ⟨by linarith, fun heq => ?_⟩
  rcases hr with rfl | rfl
  · exact htie' (by linarith) (Nat.succ_ne_self r)
  · exact htie (by linarith) (Nat.succ_ne_self d).symm

theorem Rounded.up_natCast (h : Rounded (fun n => (n : Rat)) rm neg x r) (haway : Away rm neg) : x ≤ r ∧ (r : Rat) < x + 1 := by
  obtain ⟨hle, hleast⟩ := h.up natCast_strictMono haway
  obtain ⟨d, hlo, hhi, hr, -⟩ := id h
  refine ⟨hle, ?_⟩
  rcases hr with rfl | rfl
  · exact hlo.trans_lt (lt_add_one x)
  · have hlt : (d : Rat) < x := lt_of_not_ge fun hd => absurd (hleast d hd) (by omega)
    push_cast
    linarith

theorem Rounded.intRounding (hrm : rm < 4) (hx : 0 ≤ x) (h : Rounded (fun n => (n : Rat)) rm neg x r) :
    IntRounding rm (signOf neg * x) (signedInt neg r) := by
  have hdown := fun h0 haway => h.down (neg := neg) h0 haway
  have hup := fun haway => h.up_natCast haway
  rw [IntRounding, cast_signedInt, ← mul_sub, abs_mul, abs_mul, abs_mul, abs_signOf, one_mul, one_mul, one_mul, abs_of_nonneg hx,
    Nat.abs_cast]
  push_cast at hdown
  refine ⟨?nearest, ?zero, ?above, ?below⟩
  case nearest =>
    rintro rfl
    refine ⟨h.nearest_natCast.1, fun heq => ?_⟩
    have := h.nearest_natCast.2 heq
    unfold signedInt
    split <;> omega
  case zero =>
    rintro rfl
    exact hdown (by decide) not_away_one
  case above =>
    rintro rfl
    cases neg
    case false => simpa [signOf] using hup (.inl ⟨rfl, rfl⟩)
    case true =>
      obtain ⟨hle, hlt⟩ := hdown (by decide) (by simp [Away])
      constructor <;> simp only [signOf, if_true] <;> linarith
  case below =>
    rintro rfl
    cases neg
    case false => simpa [signOf] using hdown (by decide) (by simp [Away])
    case true =>
      obtain ⟨hle, hlt⟩ := hup (.inr ⟨rfl, rfl⟩)
      constructor <;> simp only [signOf, if_true] <;> linarith

end rounded

/-- The range of the integers of n bits (07 R156). -/
def intLow (n : Nat) (uns : Bool) : Int := if uns then 0 else -(2 ^ (n - 1) : Nat)
def intHigh (n : Nat) (uns : Bool) : Int := if uns then (2 ^ n : Nat) - 1 else (2 ^ (n - 1) : Nat) - 1

theorem intHigh_nonneg (n : Nat) (uns : Bool) : 0 ≤ intHigh n uns := by
  have := Nat.two_pow_pos n
  have := Nat.two_pow_pos (n - 1)
  unfold intHigh
  split <;> omega

theorem intLow_nonpos (n : Nat) (uns : Bool) : intLow n uns ≤ 0 := by
  have := Nat.two_pow_pos (n - 1)
  unfold intLow
  split <;> omega

theorem intHigh_lt (n : Nat) (uns : Bool) : intHigh n uns < (2 ^ n : Nat) := by
  have : 2 ^ (n - 1) ≤ 2 ^ n := Nat.pow_le_pow_right (by decide) (by omega)
  unfold intHigh
  split <;> omega

/-- A finite value: the integer of the mode, with NX and UF, or an end of the range with NV (07 R156, log 18). -/
theorem toIntFmt_fin (n : Nat) (uns : Bool) (rm : Nat) (neg : Bool) (m : Nat) (e : Int) :
    let r := roundTo rm neg m e 0
    let t := signedInt neg r.1
    toIntFmt n uns rm (.fin neg m e) =
      if t < intLow n uns then (wrap n (intLow n uns), 1)
      else if intHigh n uns < t then ((intHigh n uns).toNat, 1)
      else (wrap n t, if r.2 then (if t = 0 then 24 else 16) else 0) := by
  intro r t
  have hzero : t = 0 ↔ r.1 = 0 := by simp only [t, signedInt]; split <;> omega
  have hlow : (if uns then 0 else -(2 ^ (n - 1) : Nat) : Int) = intLow n uns := rfl
  have hhigh : (if uns then (2 ^ n - 1 : Nat) else (2 ^ (n - 1) - 1 : Nat) : Int) = intHigh n uns := by
    have := Nat.two_pow_pos n
    have := Nat.two_pow_pos (n - 1)
    unfold intHigh
    split <;> omega
  have hflags : fNX + (if r.1 = 0 then fUF else 0) = if t = 0 then 24 else 16 := by
    simp only [hzero]
    split <;> rfl
  rw [← hflags]
  simp only [toIntFmt, hlow, hhigh]
  rfl

/-- An infinity: the end of the range, with NV (07 R156). -/
theorem toIntFmt_inf {n rm : Nat} (hn : 1 < n) (uns neg : Bool) :
    toIntFmt n uns rm (.inf neg) = (wrap n (if neg then intLow n uns else intHigh n uns), 1) := by
  have hdouble := two_pow_eq_double (n := n) (by omega)
  have hpos := Nat.two_pow_pos (n - 1)
  refine Prod.ext (Int.ofNat_inj.mp ?_) rfl
  rw [natCast_wrap]
  generalize hp : 2 ^ (n - 1) = p at hdouble hpos
  cases neg
  case false =>
    rw [if_neg (by decide), Int.emod_eq_of_lt (intHigh_nonneg n uns) (intHigh_lt n uns)]
    cases uns <;> simp only [toIntFmt, intHigh, hp, Bool.false_eq_true, if_true, if_false] <;> omega
  case true =>
    cases uns
    case false =>
      simp only [toIntFmt, intLow, hp, if_true, Bool.false_eq_true, if_false]
      rw [← Int.add_emod_right, Int.emod_eq_of_lt (by omega) (by omega)]
      omega
    case true => simp [toIntFmt, intLow]

/-- O24, the conversion of one value to an integer. -/
theorem toIntFmt_correct {n rm : Nat} (uns : Bool) (x : Fp) (hn : 1 < n) (hrm : rm < 4) :
    let r := toIntFmt n uns rm x
    let lo := intLow n uns
    let hi := intHigh n uns
    (r.1 : Int) < (2 ^ n : Nat) ∧ (∀ sig, x = .nan sig → r = (0, 1)) ∧
    (∀ neg, x = .inf neg → (r.1 : Int) = (if neg then lo else hi) % (2 ^ n : Nat) ∧ r.2 = 1) ∧
    (x.Finite → ∃ t : Int, IntRounding rm x.val t ∧
      (lo ≤ t → t ≤ hi → (r.1 : Int) = t % (2 ^ n : Nat) ∧ r.2 = if (t : Rat) = x.val then 0 else if t = 0 then 24 else 16) ∧
      (t < lo → (r.1 : Int) = lo % (2 ^ n : Nat) ∧ r.2 = 1) ∧ (hi < t → (r.1 : Int) = hi ∧ r.2 = 1)) := by
  intro r lo hi
  have hpos := Nat.two_pow_pos n
  have hhi0 : 0 ≤ hi := intHigh_nonneg n uns
  have hhi : hi < (2 ^ n : Nat) := intHigh_lt n uns
  cases x with
  | nan sig => exact ⟨by exact_mod_cast hpos, fun _ _ => rfl, nofun, fun ⟨_, _, _, h⟩ => nomatch h⟩
  | inf neg =>
    have hr : r = _ := toIntFmt_inf hn uns neg
    rw [hr]
    refine ⟨by exact_mod_cast wrap_lt n _, nofun, fun neg' h => ?_, fun ⟨_, _, _, h⟩ => nomatch h⟩
    obtain rfl : neg = neg' := Fp.inf.inj h
    exact ⟨natCast_wrap n _, rfl⟩
  | fin neg m e =>
    have hr : r = _ := toIntFmt_fin n uns rm neg m e
    obtain ⟨hround, hinexact⟩ := roundTo_spec hrm neg m e 0
    rw [Int.sub_zero] at hround hinexact
    have ht := hround.intRounding hrm (magOf_nonneg m e)
    rw [← Fp.val_fin] at ht
    refine ⟨?bound, nofun, nofun, fun _ => ⟨_, ht, ?within, ?low, ?high⟩⟩
    case bound =>
      rw [hr]
      split
      · exact_mod_cast wrap_lt n _
      split
      · omega
      · exact_mod_cast wrap_lt n _
    case within =>
      intro hge hle
      have hexact : (signedInt neg (roundTo rm neg m e 0).1 : Rat) = Fp.val (.fin neg m e) ↔
          ¬ (roundTo rm neg m e 0).2 = true := by
        rw [cast_signedInt, Fp.val_fin, signOf_mul_inj, hinexact, not_not]
      rw [hr, if_neg (not_lt.mpr hge), if_neg (not_lt.mpr hle)]
      refine ⟨natCast_wrap n _, ?_⟩
      simp only [hexact, ite_not]
    case low =>
      intro hlt
      rw [hr, if_pos hlt]
      exact ⟨natCast_wrap n _, rfl⟩
    case high =>
      intro hlt
      rw [hr, if_neg (by have : lo ≤ 0 := intLow_nonpos n uns; omega), if_pos hlt]
      exact ⟨Int.toNat_of_nonneg hhi0, rfl⟩

end Sys2Proof.Machine
end

section
/-! Float ops on every element (08 R173, 07 R161 to R164): the lanes and flags of an element function are those of a
FloatResult. -/

namespace Sys2Proof.Machine

/-! ## Sources leave the cluster of the slot -/

@[simp] theorem State.raise_cluster (s : State) (cl unit : Nat) (fl : Nat → Nat) :
    (s.raise cl unit fl).cur.cluster = s.cur.cluster := by
  have key (l : List Nat) (g : Nat → Bool) (code : Nat → Nat) (info : State → Nat → Dword) (t : State) :
      (l.foldl (fun s n => if g n then s.causeI 7 (code n) (info s n) else s) t).cur.cluster = t.cur.cluster := by
    induction l generalizing t with
    | nil => rfl
    | cons n l ih =>
      rw [List.foldl_cons, ih]
      split <;> rfl
  unfold State.raise
  simp only
  split
  · rfl
  · exact key _ _ _ _ _

theorem State.popChunk_cluster (s : State) (k : Kind) (cl q : Nat) (m : BitVec 16) :
    (s.popChunk k cl q m).1.cur.cluster = s.cur.cluster := by
  unfold State.popChunk
  simp only
  split
  · rfl
  split
  · rfl
  · exact State.raise_cluster _ _ _ _

theorem State.src_cluster (s : State) (k : Kind) (cl : Nat) (code : BitVec 6) (m : BitVec 16) :
    (s.src k cl code m).1.cur.cluster = s.cur.cluster := by
  have hstale (c : Nat) : (if m = 0#16 then s else s.causeI 6 c (s.slotInfo 0)).cur.cluster = s.cur.cluster := by
    split <;> rfl
  unfold State.src
  simp only
  split
  · rfl
  split
  · split
    · rfl
    · exact hstale _
  split
  · split
    · split
      · rfl
      · exact hstale _
    · exact hstale _
  split
  · rfl
  split
  · rfl
  · exact s.popChunk_cluster k cl _ m

@[simp] theorem State.srcA_cluster (s : State) (k : Kind) (f : VR) (m : BitVec 16) :
    (s.srcA k f m).1.cur.cluster = s.cur.cluster := by
  unfold State.srcA State.capture
  split <;> exact s.src_cluster _ _ _ _

@[simp] theorem State.srcAB_cluster (s : State) (k : Kind) (f : VR) (m : BitVec 16) :
    (s.srcAB k f m).1.cur.cluster = s.cur.cluster := by
  have hb (t : State) : (t.srcB k f m).1.cur.cluster = t.cur.cluster := by
    unfold State.srcB State.capture
    split <;> exact t.src_cluster _ _ _ _
  exact (hb _).trans (s.srcA_cluster k f m)

/-! ## Lanes and flags -/

/-- The sources of a float op of one or two: an op of one reads the other as the same. -/
def State.floatSources (s : State) (f : VR) (two : Bool) (m : BitVec 16) : State × Lanes × Lanes :=
  if two then s.srcAB s.cur.kind f m else ((s.srcA s.cur.kind f m).1, (s.srcA s.cur.kind f m).2, (s.srcA s.cur.kind f m).2)

theorem State.floatSources_cluster (s : State) (f : VR) (two : Bool) (m : BitVec 16) :
    (s.floatSources f two m).1.cur.cluster = s.cur.cluster := by
  unfold State.floatSources
  split
  · exact s.srcAB_cluster _ f m
  · exact s.srcA_cluster _ f m

/-- What landFl lands is a FloatResult, if its element function agrees with the stated one on the elements. -/
theorem floatResult_of_landFl {i : Instr} {f : VR} {s : State} {two : Bool} {lat unit n : Nat} {m : BitVec 16}
    {g : Lanes → Lanes → Nat → Nat → Nat × Nat} {h : Nat → Nat → Nat × Nat} (hn : n * (32 / n) = 32)
    (hunit : kFlagUnit s.cur.kind = unit)
    (hexec : exec i s = .next ((s.floatSources f two m).1.landFl s.cur.kind f m n lat h))
    (hg : ∀ i < 16, ∀ j < 32 / n, h i j = g (s.floatSources f two m).2.1 (s.floatSources f two m).2.2 i j) :
    FloatResult i s f two lat unit n m g := by
  rw [State.landFl, s.floatSources_cluster, hunit] at hexec
  refine ⟨_, _, hexec, fun i hi j hj => ?codes, fun i hi => ?inactive, fun i hi hm b => ?flags⟩
  case codes => rw [elem_at_packed hn _ hi hj, hg i hi j hj]; rfl
  case inactive => rw [activeFl, hi]; rfl
  case flags =>
    rw [activeFl, if_pos hm, testBit_foldl_or]
    simp only [Nat.zero_testBit, Bool.false_eq_true, false_or, List.mem_range]
    exact exists_congr fun j => and_congr_right fun hj => by rw [hg i hi j hj]; rfl

/-! ## Conversions between formats (07 R161 to R164) -/

theorem laneFmt_eq (c : Nat) : laneFmt c = [Fmt.f32, .bf16, .f16, .e4m3, .e5m2, .l6].getD c .l6 := by
  match c with
  | 0 | 1 | 2 | 3 | 4 | 5 | _ + 6 => rfl
theorem fltPer_eq (c : Nat) : fltPer c = [1, 2, 2, 4, 4, 4].getD c 4 := by
  match c with
  | 0 | 1 | 2 | 3 | 4 | 5 => rfl
  | c + 6 => simp [fltPer]
theorem intPer_eq (c : Nat) : intPer c = [1, 2, 4].getD c 4 := by
  match c with
  | 0 | 1 | 2 => rfl
  | c + 3 => simp [intPer]

/-- A lane holds one, two or four elements. -/
theorem fltPer_cases (c : Nat) : fltPer c = 1 ∨ fltPer c = 2 ∨ fltPer c = 4 := by unfold fltPer; split_ifs <;> simp
theorem intPer_cases (c : Nat) : intPer c = 1 ∨ intPer c = 2 ∨ intPer c = 4 := by unfold intPer; split_ifs <;> simp
theorem intBits_eq (c : Nat) : intBits c = 32 / intPer c := by unfold intBits intPer; split_ifs <;> rfl

theorem intOf_eq {n x : Nat} (uns : Bool) (hx : x < 2 ^ n) : intOf n uns x = if uns then (x : Int) else signed n x := by
  cases uns
  · exact sgn_eq_signed hx
  · simp [intOf, Nat.mod_eq_of_lt hx]

/-- The elements that the part index selects (07 R162): what an element of the result is converted from, and what it is when it
keeps its value. -/
def mappedElem (old : Lanes) (h ps pd : Nat) (conv : Nat → Nat × Nat) (a _b : Lanes) (i j : Nat) : Nat × Nat :=
  if ps < pd then (if j / ps = h then conv (elem (32 / ps) (a.at i) (j % ps)) else (elem (32 / pd) (old.at i) j, 0))
  else if pd < ps then conv (elem (32 / ps) (a.at i) (pd * h + j))
  else conv (elem (32 / ps) (a.at i) j)

/-- A conversion of n source to n' destination elements of a lane lands by R162. -/
theorem floatResult_of_vconvert {i : Instr} {f : VR} {s : State} {unit ps pd : Nat} {g : Nat → Nat → Nat × Nat}
    {conv : Nat → Nat × Nat} (hps : 0 < ps) (hpd : pd = 1 ∨ pd = 2 ∨ pd = 4) (hunit : kFlagUnit s.cur.kind = unit)
    (hexec : exec i s = vconvert f ps pd g s)
    (hconv : ∀ (x : Word) (j : Nat), g s.rmode (elem (32 / ps) x j) = conv (elem (32 / ps) x j)) :
    FloatResult i s f false 2 unit (32 / pd) (s.active f) (mappedElem (s.oldD f) f.t.toNat ps pd conv) := by
  have hn : 32 / pd * (32 / (32 / pd)) = 32 := by rcases hpd with rfl | rfl | rfl <;> rfl
  refine floatResult_of_landFl hn hunit hexec fun i hi j hj => ?_
  have hpart : ps * f.t.toNat ≤ j ∧ j < ps * f.t.toNat + ps ↔ j / ps = f.t.toNat := by
    rw [Nat.div_eq_iff hps, Nat.mul_comm]
    omega
  simp only [hconv, mappedElem, hpart]
  refine ite_congr rfl (fun _ => ite_congr rfl (fun h => ?_) fun _ => rfl) fun _ => rfl
  rw [← h, ← Nat.mod_eq_sub]
  rfl

section codes
variable (f : VR)

/-- The codes of source and destination that the b field holds (07 R161). -/
theorem extract_highCode : (f.b.extractLsb' 3 3).toNat = f.b.toNat / 8 := by
  simp [Nat.shiftRight_eq_div_pow]
  omega
theorem extract_lowCode : (f.b.extractLsb' 0 3).toNat = f.b.toNat % 8 := by simp
theorem extract_midCode : (f.b.extractLsb' 1 2).toNat = f.b.toNat / 2 % 4 := by simp [Nat.shiftRight_eq_div_pow]

end codes

theorem exec_vcvt_eq (f : VR) (s : State) : exec (.vcvt f) s =
    vconvert f (fltPer (f.b.toNat / 8)) (fltPer (f.b.toNat % 8)) (fun rm x =>
      (laneFmt (f.b.toNat % 8)).enc rm ((laneFmt (f.b.toNat / 8)).dec (x % 2 ^ (laneFmt (f.b.toNat / 8)).width))) s := by
  simp only [exec_vcvt, execVcvt, extract_highCode, extract_lowCode]

theorem exec_vfcvti_eq (f : VR) (s : State) : exec (.vfcvti f) s =
    vconvert f (fltPer (f.b.toNat / 8)) (intPer (f.b.toNat / 2 % 4)) (fun rm x =>
      toIntFmt (32 / intPer (f.b.toNat / 2 % 4)) (f.b.getLsbD 0) rm
        ((laneFmt (f.b.toNat / 8)).dec (x % 2 ^ (laneFmt (f.b.toNat / 8)).width))) s := by
  simp only [exec_vfcvti, execVfcvti, extract_highCode, extract_midCode, intBits_eq]

theorem exec_vicvtf_eq (f : VR) (s : State) : exec (.vicvtf f) s =
    vconvert f (intPer (f.b.toNat / 2 % 4)) (fltPer (f.b.toNat / 8)) (fun rm x =>
      (laneFmt (f.b.toNat / 8)).enc rm (ofInt (intOf (32 / intPer (f.b.toNat / 2 % 4)) (f.b.getLsbD 0) x))) s := by
  simp only [exec_vicvtf, execVicvtf, extract_highCode, extract_midCode, intBits_eq]

theorem fltPer_pos (c : Nat) : 0 < fltPer c := by rcases fltPer_cases c with h | h | h <;> omega
theorem intPer_pos (c : Nat) : 0 < intPer c := by rcases intPer_cases c with h | h | h <;> omega

/-- Settles O24: a finite value by the integer of the mode, and the ops by what an element of the result is converted from. -/
theorem vectorConversions : Obligations.VectorConversions := by
  refine ⟨fun n uns rm x hn hrm => ?integers, fun f s hk => ?ops⟩
  case integers =>
    obtain ⟨hbound, hnan, hinf, hfin⟩ := toIntFmt_correct uns x hn hrm
    refine ⟨hbound, hnan, hinf, fun hx => ?_⟩
    obtain ⟨t, ⟨h0, h1, h2, h3⟩, hends⟩ := hfin hx
    exact ⟨t, h0, h1, h2, h3, hends⟩
  case ops =>
    have hunit := kFlagUnit_vector hk
    simp only [← laneFmt_eq, ← fltPer_eq, ← intPer_eq, ← s.oldD_eq]
    exact ⟨floatResult_of_vconvert (fltPer_pos _) (fltPer_cases _) hunit (exec_vcvt_eq f s)
        (conv := fun x => (laneFmt _).enc s.x.rm.toNat ((laneFmt _).dec (x % 2 ^ (laneFmt _).width))) fun _ _ => rfl,
      floatResult_of_vconvert (fltPer_pos _) (intPer_cases _) hunit (exec_vfcvti_eq f s)
        (conv := fun x => toIntFmt _ _ s.x.rm.toNat ((laneFmt _).dec (x % 2 ^ (laneFmt _).width))) fun _ _ => rfl,
      floatResult_of_vconvert (intPer_pos _) (fltPer_cases _) hunit (exec_vicvtf_eq f s)
        (conv := fun x => (laneFmt _).enc s.x.rm.toNat (ofInt (if f.b.getLsbD 0 then (x : Int) else signed _ x))) fun x j =>
          congrArg (fun v => Fmt.enc _ _ (ofInt v)) (intOf_eq _ (elem_lt ..))⟩

end Sys2Proof.Machine
end

section
/-! The codes of a format other than L6 (07 R145 to R147): a sign bit above a magnitude, and the magnitudes in the order of their
values. -/

namespace Sys2Proof.Machine

namespace Fmt

/-- The whole number and the exponent that a magnitude stands for; a magnitude beyond the largest one counts on. -/
def codeSig (f : Fmt) (c : Nat) : Nat := if c < 2 ^ f.fb then c else 2 ^ f.fb + c % 2 ^ f.fb
def codeExp (f : Fmt) (c : Nat) : Int := max 1 ((c / 2 ^ f.fb : Nat) : Int) - f.bias - f.fb
/-- The value of a magnitude. -/
def mag (f : Fmt) (c : Nat) : Rat := magOf (f.codeSig c) (f.codeExp c)

variable {f : Fmt}

/-- The steps of a binade: a in units of its last place, from 2^fb (but from 0 in the lowest one) to where the next begins. -/
theorem mag_in_binade {E a : Nat} (hE : E = 0 ∨ 2 ^ f.fb ≤ a) (ha : a ≤ 2 ^ (f.fb + 1)) :
    f.mag (E * 2 ^ f.fb + a) = magOf a (E + 1 - f.bias - f.fb) := by
  have hpos := Nat.two_pow_pos f.fb
  rw [Nat.pow_succ] at ha
  rcases Nat.lt_or_ge a (2 ^ f.fb) with hlt | hge
  · obtain rfl : E = 0 := hE.resolve_right (by omega)
    rw [Nat.zero_mul, Nat.zero_add, mag, codeSig, if_pos hlt, codeExp, Nat.div_eq_of_lt hlt]
    rfl
  · obtain ⟨b, rfl⟩ := Nat.exists_eq_add_of_le hge
    have hnot : ¬ E * 2 ^ f.fb + (2 ^ f.fb + b) < 2 ^ f.fb := by have := Nat.zero_le (E * 2 ^ f.fb); omega
    have hcode : E * 2 ^ f.fb + (2 ^ f.fb + b) = b + (E + 1) * 2 ^ f.fb := by ring
    rw [mag, codeSig, if_neg hnot, codeExp, hcode, Nat.add_mul_mod_self_right, Nat.add_mul_div_right _ _ hpos]
    rcases Nat.lt_or_ge b (2 ^ f.fb) with hb | hb
    · rw [Nat.mod_eq_of_lt hb, Nat.div_eq_of_lt hb, max_eq_right (by omega)]
      congr 1; push_cast; ring
    · obtain rfl : b = 2 ^ f.fb := by omega
      rw [Nat.mod_self, Nat.div_self hpos, max_eq_right (by omega), Nat.add_zero, magOf, magOf]
      push_cast
      rw [show (1 + (E + 1) - f.bias - f.fb : Int) = 1 + (E + 1 - f.bias - f.fb) by ring, zpow_add₀ two_ne_zero]
      ring

/-- Every magnitude is such a step. -/
theorem exists_binade (f : Fmt) (c : Nat) :
    ∃ E a, c = E * 2 ^ f.fb + a ∧ (E = 0 ∨ 2 ^ f.fb ≤ a) ∧ a < 2 ^ (f.fb + 1) := by
  have hpos := Nat.two_pow_pos f.fb
  rw [Nat.pow_succ]
  rcases Nat.lt_or_ge c (2 ^ f.fb) with h | h
  · exact ⟨0, c, by omega, .inl rfl, by omega⟩
  · have hdiv := Nat.div_add_mod' c (2 ^ f.fb)
    have hmod := Nat.mod_lt c hpos
    have hone : 1 ≤ c / 2 ^ f.fb := (Nat.le_div_iff_mul_le hpos).mpr (by omega)
    refine ⟨c / 2 ^ f.fb - 1, 2 ^ f.fb + c % 2 ^ f.fb, ?_, .inr (by omega), by omega⟩
    rw [Nat.sub_mul]
    have := Nat.mul_le_mul_right (2 ^ f.fb) hone
    omega

theorem mag_strictMono (f : Fmt) : StrictMono f.mag := by
  refine strictMono_nat_of_lt_succ fun c => ?_
  obtain ⟨E, a, rfl, hE, ha⟩ := f.exists_binade c
  rw [mag_in_binade hE ha.le, Nat.add_assoc, mag_in_binade (hE.imp_right fun h => h.trans (Nat.le_succ a)) ha, magOf_lt_iff]
  exact Nat.lt_succ_self a

@[simp] theorem mag_zero (f : Fmt) : f.mag 0 = 0 := by simp [mag, codeSig]

theorem mag_nonneg (f : Fmt) (c : Nat) : 0 ≤ f.mag c := magOf_nonneg _ _

/-! ## Codes -/

theorem width_eq (hf : f ≠ .l6) : f.width = f.eb + f.fb + 1 := by revert hf; cases f <;> decide

theorem maxBits_lt (hf : f ≠ .l6) : f.maxBits < 2 ^ (f.eb + f.fb) := by revert hf; cases f <;> decide

/-- In a format with infinities the finite magnitudes are those whose exponent field is not all ones (07 R146). -/
theorem maxBits_of_hasInf (h : f.hasInf = true) : f.maxBits + 1 = (2 ^ f.eb - 1) * 2 ^ f.fb := by
  revert h; cases f <;> decide

/-- In another one they are all magnitudes, but for the NaN of E4M3. -/
theorem maxBits_of_not_hasInf (hf : f ≠ .l6) (h : f.hasInf = false) :
    f.maxBits + (if f = .e4m3 then 2 else 1) = 2 ^ (f.eb + f.fb) := by
  revert hf h; cases f <;> decide

/-- A code of the format is a magnitude under a sign bit. -/
theorem exists_sgn_add (hf : f ≠ .l6) {x : Nat} (hx : x < 2 ^ f.width) :
    ∃ neg, ∃ c < 2 ^ (f.eb + f.fb), x = f.sgn neg + c := by
  rw [width_eq hf, Nat.pow_succ] at hx
  rcases Nat.lt_or_ge x (2 ^ (f.eb + f.fb)) with h | h
  · exact ⟨false, x, h, by simp [sgn]⟩
  · refine ⟨true, x - 2 ^ (f.eb + f.fb), by omega, ?_⟩
    rw [sgn, width_eq hf, Nat.add_sub_cancel, if_pos rfl]
    omega

/-- Decoding but for L6, by fields. -/
theorem dec_eq (hf : f ≠ .l6) (x : Nat) : f.dec x =
    let neg := decide (x / 2 ^ (f.width - 1) % 2 = 1)
    let e := x / 2 ^ f.fb % 2 ^ f.eb
    let fr := x % 2 ^ f.fb
    if f.hasInf && e = 2 ^ f.eb - 1 then (if fr = 0 then .inf neg else .nan (decide (fr < 2 ^ (f.fb - 1))))
    else if f = .e4m3 && e = 15 && fr = 7 then .nan false
    else if e = 0 then .fin neg fr (1 - f.bias - f.fb)
    else .fin neg (2 ^ f.fb + fr) (e - f.bias - f.fb) := by
  cases f
  case l6 => contradiction
  all_goals rfl

/-- The magnitudes of the infinities and NaNs (07 R146). -/
def Special (f : Fmt) (c : Nat) : Prop :=
  (f.hasInf = true ∧ c / 2 ^ f.fb = 2 ^ f.eb - 1) ∨ (f = .e4m3 ∧ c / 2 ^ f.fb = 15 ∧ c % 2 ^ f.fb = 7)

section fields
variable (hf : f ≠ .l6) (neg : Bool) {c : Nat}
include hf

theorem sgn_add_fraction : (f.sgn neg + c) % 2 ^ f.fb = c % 2 ^ f.fb := by
  rw [sgn, width_eq hf, Nat.add_sub_cancel]
  cases neg
  · simp
  · rw [if_pos rfl, Nat.pow_add, Nat.mul_add_mod_self_right]

variable (hc : c < 2 ^ (f.eb + f.fb))
include hc

/-- The sign bit, the exponent field and the fraction field of a code. -/
theorem sgn_add_div : (f.sgn neg + c) / 2 ^ (f.eb + f.fb) = neg.toNat := by
  rw [sgn, width_eq hf, Nat.add_sub_cancel]
  cases neg
  · simp [Nat.div_eq_of_lt hc]
  · rw [if_pos rfl, Nat.add_div_left _ (Nat.two_pow_pos _), Nat.div_eq_of_lt hc]; rfl

theorem sgn_add_exponent : (f.sgn neg + c) / 2 ^ f.fb % 2 ^ f.eb = c / 2 ^ f.fb := by
  have hE : c / 2 ^ f.fb < 2 ^ f.eb := (Nat.div_lt_iff_lt_mul (Nat.two_pow_pos _)).mpr (by rwa [← Nat.pow_add])
  rw [sgn, width_eq hf, Nat.add_sub_cancel]
  cases neg
  · simp [Nat.mod_eq_of_lt hE]
  · rw [if_pos rfl, Nat.pow_add, Nat.add_comm, Nat.add_mul_div_right _ _ (Nat.two_pow_pos _), Nat.add_mod_right,
      Nat.mod_eq_of_lt hE]

/-- A code by its fields (07 R145, R146). -/
theorem dec_sgn_add : f.dec (f.sgn neg + c) =
    if f.hasInf = true ∧ c / 2 ^ f.fb = 2 ^ f.eb - 1 then
      (if c % 2 ^ f.fb = 0 then .inf neg else .nan (decide (c % 2 ^ f.fb < 2 ^ (f.fb - 1))))
    else if f = .e4m3 ∧ c / 2 ^ f.fb = 15 ∧ c % 2 ^ f.fb = 7 then .nan false
    else .fin neg (f.codeSig c) (f.codeExp c) := by
  have hneg : decide ((f.sgn neg + c) / 2 ^ (f.width - 1) % 2 = 1) = neg := by
    rw [width_eq hf, Nat.add_sub_cancel, sgn_add_div hf neg hc]
    cases neg <;> rfl
  rw [dec_eq hf]
  simp only [hneg, sgn_add_exponent hf neg hc, sgn_add_fraction hf neg, Bool.and_eq_true, decide_eq_true_eq, and_assoc]
  refine ite_congr rfl (fun _ => rfl) fun _ => ite_congr rfl (fun _ => rfl) fun _ => ?_
  have hpos := Nat.two_pow_pos f.fb
  rcases Nat.lt_or_ge c (2 ^ f.fb) with hlt | hge
  · rw [if_pos (Nat.div_eq_of_lt hlt), codeSig, if_pos hlt, codeExp, Nat.div_eq_of_lt hlt, Nat.mod_eq_of_lt hlt]
    rfl
  · have hone : 1 ≤ c / 2 ^ f.fb := (Nat.le_div_iff_mul_le hpos).mpr (by omega)
    rw [if_neg (by omega), codeSig, if_neg (by omega), codeExp, max_eq_right (by omega)]

/-- The infinities and NaNs are the magnitudes beyond the largest finite one. -/
theorem special_iff : f.Special c ↔ f.maxBits < c := by
  have hpos := Nat.two_pow_pos f.fb
  cases hinf : f.hasInf
  case true =>
    have hmax := maxBits_of_hasInf hinf
    have he4m3 : f ≠ .e4m3 := by rintro rfl; exact Bool.false_ne_true hinf
    have hE : c / 2 ^ f.fb < 2 ^ f.eb := (Nat.div_lt_iff_lt_mul hpos).mpr (by rwa [← Nat.pow_add])
    rw [Special, or_iff_left fun h => he4m3 h.1, and_iff_right hinf, Nat.lt_iff_add_one_le, hmax, ← Nat.le_div_iff_mul_le hpos]
    omega
  case false =>
    have hmax := maxBits_of_not_hasInf hf hinf
    rw [Special, hinf, or_iff_right fun h => Bool.false_ne_true h.1]
    by_cases he4m3 : f = .e4m3
    · subst he4m3
      simp only [true_and, fb, maxBits, eb] at hc ⊢
      omega
    · rw [if_neg he4m3] at hmax
      exact iff_of_false (fun h => he4m3 h.1) (by omega)

/-- A magnitude up to the largest one is finite. -/
theorem dec_of_le_maxBits (h : c ≤ f.maxBits) : f.dec (f.sgn neg + c) = .fin neg (f.codeSig c) (f.codeExp c) := by
  obtain ⟨hinf, he4m3⟩ := not_or.mp ((special_iff hf hc).not.mpr (by omega))
  rw [dec_sgn_add hf neg hc, if_neg hinf, if_neg he4m3]

/-- A magnitude beyond it is not. -/
theorem not_finite_of_maxBits_lt (h : f.maxBits < c) : ¬ (f.dec (f.sgn neg + c)).Finite := by
  rw [dec_sgn_add hf neg hc]
  split_ifs with hinf hzero he4m3
  · rintro ⟨_, _, _, h⟩; nomatch h
  · rintro ⟨_, _, _, h⟩; nomatch h
  · rintro ⟨_, _, _, h⟩; nomatch h
  · exact absurd ((special_iff hf hc).mpr h) (not_or.mpr ⟨hinf, he4m3⟩)

end fields

end Fmt
end Sys2Proof.Machine
end

section
/-! O20 (07 R145 to R147): the value of a code by its fields. -/

namespace Sys2Proof.Machine

theorem magOf_sub_natCast (m : Nat) (e : Int) (k : Nat) : magOf m (e - k) = m / 2 ^ k * (2 : Rat) ^ e := by
  rw [magOf, zpow_sub₀ two_ne_zero, zpow_natCast]
  ring

theorem Fmt.dec_nanBits (f : Fmt) : f.dec f.nanBits = .nan false ∨ f = .e2m1 := by cases f <;> decide

/-- O20, the formats other than L6. -/
theorem Fmt.dec_fields {f : Fmt} (hf : f ≠ .l6) {x : Nat} (hx : x < 2 ^ f.width) :
    let neg := x / 2 ^ (f.eb + f.fb) = 1
    let E := x / 2 ^ f.fb % 2 ^ f.eb
    let F := x % 2 ^ f.fb
    let sign : Rat := if neg then -1 else 1
    let special := (f.hasInf = true ∧ E = 2 ^ f.eb - 1) ∨ (f = .e4m3 ∧ E = 15 ∧ F = 7)
    (¬ special → E = 0 → (f.dec x).Finite ∧ (f.dec x).val = sign * ((F : Rat) / 2 ^ f.fb) * (2 : Rat) ^ (1 - f.bias)) ∧
    (¬ special → E ≠ 0 → (f.dec x).Finite ∧
      (f.dec x).val = sign * (1 + (F : Rat) / 2 ^ f.fb) * (2 : Rat) ^ ((E : Int) - f.bias)) ∧
    (f.hasInf = true → E = 2 ^ f.eb - 1 → F = 0 → f.dec x = .inf (decide neg)) ∧
    (f.hasInf = true → E = 2 ^ f.eb - 1 → F ≠ 0 → f.dec x = .nan (decide (F < 2 ^ (f.fb - 1)))) ∧
    (f = .e4m3 → E = 15 → F = 7 → f.dec x = .nan false) := by
  obtain ⟨neg, c, hc, rfl⟩ := Fmt.exists_sgn_add hf hx
  have hpos := Nat.two_pow_pos f.fb
  have hneg : neg.toNat = 1 ↔ neg = true := by cases neg <;> decide
  simp only [Fmt.sgn_add_div hf neg hc, Fmt.sgn_add_exponent hf neg hc, Fmt.sgn_add_fraction hf neg, hneg, Bool.decide_eq_true]
  have hfin : ¬ f.Special c → f.dec (f.sgn neg + c) = .fin neg (f.codeSig c) (f.codeExp c) := fun h =>
    Fmt.dec_of_le_maxBits hf neg hc (not_lt.mp ((Fmt.special_iff hf hc).not.mp h))
  refine ⟨fun h hE => ?subnormal, fun h hE => ?normal, fun hinf hE hF => ?infinity, fun hinf hE hF => ?nan, fun he hE hF => ?e4m3⟩
  case subnormal =>
    rw [hfin h, Fp.val_fin]
    refine ⟨⟨_, _, _, rfl⟩, ?_⟩
    have hlt : c < 2 ^ f.fb := by rwa [Nat.div_eq_zero_iff_lt hpos] at hE
    rw [Fmt.codeSig, if_pos hlt, Fmt.codeExp, hE, Nat.mod_eq_of_lt hlt, magOf_sub_natCast, mul_assoc]
    rfl
  case normal =>
    rw [hfin h, Fp.val_fin]
    refine ⟨⟨_, _, _, rfl⟩, ?_⟩
    have hge : ¬ c < 2 ^ f.fb := fun hlt => hE (Nat.div_eq_of_lt hlt)
    rw [Fmt.codeSig, if_neg hge, Fmt.codeExp, max_eq_right (by exact_mod_cast Nat.pos_of_ne_zero hE), magOf_sub_natCast,
      mul_assoc, Nat.cast_add, Nat.cast_pow, Nat.cast_ofNat, add_div, div_self (by positivity)]
    rfl
  case infinity => rw [Fmt.dec_sgn_add hf neg hc, if_pos ⟨hinf, hE⟩, if_pos hF]
  case nan => rw [Fmt.dec_sgn_add hf neg hc, if_pos ⟨hinf, hE⟩, if_neg hF]
  case e4m3 =>
    have hinf : f.hasInf ≠ true := by rw [he]; decide
    rw [Fmt.dec_sgn_add hf neg hc, if_neg fun h => hinf h.1, if_pos ⟨he, hE, hF⟩]

end Sys2Proof.Machine
end

section
/-! Rounding into a format other than L6 (07 R154, R156): the magnitude is rounded on the scale of the format's magnitudes, which
counts on beyond the largest finite one. -/

namespace Sys2Proof.Machine

/-- The rounding to integers in units of 2^q carries over to a sequence whose places from the even place d on are 2^q apart about
the number. -/
theorem Rounded.shift {V : Nat → Rat} {rm : Nat} {neg : Bool} {m : Nat} {e q : Int} {a d : Nat} (hd : d % 2 = 0)
    (hV : ∀ c : Nat, (c : Rat) ≤ magOf m (e - q) → magOf m (e - q) < (c + 1 : Nat) →
      V (d + c) = magOf c q ∧ V (d + c + 1) = magOf (c + 1) q)
    (h : Rounded (fun n => (n : Rat)) rm neg (magOf m (e - q)) a) : Rounded V rm neg (magOf m e) (d + a) := by
  obtain ⟨c, hlo, hhi, hr, hup⟩ := h
  have hu : (0 : Rat) < 2 ^ q := zpow_pos two_pos q
  have hx : magOf m e = magOf m (e - q) * 2 ^ q := by rw [magOf_mul_zpow, Int.sub_add_cancel]
  obtain ⟨hVc, hVc'⟩ := hV c hlo hhi
  refine ⟨d + c, ?_, ?_, by omega, ?_⟩
  · rw [hVc, hx]; exact mul_le_mul_of_nonneg_right hlo hu.le
  · rw [hVc', hx]; exact mul_lt_mul_of_pos_right hhi hu
  · have hodd : (d + c) % 2 = 1 ↔ c % 2 = 1 := by omega
    generalize magOf m (e - q) = y at hup hx
    rw [show d + a = d + c + 1 ↔ a = c + 1 by omega, hup, RoundsUp, RoundsUp, hVc, hVc', hx, hodd, magOf, magOf, ← add_mul,
      ← mul_assoc 2, mul_lt_mul_iff_left₀ hu, mul_lt_mul_iff_left₀ hu, mul_left_inj' hu.ne', Nat.cast_succ]

namespace Fmt

/-- The exponent above the leading bit of m × 2^e. -/
def top (m : Nat) (e : Int) : Int := e + Nat.log2 m + 1

/-- The last place that a magnitude keeps: of its binade, or of the first one. -/
def lastPlace (f : Fmt) (m : Nat) (e : Int) : Int := max (top m e - (f.fb + 1)) (1 - f.bias - f.fb)

/-- A value is tiny: rounded with unbounded exponent it stays below the smallest normal number (07 R156, log 18). -/
abbrev tiny (f : Fmt) (rm : Nat) (neg : Bool) (m : Nat) (e : Int) : Prop :=
  cmpMag (roundTo rm neg m e (top m e - (f.fb + 1))).1 (top m e - (f.fb + 1)) 1 (1 - f.bias) = .lt

/-- The mode goes to the infinity beyond the largest finite value. -/
def toInf (f : Fmt) (rm : Nat) (neg : Bool) : Bool :=
  f.hasInf && !(f = .e5m2) && (match rm with | 0 => true | 1 => false | 2 => !neg | _ => neg)

variable {f : Fmt}

/-- Rounding a nonzero value, but for L6. -/
theorem enc_fin (hf : f ≠ .l6) (rm : Nat) (neg : Bool) {m : Nat} (hm : 0 < m) (e : Int) : f.enc rm (.fin neg m e) =
    let q := f.lastPlace m e
    let r := roundTo rm neg m e q
    let c := (q + f.fb + f.bias).toNat * 2 ^ f.fb + r.1 - 2 ^ f.fb
    if f.maxBits < c then (f.sgn neg + (if f.toInf rm neg then (2 ^ f.eb - 1) * 2 ^ f.fb else f.maxBits), 20)
    else (f.sgn neg + c, if r.2 then 16 + (if f.tiny rm neg m e then 8 else 0) else 0) := by
  cases f
  case l6 => contradiction
  all_goals exact if_neg hm.ne'

theorem toInf_iff {rm : Nat} (hrm : rm < 4) (neg : Bool) :
    f.toInf rm neg = true ↔ f.hasInf = true ∧ f ≠ .e5m2 ∧ (rm = 0 ∨ Away rm neg) := by
  interval_cases rm <;> simp [toInf, Away, and_assoc]

theorem fb_pos (hf : f ≠ .l6) : 0 < f.fb := by revert hf; cases f <;> decide

section lastPlace
variable {m : Nat} (hm : 0 < m) (e : Int)
include hm

/-- A magnitude lies in the binade of its leading bit. -/
theorem two_zpow_top : (2 : Rat) ^ (top m e - 1) ≤ magOf m e ∧ magOf m e < 2 ^ top m e := by
  have hlo : ((2 ^ Nat.log2 m : Nat) : Rat) ≤ m := Nat.cast_le.mpr (Nat.log2_self_le hm.ne')
  have hhi : (m : Rat) < (2 ^ (Nat.log2 m + 1) : Nat) := Nat.cast_lt.mpr Nat.lt_log2_self
  have hu : (0 : Rat) < 2 ^ e := zpow_pos two_pos e
  have htop : top m e - 1 = (Nat.log2 m : Int) + e := by unfold top; ring
  have htop' : top m e = ((Nat.log2 m + 1 : Nat) : Int) + e := by unfold top; push_cast; ring
  constructor
  · rw [htop, zpow_add₀ two_ne_zero, zpow_natCast, magOf]
    exact mul_le_mul_of_nonneg_right (by exact_mod_cast hlo) hu.le
  · rw [htop', zpow_add₀ two_ne_zero, zpow_natCast, magOf]
    exact mul_lt_mul_of_pos_right (by exact_mod_cast hhi) hu

/-- In units of the last place it keeps a magnitude lies below the next binade, and not below its own unless it is subnormal. -/
theorem magOf_lastPlace_lt (f : Fmt) : magOf m (e - f.lastPlace m e) < (2 ^ (f.fb + 1) : Nat) := by
  have hle : top m e - f.lastPlace m e ≤ (f.fb + 1 : Nat) := by unfold lastPlace; push_cast; omega
  calc magOf m (e - f.lastPlace m e) = magOf m e * 2 ^ (-f.lastPlace m e) := (magOf_mul_zpow ..).symm
    _ < 2 ^ top m e * 2 ^ (-f.lastPlace m e) := mul_lt_mul_of_pos_right (two_zpow_top hm e).2 (zpow_pos two_pos _)
    _ = 2 ^ (top m e - f.lastPlace m e) := (zpow_add₀ two_ne_zero _ _).symm
    _ ≤ 2 ^ ((f.fb + 1 : Nat) : Int) := zpow_le_zpow_right₀ one_le_two hle
    _ = (2 ^ (f.fb + 1) : Nat) := by rw [zpow_natCast, Nat.cast_pow, Nat.cast_ofNat]

theorem le_magOf_lastPlace (h : f.lastPlace m e ≠ 1 - f.bias - f.fb) :
    ((2 ^ f.fb : Nat) : Rat) ≤ magOf m (e - f.lastPlace m e) := by
  have heq : (f.fb : Int) = top m e - 1 - f.lastPlace m e := by unfold lastPlace at h ⊢; omega
  calc ((2 ^ f.fb : Nat) : Rat) = 2 ^ (f.fb : Int) := by rw [zpow_natCast, Nat.cast_pow, Nat.cast_ofNat]
    _ = 2 ^ (top m e - 1) * 2 ^ (-f.lastPlace m e) := by rw [heq, ← zpow_add₀ two_ne_zero, ← sub_eq_add_neg]
    _ ≤ magOf m e * 2 ^ (-f.lastPlace m e) := mul_le_mul_of_nonneg_right (two_zpow_top hm e).1 (zpow_pos two_pos _).le
    _ = magOf m (e - f.lastPlace m e) := magOf_mul_zpow ..

/-- The magnitude that the model makes of the number of last places is the value rounded on the scale of the format. -/
theorem enc_rounded (hf : f ≠ .l6) {rm : Nat} (hrm : rm < 4) (neg : Bool) :
    let q := f.lastPlace m e
    let r := roundTo rm neg m e q
    let c := (q + f.fb + f.bias).toNat * 2 ^ f.fb + r.1 - 2 ^ f.fb
    Rounded f.mag rm neg (magOf m e) c ∧ (r.2 = true ↔ f.mag c ≠ magOf m e) := by
  intro q r c
  obtain ⟨hround, hinexact⟩ := roundTo_spec hrm neg m e q
  obtain ⟨E, hE⟩ : ∃ E : Nat, q = E + 1 - f.bias - f.fb :=
    ⟨(q + f.fb + f.bias - 1).toNat, by simp only [q, lastPlace]; omega⟩
  have hc : c = E * 2 ^ f.fb + r.1 := by
    simp only [c]
    rw [show (q + f.fb + f.bias).toNat = E + 1 by omega, Nat.add_mul, Nat.one_mul]
    omega
  have hlt : magOf m (e - q) < (2 ^ (f.fb + 1) : Nat) := magOf_lastPlace_lt hm e f
  have hge : E = 0 ∨ ((2 ^ f.fb : Nat) : Rat) ≤ magOf m (e - q) := by
    refine or_iff_not_imp_left.mpr fun h => le_magOf_lastPlace hm e ?_
    show q ≠ _
    omega
  have hbinade {a : Nat} (h : E = 0 ∨ 2 ^ f.fb ≤ a) (ha : a ≤ 2 ^ (f.fb + 1)) : f.mag (E * 2 ^ f.fb + a) = magOf a q := by
    rw [mag_in_binade h ha, ← hE]
  have hplaces (a : Nat) (hlo : (a : Rat) ≤ magOf m (e - q)) (hhi : magOf m (e - q) < (a + 1 : Nat)) :
      f.mag (E * 2 ^ f.fb + a) = magOf a q ∧ f.mag (E * 2 ^ f.fb + a + 1) = magOf (a + 1) q := by
    have ha : a < 2 ^ (f.fb + 1) := Nat.cast_lt.mp (hlo.trans_lt hlt)
    have ha' : E = 0 ∨ 2 ^ f.fb ≤ a := hge.imp_right fun h => Nat.lt_succ_iff.mp (Nat.cast_lt.mp (h.trans_lt hhi))
    exact ⟨hbinade ha' ha.le, hbinade (ha'.imp_right fun h => h.trans (Nat.le_succ a)) ha⟩
  have heven : E * 2 ^ f.fb % 2 = 0 := by
    have hfb : 2 ^ f.fb = 2 * 2 ^ (f.fb - 1) := two_pow_eq_double (fb_pos hf)
    rw [hfb, Nat.mul_left_comm, Nat.mul_mod_right]
  have hexact : f.mag (E * 2 ^ f.fb + r.1) = magOf m e ↔ (r.1 : Rat) = magOf m (e - q) := by
    obtain ⟨a, hlo, hhi, hr, -⟩ := hround
    have hr : f.mag (E * 2 ^ f.fb + r.1) = magOf r.1 q := by
      rcases hr with h | h <;> rw [h]
      · exact (hplaces a hlo hhi).1
      · exact (hplaces a hlo hhi).2
    rw [hr, ← Int.sub_add_cancel e q, ← magOf_mul_zpow, Int.sub_add_cancel, magOf, mul_left_inj' (zpow_pos two_pos q).ne']
  rw [hc]
  exact ⟨hround.shift heven hplaces, hinexact.trans hexact.not.symm⟩

end lastPlace

/-- Rounding a nonzero value into a format other than L6 (07 R156). -/
theorem enc_spec (hf : f ≠ .l6) {rm : Nat} (hrm : rm < 4) (neg : Bool) {m : Nat} (hm : 0 < m) (e : Int) :
    ∃ c, Rounded f.mag rm neg (magOf m e) c ∧ f.enc rm (.fin neg m e) =
      if f.maxBits < c then (f.sgn neg + (if f.toInf rm neg then f.maxBits + 1 else f.maxBits), 20)
      else (f.sgn neg + c, if f.mag c = magOf m e then 0 else 16 + (if f.tiny rm neg m e then 8 else 0)) := by
  obtain ⟨hround, hinexact⟩ := enc_rounded hm e hf hrm neg
  have hinf : (if f.toInf rm neg then (2 ^ f.eb - 1) * 2 ^ f.fb else f.maxBits) =
      if f.toInf rm neg then f.maxBits + 1 else f.maxBits :=
    ite_congr rfl (fun h => (maxBits_of_hasInf ((toInf_iff hrm neg).mp h).1).symm) fun _ => rfl
  refine ⟨_, hround, ?_⟩
  rw [enc_fin hf rm neg hm]
  simp only [hinexact, ite_not, hinf]
end Fmt

end Sys2Proof.Machine
end

section
/-! What correct rounding is (07 R154) on the numbers whose magnitudes are the places of a sequence. -/

namespace Sys2Proof.Machine

/-- y is what the mode makes of z among the numbers of S (07 R154), ties aside. -/
def RoundsTo (S : Rat → Prop) (rm : Nat) (z y : Rat) : Prop :=
  (rm = 0 → ∀ w, S w → |y - z| ≤ |w - z|) ∧
  (rm = 1 → |y| ≤ |z| ∧ ∀ w, S w → |w| ≤ |z| → |w| ≤ |y|) ∧
  (rm = 2 → z ≤ y ∧ ∀ w, S w → z ≤ w → y ≤ w) ∧
  (rm = 3 → y ≤ z ∧ ∀ w, S w → w ≤ z → w ≤ y)

theorem signOf_not (neg : Bool) : signOf (!neg) = -signOf neg := by cases neg <;> simp [signOf]

section rounded
variable {V : Nat → Rat} {rm : Nat} {neg : Bool} {x : Rat} {r : Nat} (hV : StrictMono V)
include hV

theorem Rounded.greatest (h : Rounded V rm neg x r) (h0 : rm ≠ 0) (haway : ¬ Away rm neg) :
    V r ≤ x ∧ ∀ c, V c ≤ x → V c ≤ V r := by
  obtain ⟨hle, hlt⟩ := h.down h0 haway
  exact ⟨hle, fun c hc => hV.monotone (Nat.lt_succ_iff.mp (hV.lt_iff_lt.mp (hc.trans_lt hlt)))⟩

theorem Rounded.least (h : Rounded V rm neg x r) (haway : Away rm neg) : x ≤ V r ∧ ∀ c, x ≤ V c → V r ≤ V c := by
  obtain ⟨hle, hleast⟩ := h.up hV haway
  exact ⟨hle, fun c hc => hV.monotone (hleast c hc)⟩

theorem place_nonneg (hzero : V 0 = 0) (c : Nat) : 0 ≤ V c := hzero ▸ hV.monotone (Nat.zero_le c)

/-- The distance of two numbers is no less than that of their magnitudes. -/
theorem Rounded.dist_le (h : Rounded V 0 neg x r) (hx : 0 ≤ x) {w : Rat} {c : Nat} (hw : |w| = V c) :
    |signOf neg * V r - signOf neg * x| = |V r - x| ∧ |V r - x| ≤ |V c - x| ∧ |V c - x| ≤ |w - signOf neg * x| := by
  refine ⟨by rw [← mul_sub, abs_mul, abs_signOf, one_mul], (h.nearest hV c).1, ?_⟩
  have := abs_abs_sub_abs_le_abs_sub w (signOf neg * x)
  rwa [hw, abs_mul, abs_signOf, one_mul, abs_of_nonneg hx] at this

variable (hzero : V 0 = 0)
include hzero

/-- Of two numbers that are as near to nearest, the one taken is even. -/
theorem Rounded.tie (h : Rounded V 0 neg x r) (hx : 0 < x) {w : Rat} {c : Nat} (hw : |w| = V c)
    (htie : |signOf neg * V r - signOf neg * x| = |w - signOf neg * x|) (hne : w ≠ signOf neg * V r) : r % 2 = 0 := by
  obtain ⟨hy, hle, hle'⟩ := h.dist_le hV hx.le hw
  by_cases hc : c = r
  · subst hc
    have hr := place_nonneg hV hzero c
    obtain ⟨s, hs⟩ := exists_signOf_mul_abs w
    rw [hw] at hs
    have hopp : s = !neg := Bool.eq_not.mpr fun hsame => hne (hsame ▸ hs)
    have hfar : |w - signOf neg * x| = V c + x := by
      rw [hs, hopp, signOf_not, neg_mul, ← neg_add', abs_neg, ← mul_add, abs_mul, abs_signOf, one_mul,
        abs_of_nonneg (by linarith)]
    have hnear : |V c - x| = V c + x := by rw [← hy, htie, hfar]
    have : V c = V 0 := by rcases abs_choice (V c - x) with h' | h' <;> linarith
    rw [hV.injective this]
  · exact (h.nearest hV c).2 (by linarith) hc

/-- A rounded magnitude with its sign is what the mode makes of the number. -/
theorem Rounded.roundsTo (h : Rounded V rm neg x r) (hx : 0 < x) :
    RoundsTo (fun w => ∃ c, |w| = V c) rm (signOf neg * x) (signOf neg * V r) := by
  have hr := place_nonneg hV hzero r
  have habs {u : Rat} (hu : 0 ≤ u) : |signOf neg * u| = u := by rw [abs_mul, abs_signOf, one_mul, abs_of_nonneg hu]
  refine ⟨?nearest, ?zero, ?above, ?below⟩
  case nearest =>
    rintro rfl w ⟨c, hw⟩
    obtain ⟨hy, hle, hle'⟩ := h.dist_le hV hx.le hw
    rw [hy]
    exact hle.trans hle'
  case zero =>
    rintro rfl
    obtain ⟨hle, hgreatest⟩ := h.greatest hV (by decide) not_away_one
    rw [habs hr, habs hx.le]
    refine ⟨hle, ?_⟩
    rintro w ⟨c, hw⟩ hwx
    rw [hw] at hwx ⊢
    exact hgreatest c hwx
  case above =>
    rintro rfl
    cases neg
    case false =>
      obtain ⟨hle, hleast⟩ := h.least hV (.inl ⟨rfl, rfl⟩)
      simp only [signOf, Bool.false_eq_true, if_false, one_mul]
      refine ⟨hle, ?_⟩
      rintro w ⟨c, hw⟩ hxw
      rw [abs_of_nonneg (hx.le.trans hxw)] at hw
      exact hw ▸ hleast c (hw ▸ hxw)
    case true =>
      obtain ⟨hle, hgreatest⟩ := h.greatest hV (by decide) (by simp [Away])
      simp only [signOf, if_true, neg_one_mul, neg_le_neg_iff]
      refine ⟨hle, ?_⟩
      rintro w ⟨c, hw⟩ hxw
      rcases abs_choice w with h' | h' <;> rw [h'] at hw
      · have := place_nonneg hV hzero c; linarith
      · have := hgreatest c (by linarith); linarith
  case below =>
    rintro rfl
    cases neg
    case false =>
      obtain ⟨hle, hgreatest⟩ := h.greatest hV (by decide) (by simp [Away])
      simp only [signOf, Bool.false_eq_true, if_false, one_mul]
      refine ⟨hle, ?_⟩
      rintro w ⟨c, hw⟩ hxw
      rcases abs_choice w with h' | h' <;> rw [h'] at hw
      · exact hw ▸ hgreatest c (hw ▸ hxw)
      · have := place_nonneg hV hzero c; linarith
    case true =>
      obtain ⟨hle, hleast⟩ := h.least hV (.inr ⟨rfl, rfl⟩)
      simp only [signOf, if_true, neg_one_mul, neg_le_neg_iff]
      refine ⟨hle, ?_⟩
      rintro w ⟨c, hw⟩ hxw
      rw [abs_of_nonpos (by linarith)] at hw
      have := hleast c (by linarith)
      linarith

end rounded

end Sys2Proof.Machine
end

section
/-! O21 but for L6 (07 R154, R156, log 18): a code of the format is a magnitude with a sign, and OF tells when the rounded
magnitude lies beyond the largest one. -/

namespace Sys2Proof.Machine
namespace Fmt
variable {f : Fmt}

/-- A code of a finite value (07 R145). -/
def FiniteCode (f : Fmt) (c : Nat) : Prop := c < 2 ^ f.width ∧ (f.dec c).Finite

section codes
variable (hf : f ≠ .l6)
include hf

/-- The finite codes are the magnitudes up to the largest one, with a sign. -/
theorem finiteCode_iff {x : Nat} : f.FiniteCode x ↔ ∃ neg, ∃ c ≤ f.maxBits, x = f.sgn neg + c := by
  constructor
  · rintro ⟨hx, hfin⟩
    obtain ⟨neg, c, hc, rfl⟩ := exists_sgn_add hf hx
    exact ⟨neg, c, not_lt.mp fun h => not_finite_of_maxBits_lt hf neg hc h hfin, rfl⟩
  · rintro ⟨neg, c, hc, rfl⟩
    have hlt : c < 2 ^ (f.eb + f.fb) := hc.trans_lt (maxBits_lt hf)
    refine ⟨?_, dec_of_le_maxBits hf neg hlt hc ▸ ⟨_, _, _, rfl⟩⟩
    rw [sgn, width_eq hf, Nat.add_sub_cancel, Nat.pow_succ]
    split <;> omega

theorem val_dec_sgn_add (neg : Bool) {c : Nat} (hc : c ≤ f.maxBits) : (f.dec (f.sgn neg + c)).val = signOf neg * f.mag c := by
  rw [dec_of_le_maxBits hf neg (hc.trans_lt (maxBits_lt hf)) hc, Fp.val_fin, mag]

theorem abs_val_of_finiteCode {x : Nat} (hx : f.FiniteCode x) : ∃ c, |(f.dec x).val| = f.mag c := by
  obtain ⟨neg, c, hc, rfl⟩ := (finiteCode_iff hf).mp hx
  exact ⟨c, by rw [val_dec_sgn_add hf neg hc, abs_mul, abs_signOf, one_mul, abs_of_nonneg (f.mag_nonneg c)]⟩

/-- The largest finite value, and the step below it, which is also the one above it. -/
theorem val_dec_maxBits : (f.dec f.maxBits).val = f.mag f.maxBits := by
  simpa [sgn, signOf] using val_dec_sgn_add hf false le_rfl
theorem val_dec_maxBits_sub_one : (f.dec (f.maxBits - 1)).val = f.mag (f.maxBits - 1) := by
  simpa [sgn, signOf] using val_dec_sgn_add hf false (Nat.sub_le f.maxBits 1)

theorem mag_maxBits_step : f.mag (f.maxBits + 1) = f.mag f.maxBits + (f.mag f.maxBits - f.mag (f.maxBits - 1)) := by
  obtain ⟨E, a, hcode, ha, ha'⟩ : ∃ E a, f.maxBits - 1 = E * 2 ^ f.fb + a ∧ 2 ^ f.fb ≤ a ∧ a + 2 ≤ 2 ^ (f.fb + 1) :=
    ⟨(f.maxBits - 1) / 2 ^ f.fb - 1, 2 ^ f.fb + (f.maxBits - 1) % 2 ^ f.fb, by revert hf; cases f <;> decide⟩
  have hpos : 0 < f.maxBits := by revert hf; cases f <;> decide
  have hplace (b : Nat) (hb : b ≤ 2) : f.mag (f.maxBits - 1 + b) = magOf (a + b) (E + 1 - f.bias - f.fb) := by
    rw [hcode, Nat.add_assoc, mag_in_binade (.inr (by omega)) (by omega)]
  rw [show f.maxBits + 1 = f.maxBits - 1 + 2 by omega, hplace 2 le_rfl, ← Nat.sub_add_cancel hpos,
    Nat.add_sub_cancel, hplace 1 (by decide), ← Nat.add_zero (f.maxBits - 1), hplace 0 (by decide)]
  simp only [magOf]
  push_cast
  ring

/-- Beyond the largest finite value stands the infinity (07 R146). -/
theorem dec_maxBits_add_one (hinf : f.hasInf = true) (neg : Bool) : f.dec (f.sgn neg + (f.maxBits + 1)) = .inf neg := by
  have hpos := Nat.two_pow_pos f.fb
  have hlt : (2 ^ f.eb - 1) * 2 ^ f.fb < 2 ^ (f.eb + f.fb) := by
    rw [Nat.pow_add]
    exact Nat.mul_lt_mul_of_pos_right (Nat.sub_lt (Nat.two_pow_pos _) one_pos) hpos
  rw [maxBits_of_hasInf hinf, dec_sgn_add hf neg hlt, if_pos ⟨hinf, Nat.mul_div_cancel _ hpos⟩, if_pos (Nat.mul_mod_left _ _)]

end codes

theorem testBit_flags (p u : Prop) [Decidable p] [Decidable u] :
    (if p then 0 else 16 + (if u then 8 else 0)).testBit 2 = false ∧
    ((if p then 0 else 16 + (if u then 8 else 0)).testBit 4 = true ↔ ¬ p) := by
  by_cases hp : p <;> by_cases hu : u <;> simp only [hp, hu] <;> decide

/-- O21 for a format other than L6: a finite result is correct, OF tells when there is none, and what there is then. -/
theorem enc_correct (hf : f ≠ .l6) {rm : Nat} (hrm : rm < 4) (neg : Bool) {m : Nat} (hm : 0 < m) (e : Int) :
    let z := Fp.val (.fin neg m e)
    let r := f.enc rm (.fin neg m e)
    ∃ c, Rounded f.mag rm neg |z| c ∧ (r.2.testBit 2 = true ↔ f.maxBits < c) ∧
      (c ≤ f.maxBits → f.FiniteCode r.1 ∧ (r.2.testBit 4 = true ↔ (f.dec r.1).val ≠ z) ∧
        RoundsTo (fun w => ∃ c, |w| = f.mag c) rm z (f.dec r.1).val) ∧
      (f.maxBits < c → r.2 = 20 ∧
        (f.hasInf = true → f ≠ .e5m2 → rm = 0 ∨ Away rm neg → f.dec r.1 = .inf neg) ∧
        (f.hasInf = false ∨ f = .e5m2 ∨ (rm ≠ 0 ∧ ¬ Away rm neg) →
          r.1 = f.maxBits + (if neg then 2 ^ (f.width - 1) else 0))) := by
  intro z r
  obtain ⟨c, hround, henc⟩ := enc_spec hf hrm neg hm e
  have habs : |z| = magOf m e := Fp.abs_val_fin neg m e
  have hz : z = signOf neg * magOf m e := Fp.val_fin neg m e
  have hr : r = _ := henc
  refine ⟨c, habs ▸ hround, ?overflows, fun hle => ?finite, fun hlt => ?overflow⟩
  case overflows =>
    rw [hr]
    split
    case isTrue h => exact iff_of_true (by decide : (20 : Nat).testBit 2 = true) h
    case isFalse h => exact iff_of_false (by rw [(testBit_flags _ _).1]; decide) h
  case finite =>
    rw [if_neg (by omega)] at hr
    have hval : (f.dec r.1).val = signOf neg * f.mag c := by rw [hr]; exact val_dec_sgn_add hf neg hle
    refine ⟨(finiteCode_iff hf).mpr ⟨neg, c, hle, by rw [hr]⟩, ?_, ?_⟩
    · rw [hval, hz, ne_eq, signOf_mul_inj, hr]
      exact (testBit_flags _ _).2
    · rw [hval, hz]
      exact hround.roundsTo f.mag_strictMono f.mag_zero (magOf_pos hm e)
  case overflow =>
    rw [if_pos hlt] at hr
    rw [hr]
    refine ⟨rfl, fun hinf h5 hmode => ?_, fun hno => ?_⟩
    · rw [if_pos ((toInf_iff hrm neg).mpr ⟨hinf, h5, hmode⟩)]
      exact dec_maxBits_add_one hf hinf neg
    · rw [if_neg, sgn, Nat.add_comm]
      rw [toInf_iff hrm neg]
      rintro ⟨hinf, h5, hmode⟩
      rcases hno with h | h | ⟨h0, haway⟩
      · exact Bool.false_ne_true (h.symm.trans hinf)
      · exact h5 h
      · exact hmode.elim h0 haway

/-- O21 for a format other than L6: what OF is raised for. -/
theorem overflow_iff (hf : f ≠ .l6) {rm : Nat} {neg : Bool} {x : Rat} {c : Nat} (h : Rounded f.mag rm neg x c) :
    let top : Rat := (f.dec f.maxBits).val
    let step : Rat := top - (f.dec (f.maxBits - 1)).val
    (rm = 0 → (f.maxBits < c ↔ top + step / 2 < x ∨ (top + step / 2 = x ∧ f.maxBits % 2 = 1))) ∧
    (Away rm neg → (f.maxBits < c ↔ top < x)) ∧ (rm ≠ 0 → ¬ Away rm neg → (f.maxBits < c ↔ top + step ≤ x)) := by
  intro top step
  have htop : top = f.mag f.maxBits := val_dec_maxBits hf
  have hnext : f.mag (f.maxBits + 1) = top + step := by
    simp only [step, htop, val_dec_maxBits_sub_one hf, mag_maxBits_step hf]
  have hmid : f.mag f.maxBits + f.mag (f.maxBits + 1) = 2 * (top + step / 2) := by rw [hnext, ← htop]; ring
  rw [h.lt_iff f.mag_strictMono, hmid, hnext, ← htop, mul_lt_mul_iff_right₀ two_pos, mul_right_inj' two_ne_zero]
  refine ⟨?_, fun haway => ?_, fun h0 haway => ?_⟩
  · rintro rfl
    simp [not_away_zero]
  · have h0 : rm ≠ 0 := by rintro rfl; exact not_away_zero haway
    simp [h0, haway]
  · simp [h0, haway]

end Fmt

end Sys2Proof.Machine
end

section
/-! L6 (07 R150, R156, R157): its positions are places of a sequence that starts at 0 and counts on beyond 31; rounding, OF
and UF. -/

namespace Sys2Proof.Machine
namespace L6

/-! ## The linear values (07 R150) -/

theorem l6Val_eq {c i : Int} {fr : Nat} (hfr : fr < 4) (h : c - 16 = 4 * i + fr) : l6Val c = (l6T fr, i - 11) := by
  rw [l6Val, show ((c - 16) % 4).toNat = fr by omega, show (c - 16) / 4 = i by omega]

theorem l6T_pos (fr : Nat) : 0 < l6T fr := by unfold l6T; split_ifs <;> decide
theorem l6T_lt_succ {fr : Nat} (h : fr < 3) : l6T fr < l6T (fr + 1) := by interval_cases fr <;> decide
theorem l6T_three_lt : l6T 3 < l6T 0 * 2 ^ 1 := by decide

/-- The value of a position. -/
def linear (c : Int) : Rat := magOf (l6Val c).1 (l6Val c).2

theorem linear_lt_succ (c : Int) : linear c < linear (c + 1) := by
  obtain ⟨i, fr, hfr, h⟩ : ∃ (i : Int) (fr : Nat), fr < 4 ∧ c - 16 = 4 * i + fr :=
    ⟨(c - 16) / 4, ((c - 16) % 4).toNat, by omega, by omega⟩
  rw [linear, linear, l6Val_eq hfr h]
  rcases Nat.lt_or_ge fr 3 with hlt | hge
  · rw [l6Val_eq (i := i) (fr := fr + 1) (by omega) (by push_cast; omega), magOf_lt_iff]
    exact l6T_lt_succ hlt
  · obtain rfl : fr = 3 := by omega
    rw [l6Val_eq (i := i + 1) (fr := 0) (by decide) (by push_cast; omega), 
      magOf_in_units (show i - 11 ≤ i + 1 - 11 by omega) (l6T 0), show (i + 1 - 11 - (i - 11)).toNat = 1 by omega, magOf_lt_iff]
    exact l6T_three_lt

theorem linear_pos (c : Int) : 0 < linear c := magOf_pos (l6T_pos _) _

/-- The positions as a sequence: 0, and the linear values from position 1 on. -/
def mag (c : Nat) : Rat := if c = 0 then 0 else linear c

@[simp] theorem mag_zero : mag 0 = 0 := rfl

theorem mag_succ (c : Nat) : mag (c + 1) = linear (c + 1) := rfl

theorem mag_strictMono : StrictMono mag := by
  refine strictMono_nat_of_lt_succ fun c => ?_
  cases c with
  | zero => exact linear_pos 1
  | succ c => exact linear_lt_succ _

theorem linear_zero : linear 0 = 1 / 16 := by
  rw [linear, l6Val_eq (i := -4) (fr := 0) (by decide) (by decide), magOf]
  norm_num [l6T]

theorem mag_32 : mag 32 = 16 := by
  rw [mag_succ, linear, l6Val_eq (i := 4) (fr := 0) (by decide) (by decide), magOf]
  norm_num [l6T]

/-! ## The position below a value, and the choice between two -/

theorem floor_spec (m : Nat) (e : Int) (n : Nat) :
    l6Floor m e n ≤ n ∧ mag (l6Floor m e n) ≤ magOf m e ∧ (l6Floor m e n = n ∨ magOf m e < mag (l6Floor m e n + 1)) := by
  induction n with
  | zero => exact ⟨le_rfl, magOf_nonneg m e, .inl rfl⟩
  | succ n ih =>
    obtain ⟨hle, hlo, hhi⟩ := ih
    simp only [l6Floor, cmpMag_eq_gt]
    split
    case isTrue h => exact ⟨hle.trans (Nat.le_succ n), hlo, .inr (hhi.elim (fun heq => by rw [heq]; exact h) id)⟩
    case isFalse h => exact ⟨le_rfl, not_lt.mp h, .inl rfl⟩

/-- Up or not between two values: to nearest by the middle, a tie to the even position (07 R157). -/
theorem up_iff {rm : Nat} (hrm : rm < 4) (neg : Bool) (lo hi : Nat × Int) (m : Nat) (e : Int) (c : Nat) :
    l6Up rm neg lo hi m e c = true ↔ (rm = 0 ∧ (magOf lo.1 lo.2 + magOf hi.1 hi.2 < 2 * magOf m e ∨
      (magOf lo.1 lo.2 + magOf hi.1 hi.2 = 2 * magOf m e ∧ c % 2 = 1))) ∨ Away rm neg := by
  have hnearest : l6Up 0 neg lo hi m e c = true ↔ magOf lo.1 lo.2 + magOf hi.1 hi.2 < 2 * magOf m e ∨
      (magOf lo.1 lo.2 + magOf hi.1 hi.2 = 2 * magOf m e ∧ c % 2 = 1) := by
    obtain ⟨q, hq⟩ : ∃ q, q = min (min lo.2 hi.2) e := ⟨_, rfl⟩
    have hu : (0 : Rat) < 2 ^ q := zpow_pos two_pos q
    rw [magOf_in_units (q := q) (by omega) lo.1, magOf_in_units (q := q) (by omega) hi.1,
      magOf_in_units (q := q) (by omega) m, magOf, magOf, magOf, ← add_mul, ← mul_assoc, mul_lt_mul_iff_left₀ hu,
      mul_left_inj' hu.ne']
    simp only [l6Up, ← hq]
    norm_cast
    split
    next hcmp => simp [Nat.compare_eq_gt.mp hcmp]
    next hcmp =>
      have hlt := Nat.compare_eq_lt.mp hcmp
      simp [hlt.not_gt, hlt.ne']
    next hcmp => simp [Nat.compare_eq_eq.mp hcmp]
  interval_cases rm
  · simpa [not_away_zero] using hnearest
  all_goals simp [l6Up, Away]

/-- A value is tiny: rounded to the linear values without a lower bound it stays below position 1 (07 R156, log 18). -/
theorem tiny_iff {rm : Nat} (hrm : rm < 4) (neg : Bool) (m : Nat) (e : Int) : l6Tiny rm neg m e = true ↔
    (rm = 0 ∧ magOf m e ≤ (1 / 16 + mag 1) / 2) ∨ (Away rm neg ∧ magOf m e ≤ 1 / 16) ∨
      (rm ≠ 0 ∧ ¬ Away rm neg ∧ magOf m e < mag 1) := by
  have hstep : linear 0 < mag 1 := linear_lt_succ 0
  have htest : l6Tiny rm neg m e = true ↔
      magOf m e ≤ linear 0 ∨ (magOf m e < mag 1 ∧ ¬ l6Up rm neg (l6Val 0) (l6Val 1) m e 0 = true) := by
    simp only [l6Tiny, Bool.or_eq_true, Bool.and_eq_true, decide_eq_true_eq, ne_eq, cmpMag_eq_lt, cmpMag_eq_gt, not_lt,
      Bool.not_eq_true']
    rw [Bool.not_eq_true]
    rfl
  have hup := up_iff hrm neg (l6Val 0) (l6Val 1) m e 0
  rw [show magOf (l6Val 0).1 (l6Val 0).2 = linear 0 from rfl, show magOf (l6Val 1).1 (l6Val 1).2 = mag 1 from rfl] at hup
  rw [htest, hup]
  rw [linear_zero] at hstep ⊢
  by_cases haway : Away rm neg
  · have h0 : rm ≠ 0 := by rintro rfl; exact not_away_zero haway
    simp [haway, h0]
  · by_cases h0 : rm = 0
    · simp only [h0, not_away_zero, true_and, false_and, or_false, ne_eq, not_true_eq_false,
        Nat.zero_mod, zero_ne_one, and_false, not_lt]
      constructor
      · rintro (h | ⟨-, h⟩) <;> linarith
      · exact fun h => .inr ⟨by linarith, by linarith⟩
    · simp only [haway, h0, false_and, or_false, false_or, not_false_eq_true, and_true, true_and, ne_eq]
      exact or_iff_right_of_imp fun h => h.trans_lt hstep

/-! ## Rounding (07 R156, R157) -/

/-- The value of a position as the model takes it, 0 at position 0. -/
def lower (c : Nat) : Nat × Int := if c = 0 then (0, 0) else l6Val c

theorem magOf_lower (c : Nat) : magOf (lower c).1 (lower c).2 = mag c := by
  unfold lower mag
  split
  · exact magOf_zero 0
  · rfl

/-- The rounding of the model, by magnitudes. -/
theorem round_eq (rm : Nat) (neg : Bool) {m : Nat} (hm : 0 < m) (e : Int) : l6Round rm neg m e =
    let c := l6Floor m e 31
    let r := if l6Up rm neg (lower c) (l6Val (c + 1)) m e c then c + 1 else c
    if mag c = magOf m e then (c, 0)
    else if 31 < r ∨ mag 32 ≤ magOf m e then (31, 20) else (r, 16 + (if l6Tiny rm neg m e then 8 else 0)) := by
  have hzero : mag 0 ≠ magOf m e := (magOf_pos hm e).ne
  have hexact (c : Nat) : (decide (c ≠ 0) && decide (cmpMag (lower c).1 (lower c).2 m e = .eq)) = true ↔ mag c = magOf m e := by
    rw [Bool.and_eq_true, decide_eq_true_eq, decide_eq_true_eq, cmpMag_eq_eq, magOf_lower, and_iff_right_of_imp]
    rintro h rfl
    exact hzero h
  have hbeyond : cmpMag (l6Val 32).1 (l6Val 32).2 m e ≠ .gt ↔ mag 32 ≤ magOf m e := by
    rw [ne_eq, cmpMag_eq_gt, not_lt]
    rfl
  simp only [← hexact, ← hbeyond]
  unfold l6Round
  simp only [Bool.or_eq_true, decide_eq_true_eq]
  rfl

/-- At 16 and beyond, where position 32 would stand, the result is the largest value in every mode. -/
theorem round_of_ge {m : Nat} {e : Int} (h : mag 32 ≤ magOf m e) (rm : Nat) (neg : Bool) : l6Round rm neg m e = (31, 20) := by
  have hm : 0 < m := by
    rw [Nat.pos_iff_ne_zero]
    rintro rfl
    rw [magOf_zero] at h
    exact absurd (mag_strictMono (show 0 < 32 by decide)) (not_lt.mpr h)
  have hne : mag (l6Floor m e 31) ≠ magOf m e :=
    ((mag_strictMono (Nat.lt_succ_of_le (floor_spec m e 31).1)).trans_le h).ne
  rw [round_eq rm neg hm]
  simp only [if_neg hne, h, or_true, if_true]

/-- Below it, the magnitude is rounded on the scale of the positions. -/
theorem round_of_lt {rm : Nat} (hrm : rm < 4) (neg : Bool) {m : Nat} (hm : 0 < m) {e : Int} (h : magOf m e < mag 32) :
    ∃ r, Rounded mag rm neg (magOf m e) r ∧ l6Round rm neg m e =
      if 31 < r then (31, 20) else (r, if mag r = magOf m e then 0 else 16 + (if l6Tiny rm neg m e then 8 else 0)) := by
  obtain ⟨hle, hlo, hfloor⟩ := floor_spec m e 31
  rw [round_eq rm neg hm]
  generalize l6Floor m e 31 = c at hle hlo hfloor
  have hhi : magOf m e < mag (c + 1) := hfloor.elim (fun hc => hc ▸ h) id
  by_cases hexact : mag c = magOf m e
  · exact ⟨c, .of_eq mag_strictMono hexact, by simp only [hexact, if_true, if_neg (not_lt.mpr hle)]⟩
  · have hup : l6Up rm neg (lower c) (l6Val (c + 1)) m e c = true ↔ RoundsUp mag rm neg (magOf m e) c := by
      rw [up_iff hrm, magOf_lower, RoundsUp, and_iff_left (hlo.lt_of_ne hexact)]
      rfl
    have hround := Rounded.of_test hlo hhi hup
    refine ⟨_, hround, ?_⟩
    simp only [if_neg hexact, if_neg ((hround.eq_iff mag_strictMono hlo hhi).not.mpr hexact), not_le.mpr h, or_false]

end L6
end Sys2Proof.Machine
end

section
/-! O21 for L6 (07 R150, R156, R157): its codes are positions with a sign, without a negative zero. -/

namespace Sys2Proof.Machine

theorem signOf_injective : Function.Injective signOf := by
  intro s t h
  revert h
  cases s <;> cases t <;> norm_num [signOf]

namespace L6

/-- The code of a position with a sign. -/
def code (neg : Bool) (c : Nat) : Nat := if c = 0 then 0 else Fmt.l6.sgn neg + c

@[simp] theorem code_zero (neg : Bool) : code neg 0 = 0 := rfl

theorem code_of_pos (neg : Bool) {c : Nat} (hc : 0 < c) : code neg c = (if neg then 32 else 0) + c := if_neg hc.ne'

theorem code_mod_two (neg : Bool) (c : Nat) : code neg c % 2 = c % 2 := by
  rcases Nat.eq_zero_or_pos c with rfl | hpos
  · rfl
  · rw [code_of_pos neg hpos]
    split <;> omega

theorem enc_fin (rm : Nat) (neg : Bool) {m : Nat} (hm : 0 < m) (e : Int) :
    Fmt.l6.enc rm (.fin neg m e) = (code neg (l6Round rm neg m e).1, (l6Round rm neg m e).2) := if_neg hm.ne'

theorem dec_zero : Fmt.l6.dec 0 = .fin false 0 0 := by decide

theorem dec_code_of_pos (neg : Bool) {c : Nat} (hpos : 0 < c) (hc : c < 32) :
    Fmt.l6.dec (code neg c) = .fin neg (l6Val c).1 (l6Val c).2 := by
  have hpos' : code neg c % 32 = c := by rw [code_of_pos neg hpos]; split <;> omega
  have hneg : decide (code neg c / 2 ^ (Fmt.l6.width - 1) % 2 = 1) = neg := by
    rw [code_of_pos neg hpos]
    cases neg <;> simp [Fmt.width] <;> omega
  show (if code neg c % 32 = 0 then _ else Fp.fin _ _ _) = _
  rw [hpos', if_neg hpos.ne', hneg]

theorem dec_code (neg : Bool) {c : Nat} (hc : c < 32) :
    ∃ s m e, Fmt.l6.dec (code neg c) = .fin s m e ∧ Fp.val (.fin s m e) = signOf neg * mag c := by
  rcases Nat.eq_zero_or_pos c with rfl | hpos
  · exact ⟨_, _, _, dec_zero, by simp [Fp.val]⟩
  · exact ⟨_, _, _, dec_code_of_pos neg hpos hc, by rw [Fp.val_fin, mag, if_neg hpos.ne', linear]⟩

theorem val_dec_code (neg : Bool) {c : Nat} (hc : c < 32) : (Fmt.l6.dec (code neg c)).val = signOf neg * mag c := by
  obtain ⟨s, m, e, hdec, hval⟩ := dec_code neg hc
  rw [hdec, hval]

/-- Every code but NaR is a position with a sign. -/
theorem code_cases {x : Nat} : x < 64 ∧ x ≠ 0x20 ↔ ∃ neg, ∃ c < 32, x = code neg c := by
  constructor
  · rintro ⟨hx, hnar⟩
    refine ⟨decide (32 ≤ x), x % 32, Nat.mod_lt _ (by decide), ?_⟩
    by_cases h : 32 ≤ x
    · rw [code_of_pos _ (by omega), decide_eq_true h, if_pos rfl]
      omega
    · rw [Nat.mod_eq_of_lt (by omega), decide_eq_false h]
      simp [code, Fmt.sgn]
  · rintro ⟨neg, c, hc, rfl⟩
    rcases Nat.eq_zero_or_pos c with rfl | hpos
    · simp [code]
    · rw [code_of_pos neg hpos]
      split <;> omega

theorem finite_of_code {x : Nat} (hx : x < 64 ∧ x ≠ 0x20) : (Fmt.l6.dec x).Finite := by
  obtain ⟨neg, c, hc, rfl⟩ := code_cases.mp hx
  obtain ⟨s, m, e, hdec, -⟩ := dec_code neg hc
  exact ⟨s, m, e, hdec⟩

theorem mag_nonneg (c : Nat) : 0 ≤ mag c := place_nonneg mag_strictMono mag_zero c

theorem abs_val_code {x : Nat} (hx : x < 64 ∧ x ≠ 0x20) : ∃ c, |(Fmt.l6.dec x).val| = mag c := by
  obtain ⟨neg, c, hc, rfl⟩ := code_cases.mp hx
  exact ⟨c, by rw [val_dec_code neg hc, abs_mul, abs_signOf, one_mul, abs_of_nonneg (mag_nonneg c)]⟩

/-- Distinct codes stand for distinct numbers. -/
theorem val_injective {x y : Nat} (hx : x < 64 ∧ x ≠ 0x20) (hy : y < 64 ∧ y ≠ 0x20)
    (h : (Fmt.l6.dec x).val = (Fmt.l6.dec y).val) : x = y := by
  obtain ⟨s, c, hc, rfl⟩ := code_cases.mp hx
  obtain ⟨t, d, hd, rfl⟩ := code_cases.mp hy
  rw [val_dec_code s hc, val_dec_code t hd] at h
  have hcd : c = d := by
    have := congrArg abs h
    rwa [abs_mul, abs_signOf, one_mul, abs_mul, abs_signOf, one_mul, abs_of_nonneg (mag_nonneg c), abs_of_nonneg (mag_nonneg d),
      mag_strictMono.injective.eq_iff] at this
  subst hcd
  rcases Nat.eq_zero_or_pos c with rfl | hpos
  · rfl
  · have hne : mag c ≠ 0 := (mag_strictMono hpos).ne'
    rw [signOf_injective (mul_right_cancel₀ hne h)]

/-- A magnitude rounds to what would stand at position 32, or beyond (07 R156, log 18). -/
def Overflows (rm : Nat) (neg : Bool) (x : Rat) : Prop :=
  (rm = 0 ∧ (mag 31 + 16) / 2 ≤ x) ∨ (Away rm neg ∧ mag 31 < x) ∨ (rm ≠ 0 ∧ ¬ Away rm neg ∧ 16 ≤ x)

theorem mag_31_lt : mag 31 < 16 := mag_32 ▸ mag_strictMono (Nat.lt_succ_self 31)

theorem Overflows.lt {rm : Nat} {neg : Bool} {x : Rat} (h : Overflows rm neg x) : mag 31 < x := by
  have h31 := mag_31_lt
  rcases h with ⟨-, h⟩ | ⟨-, h⟩ | ⟨-, -, h⟩ <;> linarith

theorem overflows_of_ge {rm : Nat} {neg : Bool} {x : Rat} (h : 16 ≤ x) : Overflows rm neg x := by
  have h31 := mag_31_lt
  by_cases h0 : rm = 0
  · exact .inl ⟨h0, by linarith⟩
  · by_cases haway : Away rm neg
    · exact .inr (.inl ⟨haway, by linarith⟩)
    · exact .inr (.inr ⟨h0, haway, h⟩)

theorem overflows_iff {rm : Nat} {neg : Bool} {x : Rat} {c : Nat} (h : Rounded mag rm neg x c) : Overflows rm neg x ↔ 31 < c := by
  have hmid : mag 31 + 16 < 2 * x ∨ (mag 31 + 16 = 2 * x ∧ 31 % 2 = 1) ↔ (mag 31 + 16) / 2 ≤ x := by
    rw [and_iff_left rfl, ← le_iff_lt_or_eq, div_le_iff₀' two_pos]
  rw [h.lt_iff mag_strictMono 31, show (31 : Nat) + 1 = 32 from rfl, mag_32, hmid, Overflows]

/-- O21 for L6: the code and the flags of a rounded value. -/
theorem enc_spec {rm : Nat} (hrm : rm < 4) (neg : Bool) {m : Nat} (hm : 0 < m) (e : Int) :
    let z := Fp.val (.fin neg m e)
    let r := Fmt.l6.enc rm (.fin neg m e)
    (r = (code neg 31, 20) ∧ Overflows rm neg |z|) ∨
    ∃ c ≤ 31, Rounded mag rm neg |z| c ∧
      r = (code neg c, if mag c = |z| then 0 else 16 + (if l6Tiny rm neg m e then 8 else 0)) ∧ ¬ Overflows rm neg |z| := by
  intro z r
  have hz : |z| = magOf m e := Fp.abs_val_fin neg m e
  have hr : r = _ := enc_fin rm neg hm e
  rw [hz]
  rcases lt_or_ge (magOf m e) (mag 32) with hlt | hge
  case inr =>
    rw [round_of_ge hge] at hr
    exact .inl ⟨hr, overflows_of_ge (mag_32 ▸ hge)⟩
  case inl =>
    obtain ⟨c, hround, heq⟩ := round_of_lt hrm neg hm hlt
    rw [heq] at hr
    rcases Nat.lt_or_ge 31 c with hc | hc
    · rw [if_pos hc] at hr
      exact .inl ⟨hr, (overflows_iff hround).mpr hc⟩
    · rw [if_neg (not_lt.mpr hc)] at hr
      exact .inr ⟨c, hc, hround, hr, (overflows_iff hround).not.mpr (not_lt.mpr hc)⟩

theorem testBit_three_flags (u : Bool) : (16 + (if u then 8 else 0)).testBit 3 = true ↔ u = true := by cases u <;> decide

/-- O21 for L6: OF and UF by the magnitude. -/
theorem enc_flags {rm : Nat} (hrm : rm < 4) (neg : Bool) {m : Nat} (hm : 0 < m) (e : Int) :
    let z := Fp.val (.fin neg m e)
    let r := Fmt.l6.enc rm (.fin neg m e)
    (r.2.testBit 2 = true ↔ Overflows rm neg |z|) ∧
    (r.2.testBit 2 = true → r = (code neg 31, 20)) ∧
    (r.2.testBit 3 = true ↔
      (rm = 0 ∧ |z| ≤ (1 / 16 + mag 1) / 2) ∨ (Away rm neg ∧ |z| ≤ 1 / 16) ∨ (rm ≠ 0 ∧ ¬ Away rm neg ∧ |z| < mag 1)) := by
  intro z r
  have hz : |z| = magOf m e := Fp.abs_val_fin neg m e
  have htiny := tiny_iff hrm neg m e
  rw [← hz] at htiny
  have hbelow : l6Tiny rm neg m e = true → |z| < mag 1 := by
    have h1 : 1 / 16 < mag 1 := linear_zero ▸ linear_lt_succ 0
    rw [htiny]
    rintro (⟨-, h⟩ | ⟨-, h⟩ | ⟨-, -, h⟩) <;> linarith
  have hmono : mag 1 ≤ mag 31 := mag_strictMono.monotone (by decide)
  rw [← htiny]
  rcases enc_spec hrm neg hm e with ⟨hr, hover⟩ | ⟨c, hc, hround, hr, hover⟩
  · have hr : r = (code neg 31, 20) := hr
    have hlarge : ¬ l6Tiny rm neg m e = true := fun h => by linarith [hbelow h, hover.lt]
    rw [hr]
    exact ⟨iff_of_true (by decide : Nat.testBit 20 2 = true) hover, fun _ => rfl,
      iff_of_false (by decide : ¬ Nat.testBit 20 3 = true) hlarge⟩
  · have hr : r = _ := hr
    rw [hr]
    refine ⟨iff_of_false (by rw [(Fmt.testBit_flags _ _).1]; decide) hover,
      fun h => absurd h (by rw [(Fmt.testBit_flags _ _).1]; decide), ?_⟩
    have hpos : 0 < |z| := hz ▸ magOf_pos hm e
    by_cases hexact : mag c = |z|
    · have hlarge : ¬ l6Tiny rm neg m e = true := fun h => by
        have h0 : 0 < c := mag_strictMono.lt_iff_lt.mp (show mag 0 < mag c by rw [hexact]; exact hpos)
        have := mag_strictMono.monotone (show 1 ≤ c from h0)
        linarith [hbelow h]
      rw [if_pos hexact]
      exact iff_of_false (by decide : ¬ Nat.testBit 0 3 = true) hlarge
    · rw [if_neg hexact]
      exact testBit_three_flags _

/-- O21 for L6: without OF the result is correct, a tie to an even code. -/
theorem enc_correct {rm : Nat} (hrm : rm < 4) (neg : Bool) {m : Nat} (hm : 0 < m) (e : Int) :
    let z := Fp.val (.fin neg m e)
    let r := Fmt.l6.enc rm (.fin neg m e)
    let y := (Fmt.l6.dec r.1).val
    r.2.testBit 2 = false → (r.1 < 64 ∧ r.1 ≠ 0x20) ∧ (r.2.testBit 4 = true ↔ y ≠ z) ∧
      RoundsTo (fun w => ∃ c, |w| = mag c) rm z y ∧
      (rm = 0 → ∀ x, x < 64 ∧ x ≠ 0x20 → |y - z| = |(Fmt.l6.dec x).val - z| → x ≠ r.1 → r.1 % 2 = 0) := by
  intro z r y hno
  have hz : z = signOf neg * magOf m e := Fp.val_fin neg m e
  have habs : |z| = magOf m e := Fp.abs_val_fin neg m e
  rcases enc_spec hrm neg hm e with ⟨hr, -⟩ | ⟨c, hc, hround, hr, -⟩
  · have hr : r = (code neg 31, 20) := hr
    rw [hr] at hno
    exact absurd hno (by decide : ¬ Nat.testBit 20 2 = false)
  · have hr : r = (code neg c, _) := hr
    have hr1 : r.1 = code neg c := by rw [hr]
    have hc : c < 32 := Nat.lt_succ_of_le hc
    have hcode : r.1 < 64 ∧ r.1 ≠ 0x20 := code_cases.mpr ⟨neg, c, hc, hr1⟩
    have hy : y = signOf neg * mag c := by simp only [y, hr1, val_dec_code neg hc]
    have hround : Rounded mag rm neg (magOf m e) c := habs ▸ hround
    refine ⟨hcode, ?_, ?_, ?_⟩
    · rw [hy, hz, ne_eq, signOf_mul_inj, ← habs, hr]
      exact (Fmt.testBit_flags _ _).2
    · rw [hy, hz]
      exact hround.roundsTo mag_strictMono mag_zero (magOf_pos hm e)
    · rintro rfl x hx htie hne
      obtain ⟨d, hd⟩ := abs_val_code hx
      rw [hr1, code_mod_two]
      rw [hy, hz] at htie
      refine hround.tie mag_strictMono mag_zero (magOf_pos hm e) hd htie fun h => hne ?_
      exact val_injective hx hcode (h.trans hy.symm)

end L6

/-- Settles O21: on either scale the magnitude is rounded to a place of its sequence, and the place says what is correct, what
overflows and what is tiny. -/
theorem roundingIsCorrect : Obligations.RoundingIsCorrect := by
  refine ⟨?fields, ?l6⟩
  case fields =>
    intro f rm neg m e hf hrm hm z r y code
    obtain ⟨c, hround, hof, hfin, hover⟩ := Fmt.enc_correct hf hrm neg hm e
    refine ⟨fun hno => ?finite, ?overflow⟩
    case finite =>
      obtain ⟨hcode, hinexact, h0, h1, h2, h3⟩ := hfin (not_lt.mp (hof.not.mp (by rw [hno]; decide)))
      have hS (c : Nat) (hc : code c) := Fmt.abs_val_of_finiteCode hf hc
      exact ⟨hcode, hinexact, fun h c hc => h0 h _ (hS c hc), fun h => ⟨(h1 h).1, fun c hc => (h1 h).2 _ (hS c hc)⟩,
        fun h => ⟨(h2 h).1, fun c hc => (h2 h).2 _ (hS c hc)⟩, fun h => ⟨(h3 h).1, fun c hc => (h3 h).2 _ (hS c hc)⟩⟩
    case overflow =>
      intro top step away
      obtain ⟨h0, haway, htrunc⟩ := Fmt.overflow_iff hf hround
      exact ⟨fun h => hof.trans (h0 h), fun h => hof.trans (haway h), fun h h' => hof.trans (htrunc h h'),
        fun h => hover (hof.mp h)⟩
  case l6 =>
    intro rm neg m e hrm hm z r v y code away
    have hv (c : Nat) (hc : c < 32) (hpos : 0 < c) : v c = L6.mag c := by
      have := L6.val_dec_code false hc
      rwa [L6.code_of_pos false hpos, if_neg (by decide), Nat.zero_add, signOf, if_neg (by decide), one_mul] at this
    have hS (c : Nat) (hc : code c) := L6.abs_val_code hc
    rw [hv 31 (by decide) (by decide), hv 1 (by decide) (by decide)]
    obtain ⟨hof, hover, huf⟩ := L6.enc_flags hrm neg hm e
    refine ⟨fun c hc => L6.finite_of_code hc, fun hno => ?_, hof, fun h => ?_, huf⟩
    · obtain ⟨hcode, hinexact, ⟨h0, h1, h2, h3⟩, htie⟩ := L6.enc_correct hrm neg hm e hno
      exact ⟨hcode, hinexact, fun h c hc => ⟨h0 h _ (hS c hc), htie h c hc⟩,
        fun h => ⟨(h1 h).1, fun c hc => (h1 h).2 _ (hS c hc)⟩,
        fun h => ⟨(h2 h).1, fun c hc => (h2 h).2 _ (hS c hc)⟩, fun h => ⟨(h3 h).1, fun c hc => (h3 h).2 _ (hS c hc)⟩⟩
    · refine (hover h).trans ?_
      rw [L6.code_of_pos neg (by decide), Nat.add_comm]

end Sys2Proof.Machine
end

section
/-! O20 (07 R145 to R147, R150, R156): the values of the codes, and the exact conversion of a value that a format holds. -/

namespace Sys2Proof.Machine

/-- A nonzero number of few enough bits, none of them below the last place, converts exactly while it is not beyond the largest
value. -/
theorem Fmt.enc_of_fits {f : Fmt} (hf : f ≠ .l6) {rm : Nat} (hrm : rm < 4) (neg : Bool) {m : Nat} (hm : 0 < m) {e : Int}
    (hbits : m < 2 ^ (f.fb + 1)) (he : 1 - f.bias - f.fb ≤ e) (hle : magOf m e ≤ f.mag f.maxBits) :
    ∃ c ≤ f.maxBits, f.mag c = magOf m e ∧ f.enc rm (.fin neg m e) = (f.sgn neg + c, 0) := by
  obtain ⟨hround, hinexact⟩ := Fmt.enc_rounded hm e hf hrm neg
  have hlog : Nat.log2 m < f.fb + 1 := (Nat.log2_lt hm.ne').mpr hbits
  have hplace : f.lastPlace m e ≤ e := by unfold Fmt.lastPlace Fmt.top; omega
  have hfalse : ¬ (roundTo rm neg m e (f.lastPlace m e)).2 = true := by
    rw [roundTo, if_pos hplace]
    exact Bool.false_ne_true
  have hexact := not_not.mp (hinexact.not.mp hfalse)
  obtain ⟨c, hround', henc⟩ := Fmt.enc_spec hf hrm neg hm e
  obtain rfl := hround.unique f.mag_strictMono hround'
  have hc := f.mag_strictMono.le_iff_le.mp (hexact.trans_le hle)
  exact ⟨_, hc, hexact, by rw [henc, if_neg (not_lt.mpr hc), if_pos hexact]⟩

theorem Fmt.enc_zero {f : Fmt} (hf : f ≠ .l6) (rm : Nat) (neg : Bool) (e : Int) : f.enc rm (.fin neg 0 e) = (f.sgn neg, 0) := by
  cases f
  case l6 => contradiction
  all_goals rfl

/-- A finite value of a format converts to its own code (07 R156). -/
theorem Fmt.enc_dec {f : Fmt} (hf : f ≠ .l6) {rm : Nat} (hrm : rm < 4) {x : Nat} (hx : f.FiniteCode x) :
    f.enc rm (f.dec x) = (x, 0) := by
  obtain ⟨neg, c, hc, rfl⟩ := (Fmt.finiteCode_iff hf).mp hx
  rw [Fmt.dec_of_le_maxBits hf neg (hc.trans_lt (Fmt.maxBits_lt hf)) hc]
  rcases Nat.eq_zero_or_pos (f.codeSig c) with hzero | hpos
  · have hc0 : c = 0 := f.mag_strictMono.injective (by rw [Fmt.mag, hzero, magOf_zero, Fmt.mag_zero])
    rw [hzero, Fmt.enc_zero hf, hc0]
    rfl
  · have hexact : f.mag c = magOf (f.codeSig c) (f.codeExp c) := rfl
    obtain ⟨c', hround, henc⟩ := Fmt.enc_spec hf hrm neg hpos (f.codeExp c)
    obtain rfl := hround.unique f.mag_strictMono (.of_eq f.mag_strictMono rfl)
    rw [henc, if_neg (not_lt.mpr hc), if_pos hexact]

theorem L6.enc_dec {rm : Nat} (hrm : rm < 4) {x : Nat} (hx : x < 64 ∧ x ≠ 0x20) : Fmt.l6.enc rm (Fmt.l6.dec x) = (x, 0) := by
  obtain ⟨neg, c, hc, rfl⟩ := L6.code_cases.mp hx
  rcases Nat.eq_zero_or_pos c with rfl | hpos
  · rw [L6.code_zero, L6.dec_zero]
    rfl
  · have hval : magOf (l6Val c).1 (l6Val c).2 = L6.mag c := by rw [L6.mag, if_neg hpos.ne', L6.linear]
    have hm : 0 < (l6Val c).1 := l6T_pos _
    obtain ⟨r, hround, heq⟩ := L6.round_of_lt hrm neg hm (hval ▸ L6.mag_strictMono hc)
    obtain rfl := hround.unique L6.mag_strictMono (.of_eq L6.mag_strictMono hval.symm)
    rw [L6.dec_code_of_pos neg hpos hc, L6.enc_fin rm neg hm, heq, if_neg (by omega), if_pos hval.symm]

theorem l6T_lt (fr : Nat) : l6T fr < 2 ^ 12 := by unfold l6T; split_ifs <;> decide

theorem sixteen_le_f32_max : 16 ≤ Fmt.f32.mag Fmt.f32.maxBits := by
  have hsig : Fmt.f32.codeSig Fmt.f32.maxBits = 0xFFFFFF := by decide
  have hexp : Fmt.f32.codeExp Fmt.f32.maxBits = 104 := by decide
  rw [Fmt.mag, hsig, hexp, magOf]
  norm_num

/-- FP32 holds every linear value (07 R150). -/
theorem L6.f32_holds {rm : Nat} (hrm : rm < 4) {x : Nat} (hx : x < 64 ∧ x ≠ 0x20) :
    ∃ y < 2 ^ 32, Fmt.f32.enc rm (Fmt.l6.dec x) = (y, 0) ∧ (Fmt.f32.dec y).Finite ∧ (Fmt.f32.dec y).val = (Fmt.l6.dec x).val := by
  obtain ⟨neg, c, hc, rfl⟩ := L6.code_cases.mp hx
  rcases Nat.eq_zero_or_pos c with rfl | hpos
  · rw [L6.code_zero, L6.dec_zero]
    have hzero : Fmt.f32.dec 0 = .fin false 0 (-149) := by decide
    exact ⟨0, by decide, rfl, hzero ▸ ⟨_, _, _, rfl⟩, by rw [hzero, Fp.val_fin, Fp.val_fin, magOf_zero, magOf_zero]⟩
  · have hval : magOf (l6Val c).1 (l6Val c).2 = L6.mag c := by rw [L6.mag, if_neg hpos.ne', L6.linear]
    have hm : 0 < (l6Val c).1 := l6T_pos _
    have hbits : (l6Val c).1 < 2 ^ 24 := (l6T_lt _).trans (by decide)
    have hle : magOf (l6Val c).1 (l6Val c).2 ≤ Fmt.f32.mag Fmt.f32.maxBits :=
      calc magOf (l6Val c).1 (l6Val c).2 = L6.mag c := hval
        _ ≤ L6.mag 32 := L6.mag_strictMono.monotone hc.le
        _ = 16 := L6.mag_32
        _ ≤ Fmt.f32.mag Fmt.f32.maxBits := sixteen_le_f32_max
    have he : (1 : Int) - 127 - 23 ≤ (l6Val c).2 := by simp only [l6Val]; omega
    obtain ⟨d, hd, hmag, henc⟩ := Fmt.enc_of_fits (f := .f32) (by decide) hrm neg hm hbits he hle
    obtain ⟨hlt, hfin⟩ := (Fmt.finiteCode_iff (f := .f32) (by decide)).mpr ⟨neg, d, hd, rfl⟩
    rw [L6.dec_code_of_pos neg hpos hc]
    refine ⟨_, hlt, henc, hfin, ?_⟩
    rw [Fmt.val_dec_sgn_add (by decide) neg hd, hmag, Fp.val_fin]

theorem l6T_eq {fr : Nat} (h : fr < 4) : l6T fr = [2048, 2435, 2896, 3444].getD fr 0 := by interval_cases fr <;> rfl

/-- The linear value of a code (07 R150). -/
theorem L6.dec_linear (neg : Bool) {c fr : Nat} {i : Int} (hpos : 1 ≤ c) (hc : c < 32) (hfr : fr < 4)
    (h : (c : Int) - 16 = 4 * i + fr) :
    Fmt.l6.dec (c + if neg then 32 else 0) = .fin neg ([2048, 2435, 2896, 3444].getD fr 0) (i - 11) := by
  rw [Nat.add_comm, ← L6.code_of_pos neg hpos, L6.dec_code_of_pos neg hpos hc, L6.l6Val_eq hfr h, l6T_eq hfr]

theorem L6.dec_nar : Fmt.l6.dec 0x20 = .nan false := by decide

theorem L6.not_finite_nar : ¬ (Fmt.l6.dec 0x20).Finite := by
  rw [L6.dec_nar]
  exact fun ⟨_, _, _, h⟩ => nomatch h

/-- Settles O20: a code by its fields, an L6 code by its position, and a value that a format holds as a place of its scale, where
rounding leaves it. -/
theorem formatsDecodeTheirCodes : Obligations.FormatsDecodeTheirCodes := by
  refine ⟨?fields, ⟨L6.dec_zero, L6.dec_nar, ?linear⟩, ?fp32, ?exact⟩
  case fields =>
    intro f x hf hx neg E F sign special
    exact ⟨f.dec_nanBits, Fmt.dec_fields hf hx⟩
  case linear =>
    intro c fr i neg hpos hc hfr h
    rw [L6.dec_linear neg hpos hc hfr h]
    exact ⟨⟨_, _, _, rfl⟩, rfl⟩
  case fp32 => exact fun x rm hx hnar hrm => L6.f32_holds hrm ⟨hx, hnar⟩
  case exact =>
    intro f rm x hrm hx hfin
    by_cases hf : f = .l6
    · subst hf
      have hnar : x ≠ 0x20 := by
        rintro rfl
        exact L6.not_finite_nar hfin
      exact L6.enc_dec hrm ⟨hx, hnar⟩
    · exact Fmt.enc_dec hf hrm ⟨hx, hfin⟩

end Sys2Proof.Machine
end

section
/-! MX blocks (07 R148, R149, R158): the values of a block's elements, and the scale and codes of a quantised block. -/

namespace Sys2Proof.Machine

/-! ## Order of values (08 R178, R180) -/

theorem cast_scaled {q e : Int} (hq : q ≤ e) (neg : Bool) (m : Nat) :
    (scaled q (.fin neg m e) : Rat) * 2 ^ q = Fp.val (.fin neg m e) := by
  rw [Fp.val_fin, magOf_in_units hq, magOf, ← mul_assoc, ← cast_signedInt]
  rfl

/-- Finite values compare as the numbers they stand for. -/
theorem Fp.cmp_fin (n n' : Bool) (m m' : Nat) (e e' : Int) :
    ∃ a b : Int, Fp.cmp (.fin n m e) (.fin n' m' e') = compare a b ∧
      (a < b ↔ Fp.val (.fin n m e) < Fp.val (.fin n' m' e')) := by
  have hu : (0 : Rat) < 2 ^ min e e' := zpow_pos two_pos _
  refine ⟨_, _, rfl, ?_⟩
  rw [← cast_scaled (min_le_left e e') n m, ← cast_scaled (min_le_right e e') n' m', mul_lt_mul_iff_left₀ hu, Int.cast_lt]
  rfl

/-- Of two magnitudes, the one below the other. -/
theorem Fp.below_magnitude (m m' : Nat) (e e' : Int) :
    Fp.below (.fin false m e) (.fin false m' e') = true ↔ magOf m e < magOf m' e' := by
  obtain ⟨a, b, hcmp, hlt⟩ := Fp.cmp_fin false false m m' e e'
  rw [Fp.val_fin, Fp.val_fin, signOf, if_neg (by decide), one_mul, one_mul] at hlt
  rw [← hlt, Fp.below, hcmp]
  rcases Int.lt_trichotomy a b with h | h | h
  · simp [Int.compare_eq_lt.mpr h, h]
  · simp [h, Fp.neg?]
  · simp [Int.compare_eq_gt.mpr h, h.le]

/-! ## Values under a scale (07 R148, R149) -/

/-- A finite value whose exponent is moved by k. -/
theorem Fp.val_moved (neg : Bool) (m : Nat) (e k : Int) :
    Fp.val (.fin neg m (e + k)) = Fp.val (.fin neg m e) * (2 : Rat) ^ k := by
  rw [Fp.val_fin, Fp.val_fin, mul_assoc, magOf_mul_zpow]

theorem Fp.val_int (v : Int) (e : Int) : Fp.val (.fin (decide (v < 0)) v.natAbs e) = v * (2 : Rat) ^ e := by
  have habs : signOf (decide (v < 0)) * (v.natAbs : Nat) = (v : Rat) := by
    rw [← cast_signedInt]
    congr 1
    simp only [signedInt, decide_eq_true_eq]
    split <;> omega
  rw [Fp.val_fin, magOf, ← mul_assoc, habs]

namespace Mx

/-- The value of a code without its scale (07 R148). -/
def raw (k : Mx) (x : Nat) : Fp :=
  match k with
  | .fp4 => Fmt.e2m1.dec (x % 16)
  | .int8 => Fp.fin (decide (intOf 8 false x < 0)) (intOf 8 false x).natAbs (-6)
  | .l6 => Fmt.l6.dec (x % 64)

/-- Under a scale a finite value is moved by it. -/
theorem val_dec {k : Mx} {scale x : Nat} (hs : scale < 255) (hfin : (k.raw x).Finite) :
    (k.dec scale x).val = (k.raw x).val * (2 : Rat) ^ ((scale : Int) - 127) := by
  obtain ⟨n, m, e, hraw⟩ := hfin
  have hdec : k.dec scale x = .fin n m (e + (scale - 127)) := by
    rw [← Int.add_sub_assoc]
    have hne : ¬ scale = 0xFF := by omega
    cases k
    case int8 =>
      obtain ⟨rfl, rfl, rfl⟩ := Fp.fin.inj hraw
      exact if_neg hne
    all_goals
      simp only [raw] at hraw
      simp only [Mx.dec, if_neg hne, hraw]
  rw [hdec, hraw, Fp.val_moved]

theorem raw_fp4_finite (x : Nat) : (Mx.fp4.raw x).Finite := by
  obtain ⟨neg, c, hc, hx⟩ := Fmt.exists_sgn_add (f := .e2m1) (by decide) (x := x % 16) (Nat.mod_lt _ (by decide))
  exact ((Fmt.finiteCode_iff (f := .e2m1) (by decide)).mpr ⟨neg, c, Nat.le_of_lt_succ hc, hx⟩).2

theorem val_raw_int8 (x : Nat) : (Mx.int8.raw x).val = signed 8 (x % 256) * (2 : Rat) ^ (-6 : Int) := by
  have hmod : intOf 8 false x = signed 8 (x % 256) := by
    rw [← sgn_eq_signed (Nat.mod_lt x (by decide) : x % 256 < 2 ^ 8), sgn, intOf, intOf,
      show (2 : Nat) ^ 8 = 256 from rfl, Nat.mod_mod]
  rw [raw, Fp.val_int, hmod]

/-- O25, the values of a block's elements. -/
theorem element_values {scale : Nat} (hs : scale < 255) (x : Nat) :
    (Mx.fp4.dec scale x).val = (Fmt.e2m1.dec (x % 16)).val * (2 : Rat) ^ ((scale : Int) - 127) ∧
    (Mx.int8.dec scale x).val = (signed 8 (x % 256) : Rat) * (2 : Rat) ^ ((scale : Int) - 133) ∧
    (x % 64 ≠ 32 → (Mx.l6.dec scale x).val = (Fmt.l6.dec (x % 64)).val * (2 : Rat) ^ ((scale : Int) - 127)) ∧
    (∀ k : Mx, k.dec 255 x = .nan false) := by
  refine ⟨val_dec hs (raw_fp4_finite x), ?_, fun hnar => ?_, fun k => rfl⟩
  · rw [val_dec hs ⟨_, _, _, rfl⟩, val_raw_int8, mul_assoc, ← zpow_add₀ two_ne_zero]
    congr 2
    omega
  · exact val_dec hs (L6.finite_of_code ⟨Nat.mod_lt _ (by decide), hnar⟩)

end Mx

/-! ## The largest magnitude of a block (07 R158) -/

/-- The largest magnitude of finite values, starting from one of them or 0. -/
theorem foldl_amax (l : List Fp) (hl : ∀ x ∈ l, x.Finite) (m : Nat) (e : Int) :
    ∃ m' e', l.foldl (fun a x => if a.below x.abs then x.abs else a) (.fin false m e) = .fin false m' e' ∧
      magOf m e ≤ magOf m' e' ∧ (∀ x ∈ l, |x.val| ≤ magOf m' e') ∧
      (magOf m' e' = magOf m e ∨ ∃ x ∈ l, |x.val| = magOf m' e') := by
  induction l generalizing m e with
  | nil => exact ⟨m, e, rfl, le_rfl, nofun, .inl rfl⟩
  | cons x l ih =>
    obtain ⟨n, mx, ex, rfl⟩ := hl _ List.mem_cons_self
    have hrest : ∀ x ∈ l, x.Finite := fun y hy => hl y (List.mem_cons_of_mem _ hy)
    simp only [List.foldl_cons, Fp.abs, Fp.below_magnitude, List.forall_mem_cons, List.exists_mem_cons_iff, Fp.abs_val_fin]
    split
    case isTrue h =>
      obtain ⟨m', e', hfold, hle, hall, hsome⟩ := ih hrest mx ex
      exact ⟨m', e', hfold, h.le.trans hle, ⟨hle, hall⟩, .inr (hsome.imp Eq.symm id)⟩
    case isFalse h =>
      obtain ⟨m', e', hfold, hle, hall, hsome⟩ := ih hrest m e
      exact ⟨m', e', hfold, hle, ⟨(not_lt.mp h).trans hle, hall⟩, hsome.imp_right .inr⟩

theorem amax_spec {l : List Fp} (hl : ∀ x ∈ l, x.Finite) :
    ∃ m e, amax l = .fin false m e ∧ (∀ x ∈ l, |x.val| ≤ magOf m e) ∧ (m = 0 ∨ ∃ x ∈ l, |x.val| = magOf m e) := by
  obtain ⟨m, e, hfold, -, hall, hsome⟩ := foldl_amax l hl 0 0
  exact ⟨m, e, hfold, hall, hsome.imp_left fun h => magOf_eq_zero.mp (h.trans (magOf_zero 0))⟩

/-- floor(log2) of a magnitude. -/
theorem log2_eq {m : Nat} {e k : Int} (hm : 0 < m) (hlo : (2 : Rat) ^ k ≤ magOf m e)
    (hhi : magOf m e < (2 : Rat) ^ (k + 1)) (neg : Bool) : (Fp.fin neg m e).log2 = k := by
  obtain ⟨hlo', hhi'⟩ := Fmt.two_zpow_top hm e
  have h₁ : Fmt.top m e - 1 < k + 1 := (zpow_lt_zpow_iff_right₀ one_lt_two).mp (hlo'.trans_lt hhi)
  have h₂ : k < Fmt.top m e := (zpow_lt_zpow_iff_right₀ one_lt_two).mp (hlo.trans_lt hhi')
  unfold Fmt.top at h₁ h₂
  show e + Nat.log2 m = k
  omega

theorem clampByte_eq (v : Int) : (clampByte v : Int) = max 0 (min 254 v) := by
  unfold clampByte
  split_ifs <;> omega


namespace Mx

/-! ## Quantising (07 R158) -/

theorem finite_iff (x : Fp) : x.Finite ↔ (x.isNan || x.isInf) = false := by
  cases x with
  | nan sig => exact iff_of_false (fun ⟨_, _, _, h⟩ => nomatch h) (by simp [Fp.isNan])
  | inf neg => exact iff_of_false (fun ⟨_, _, _, h⟩ => nomatch h) (by simp [Fp.isInf])
  | fin neg m e => exact iff_of_true ⟨_, _, _, rfl⟩ rfl

theorem any_not_finite (l : List Fp) : (l.any fun x => x.isNan || x.isInf) = true ↔ ∃ x ∈ l, ¬ x.Finite := by
  simp only [List.any_eq_true, finite_iff, Bool.not_eq_false]

/-- The exponent of an element format's largest value (07 R158). -/
def emax (k : Mx) : Int := match k with | .fp4 => 2 | .int8 => 0 | .l6 => 3

theorem quant_special (k : Mx) {l : List Fp} (h : ∃ x ∈ l, ¬ x.Finite) : k.quant l = (0xFF, l.map (fun _ => 0), 1) := by
  rw [quant.eq_def, if_pos ((any_not_finite l).mpr h)]

theorem quant_zero (k : Mx) {l : List Fp} (h : ∀ x ∈ l, x.Finite ∧ x.val = 0) : k.quant l = (0, l.map (fun _ => 0), 0) := by
  obtain ⟨m, e, hamax, -, hsome⟩ := amax_spec fun x hx => (h x hx).1
  have hm : m = 0 := hsome.elim id fun ⟨x, hx, habs⟩ => magOf_eq_zero.mp (by rw [← habs, (h x hx).2, abs_zero])
  have hfin : ¬ (l.any fun x => x.isNan || x.isInf) = true := fun hany => by
    obtain ⟨x, hx, hnot⟩ := (any_not_finite l).mp hany
    exact hnot (h x hx).1
  rw [quant.eq_def, if_neg hfin]
  simp only [hamax, Fp.isZero, hm, decide_true, if_true]

/-- A block with a largest magnitude: the scale by its leading bit, and each value as an element under it. -/
theorem quant_eq (k : Mx) {l : List Fp} (hl : ∀ x ∈ l, x.Finite) {a : Fp} (ha : a ∈ l) (hne : a.val ≠ 0)
    (hmax : ∀ x ∈ l, |x.val| ≤ |a.val|) {e : Int} (hlo : (2 : Rat) ^ e ≤ |a.val|) (hhi : |a.val| < (2 : Rat) ^ (e + 1)) :
    let byte := clampByte (e - k.emax + 127)
    let r := l.map (k.elem byte)
    k.quant l = (byte, r.map (·.1), r.foldl (fun f x => f ||| x.2) 0) := by
  obtain ⟨m, e', hamax, hall, hsome⟩ := amax_spec hl
  have hpos : 0 < |a.val| := abs_pos.mpr hne
  have habs : |a.val| = magOf m e' := by
    refine le_antisymm (hall a ha) ?_
    rcases hsome with rfl | ⟨x, hx, habs⟩
    · exact (magOf_zero e').trans_le hpos.le
    · exact habs ▸ hmax x hx
  have hm : 0 < m := Nat.pos_of_ne_zero fun h => hpos.ne' (habs.trans (magOf_eq_zero.mpr h))
  have hlog := log2_eq hm (habs ▸ hlo) (habs ▸ hhi) false
  have hfin : ¬ (l.any fun x => x.isNan || x.isInf) = true := fun hany => by
    obtain ⟨x, hx, hnot⟩ := (any_not_finite l).mp hany
    exact hnot (hl x hx)
  intro byte r
  rw [quant.eq_def, if_neg hfin]
  simp only [hamax, Fp.isZero, decide_eq_true_eq, if_neg hm.ne', hlog]
  rfl

/-- An element raises no flag but NX and UF (07 R158). -/
theorem elem_flags (k : Mx) (byte : Nat) (x : Fp) : (k.elem byte x).2.testBit 2 = false := by
  have hmask (a : Nat) : (a &&& (fNX + fUF)).testBit 2 = false := by
    rw [Nat.testBit_and, show (fNX + fUF).testBit 2 = false by decide, Bool.and_false]
  cases k
  case fp4 => exact hmask _
  case l6 => exact hmask _
  case int8 =>
    cases x
    case fin neg m e =>
      have hflags (p q : Prop) [Decidable p] [Decidable q] :
          ((if p then fNX else 0) ||| (if q then fUF else 0)).testBit 2 = false := by
        split_ifs <;> decide
      exact hflags _ _
    all_goals exact Nat.zero_testBit 2

/-- An MXINT8 element is the number of 64ths, to nearest, within ±127, as a byte (07 R158). -/
theorem elem_int8 (byte : Nat) (neg : Bool) (m : Nat) (e : Int) :
    ((Mx.int8.elem byte (.fin neg m e)).1 : Int) =
      max (-127) (min 127 (signedInt neg (roundTo 0 neg m (e + (133 - byte)) 0).1)) % 256 := by
  have hexp : e + 127 - (byte : Int) + 6 = e + (133 - byte) := by ring
  have helem : (Mx.int8.elem byte (.fin neg m e)).1 =
      let r := (roundTo 0 neg m (e + (133 - byte)) 0).1
      let a := if 127 < r then 127 else r
      if neg && a ≠ 0 then 256 - a else a := by
    rw [← hexp]
    rfl
  rw [helem]
  generalize (roundTo 0 neg m (e + (133 - byte)) 0).1 = r
  cases neg <;> simp only [signedInt, Bool.false_and, Bool.true_and, decide_eq_true_eq, Bool.false_eq_true, if_false, if_true] <;>
    split_ifs <;> omega

/-- O25, quantising a block of finite values that are not all zero. -/
theorem quant_correct (k : Mx) {l : List Fp} (hl : ∀ x ∈ l, x.Finite) {a : Fp} (ha : a ∈ l) (hne : a.val ≠ 0)
    (hmax : ∀ x ∈ l, |x.val| ≤ |a.val|) {e : Int} (hlo : (2 : Rat) ^ e ≤ |a.val|) (hhi : |a.val| < (2 : Rat) ^ (e + 1)) :
    let q := k.quant l
    (q.1 : Int) = max 0 (min 254 (e - k.emax + 127)) ∧ q.2.1.length = l.length ∧ q.2.2.testBit 2 = false ∧
    (k = .int8 → ∀ i < l.length, ∃ t : Int,
      let z : Rat := (l.getD i (.inf false)).val * (2 : Rat) ^ (133 - (q.1 : Int))
      |(t : Rat) - z| ≤ 1 / 2 ∧ (|(t : Rat) - z| = 1 / 2 → t % 2 = 0) ∧
      ((q.2.1.getD i 0 : Nat) : Int) = max (-127) (min 127 t) % 256) := by
  intro q
  have hq : q = _ := k.quant_eq hl ha hne hmax hlo hhi
  rw [hq]
  refine ⟨clampByte_eq _, by simp, ?flags, ?int8⟩
  case flags =>
    rw [← Bool.not_eq_true, testBit_foldl_or]
    rintro (h | ⟨x, hx, h⟩)
    · exact absurd h (by decide)
    · obtain ⟨y, -, rfl⟩ := List.mem_map.mp hx
      exact Bool.false_ne_true ((k.elem_flags _ y).symm.trans h)
  case int8 =>
    rintro rfl i hi
    generalize clampByte (e - emax .int8 + 127) = byte
    obtain ⟨neg, m, e', hx⟩ := hl l[i] (List.getElem_mem hi)
    obtain ⟨hround, -⟩ := roundTo_spec (by decide : 0 < 4) neg m (e' + (133 - byte)) 0
    rw [Int.sub_zero] at hround
    have ht := hround.intRounding (by decide) (magOf_nonneg _ _)
    rw [← Fp.val_fin, Fp.val_moved] at ht
    have hval : l.getD i (.inf false) = .fin neg m e' := (List.getD_eq_getElem _ _ hi).trans hx
    have hcode : ((l.map (Mx.int8.elem byte)).map (·.1)).getD i 0 = (Mx.int8.elem byte (.fin neg m e')).1 := by
      rw [List.getD_eq_getElem _ _ (by simpa using hi), List.getElem_map, List.getElem_map, hx]
    refine ⟨signedInt neg (roundTo 0 neg m (e' + (133 - byte)) 0).1, ?_⟩
    rw [hval, hcode]
    exact ⟨(ht.1 rfl).1, (ht.1 rfl).2, elem_int8 byte neg m e'⟩

theorem clampByte_le (v : Int) : clampByte v ≤ 254 := by
  have := clampByte_eq v
  omega

theorem quant_scale_lt (k : Mx) (l : List Fp) : (k.quant l).1 < 2 ^ 32 := by
  unfold quant
  split_ifs
  · exact (by decide : 0xFF < 2 ^ 32)
  · simp only [apply_ite Prod.fst]
    split_ifs
    · decide
    · exact (clampByte_le _).trans_lt (by decide)

end Mx

/-! ## The two block ops (07 R166, R167) -/

/-- The lanes of a block of elements of n bits: the elements from lane 0, `per` in each, then the scale, then zeros (07 R166). -/
def blockLanes (n per scale : Nat) (codes : List Nat) : Lanes := Lanes.of fun i =>
  if i < 32 / per then packElems n per (fun m => codes.getD (per * i + m) 0)
  else if i = 32 / per then BitVec.ofNat 32 scale else 0#32

theorem mxLanes_fp4 (scale : Nat) (codes : List Nat) : mxLanes .fp4 scale codes = blockLanes 4 8 scale codes := rfl
theorem mxLanes_bytes {k : Mx} (hk : k ≠ .fp4) (scale : Nat) (codes : List Nat) :
    mxLanes k scale codes = blockLanes 8 4 scale codes := by
  cases k
  case fp4 => contradiction
  all_goals rfl

theorem blockLanes_spec {n per scale : Nat} (hn : n * per = 32) (hper : 4 ≤ per) (hs : scale < 2 ^ 32) (codes : List Nat) :
    let v := blockLanes n per scale codes
    (∀ e < 32, elem n (v.at (e / per)) (e % per) = codes.getD e 0 % 2 ^ n) ∧ (v.at (32 / per)).toNat = scale ∧
      ∀ i < 16, 32 / per < i → v.at i = 0 := by
  have hpos : 0 < per := by omega
  have hlanes : n = 32 / per := (Nat.div_eq_of_eq_mul_left hpos hn.symm).symm
  have hle : 32 / per ≤ 8 := Nat.div_le_div_left hper (by decide)
  refine ⟨fun e he => ?_, ?_, fun i hi hlt => ?_⟩
  · have hlane : e / per < 32 / per := hlanes ▸ (Nat.div_lt_iff_lt_mul hpos).mpr (hn ▸ he)
    rw [blockLanes, Lanes.at_of, Nat.mod_eq_of_lt (by omega : e / per < 16), if_pos hlane,
      elem_packElems hn _ (Nat.mod_lt _ hpos), Nat.div_add_mod]
  · rw [blockLanes, Lanes.at_of, Nat.mod_eq_of_lt (by omega : 32 / per < 16), if_neg (lt_irrefl _), if_pos rfl]
    exact Nat.mod_eq_of_lt hs
  · rw [blockLanes, Lanes.at_of, Nat.mod_eq_of_lt hi, if_neg (by omega), if_neg (by omega)]
    rfl

/-- The sources of a block op: two for FP32, one for the 16-bit formats (07 R166, R167). -/
theorem State.floatSources_two (s : State) (f : VR) (p : Prop) [Decidable p] (m : BitVec 16) : s.floatSources f (decide p) m =
    if p then s.srcAB s.cur.kind f m else ((s.srcA s.cur.kind f m).1, (s.srcA s.cur.kind f m).2, (s.srcA s.cur.kind f m).2) := by
  simp only [State.floatSources, decide_eq_true_eq]

/-- The values that vqmx takes: of FP32 those of two sources, of a 16-bit format two in each lane (07 R166). -/
def blockValues (f : VR) (a b : Lanes) : List Fp := (List.range 32).map fun e => (tyFmt f.t).dec
  (if f.t = 0#2 then (if e < 16 then (a.at e).toNat else (b.at (e - 16)).toNat) else elem 16 (a.at (e / 2)) (e % 2))

theorem exec_vqmx_eq (f : VR) (s : State) : exec (.vqmx f) s =
    let r := s.floatSources f (decide (f.t = 0#2)) 0xFFFF#16
    let q := (mxOfLm f.m).quant (blockValues f r.2.1 r.2.2)
    .next ((r.1.raise s.cur.cluster (kFlagUnit s.cur.kind) (fun _ => q.2.2)).landV s.cur.kind f 4 0xFFFF#16
      (mxLanes (mxOfLm f.m) q.1 q.2.1)) := by
  have hvals (a b : Lanes) : (List.range 32).map (fun e => (tyFmt f.t).dec
      (if fltBits f.t = 32 then (if e < 16 then a.at e else b.at (e - 16)).toNat else regElem 16 2 a e)) = blockValues f a b := by
    have hbits : fltBits f.t = 32 ↔ f.t = 0#2 := by unfold fltBits; split_ifs <;> simp [*]
    simp only [blockValues, hbits, apply_ite BitVec.toNat, regElem]
  rw [exec_vqmx, execVqmx]
  simp only [State.floatSources_two, hvals]

/-- The value of element e of the block that a register holds (07 R148, R166). -/
def blockValue (k : Mx) (a : Lanes) (e : Nat) : Fp :=
  k.dec ((a.at (if k = .fp4 then 4 else 8)).toNat % 256)
    (if k = .fp4 then elem 4 (a.at (e / 8)) (e % 8) else elem 8 (a.at (e / 4)) (e % 4))

theorem exec_vdqmx_eq (f : VR) (s : State) : exec (.vdqmx f) s =
    let r := s.floatSources f (decide (f.t = 0#2)) 0xFFFF#16
    .next (r.1.landFl s.cur.kind f 0xFFFF#16 (fltBits f.t) 4 fun i j => (tyFmt f.t).enc 0 (blockValue (mxOfLm f.m) r.2.1
      (16 * (if fltBits f.t = 32 then (r.2.2.at 0).toNat % 2 else 0) + 32 / fltBits f.t * i + j))) := by
  rw [State.floatSources_two]
  rfl

/-- vdqmx takes the half of the block that lane 0 of b selects for FP32, and two elements a lane for a 16-bit format (07 R167). -/
theorem floatResult_vdqmx (f : VR) {s : State} {unit : Nat} (hunit : kFlagUnit s.cur.kind = unit) :
    FloatResult (.vdqmx f) s f (decide (f.t = 0#2)) 4 unit (fltBits f.t) 0xFFFF#16 (fun a b i j =>
      (tyFmt f.t).enc 0 (blockValue (mxOfLm f.m) a (if f.t = 0#2 then 16 * ((b.at 0).toNat % 2) + i else 2 * i + j))) := by
  have hn : fltBits f.t * (32 / fltBits f.t) = 32 := by unfold fltBits; split <;> rfl
  refine floatResult_of_landFl hn hunit (exec_vdqmx_eq f s) fun i hi j hj => ?_
  refine congrArg (fun e => (tyFmt f.t).enc 0 (blockValue (mxOfLm f.m) _ e)) ?_
  unfold fltBits at hj ⊢
  split_ifs at hj ⊢ <;> omega

/-- Settles O25: the scale by the leading bit of the largest magnitude, an element by its rounding, and the two ops by where a
block keeps its elements. -/
theorem mxBlocks : Obligations.MxBlocks := by
  refine ⟨⟨?quant, ?values⟩, ?ops⟩
  case quant =>
    intro k l q emax
    exact ⟨k.quant_special, k.quant_zero, fun hl a ha hne hmax e hlo hhi => k.quant_correct hl ha hne hmax hlo hhi⟩
  case values => exact fun scale x hs => Mx.element_values hs x
  case ops =>
    intro f s hk unit two n fm k one r vals q
    have hunit : kFlagUnit s.cur.kind = unit := kFlagUnit_vector hk
    have hs : q.1 < 2 ^ 32 := k.quant_scale_lt vals
    refine ⟨⟨mxLanes k q.1 q.2.1, ?vqmx, fun hfp4 => ?fp4, fun hne => ?bytes⟩, ?vdqmx⟩
    case vqmx =>
      have hexec := exec_vqmx_eq f s
      rw [State.floatSources_two, hunit] at hexec
      exact hexec
    case fp4 =>
      rw [hfp4, mxLanes_fp4]
      exact blockLanes_spec (by decide) (by decide) hs q.2.1
    case bytes =>
      rw [mxLanes_bytes hne]
      exact blockLanes_spec (by decide) (by decide) hs q.2.1
    case vdqmx => exact floatResult_vdqmx f hunit

end Sys2Proof.Machine
end

section
/-! O18 (08 R168, R170, R172, 03 R75): the flags an op raises, the causes of those whose enable is set, and vstat as the bundle
commits. -/

namespace Sys2Proof.Machine

/-! ## The flags of the lanes -/

/-- Some lane raises flag n. -/
def LaneRaises (fl : Nat → Nat) (n : Nat) : Prop := ∃ i < 16, (fl i).testBit n = true

/-- The flags of all lanes together. -/
def joinedFlags (fl : Nat → Nat) : Nat := (List.range 16).foldl (fun a i => a ||| fl i) 0

theorem testBit_joinedFlags (fl : Nat → Nat) (n : Nat) : (joinedFlags fl).testBit n = true ↔ LaneRaises fl n := by
  simp [joinedFlags, testBit_foldl_or, LaneRaises]

/-- Flags are six (08 R168): with none of them raised there is nothing to join. -/
theorem joinedFlags_eq_zero {fl : Nat → Nat} (hfl : ∀ i < 16, fl i < 64) :
    joinedFlags fl = 0 ↔ ∀ n < 6, ¬ LaneRaises fl n := by
  constructor
  · intro h n _ hn
    rw [← testBit_joinedFlags, h] at hn
    simp at hn
  · intro h
    refine Nat.eq_of_testBit_eq fun n => ?_
    rw [Nat.zero_testBit, ← Bool.not_eq_true, testBit_joinedFlags]
    rintro ⟨i, hi, hbit⟩
    by_cases hn : n < 6
    · exact h n hn ⟨i, hi, hbit⟩
    · have hlt : fl i < 2 ^ n := (hfl i hi).trans_le (Nat.pow_le_pow_right two_pos (by omega : 6 ≤ n))
      exact Bool.false_ne_true ((Nat.testBit_lt_two_pow hlt).symm.trans hbit)

theorem flagLanes_eq_packed (fl : Nat → Nat) (n : Nat) : flagLanes fl n = packed 1 16 (fun i => fl i / 2 ^ n) := by
  have hbit (x i : Nat) : (if x % 2 = 1 then 2 ^ i else 0) = x % 2 ^ 1 * 2 ^ (1 * i) := by
    rcases Nat.mod_two_eq_zero_or_one x with h | h <;> simp [h]
  simp only [flagLanes, packed, hbit]

/-- Bit i of the lanes of a flag: lane i raises it (08 R172). -/
theorem testBit_flagLanes (fl : Nat → Nat) (n : Nat) {i : Nat} (hi : i < 16) : (flagLanes fl n).testBit i = (fl i).testBit n := by
  have hlane := packed_element 1 16 (fun i => fl i / 2 ^ n) hi
  rw [Nat.one_mul, Nat.pow_one] at hlane
  rw [flagLanes_eq_packed, Nat.testBit_eq_decide_div_mod_eq, Nat.testBit_eq_decide_div_mod_eq, hlane]

/-! ## The cause of an enabled flag (08 R172) -/

/-- The information of a flag's cause: the op word, the cluster, and the lanes that raised it. -/
def State.flagInfo (s : State) (fl : Nat → Nat) (n : Nat) : Dword :=
  s.slotInfo 0 ||| (BitVec.ofNat 64 (flagLanes fl n) <<< 48)

/-- The cause of a flag. -/
def State.flagCause (s : State) (unit : Nat) (fl : Nat → Nat) (n : Nat) : CauseRec :=
  ⟨s.cur.idx, 7, 0x20 + 4 * n + unit, s.cur.cluster, s.flagInfo fl n⟩

/-- An information is known by its four fields. -/
theorem info_eq_iff (a b : Dword) : a = b ↔ a.extractLsb' 0 32 = b.extractLsb' 0 32 ∧ a.extractLsb' 32 3 = b.extractLsb' 32 3 ∧
    a.extractLsb' 35 13 = b.extractLsb' 35 13 ∧ ∀ i < 16, a.getLsbD (48 + i) = b.getLsbD (48 + i) := by
  refine ⟨fun h => h ▸ ⟨rfl, rfl, rfl, fun _ _ => rfl⟩, fun ⟨hword, hcluster, hpos, hlanes⟩ => ?_⟩
  have field {start len i : Nat} (h : a.extractLsb' start len = b.extractLsb' start len) (hlo : start ≤ i)
      (hhi : i < start + len) : a.getLsbD i = b.getLsbD i := by
    have hbit := congrArg (fun v => v.getLsbD (i - start)) h
    simpa [BitVec.getLsbD_extractLsb', show i - start < len by omega, Nat.add_sub_cancel' hlo] using hbit
  refine BitVec.eq_of_getLsbD_eq fun i hi => ?_
  rcases Nat.lt_or_ge i 32 with h | h
  · exact field hword (Nat.zero_le i) (by omega)
  rcases Nat.lt_or_ge i 35 with h' | h'
  · exact field hcluster h h'
  rcases Nat.lt_or_ge i 48 with h'' | h''
  · exact field hpos h' h''
  · simpa [Nat.add_sub_cancel' h''] using hlanes (i - 48) (by omega)

theorem State.getLsbD_slotInfo (s : State) (i : Nat) : (s.slotInfo 0).getLsbD i =
    (decide (i < 64) && (s.cur.word.getLsbD i || (!decide (i < 32) && (s.cur.cluster % 8).testBit (i - 32)))) := by
  simp only [State.slotInfo, BitVec.getLsbD_or, BitVec.getLsbD_setWidth, BitVec.getLsbD_shiftLeft, BitVec.getLsbD_ofNat,
    Nat.zero_testBit, Bool.and_false, Bool.or_false]
  by_cases h : i < 64
  · simp [h, show i - 32 < 64 by omega]
  · simp [h]

theorem State.getLsbD_flagInfo (s : State) (fl : Nat → Nat) (n : Nat) {i : Nat} (hi : i < 64) : (s.flagInfo fl n).getLsbD i =
    (s.cur.word.getLsbD i || (!decide (i < 32) && (s.cur.cluster % 8).testBit (i - 32)) ||
      (!decide (i < 48) && (flagLanes fl n).testBit (i - 48))) := by
  rw [State.flagInfo, BitVec.getLsbD_or, s.getLsbD_slotInfo, BitVec.getLsbD_shiftLeft, BitVec.getLsbD_ofNat]
  simp [hi, show i - 48 < 64 by omega]

/-- No cluster number has a bit above the third. -/
theorem cluster_testBit (c : Nat) {i : Nat} (hi : 3 ≤ i) : (c % 8).testBit i = false :=
  Nat.testBit_lt_two_pow ((Nat.mod_lt c (by decide : 0 < 8)).trans_le (Nat.pow_le_pow_right (by decide) hi : 2 ^ 3 ≤ 2 ^ i))

/-- The fields of a flag's cause (08 R172). -/
theorem State.flagInfo_fields (s : State) (fl : Nat → Nat) (n : Nat) :
    (s.flagInfo fl n).extractLsb' 0 32 = s.cur.word ∧ ((s.flagInfo fl n).extractLsb' 32 3).toNat = s.cur.cluster % 8 ∧
    ((s.flagInfo fl n).extractLsb' 35 13).toNat = 0 ∧ ∀ i < 16, (s.flagInfo fl n).getLsbD (48 + i) = (fl i).testBit n := by
  have hcluster : (s.flagInfo fl n).extractLsb' 32 3 = BitVec.ofNat 3 (s.cur.cluster % 8) := by
    refine BitVec.eq_of_getLsbD_eq fun i hi => ?_
    rw [BitVec.getLsbD_extractLsb', s.getLsbD_flagInfo _ _ (by omega), BitVec.getLsbD_of_ge _ _ (by omega), BitVec.getLsbD_ofNat]
    simp [show 32 + i < 48 by omega]
  have hpos : (s.flagInfo fl n).extractLsb' 35 13 = 0#13 := by
    refine BitVec.eq_of_getLsbD_eq fun i hi => ?_
    rw [BitVec.getLsbD_extractLsb', s.getLsbD_flagInfo _ _ (by omega), BitVec.getLsbD_of_ge _ _ (by omega),
      cluster_testBit _ (by omega : 3 ≤ 35 + i - 32)]
    simp [show 35 + i < 48 by omega]
  refine ⟨BitVec.eq_of_getLsbD_eq fun i hi => ?word, ?_, by rw [hpos]; rfl, fun i hi => ?lanes⟩
  case word =>
    rw [BitVec.getLsbD_extractLsb', s.getLsbD_flagInfo _ _ (by omega)]
    simp [hi, show i < 48 by omega]
  case lanes =>
    rw [s.getLsbD_flagInfo _ _ (by omega), BitVec.getLsbD_of_ge _ _ (by omega), cluster_testBit _ (by omega : 3 ≤ 48 + i - 32),
      Nat.add_sub_cancel_left, testBit_flagLanes fl n hi]
    simp
  · rw [hcluster, BitVec.toNat_ofNat]
    exact Nat.mod_eq_of_lt (Nat.mod_lt _ (by decide))

/-- A cause is that of a flag by its parts. -/
theorem State.eq_flagCause_iff (s : State) (unit : Nat) (fl : Nat → Nat) (n : Nat) (c : CauseRec) : c = s.flagCause unit fl n ↔
    c.slot = s.cur.idx ∧ c.rank = 7 ∧ c.code = 0x20 + 4 * n + unit ∧ c.cluster = s.cur.cluster ∧
    c.info.extractLsb' 0 32 = s.cur.word ∧ (c.info.extractLsb' 32 3).toNat = s.cur.cluster % 8 ∧
    (c.info.extractLsb' 35 13).toNat = 0 ∧ ∀ i < 16, c.info.getLsbD (48 + i) = (fl i).testBit n := by
  obtain ⟨hword, hcluster, hpos, hlanes⟩ := s.flagInfo_fields fl n
  obtain ⟨slot, rank, code, cluster, info⟩ := c
  simp only [State.flagCause, CauseRec.mk.injEq, info_eq_iff info, hword, ← BitVec.toNat_inj (x := info.extractLsb' 32 3),
    ← BitVec.toNat_inj (x := info.extractLsb' 35 13), hcluster, hpos]
  exact and_congr_right' (and_congr_right' (and_congr_right' (and_congr_right' (and_congr_right' (and_congr_right'
    (and_congr_right' (forall₂_congr fun i hi => by rw [hlanes i hi])))))))

/-! ## Raising flags (08 R170, R172) -/

/-- The causes of the flags in a list that a test picks. -/
theorem State.foldl_flagCauses (unit : Nat) (fl : Nat → Nat) (p : Nat → Bool) (l : List Nat) (s : State) :
    l.foldl (fun t n => if p n then
      t.causeI 7 (0x20 + 4 * n + unit) (t.slotInfo 0 ||| (BitVec.ofNat 64 (flagLanes fl n) <<< 48)) else t) s =
    s.setCur { s.cur with causes := s.cur.causes ++ (l.filter p).map (s.flagCause unit fl) } := by
  induction l generalizing s with
  | nil => simp [State.setCur]
  | cons n l ih =>
    rw [List.foldl_cons, ih]
    cases h : p n
    · rw [List.filter_cons_of_neg (by rw [h]; decide)]
      rfl
    · rw [List.filter_cons_of_pos h, List.map_cons, List.append_cons]
      rfl

/-- A flag that some lane raises and whose enable is set. -/
def Ctx.trapsFlag (x : Ctx) (cl : Nat) (fl : Nat → Nat) (n : Nat) : Bool :=
  joinedFlags fl / 2 ^ n % 2 = 1 && (x.vst cl).toNat / 256 / 2 ^ n % 2 = 1

theorem Ctx.trapsFlag_iff (x : Ctx) (cl : Nat) (fl : Nat → Nat) (n : Nat) :
    x.trapsFlag cl fl n = true ↔ LaneRaises fl n ∧ (x.vst cl).getLsbD (8 + n) = true := by
  have hbit (v k : Nat) : v / 2 ^ k % 2 = 1 ↔ v.testBit k = true := by rw [Nat.testBit_eq_decide_div_mod_eq, decide_eq_true_eq]
  have henable : (x.vst cl).toNat / 256 / 2 ^ n = (x.vst cl).toNat / 2 ^ (8 + n) := by rw [Nat.div_div_eq_div_mul, Nat.pow_add]
  rw [Ctx.trapsFlag, Bool.and_eq_true, decide_eq_true_eq, decide_eq_true_eq, henable, hbit, hbit, testBit_joinedFlags]
  rfl

theorem State.raise_of_none (s : State) (cl unit : Nat) {fl : Nat → Nat} (h : joinedFlags fl = 0) : s.raise cl unit fl = s := by
  have h' : (List.range 16).foldl (fun a i => a ||| fl i) 0 = 0 := h
  simp only [State.raise, h', if_true]

/-- An op that raises flags: they are met once, and the enabled ones are causes. -/
theorem State.raise_of_some (s : State) (cl unit : Nat) {fl : Nat → Nat} (h : joinedFlags fl ≠ 0) :
    s.raise cl unit fl = { s with cur := { s.cur with
      flags := s.cur.flags ++ [(cl, joinedFlags fl)]
      causes := s.cur.causes ++ ((List.range 6).filter (s.x.trapsFlag cl fl)).map (s.flagCause unit fl) } } := by
  have h' : ¬ (List.range 16).foldl (fun a i => a ||| fl i) 0 = 0 := h
  simp only [State.raise, if_neg h']
  exact State.foldl_flagCauses unit fl (s.x.trapsFlag cl fl) (List.range 6) _

/-- O18, the flags of one op. -/
theorem State.raise_correct (s : State) (cl unit : Nat) (fl : Nat → Nat) (hfl : ∀ i < 16, fl i < 64) :
    let t := s.raise cl unit fl
    ((∀ n < 6, ¬ LaneRaises fl n) → t = s) ∧
    ((∃ n < 6, LaneRaises fl n) → ∃ all, t.cur.flags = s.cur.flags ++ [(cl, all)] ∧ ∀ n, all.testBit n = true ↔ LaneRaises fl n) ∧
    t = { s with cur := { s.cur with flags := t.cur.flags, causes := t.cur.causes } } ∧
    (∀ c, c ∈ t.cur.causes ↔ c ∈ s.cur.causes ∨ ∃ n < 6, (LaneRaises fl n ∧ (s.x.vst cl).getLsbD (8 + n) = true) ∧
      c = s.flagCause unit fl n) := by
  intro t
  by_cases hnone : joinedFlags fl = 0
  · have ht : t = s := s.raise_of_none cl unit hnone
    have hno := (joinedFlags_eq_zero hfl).mp hnone
    rw [ht]
    exact ⟨fun _ => rfl, fun ⟨n, hn, h⟩ => absurd h (hno n hn), rfl, fun c =>
      (or_iff_left fun ⟨n, hn, h, _⟩ => hno n hn h.1).symm⟩
  · have ht : t = _ := s.raise_of_some cl unit hnone
    rw [ht]
    refine ⟨fun h => absurd ((joinedFlags_eq_zero hfl).mpr h) hnone, fun _ => ⟨_, rfl, testBit_joinedFlags fl⟩, rfl, fun c => ?_⟩
    simp only [List.mem_append, List.mem_map, List.mem_filter, List.mem_range, Ctx.trapsFlag_iff, and_assoc, eq_comm (a := c)]

/-! ## vstat after the commit (03 R75, 08 R170) -/

/-- Flags are ORed into the vstat of their cluster. -/
theorem State.vst_applyFlag (s : State) (f : Nat × Nat) (c : Nat) :
    (s.applyFlag f).x.vst c = if c = f.1 then s.x.vst f.1 ||| BitVec.ofNat 32 f.2 else s.x.vst c := by
  simp only [State.applyFlag, State.setX_x, Ctx.vst, Map.get_set]

theorem State.vst_applyFlags (met : List (Nat × Nat)) (s : State) (c : Nat) {n : Nat} (hn : n < 32) :
    ((met.foldl State.applyFlag s).x.vst c).getLsbD n = true ↔
      (s.x.vst c).getLsbD n = true ∨ ∃ f ∈ met, f.1 = c ∧ f.2.testBit n = true := by
  induction met generalizing s with
  | nil => simp
  | cons f met ih =>
    have hfirst : ((s.applyFlag f).x.vst c).getLsbD n = true ↔ (s.x.vst c).getLsbD n = true ∨ (f.1 = c ∧ f.2.testBit n = true) := by
      rw [State.vst_applyFlag]
      by_cases h : c = f.1
      · rw [if_pos h, BitVec.getLsbD_or, BitVec.getLsbD_ofNat, h]
        simp [-BitVec.getLsbD_eq_getElem, hn]
      · simp [h, eq_comm (a := f.1)]
    rw [List.foldl_cons, ih, hfirst, or_assoc, List.exists_mem_cons_iff]

/-- The flow of a bundle that asks for no transfer, outside loops, neither yields nor touches vstat. -/
theorem Ctx.flow_outside_loops (c : Ctx) {f : Frame} (hd : c.depth = 0) (ho : f.opened = none) (ht : f.transfer = none)
    (hs : f.skip = none) : (c.flow f).2 = false ∧ (c.flow f).1.vstat = c.vstat := by
  cases hp : c.pend with
  | some t => rw [Ctx.flow_of_pend ho hp]; exact ⟨rfl, rfl⟩
  | none => rw [Ctx.flow_of_sequence ho hp ht hs (Ctx.loopTest_stop (.inl hd) 4)]; exact ⟨rfl, rfl⟩

theorem State.vst_advance (s : State) (c : Nat) : s.advance.x.vst c = s.x.vst c := by
  obtain ⟨r, p, v, l, latch, ok, tbuf, flight, unseen, h⟩ := s.advance_eq
  rw [h]
  rfl

/-- What the commit of a bundle that has met flags leaves in vstat. -/
theorem State.vst_commit {s : State} {a q : Addr} {w : Nat} {met : List (Nat × Nat)} (hd : s.x.depth = 0)
    (hcur : s.cur = { emptyFrame with addr := a, words := w, seq := q, flags := met }) (c : Nat) :
    s.commit.x.vst c = (met.foldl State.applyFlag (s.setX (s.x.flow s.cur).1)).x.vst c := by
  obtain ⟨hstays, -⟩ := s.x.flow_outside_loops (f := s.cur) hd (by rw [hcur]; rfl) (by rw [hcur]; rfl) (by rw [hcur]; rfl)
  rw [hcur] at hstays
  rw [State.commit, hcur]
  simp only [emptyFrame, List.foldl_nil, Option.isSome_none, Bool.false_or] at hstays ⊢
  rw [hstays]
  exact State.vst_advance _ c

/-- Settles O18: one op's flags by the fold over the six of them, and the commit by what each flag it has met does to vstat. -/
theorem flagsEnablesAndStatus : Obligations.FlagsEnablesAndStatus := by
  refine ⟨fun s cl unit fl hfl => ?raised, fun s cl all => ?applied, fun s a q w met hd hcur c n hn => ?committed⟩
  case raised =>
    obtain ⟨hnone, hsome, hframe, hcauses⟩ := s.raise_correct cl unit fl hfl
    refine ⟨hnone, hsome, hframe, fun c => (hcauses c).trans ?_⟩
    simp only [s.eq_flagCause_iff, and_assoc]
    rfl
  case applied => exact ⟨by rw [State.vst_applyFlag, if_pos rfl], fun c hc => by rw [State.vst_applyFlag, if_neg hc], rfl⟩
  case committed =>
    obtain ⟨-, hvstat⟩ := s.x.flow_outside_loops (f := s.cur) hd (by rw [hcur]; rfl) (by rw [hcur]; rfl) (by rw [hcur]; rfl)
    rw [State.vst_commit hd hcur, State.vst_applyFlags met _ c hn, State.setX_x, Ctx.vst, hvstat]
    rfl

end Sys2Proof.Machine
end

section
/-! The order of the values that are no NaNs (08 R178, R180): −∞, the numbers with −0 below +0, +∞. -/

namespace Sys2Proof.Machine
namespace Fp

/-- x comes before y, with −0 before +0 (08 R178). -/
def Before (x y : Fp) : Prop := x.Less y ∨ (x.isZero = true ∧ y.isZero = true ∧ x.neg? = true ∧ y.neg? = false)

/-- A place on a line that tells the order: the infinities at its ends, and −0 just before +0. -/
def place : Fp → Int ×ₗ Rat ×ₗ Int
  | .nan _ => toLex (0, toLex (0, 0))
  | .inf neg => toLex (if neg then -1 else 1, toLex (0, 0))
  | .fin neg m e => toLex (0, toLex (Fp.val (.fin neg m e), if m = 0 ∧ neg = true then -1 else 0))

theorem val_fin_eq_zero {neg : Bool} {m : Nat} {e : Int} : Fp.val (.fin neg m e) = 0 ↔ m = 0 := by
  rw [← abs_eq_zero, abs_val_fin, magOf_eq_zero]

/-- Finite values come one before the other as the numbers they stand for, and −0 before +0. -/
theorem before_fin {n n' : Bool} {m m' : Nat} {e e' : Int} : Before (.fin n m e) (.fin n' m' e') ↔
    Fp.val (.fin n m e) < Fp.val (.fin n' m' e') ∨ (m = 0 ∧ m' = 0 ∧ n = true ∧ n' = false) := by
  simp [Before, Less, isZero, neg?]

theorem before_iff_place {x y : Fp} (hx : x.isNan = false) (hy : y.isNan = false) : x.Before y ↔ x.place < y.place := by
  cases x with
  | nan sig => simp [isNan] at hx
  | inf a =>
    cases y with
    | nan sig => simp [isNan] at hy
    | inf b => cases a <;> cases b <;> simp [Before, Less, isZero, place, Prod.Lex.toLex_lt_toLex]
    | fin n m e => cases a <;> simp [Before, Less, isZero, place, Prod.Lex.toLex_lt_toLex]
  | fin n m e =>
    cases y with
    | nan sig => simp [isNan] at hy
    | inf b => cases b <;> simp [Before, Less, isZero, place, Prod.Lex.toLex_lt_toLex]
    | fin n' m' e' =>
      have hsame (h : Fp.val (.fin n m e) = Fp.val (.fin n' m' e')) : m = 0 ↔ m' = 0 := by
        rw [← val_fin_eq_zero (neg := n) (e := e), h, val_fin_eq_zero]
      simp only [before_fin, place, Prod.Lex.toLex_lt_toLex, lt_irrefl, false_or, true_and]
      refine or_congr_right' fun hlt => ⟨?_, ?_⟩
      · rintro ⟨rfl, rfl, rfl, rfl⟩
        exact ⟨by simp [val_fin], by decide⟩
      · rintro ⟨hval, hsign⟩
        have hzero := hsame hval
        revert hsign
        by_cases h0 : m = 0 <;> cases n <;> cases n' <;> simp [h0, ← hzero]

theorem not_before_self {x : Fp} (hx : x.isNan = false) : ¬ x.Before x := by
  rw [before_iff_place hx hx]
  exact lt_irrefl _

theorem Before.asymm {x y : Fp} (hx : x.isNan = false) (hy : y.isNan = false) (h : x.Before y) : ¬ y.Before x := by
  rw [before_iff_place hy hx]
  exact ((before_iff_place hx hy).mp h).asymm

theorem Before.trans_not {x y z : Fp} (hx : x.isNan = false) (hy : y.isNan = false) (hz : z.isNan = false)
    (h : ¬ y.Before x) (h' : ¬ z.Before y) : ¬ z.Before x := by
  rw [before_iff_place hy hx, not_lt] at h
  rw [before_iff_place hz hy, not_lt] at h'
  rw [before_iff_place hz hx, not_lt]
  exact h.trans h'

/-! ## The comparison of the model -/

theorem compare_units (a b : Int) (q : Int) : (compare a b = .lt ↔ (a : Rat) * 2 ^ q < b * 2 ^ q) ∧
    (compare a b = .gt ↔ (b : Rat) * 2 ^ q < a * 2 ^ q) := by
  have hu : (0 : Rat) < 2 ^ q := zpow_pos two_pos q
  rw [mul_lt_mul_iff_left₀ hu, mul_lt_mul_iff_left₀ hu, Int.cast_lt, Int.cast_lt]
  exact ⟨Int.compare_eq_lt, Int.compare_eq_gt⟩

theorem cmp_iff {x y : Fp} (hx : x.isNan = false) (hy : y.isNan = false) :
    (x.cmp y = .lt ↔ x.Less y) ∧ (x.cmp y = .gt ↔ y.Less x) := by
  cases x with
  | nan sig => simp [isNan] at hx
  | inf a =>
    cases y with
    | nan sig => simp [isNan] at hy
    | inf b => cases a <;> cases b <;> simp [cmp, Less]
    | fin n m e => cases a <;> simp [cmp, Less]
  | fin n m e =>
    cases y with
    | nan sig => simp [isNan] at hy
    | inf b => cases b <;> simp [cmp, Less]
    | fin n' m' e' =>
      have h := compare_units (scaled (min e e') (.fin n m e)) (scaled (min e e') (.fin n' m' e')) (min e e')
      rwa [cast_scaled (min_le_left e e'), cast_scaled (min_le_right e e')] at h

/-- Both neither before the other: the comparison says equal. -/
theorem cmp_eq_of_not_less {x y : Fp} (hx : x.isNan = false) (hy : y.isNan = false) (h : ¬ x.Less y) (h' : ¬ y.Less x) :
    x.cmp y = .eq := by
  obtain ⟨hlt, hgt⟩ := cmp_iff hx hy
  match hcmp : x.cmp y with
  | .lt => exact absurd (hlt.mp hcmp) h
  | .gt => exact absurd (hgt.mp hcmp) h'
  | .eq => rfl

/-- The test of vfmin and vfmax is the order. -/
theorem below_iff {x y : Fp} (hx : x.isNan = false) (hy : y.isNan = false) : x.below y = true ↔ x.Before y := by
  obtain ⟨hlt, hgt⟩ := cmp_iff hx hy
  unfold below
  split
  next hcmp => exact iff_of_true rfl (.inl (hlt.mp hcmp))
  next hcmp =>
    refine iff_of_false Bool.false_ne_true fun h => ?_
    exact h.asymm hx hy (.inl (hgt.mp hcmp))
  next hcmp =>
    rw [Before, or_iff_right (mt hlt.mpr (by rw [hcmp]; decide))]
    simp only [Bool.and_eq_true, Bool.not_eq_true', and_assoc]

/-! ## The smaller and the larger (08 R178) -/

theorem isSig_iff (x : Fp) : x.isSig = true ↔ x = .nan true := by
  cases x <;> simp [isSig]

/-- NV is raised for a signalling operand alone (08 R174). -/
theorem sigFlag_eq (l : List Fp) : sigFlag l = if .nan true ∈ l then 1 else 0 := by
  have hany : l.any isSig = true ↔ .nan true ∈ l := by simp [List.any_eq_true, isSig_iff]
  simp only [sigFlag, hany]

theorem sigFlag_of_no_nan {l : List Fp} (h : ∀ x ∈ l, x.isNan = false) : sigFlag l = 0 := by
  rw [sigFlag_eq, if_neg]
  intro hmem
  exact Bool.false_ne_true (h _ hmem).symm

theorem isNan_iff {x : Fp} : x.isNan = true ↔ ∃ sig, x = .nan sig := by
  cases x <;> simp [isNan]

theorem isNan_of_finite {x : Fp} (h : x.Finite) : x.isNan = false := by
  obtain ⟨n, m, e, rfl⟩ := h
  rfl

/-- Of two values that are no NaNs the one that the order puts first or last. -/
theorem pick_of_no_nan (mx : Bool) {x y : Fp} (hx : x.isNan = false) (hy : y.isNan = false) :
    pick mx x y = (if (if mx then x.below y else y.below x) then y else x, 0) := by
  have hflag : sigFlag [x, y] = 0 := sigFlag_of_no_nan (by simp [hx, hy])
  simp only [pick, hx, hy, hflag]

/-- Neither of the two lies beyond the one that is picked. -/
theorem pick_extreme (mx : Bool) {x y : Fp} (hx : x.isNan = false) (hy : y.isNan = false) :
    ((pick mx x y).1 = x ∨ (pick mx x y).1 = y) ∧ (pick mx x y).2 = 0 ∧
    (if mx then ¬ (pick mx x y).1.Before x ∧ ¬ (pick mx x y).1.Before y
      else ¬ x.Before (pick mx x y).1 ∧ ¬ y.Before (pick mx x y).1) := by
  rw [pick_of_no_nan mx hx hy]
  cases mx
  case false =>
    simp only [Bool.false_eq_true, if_false]
    split
    next h =>
      have hyx := (below_iff hy hx).mp h
      exact ⟨.inr rfl, trivial, hyx.asymm hy hx, not_before_self hy⟩
    next h => exact ⟨.inl rfl, trivial, not_before_self hx, mt (below_iff hy hx).mpr h⟩
  case true =>
    simp only [if_true]
    split
    next h =>
      have hxy := (below_iff hx hy).mp h
      exact ⟨.inr rfl, trivial, hxy.asymm hx hy, not_before_self hy⟩
    next h => exact ⟨.inl rfl, trivial, not_before_self hx, mt (below_iff hx hy).mpr h⟩

/-- What the order says of the numbers. -/
theorem val_le_of_not_before {x y : Fp} (hx : x.Finite) (hy : y.Finite) (h : ¬ y.Before x) : x.val ≤ y.val := by
  obtain ⟨n, m, e, rfl⟩ := hx
  obtain ⟨n', m', e', rfl⟩ := hy
  exact not_lt.mp fun hlt => h (before_fin.mpr (.inl hlt))

/-- Among numbers it is the minimum or the maximum. -/
theorem val_pick (mx : Bool) {x y : Fp} (hx : x.Finite) (hy : y.Finite) :
    (pick mx x y).1.val = if mx then max x.val y.val else min x.val y.val := by
  obtain ⟨hone, -, hextreme⟩ := pick_extreme mx (isNan_of_finite hx) (isNan_of_finite hy)
  have hr : (pick mx x y).1.Finite := by rcases hone with h | h <;> rw [h] <;> assumption
  have hmem : (pick mx x y).1.val = x.val ∨ (pick mx x y).1.val = y.val := hone.imp (congrArg val) (congrArg val)
  cases mx
  case false =>
    obtain ⟨hle, hle'⟩ := hextreme
    have hx' := val_le_of_not_before hr hx hle
    have hy' := val_le_of_not_before hr hy hle'
    rw [if_neg (by decide)]
    rcases hmem with h | h <;> rw [h] at hx' hy' ⊢
    · exact (min_eq_left hy').symm
    · exact (min_eq_right hx').symm
  case true =>
    obtain ⟨hle, hle'⟩ := hextreme
    have hx' := val_le_of_not_before hx hr hle
    have hy' := val_le_of_not_before hy hr hle'
    rw [if_pos rfl]
    rcases hmem with h | h <;> rw [h] at hx' hy' ⊢
    · exact (max_eq_left hy').symm
    · exact (max_eq_right hx').symm

/-- A NaN beside a value that is none is passed over, with NV when signalling; of two NaNs the default one is left. -/
theorem pick_nan_nan (mx a b : Bool) : pick mx (.nan a) (.nan b) = (.nan false, (a || b).toNat) := by
  cases a <;> cases b <;> rfl
theorem pick_nan_right (mx : Bool) {x : Fp} (sig : Bool) (hx : x.isNan = false) : pick mx x (.nan sig) = (x, sig.toNat) := by
  cases x with
  | nan s => simp [isNan] at hx
  | inf a => cases sig <;> rfl
  | fin n m e => cases sig <;> rfl
theorem pick_nan_left (mx : Bool) {x : Fp} (sig : Bool) (hx : x.isNan = false) : pick mx (.nan sig) x = (x, sig.toNat) := by
  cases x with
  | nan s => simp [isNan] at hx
  | inf a => cases sig <;> rfl
  | fin n m e => cases sig <;> rfl

end Fp
end Sys2Proof.Machine
end

section
/-! O22 (08 R174, R177, R178, R183): exact sums and products, and what NaNs and infinities make of them. -/

namespace Sys2Proof.Machine
namespace Fp

/-! ## Sums (08 R183) -/

/-- An integer in units of 2^q is the number it stands for; 0 takes the sign given. -/
theorem ofScaled_finite (v q : Int) (z : Bool) : (ofScaled v q z).Finite := by
  unfold ofScaled
  split <;> exact ⟨_, _, _, rfl⟩
theorem val_ofScaled (v q : Int) (z : Bool) : (ofScaled v q z).val = v * 2 ^ q := by
  unfold ofScaled
  split
  next h => rw [val_fin, magOf_zero, h]; simp
  next => exact val_int v q

/-- The least exponent of some values and 0. -/
theorem foldl_min_exp_le (l : List Fp) (q : Int) :
    l.foldl (fun a x => min a x.exp) q ≤ q ∧ ∀ x ∈ l, l.foldl (fun a x => min a x.exp) q ≤ x.exp := by
  induction l generalizing q with
  | nil => exact ⟨le_rfl, nofun⟩
  | cons x l ih =>
    obtain ⟨hq, hl⟩ := ih (min q x.exp)
    exact ⟨hq.trans (min_le_left q _), List.forall_mem_cons.mpr ⟨hq.trans (min_le_right q _), hl⟩⟩

/-- Adding up in units of 2^q, below every exponent, is adding the numbers. -/
theorem cast_foldl_scaled {q : Int} (l : List Fp) (hl : ∀ x ∈ l, x.Finite) (hq : ∀ x ∈ l, q ≤ x.exp) (a : Int) :
    ((l.foldl (fun a x => a + scaled q x) a : Int) : Rat) * 2 ^ q = a * 2 ^ q + (l.map val).sum := by
  induction l generalizing a with
  | nil => simp
  | cons x l ih =>
    obtain ⟨n, m, e, rfl⟩ := hl _ List.mem_cons_self
    have hx : q ≤ e := hq _ List.mem_cons_self
    rw [List.foldl_cons, ih (fun y hy => hl y (List.mem_cons_of_mem _ hy)) (fun y hy => hq y (List.mem_cons_of_mem _ hy)),
      List.map_cons, List.sum_cons, Int.cast_add, add_mul, cast_scaled hx, add_assoc]

/-- Finite values: an exact sum in units of some power of two. -/
theorem sumZ_of_finite (z : Bool) {l : List Fp} (hl : ∀ x ∈ l, x.Finite) :
    ∃ v q : Int, sumZ z l = (ofScaled v q z, 0) ∧ (v : Rat) * 2 ^ q = (l.map val).sum := by
  have hnot (p : Fp → Bool) (hp : ∀ n m e, p (.fin n m e) = false) : l.any p = false := by
    rw [List.any_eq_false]
    intro x hx
    obtain ⟨n, m, e, rfl⟩ := hl x hx
    rw [hp]
    decide
  have hsum := cast_foldl_scaled l hl (foldl_min_exp_le l 0).2 0
  rw [Int.cast_zero, zero_mul, zero_add] at hsum
  refine ⟨_, _, ?_, hsum⟩
  simp only [sumZ, hnot isNan fun _ _ _ => rfl, hnot (fun x => decide (x = .inf false)) fun _ _ _ => decide_eq_false nofun,
    hnot (fun x => decide (x = .inf true)) fun _ _ _ => decide_eq_false nofun, Bool.and_false, Bool.false_eq_true, if_false]

/-- The exact sum of finite values, with no flag; an exact zero has the sign given. -/
theorem sumZ_exact (z : Bool) {l : List Fp} (hl : ∀ x ∈ l, x.Finite) :
    (sumZ z l).2 = 0 ∧ (sumZ z l).1.Finite ∧ (sumZ z l).1.val = (l.map val).sum ∧
    ((l.map val).sum = 0 → (sumZ z l).1 = .fin z 0 0) := by
  obtain ⟨v, q, heq, hsum⟩ := sumZ_of_finite z hl
  rw [heq, ← hsum]
  refine ⟨rfl, ofScaled_finite v q z, val_ofScaled v q z, fun h => ?_⟩
  have hv : v = 0 := by simpa [(zpow_pos (two_pos : (0 : Rat) < 2) q).ne'] using h
  rw [ofScaled, if_pos hv]

/-- A NaN among the terms (08 R183, log 58). -/
theorem sumZ_of_nan (z : Bool) {l : List Fp} (h : ∃ x ∈ l, x.isNan = true) : sumZ z l = (.nan false, sigFlag l) := by
  rw [sumZ, if_pos (List.any_eq_true.mpr h)]

/-- Without a NaN the infinities decide (08 R174). -/
theorem sumZ_of_no_nan (z : Bool) {l : List Fp} (h : ∀ x ∈ l, x.isNan = false) :
    (.inf true ∈ l → .inf false ∈ l → sumZ z l = (.nan false, 1)) ∧
    (∀ n, .inf n ∈ l → .inf (!n) ∉ l → sumZ z l = (.inf n, 0)) := by
  have hnan : l.any isNan = false := by
    rw [List.any_eq_false]
    intro x hx
    rw [h x hx]
    decide
  have hinf (n : Bool) : (l.any fun x => decide (x = .inf n)) = decide (.inf n ∈ l) := by
    rw [Bool.eq_iff_iff, decide_eq_true_eq, List.any_eq_true]
    simp only [decide_eq_true_eq, exists_eq_right]
  simp only [sumZ, hnan, hinf, Bool.false_eq_true, if_false, Bool.and_eq_true, decide_eq_true_eq]
  refine ⟨fun ht hf => if_pos ⟨hf, ht⟩, fun n hin hout => ?_⟩
  cases n
  case false => rw [if_neg fun hboth => hout hboth.2, if_pos hin]
  case true =>
    have hout : .inf false ∉ l := hout
    rw [if_neg fun hboth => hout hboth.1, if_neg hout, if_pos hin]

/-! ## Products (08 R174) -/

theorem signOf_mul (n n' : Bool) : signOf (n != n') = signOf n * signOf n' := by
  cases n <;> cases n' <;> simp [signOf]

theorem mul_fin (n n' : Bool) (m m' : Nat) (e e' : Int) :
    (Fp.fin n m e).mul (.fin n' m' e') = (.fin (n != n') (m * m') (e + e'), 0) := rfl

theorem val_mul_fin (n n' : Bool) (m m' : Nat) (e e' : Int) :
    Fp.val (.fin (n != n') (m * m') (e + e')) = Fp.val (.fin n m e) * Fp.val (.fin n' m' e') := by
  simp only [val_fin, magOf, signOf_mul, zpow_add₀ (two_ne_zero (α := Rat))]
  push_cast
  ring

theorem mul_of_nan {x y : Fp} (h : x.isNan = true ∨ y.isNan = true) : x.mul y = (.nan false, sigFlag [x, y]) := by
  cases x with
  | nan s => rfl
  | inf a =>
    cases y with
    | nan s => rfl
    | _ => simp [isNan] at h
  | fin n m e =>
    cases y with
    | nan s => rfl
    | _ => simp [isNan] at h

/-- An infinity times a number: an infinity, or invalid with 0. -/
theorem mul_inf_fin (n n' : Bool) (m : Nat) (e : Int) : (Fp.inf n).mul (.fin n' m e) =
    if m = 0 then (.nan false, 1) else (.inf (n != n'), 0) := by
  simp only [mul, isZero, decide_eq_true_eq]
  rfl
theorem mul_fin_inf (n n' : Bool) (m : Nat) (e : Int) : (Fp.fin n' m e).mul (.inf n) =
    if m = 0 then (.nan false, 1) else (.inf (n != n'), 0) := by
  rw [bne_comm]
  simp only [mul, isZero, decide_eq_true_eq]
  rfl

/-- A product that is no NaN has no NaN factor and raises nothing. -/
theorem mul_flags {x y : Fp} (h : (x.mul y).1.isNan = false) : x.isNan = false ∧ y.isNan = false ∧ (x.mul y).2 = 0 := by
  have hnot : ¬ (x.isNan = true ∨ y.isNan = true) := fun hnan => by
    rw [mul_of_nan hnan] at h
    exact Bool.false_ne_true h.symm
  obtain ⟨hx, hy⟩ := not_or.mp hnot
  refine ⟨Bool.not_eq_true _ ▸ hx, Bool.not_eq_true _ ▸ hy, ?_⟩
  cases x with
  | nan s => simp [isNan] at hx
  | inf a =>
    cases y with
    | nan s => simp [isNan] at hy
    | inf b => rfl
    | fin n m e =>
      rw [mul_inf_fin] at h ⊢
      split at h
      · simp [isNan] at h
      · rw [if_neg (by assumption)]
  | fin n m e =>
    cases y with
    | nan s => simp [isNan] at hy
    | inf b =>
      rw [mul_fin_inf] at h ⊢
      split at h
      · simp [isNan] at h
      · rw [if_neg (by assumption)]
    | fin n' m' e' => rfl

end Fp

/-! ## Fused multiply-add (08 R177) -/

namespace Fmt

theorem enc_nan (f : Fmt) (rm : Nat) (sig : Bool) : f.enc rm (.nan sig) = (f.nanBits, sig.toNat) := by
  cases sig <;> rfl

/-- A NaN product is the result, whatever is added. -/
theorem fma_of_nan_product (f : Fmt) (rm : Nat) {x y : Fp} (z : Fp) (h : (x.mul y).1.isNan = true) :
    f.fma rm x y z = (f.nanBits, (x.mul y).2 ||| sigFlag [x, y, z]) := by
  simp only [fma, h, if_true]

/-- Any other is added exactly, and the sum rounded. -/
theorem fma_of_product (f : Fmt) (rm : Nat) {x y : Fp} (z : Fp) (h : (x.mul y).1.isNan = false) :
    f.fma rm x y z = f.rnd rm ((Fp.sum rm [(x.mul y).1, z]).1, (Fp.sum rm [(x.mul y).1, z]).2 ||| sigFlag [x, y, z]) := by
  simp only [fma, h, Bool.false_eq_true, if_false]

theorem rnd_no_flags (f : Fmt) (rm : Nat) (x : Fp) : f.rnd rm (x, 0) = f.enc rm x := by
  rw [rnd, Nat.or_zero]

theorem rnd_nan (f : Fmt) (rm k : Nat) : f.rnd rm (.nan false, k) = (f.nanBits, k) := by
  rw [rnd, enc_nan]
  exact Prod.ext rfl (Nat.zero_or k)

/-- 0 × ∞ is invalid beside whatever is added: NV is raised already. -/
theorem fma_of_invalid (f : Fmt) (rm : Nat) {x y : Fp} (z : Fp) (h : x.mul y = (.nan false, 1)) :
    f.fma rm x y z = (f.nanBits, 1) := by
  rw [fma_of_nan_product f rm z (by rw [h]; rfl), h, Fp.sigFlag_eq]
  split <;> rfl

theorem fma_of_nan_factor (f : Fmt) (rm : Nat) {x y : Fp} (z : Fp) (h : x.isNan = true ∨ y.isNan = true) :
    f.fma rm x y z = (f.nanBits, if x = .nan true ∨ y = .nan true ∨ z = .nan true then 1 else 0) := by
  have hmul := Fp.mul_of_nan h
  rw [fma_of_nan_product f rm z (by rw [hmul]; rfl), hmul, Fp.sigFlag_eq, Fp.sigFlag_eq]
  simp only [List.mem_cons, List.not_mem_nil, or_false, eq_comm (a := Fp.nan true)]
  by_cases hx : x = .nan true <;> by_cases hy : y = .nan true <;> by_cases hz : z = .nan true <;> simp [hx, hy, hz]

/-- A NaN added to a product. -/
theorem fma_of_nan_addend (f : Fmt) (rm : Nat) {x y : Fp} (sig : Bool) (h : (x.mul y).1.isNan = false) :
    f.fma rm x y (.nan sig) = (f.nanBits, sig.toNat) := by
  obtain ⟨hx, hy, -⟩ := Fp.mul_flags h
  have hnot {w : Fp} (hw : w.isNan = false) : Fp.nan true ≠ w := by
    rintro rfl
    exact Bool.false_ne_true hw.symm
  have hsum : Fp.sum rm [(x.mul y).1, .nan sig] = (.nan false, sigFlag [(x.mul y).1, .nan sig]) :=
    Fp.sumZ_of_nan _ ⟨_, List.mem_cons_of_mem _ List.mem_cons_self, rfl⟩
  rw [fma_of_product f rm _ h, hsum, rnd_nan, Fp.sigFlag_eq, Fp.sigFlag_eq]
  simp only [List.mem_cons, List.not_mem_nil, or_false, hnot hx, hnot hy, hnot h, false_or]
  cases sig <;> simp

/-- With no NaN about, the sum of the product and z is rounded, with the flags of the sum. -/
theorem fma_of_no_nan (f : Fmt) (rm : Nat) {x y z : Fp} (h : (x.mul y).1.isNan = false) (hz : z.isNan = false) :
    f.fma rm x y z = f.rnd rm (Fp.sum rm [(x.mul y).1, z]) := by
  obtain ⟨hx, hy, -⟩ := Fp.mul_flags h
  rw [fma_of_product f rm z h, Fp.sigFlag_of_no_nan (by simp [hx, hy, hz]), Nat.or_zero]

/-- Infinities in the sum. -/
theorem fma_of_inf (f : Fmt) (rm : Nat) {x y z : Fp} (h : (x.mul y).1.isNan = false) (hz : z.isNan = false) (n : Bool)
    (hin : .inf n ∈ [(x.mul y).1, z]) (hout : .inf (!n) ∉ [(x.mul y).1, z]) : f.fma rm x y z = f.enc rm (.inf n) := by
  have hsum : Fp.sum rm [(x.mul y).1, z] = (.inf n, 0) :=
    (Fp.sumZ_of_no_nan _ (by simp [h, hz])).2 n hin hout
  rw [fma_of_no_nan f rm h hz, hsum, rnd_no_flags]

theorem fma_of_opposite_inf (f : Fmt) (rm : Nat) {x y : Fp} {n : Bool} (h : (x.mul y).1 = .inf n) :
    f.fma rm x y (.inf (!n)) = (f.nanBits, 1) := by
  have hnan : ∀ w ∈ [(x.mul y).1, Fp.inf (!n)], w.isNan = false := by simp [h, Fp.isNan]
  have hsum : Fp.sum rm [(x.mul y).1, .inf (!n)] = (.nan false, 1) :=
    (Fp.sumZ_of_no_nan _ hnan).1 (by rw [h]; cases n <;> simp) (by rw [h]; cases n <;> simp)
  rw [fma_of_no_nan f rm (by rw [h]; rfl) rfl, hsum, rnd_nan]

/-- Finite values: the exact x × y + z, rounded once. -/
theorem fma_of_finite (f : Fmt) (rm : Nat) {x y z : Fp} (hx : x.Finite) (hy : y.Finite) (hz : z.Finite) :
    ∃ w : Fp, w.Finite ∧ w.val = x.val * y.val + z.val ∧ f.fma rm x y z = f.enc rm w := by
  obtain ⟨n, m, e, rfl⟩ := hx
  obtain ⟨n', m', e', rfl⟩ := hy
  have hl : ∀ w ∈ [((Fp.fin n m e).mul (.fin n' m' e')).1, z], w.Finite := by
    simp only [List.forall_mem_cons, List.not_mem_nil, false_imp_iff, implies_true, and_true]
    exact ⟨⟨_, _, _, rfl⟩, hz⟩
  obtain ⟨hflags, hfin, hval, -⟩ := Fp.sumZ_exact (zeroSign rm _) hl
  refine ⟨_, hfin, ?_, ?_⟩
  · rw [hval, Fp.mul_fin, List.map_cons, Fp.val_mul_fin]
    simp
  · rw [fma_of_no_nan f rm rfl (Fp.isNan_of_finite hz), ← rnd_no_flags, ← hflags]
    rfl

end Fmt

/-! ## The statement -/

/-- Settles O22: a sum in units of a power of two below every exponent, a product of magnitudes, a fused multiply-add as a sum with
a product, and the smaller and the larger by the place of a value in the order. -/
theorem sumsAndProductsAreExact : Obligations.SumsAndProductsAreExact := by
  refine ⟨⟨fun rm l hl => ?sum, fun x y hx hy => ?product, fun rm l h => ?sumNan, fun rm l h ht hf => ?sumInvalid,
    fun rm l n h hin hout => (Fp.sumZ_of_no_nan _ h).2 n hin hout, fun x y h => ?productNan, fun n n' m e => ?productInf,
    fun n n' e => ⟨rfl, rfl⟩⟩, fun fm rm x y z hx hy hz => fm.fma_of_finite rm hx hy hz, fun fm rm n n' e z => ?fmaInvalid,
    fun fm rm x y z => ?fma, fun x y hx hy => ?pickFinite, fun mx x y hx hy => Fp.pick_extreme mx hx hy, Fp.pick_nan_nan,
    fun mx x sig hx => ⟨Fp.pick_nan_right mx sig hx, Fp.pick_nan_left mx sig hx⟩⟩
  case sum =>
    obtain ⟨hflags, hfin, hval, -⟩ := Fp.sumZ_exact (zeroSign rm l) hl
    exact ⟨hflags, hfin, hval⟩
  case product =>
    obtain ⟨n, m, e, rfl⟩ := hx
    obtain ⟨n', m', e', rfl⟩ := hy
    exact ⟨rfl, ⟨_, _, _, rfl⟩, Fp.val_mul_fin ..⟩
  case sumNan =>
    rw [Fp.sum, Fp.sumZ_of_nan _ h, Fp.sigFlag_eq]
    refine ⟨rfl, ?_⟩
    simp only [exists_eq_right]
    split <;> simp [*]
  case sumInvalid => exact (Fp.sumZ_of_no_nan _ h).1 ht hf
  case productNan =>
    rw [Fp.mul_of_nan h, Fp.sigFlag_eq]
    simp [eq_comm]
  case productInf => exact ⟨rfl, fun hm => ⟨by rw [Fp.mul_inf_fin, if_neg hm], by rw [Fp.mul_fin_inf, if_neg hm]⟩⟩
  case fmaInvalid => exact ⟨fm.fma_of_invalid rm z rfl, fm.fma_of_invalid rm z rfl⟩
  case fma =>
    refine ⟨fm.fma_of_nan_factor rm z, ?_, fun n h => ⟨fun hz => ?_, ?_⟩, ?_⟩
    · rintro sig h rfl
      exact fm.fma_of_nan_addend rm sig h
    · have hznan : z.isNan = false := by
        rcases hz with hz | rfl
        · exact Fp.isNan_of_finite hz
        · rfl
      have hout : .inf (!n) ≠ z := by
        rcases hz with ⟨_, _, _, rfl⟩ | rfl
        · nofun
        · cases n <;> decide
      exact fm.fma_of_inf rm (by rw [h]; rfl) hznan n (by simp [h]) (by simp [h, hout])
    · rintro rfl
      exact fm.fma_of_opposite_inf rm h
    · rintro n ⟨nx, mx, ex, rfl⟩ ⟨ny, my, ey, rfl⟩ rfl
      exact fm.fma_of_inf rm rfl rfl n (by simp) (by simp [Fp.mul_fin])
  case pickFinite =>
    have hx' := Fp.isNan_of_finite hx
    have hy' := Fp.isNan_of_finite hy
    exact ⟨(Fp.pick_extreme false hx' hy').1, Fp.val_pick false hx hy, (Fp.pick_extreme true hx' hy').1, Fp.val_pick true hx hy⟩

end Sys2Proof.Machine
end

section
/-! Rounding of values by their magnitude (07 R154, R156): values that a format holds, values far beyond its range or below it, and
when a value is tiny. -/

namespace Sys2Proof.Machine
namespace Fmt
variable {f : Fmt}

/-! ## What a finite code decodes to (07 R145) -/

/-- A code that decodes to a finite value is the sign and a magnitude of it. -/
theorem code_of_dec_fin (hf : f ≠ .l6) {x : Nat} (hx : x < 2 ^ f.width) {neg : Bool} {m : Nat} {e : Int}
    (h : f.dec x = .fin neg m e) : ∃ c ≤ f.maxBits, x = f.sgn neg + c ∧ m = f.codeSig c ∧ e = f.codeExp c := by
  obtain ⟨s, c, hc, rfl⟩ := (finiteCode_iff hf).mp ⟨hx, h ▸ ⟨_, _, _, rfl⟩⟩
  rw [dec_of_le_maxBits hf s (hc.trans_lt (maxBits_lt hf)) hc] at h
  obtain ⟨rfl, hm, he⟩ := Fp.fin.inj h
  exact ⟨c, hc, rfl, hm.symm, he.symm⟩

theorem codeSig_lt (f : Fmt) (c : Nat) : f.codeSig c < 2 ^ (f.fb + 1) := by
  have hmod := Nat.mod_lt c (Nat.two_pow_pos f.fb)
  rw [Nat.pow_succ]
  unfold codeSig
  split <;> omega

theorem le_codeExp (f : Fmt) (c : Nat) : 1 - f.bias - f.fb ≤ f.codeExp c := by
  unfold codeExp
  omega

theorem codeExp_lt (hf : f ≠ .l6) {c : Nat} (hc : c ≤ f.maxBits) : f.codeExp c < 2 ^ f.eb - f.bias - f.fb := by
  have hE : c / 2 ^ f.fb < 2 ^ f.eb := (Nat.div_lt_iff_lt_mul (Nat.two_pow_pos _)).mpr
    (by rw [← Nat.pow_add]; exact hc.trans_lt (maxBits_lt hf))
  have heb : 1 < 2 ^ f.eb := by revert hf; cases f <;> decide
  have hcast : ((2 ^ f.eb : Nat) : Int) = 2 ^ f.eb := by push_cast; rfl
  unfold codeExp
  omega

/-- Only magnitude 0 stands for 0. -/
theorem codeSig_eq_zero {c : Nat} : f.codeSig c = 0 ↔ c = 0 := by
  rw [← magOf_eq_zero (e := f.codeExp c)]
  exact ⟨fun h => f.mag_strictMono.injective (h.trans f.mag_zero.symm), fun h => h ▸ f.mag_zero⟩

/-! ## Values that a format holds -/

/-- A value whose magnitude a format holds converts to its code, without a flag (07 R156). -/
theorem enc_of_mag (hf : f ≠ .l6) {rm : Nat} (hrm : rm < 4) (neg : Bool) {m : Nat} {e : Int} {c : Nat} (hc : c ≤ f.maxBits)
    (hval : f.mag c = magOf m e) : f.enc rm (.fin neg m e) = (f.sgn neg + c, 0) := by
  rcases Nat.eq_zero_or_pos m with rfl | hm
  · have hc0 : c = 0 := f.mag_strictMono.injective (by rw [hval, magOf_zero, mag_zero])
    rw [hc0]
    exact enc_zero hf rm neg e
  · obtain ⟨c', hround, henc⟩ := enc_spec hf hrm neg hm e
    obtain rfl := hround.unique f.mag_strictMono (.of_eq f.mag_strictMono hval)
    rw [henc, if_neg (not_lt.mpr hc), if_pos hval]

theorem enc_inf (hf : f ≠ .l6) (hinf : f.hasInf = true) (rm : Nat) (neg : Bool) :
    f.enc rm (.inf neg) = (f.sgn neg + (f.maxBits + 1), 0) := by
  rw [maxBits_of_hasInf hinf]
  simp only [enc, if_neg hf, hinf, if_true]

/-! ## Values far beyond the range, and far below it (07 R156) -/

/-- A value that reaches the step beyond the largest finite one overflows in every mode. -/
theorem enc_of_beyond (hf : f ≠ .l6) {rm : Nat} (hrm : rm < 4) (neg : Bool) {m : Nat} {e : Int}
    (h : f.mag (f.maxBits + 1) ≤ magOf m e) :
    f.enc rm (.fin neg m e) = (f.sgn neg + (if f.toInf rm neg then f.maxBits + 1 else f.maxBits), 20) := by
  have hpos : 0 < magOf m e := (f.mag_zero ▸ f.mag_strictMono (Nat.succ_pos f.maxBits)).trans_le h
  have hm : 0 < m := Nat.pos_of_ne_zero fun h0 => hpos.ne' (magOf_eq_zero.mpr h0)
  obtain ⟨c, ⟨d, -, hhi, hc, -⟩, henc⟩ := enc_spec hf hrm neg hm e
  have hd : f.maxBits + 1 < d + 1 := f.mag_strictMono.lt_iff_lt.mp (h.trans_lt hhi)
  rw [henc, if_pos (by omega)]

/-- The rounded number of last places, where a value keeps all its bits. -/
theorem roundTo_top {rm : Nat} (hrm : rm < 4) (neg : Bool) {m : Nat} (hm : 0 < m) (e : Int) (f : Fmt) :
    2 ^ f.fb ≤ (roundTo rm neg m e (top m e - (f.fb + 1))).1 ∧
      (roundTo rm neg m e (top m e - (f.fb + 1))).1 ≤ 2 ^ (f.fb + 1) := by
  obtain ⟨⟨d, hlo, hhi, hr, -⟩, -⟩ := roundTo_spec hrm neg m e (top m e - (f.fb + 1))
  obtain ⟨hbelow, habove⟩ := two_zpow_top hm e
  have hmoved : magOf m (e - (top m e - (f.fb + 1))) = magOf m e * 2 ^ (-(top m e - (f.fb + 1))) := (magOf_mul_zpow ..).symm
  have hpow (k : Int) (n : Nat) (h : k + -(top m e - (f.fb + 1)) = n) :
      (2 : Rat) ^ k * 2 ^ (-(top m e - (f.fb + 1))) = (2 ^ n : Nat) := by
    rw [← zpow_add₀ two_ne_zero, h, zpow_natCast, Nat.cast_pow, Nat.cast_ofNat]
  have hu : (0 : Rat) < 2 ^ (-(top m e - (f.fb + 1))) := zpow_pos two_pos _
  have hle : ((2 ^ f.fb : Nat) : Rat) ≤ magOf m (e - (top m e - (f.fb + 1))) := by
    rw [hmoved, ← hpow (top m e - 1) f.fb (by ring)]
    exact mul_le_mul_of_nonneg_right hbelow hu.le
  have hlt : magOf m (e - (top m e - (f.fb + 1))) < (2 ^ (f.fb + 1) : Nat) := by
    rw [hmoved, ← hpow (top m e) (f.fb + 1) (by push_cast; ring)]
    exact mul_lt_mul_of_pos_right habove hu
  have hd : 2 ^ f.fb < d + 1 := Nat.cast_lt.mp (hle.trans_lt hhi)
  have hd' : d < 2 ^ (f.fb + 1) := Nat.cast_lt.mp (hlo.trans_lt hlt)
  omega

/-- A value below the binade of the smallest normal number is tiny, one in or above it is not. -/
theorem tiny_of_lt {rm : Nat} (hrm : rm < 4) (neg : Bool) {m : Nat} (hm : 0 < m) {e : Int} (h : top m e < 1 - f.bias) :
    f.tiny rm neg m e := by
  obtain ⟨-, hle⟩ := roundTo_top hrm neg hm e f
  refine cmpMag_eq_lt.mpr ?_
  calc magOf (roundTo rm neg m e (top m e - (f.fb + 1))).1 (top m e - (f.fb + 1))
      ≤ magOf (2 ^ (f.fb + 1)) (top m e - (f.fb + 1)) :=
        mul_le_mul_of_nonneg_right (Nat.cast_le.mpr hle) (zpow_pos two_pos _).le
    _ = 2 ^ top m e := by
        rw [magOf, Nat.cast_pow, Nat.cast_ofNat, ← zpow_natCast, ← zpow_add₀ two_ne_zero]
        congr 1; push_cast; ring
    _ < 2 ^ (1 - f.bias) := zpow_lt_zpow_right₀ one_lt_two h
    _ = magOf 1 (1 - f.bias) := by rw [magOf, Nat.cast_one, one_mul]

theorem not_tiny_of_ge {rm : Nat} (hrm : rm < 4) (neg : Bool) {m : Nat} (hm : 0 < m) {e : Int} (h : 1 - f.bias < top m e) :
    ¬ f.tiny rm neg m e := by
  obtain ⟨hle, -⟩ := roundTo_top hrm neg hm e f
  refine fun htiny => not_lt.mpr ?_ (cmpMag_eq_lt.mp htiny)
  calc magOf 1 (1 - f.bias) = 2 ^ (1 - f.bias) := by rw [magOf, Nat.cast_one, one_mul]
    _ ≤ 2 ^ (top m e - 1) := zpow_le_zpow_right₀ one_le_two (by omega)
    _ = magOf (2 ^ f.fb) (top m e - (f.fb + 1)) := by
        rw [magOf, Nat.cast_pow, Nat.cast_ofNat, ← zpow_natCast, ← zpow_add₀ two_ne_zero]
        congr 1; ring
    _ ≤ magOf (roundTo rm neg m e (top m e - (f.fb + 1))).1 (top m e - (f.fb + 1)) :=
        mul_le_mul_of_nonneg_right (Nat.cast_le.mpr hle) (zpow_pos two_pos _).le

theorem mag_one (hf : f ≠ .l6) : f.mag 1 = 2 ^ (1 - f.bias - f.fb) := by
  have hone : 1 < 2 ^ f.fb := Nat.one_lt_two_pow (fb_pos hf).ne'
  rw [mag, codeSig, if_pos hone, codeExp, Nat.div_eq_of_lt hone, magOf, Nat.cast_one, one_mul]
  rfl

/-- A nonzero value less than half the smallest one is rounded to 0, or in a mode away from zero to the smallest one, with UF and
NX: its magnitude makes no difference. -/
theorem enc_of_minute (hf : f ≠ .l6) {rm : Nat} (hrm : rm < 4) (neg : Bool) {m m' : Nat} (hm : 0 < m) (hm' : 0 < m') {e e' : Int}
    (h : 2 * magOf m e < f.mag 1) (h' : 2 * magOf m' e' < f.mag 1) : f.enc rm (.fin neg m e) = f.enc rm (.fin neg m' e') := by
  have hone : 1 ≤ f.maxBits := by revert hf; cases f <;> decide
  have hcode {n : Nat} {k : Int} (hn : 0 < n) (hlt : 2 * magOf n k < f.mag 1) :
      ∃ c ≤ 1, (c = 1 ↔ Away rm neg) ∧ f.enc rm (.fin neg n k) = (f.sgn neg + c, 24) := by
    have hpos := magOf_pos hn k
    obtain ⟨c, ⟨d, hlo, hhi, hc, hup⟩, henc⟩ := enc_spec hf hrm neg hn k
    obtain rfl : d = 0 := place_unique f.mag_strictMono hlo hhi (by rw [mag_zero]; exact hpos.le) (by linarith)
    have hc1 : c ≤ 1 := by omega
    have hup' : c = 1 ↔ Away rm neg := by
      rw [Nat.zero_add] at hup
      rw [hup, RoundsUp, mag_zero, and_iff_left hpos, or_iff_right]
      rintro ⟨-, h | ⟨h, -⟩⟩ <;> linarith
    have hinexact : f.mag c ≠ magOf n k := by
      rcases hc with rfl | rfl
      · rw [mag_zero]; exact hpos.ne
      · exact hhi.ne'
    have htop : top n k < 1 - f.bias := by
      have hlt' := (two_zpow_top hn k).1.trans_lt ((by linarith : magOf n k < f.mag 1).trans_eq (mag_one hf))
      have hexp := (zpow_lt_zpow_iff_right₀ (one_lt_two (α := Rat))).mp hlt'
      have hfb := fb_pos hf
      omega
    refine ⟨c, hc1, hup', ?_⟩
    rw [henc, if_neg (not_lt.mpr (hc1.trans hone)), if_neg hinexact, if_pos (tiny_of_lt hrm neg hn htop)]
  obtain ⟨c, hc, haway, henc⟩ := hcode hm h
  obtain ⟨c', hc', haway', henc'⟩ := hcode hm' h'
  have hsame : c = 1 ↔ c' = 1 := haway.trans haway'.symm
  obtain rfl : c = c' := by omega
  rw [henc, henc']

end Fmt
end Sys2Proof.Machine
end

section
/-! O23, the ops on every element (08 R173, R176 to R182, 07 R165): what each element function gives for a code. -/

namespace Sys2Proof.Machine

/-! ## The formats of a vector type (08 R173) -/

theorem fltBits_fills (t : BitVec 2) : fltBits t * (32 / fltBits t) = 32 := by unfold fltBits; split <;> rfl

theorem tyFmt_cases (t : BitVec 2) : tyFmt t = .f32 ∨ tyFmt t = .bf16 ∨ tyFmt t = .f16 := by
  unfold tyFmt
  split_ifs <;> simp

theorem tyFmt_ne_l6 (t : BitVec 2) : tyFmt t ≠ .l6 := by rcases tyFmt_cases t with h | h | h <;> rw [h] <;> decide

theorem tyFmt_hasInf (t : BitVec 2) : (tyFmt t).hasInf = true := by rcases tyFmt_cases t with h | h | h <;> rw [h] <;> rfl

theorem tyFmt_width (t : BitVec 2) : (tyFmt t).width = fltBits t := by
  unfold tyFmt fltBits
  split_ifs <;> rfl

/-- The bits below the sign of an element. -/
theorem tyFmt_fields (t : BitVec 2) : (tyFmt t).eb + (tyFmt t).fb = fltBits t - 1 := by
  rw [← tyFmt_width, Fmt.width_eq (tyFmt_ne_l6 t), Nat.add_sub_cancel]

theorem tyFmt_sgn (t : BitVec 2) (neg : Bool) : (tyFmt t).sgn neg = if neg then 2 ^ (fltBits t - 1) else 0 := by
  rw [Fmt.sgn, tyFmt_width]

/-- Every magnitude that the three formats have, and its exponent, are small. -/
theorem tyFmt_bounds (t : BitVec 2) {c : Nat} (hc : c ≤ (tyFmt t).maxBits) :
    (tyFmt t).codeSig c < 2 ^ 24 ∧ -149 ≤ (tyFmt t).codeExp c ∧ (tyFmt t).codeExp c < 256 := by
  have hsig := (tyFmt t).codeSig_lt c
  have hexp := (tyFmt t).le_codeExp c
  have hexp' := Fmt.codeExp_lt (tyFmt_ne_l6 t) hc
  rcases tyFmt_cases t with h | h | h <;> rw [h] at hsig hexp hexp' ⊢ <;> simp only [Fmt.fb, Fmt.bias, Fmt.eb] at hsig hexp hexp' <;>
    omega

/-! ## Ops of one and of two sources -/

section ops
variable {i : Instr} {f : VR} {s : State} {lat unit : Nat}

/-- An op of two sources gives each element what its function makes of those of a, b and vd. -/
theorem floatResult_of_vfop {g : FloatFn} {h : Lanes → Lanes → Nat → Nat → Nat × Nat} (hunit : kFlagUnit s.cur.kind = unit)
    (hexec : exec i s = vfop f lat g s)
    (hg : ∀ a b i j, g (tyFmt f.t) s.rmode ((tyFmt f.t).dec (elem (fltBits f.t) (a.at i) j))
      ((tyFmt f.t).dec (elem (fltBits f.t) (b.at i) j)) ((tyFmt f.t).dec (elem (fltBits f.t) ((s.oldD f).at i) j)) = h a b i j) :
    FloatResult i s f true lat unit (fltBits f.t) (s.active f) h :=
  floatResult_of_landFl (fltBits_fills f.t) hunit hexec fun _ _ _ _ => hg _ _ _ _

/-- An op of one source. -/
theorem floatResult_of_vfop1 {g : Fmt → Nat → Nat → Nat × Nat} (hunit : kFlagUnit s.cur.kind = unit)
    (hexec : exec i s = vfop1 f lat g s) :
    FloatResult i s f false lat unit (fltBits f.t) (s.active f)
      (fun a _ i j => g (tyFmt f.t) s.rmode (elem (fltBits f.t) (a.at i) j)) :=
  floatResult_of_landFl (fltBits_fills f.t) hunit hexec fun _ _ _ _ => rfl

end ops

/-! ## Signs (08 R179) -/

namespace Fmt

theorem keep_of_nan {f : Fmt} {x : Nat} {sig : Bool} (h : f.dec x = .nan sig) (y : Nat) : f.keep x y = (f.nanBits, sig.toNat) := by
  rw [keep, h]
  cases sig <;> rfl

theorem keep_of_no_nan {f : Fmt} {x : Nat} (h : (f.dec x).isNan = false) (y : Nat) : f.keep x y = (y, 0) := by
  unfold keep
  split
  next sig hsig =>
    rw [hsig] at h
    exact absurd h Bool.noConfusion
  next => rfl

end Fmt

/-- Inverting the top bit of n. -/
theorem flip_top_bit {n x : Nat} (hn : 0 < n) (hx : x < 2 ^ n) :
    (x + 2 ^ (n - 1)) % 2 ^ n = if x < 2 ^ (n - 1) then x + 2 ^ (n - 1) else x - 2 ^ (n - 1) := by
  have hdouble := two_pow_eq_double hn
  split
  next h => exact Nat.mod_eq_of_lt (by omega)
  next h => rw [Nat.mod_eq_sub_mod (by omega), Nat.mod_eq_of_lt (by omega)]; omega

/-! ## Compares (08 R180) -/

theorem fcmpBits_of_nan {x y : Fp} (h : x.isNan = true ∨ y.isNan = true) : fcmpBits x y = 8 := by
  rw [fcmpBits, if_pos (by simpa using h)]

/-- The condition code of two values that are no NaNs. -/
theorem fcmpBits_of_no_nan {x y : Fp} (hx : x.isNan = false) (hy : y.isNan = false) :
    (x.Less y → fcmpBits x y = 18) ∧ (y.Less x → fcmpBits x y = 36) ∧ (¬ x.Less y → ¬ y.Less x → fcmpBits x y = 49) := by
  obtain ⟨hlt, hgt⟩ := Fp.cmp_iff hx hy
  have hbits : fcmpBits x y = match x.cmp y with | .eq => 49 | .lt => 18 | .gt => 36 := by
    rw [fcmpBits, hx, hy]
    rfl
  rw [hbits]
  exact ⟨fun h => by rw [hlt.mpr h], fun h => by rw [hgt.mpr h], fun h h' => by rw [Fp.cmp_eq_of_not_less hx hy h h']⟩

/-! ## Classes (08 R181) -/

theorem fclass_of_nan {fm : Fmt} {x : Nat} {sig : Bool} (h : fm.dec x = .nan sig) : fclass fm x = if sig then 2 ^ 8 else 2 ^ 9 := by
  rw [fclass, h]
  rfl
theorem fclass_of_inf {fm : Fmt} {x : Nat} {neg : Bool} (h : fm.dec x = .inf neg) : fclass fm x = if neg then 2 ^ 0 else 2 ^ 7 := by
  rw [fclass, h]
  rfl

/-- The class of a number with a sign and a magnitude c: zero, below the normal ones, or among them. -/
theorem fclass_of_finite {f : Fmt} (hf : f ≠ .l6) (neg : Bool) {c : Nat} (hc : c ≤ f.maxBits) : fclass f (f.sgn neg + c) =
    2 ^ (match neg with
      | true => if c = 0 then 3 else if c < 2 ^ f.fb then 2 else 1
      | false => if c = 0 then 4 else if c < 2 ^ f.fb then 5 else 6) := by
  have hlt : f.codeSig c < 2 ^ f.fb ↔ c < 2 ^ f.fb := by
    unfold Fmt.codeSig
    split <;> omega
  rw [fclass, Fmt.dec_of_le_maxBits hf neg (hc.trans_lt (Fmt.maxBits_lt hf)) hc]
  simp only [Fmt.codeSig_eq_zero, hlt]
  cases neg <;> simp only [Bool.false_eq_true, if_false, if_true] <;> split_ifs <;> rfl

/-! ## Scaling (08 R182) -/

/-- The step beyond the largest value of a vector type is no more than 2^128. -/
theorem tyFmt_beyond (t : BitVec 2) : (tyFmt t).mag ((tyFmt t).maxBits + 1) ≤ 2 ^ (128 : Int) := by
  have hmag (f : Fmt) (m : Nat) (e : Int) (hm : f.codeSig (f.maxBits + 1) = m) (he : f.codeExp (f.maxBits + 1) = e) :
      f.mag (f.maxBits + 1) = magOf m e := by rw [Fmt.mag, hm, he]
  rcases tyFmt_cases t with h | h | h <;> rw [h]
  · rw [hmag .f32 (2 ^ 23) 105 (by decide) (by decide), magOf]
    norm_num
  · rw [hmag .bf16 (2 ^ 7) 121 (by decide) (by decide), magOf]
    norm_num
  · rw [hmag .f16 (2 ^ 10) 6 (by decide) (by decide), magOf]
    norm_num

theorem tyFmt_minute (t : BitVec 2) : (2 : Rat) ^ (-149 : Int) ≤ (tyFmt t).mag 1 := by
  rw [Fmt.mag_one (tyFmt_ne_l6 t)]
  refine zpow_le_zpow_right₀ one_le_two ?_
  rcases tyFmt_cases t with h | h | h <;> rw [h] <;> decide

/-- A value of a vector type moved by more than 2000 places is beyond the range, or minute. -/
theorem magOf_moved_up (t : BitVec 2) {c : Nat} (hc : c ≤ (tyFmt t).maxBits) (hpos : 0 < (tyFmt t).codeSig c) {k : Int}
    (hk : 2000 ≤ k) : (tyFmt t).mag ((tyFmt t).maxBits + 1) ≤ magOf ((tyFmt t).codeSig c) ((tyFmt t).codeExp c + k) := by
  obtain ⟨-, hexp, -⟩ := tyFmt_bounds t hc
  calc (tyFmt t).mag ((tyFmt t).maxBits + 1) ≤ 2 ^ (128 : Int) := tyFmt_beyond t
    _ ≤ 2 ^ ((tyFmt t).codeExp c + k) := zpow_le_zpow_right₀ one_le_two (by omega)
    _ = (1 : Nat) * 2 ^ ((tyFmt t).codeExp c + k) := by rw [Nat.cast_one, one_mul]
    _ ≤ magOf ((tyFmt t).codeSig c) ((tyFmt t).codeExp c + k) :=
      mul_le_mul_of_nonneg_right (Nat.cast_le.mpr hpos) (zpow_pos two_pos _).le

theorem magOf_moved_down (t : BitVec 2) {c : Nat} (hc : c ≤ (tyFmt t).maxBits) {k : Int} (hk : k ≤ -2000) :
    2 * magOf ((tyFmt t).codeSig c) ((tyFmt t).codeExp c + k) < (tyFmt t).mag 1 := by
  obtain ⟨hsig, -, hexp⟩ := tyFmt_bounds t hc
  have hu : (0 : Rat) < 2 ^ ((tyFmt t).codeExp c + k) := zpow_pos two_pos _
  have hcast : ((2 ^ 24 : Nat) : Rat) = 2 ^ (24 : Int) := by norm_num
  calc 2 * magOf ((tyFmt t).codeSig c) ((tyFmt t).codeExp c + k)
      < 2 * ((2 ^ 24 : Nat) * 2 ^ ((tyFmt t).codeExp c + k)) :=
        mul_lt_mul_of_pos_left (mul_lt_mul_of_pos_right (Nat.cast_lt.mpr hsig) hu) two_pos
    _ = 2 ^ (1 + (24 + ((tyFmt t).codeExp c + k))) := by
        rw [hcast, zpow_add₀ two_ne_zero 1, zpow_one, zpow_add₀ two_ne_zero 24]
    _ ≤ 2 ^ (-149 : Int) := zpow_le_zpow_right₀ one_le_two (by omega)
    _ ≤ (tyFmt t).mag 1 := tyFmt_minute t

/-- The bound that the model sets to a scale changes no result (08 R182). -/
theorem enc_scale (t : BitVec 2) {rm : Nat} (hrm : rm < 4) {x : Nat} (hx : x < 2 ^ (tyFmt t).width) {neg : Bool} {m : Nat} {e : Int}
    (hdec : (tyFmt t).dec x = .fin neg m e) (k : Int) :
    (tyFmt t).enc rm (Fp.scale (.fin neg m e) k) = (tyFmt t).enc rm (.fin neg m (e + k)) := by
  have hf := tyFmt_ne_l6 t
  obtain ⟨c, hc, -, rfl, rfl⟩ := Fmt.code_of_dec_fin hf hx hdec
  rcases Nat.eq_zero_or_pos ((tyFmt t).codeSig c) with h0 | hpos
  · rw [Fp.scale, h0, Fmt.enc_zero hf, Fmt.enc_zero hf]
  · rcases Int.lt_or_le 2000 k with hk | hk
    · have hclamp : max (-2000) (min 2000 k) = 2000 := by omega
      rw [Fp.scale, hclamp, Fmt.enc_of_beyond hf hrm neg (magOf_moved_up t hc hpos (by decide)),
        Fmt.enc_of_beyond hf hrm neg (magOf_moved_up t hc hpos hk.le)]
    · rcases Int.lt_or_le k (-2000) with hk' | hk'
      · have hclamp : max (-2000) (min 2000 k) = -2000 := by omega
        rw [Fp.scale, hclamp]
        exact Fmt.enc_of_minute hf hrm neg hpos hpos (magOf_moved_down t hc (by decide)) (magOf_moved_down t hc hk'.le)
      · have hclamp : max (-2000) (min 2000 k) = k := by omega
        rw [Fp.scale, hclamp]

/-! ## Rounding to integral values (07 R165) -/

/-- The integers up to 2^fb are among the values of a vector type. -/
theorem tyFmt_integers (t : BitVec 2) : ((2 ^ (tyFmt t).fb : Nat) : Rat) ≤ (tyFmt t).mag (tyFmt t).maxBits := by
  have hmag (f : Fmt) (m : Nat) (e : Int) (hm : f.codeSig f.maxBits = m) (he : f.codeExp f.maxBits = e) :
      f.mag f.maxBits = magOf m e := by rw [Fmt.mag, hm, he]
  rcases tyFmt_cases t with h | h | h <;> rw [h]
  · rw [hmag .f32 0xFFFFFF 104 (by decide) (by decide), magOf, Fmt.fb]
    norm_num
  · rw [hmag .bf16 0xFF 120 (by decide) (by decide), magOf, Fmt.fb]
    norm_num
  · rw [hmag .f16 0x7FF 5 (by decide) (by decide), magOf, Fmt.fb]
    norm_num

/-- A value of a vector type, rounded to an integer, is a value of it again. -/
theorem exists_mag_of_integral (t : BitVec 2) {rm : Nat} (hrm : rm < 4) (neg : Bool) {c : Nat} (hc : c ≤ (tyFmt t).maxBits) :
    let r := (roundTo rm neg ((tyFmt t).codeSig c) ((tyFmt t).codeExp c) 0).1
    ∃ d ≤ (tyFmt t).maxBits, (tyFmt t).mag d = magOf r 0 := by
  intro r
  have hf := tyFmt_ne_l6 t
  rcases Int.lt_or_le (tyFmt t |>.codeExp c) 0 with hneg | hpos
  · obtain ⟨⟨d, hlo, -, hr, -⟩, -⟩ := roundTo_spec hrm neg ((tyFmt t).codeSig c) ((tyFmt t).codeExp c) 0
    have hsig : magOf ((tyFmt t).codeSig c) ((tyFmt t).codeExp c - 0) < (2 ^ (tyFmt t).fb : Nat) := by
      have hcast : ((2 ^ ((tyFmt t).fb + 1) : Nat) : Rat) * 2 ^ (-1 : Int) = (2 ^ (tyFmt t).fb : Nat) := by
        push_cast
        rw [pow_succ, zpow_neg_one]
        ring
      calc magOf ((tyFmt t).codeSig c) ((tyFmt t).codeExp c - 0)
          ≤ (tyFmt t).codeSig c * 2 ^ (-1 : Int) :=
            mul_le_mul_of_nonneg_left (zpow_le_zpow_right₀ one_le_two (by omega)) (Nat.cast_nonneg _)
        _ < (2 ^ ((tyFmt t).fb + 1) : Nat) * 2 ^ (-1 : Int) :=
            mul_lt_mul_of_pos_right (Nat.cast_lt.mpr ((tyFmt t).codeSig_lt c)) (zpow_pos two_pos _)
        _ = (2 ^ (tyFmt t).fb : Nat) := hcast
    have hd : d < 2 ^ (tyFmt t).fb := Nat.cast_lt.mp (hlo.trans_lt hsig)
    have hle : r ≤ 2 ^ (tyFmt t).fb := by rcases hr with hr | hr <;> exact hr.le.trans (by omega)
    rcases Nat.eq_zero_or_pos r with h0 | hpos
    · exact ⟨0, Nat.zero_le _, by rw [h0, magOf_zero, Fmt.mag_zero]⟩
    · have hbias : 1 - (tyFmt t).bias - (tyFmt t).fb ≤ 0 := by rcases tyFmt_cases t with h | h | h <;> rw [h] <;> decide
      have hmax : magOf r 0 ≤ (tyFmt t).mag (tyFmt t).maxBits := by
        rw [magOf, zpow_zero, mul_one]
        exact (Nat.cast_le.mpr hle).trans (tyFmt_integers t)
      have hbits : r < 2 ^ ((tyFmt t).fb + 1) := by
        have := Nat.two_pow_pos (tyFmt t).fb
        rw [Nat.pow_succ]
        omega
      obtain ⟨d, hd, hval, -⟩ := Fmt.enc_of_fits hf (by decide : 0 < 4) neg hpos hbits hbias hmax
      exact ⟨d, hd, hval⟩
  · refine ⟨c, hc, ?_⟩
    have hr : r = (tyFmt t).codeSig c * 2 ^ ((tyFmt t).codeExp c - 0).toNat := by
      simp only [r, roundTo, if_pos hpos]
    rw [hr, ← magOf_in_units hpos]
    rfl

/-- The code that vfrnd gives (07 R165). -/
def integralCode (f : Fmt) (rm x : Nat) : Nat × Nat :=
  match f.dec x with
  | .fin n m e => ((f.enc 0 (.fin n (roundTo rm n m e 0).1 0)).1, 0)
  | _ => f.keep x x

theorem integralCode_of_nan {f : Fmt} {rm x : Nat} {sig : Bool} (h : f.dec x = .nan sig) :
    integralCode f rm x = (f.nanBits, sig.toNat) := by
  rw [integralCode, h]
  exact Fmt.keep_of_nan h x
theorem integralCode_of_inf {f : Fmt} {rm x : Nat} {neg : Bool} (h : f.dec x = .inf neg) : integralCode f rm x = (x, 0) := by
  rw [integralCode, h]
  exact Fmt.keep_of_no_nan (by rw [h]; rfl) x

/-- A number goes to an integral value of its format, by the mode; a zero keeps its sign. -/
theorem integralCode_of_finite (t : BitVec 2) {rm x : Nat} (hrm : rm < 4) (hx : x < 2 ^ fltBits t) (hfin : ((tyFmt t).dec x).Finite) :
    ∃ u : Int, (integralCode (tyFmt t) rm x).2 = 0 ∧ ((tyFmt t).dec (integralCode (tyFmt t) rm x).1).val = (u : Rat) ∧
      (u = 0 → (integralCode (tyFmt t) rm x).1 = x / 2 ^ (fltBits t - 1) * 2 ^ (fltBits t - 1)) ∧
      IntRounding rm ((tyFmt t).dec x).val u := by
  have hf := tyFmt_ne_l6 t
  obtain ⟨neg, m, e, hdec⟩ := hfin
  obtain ⟨c, hc, hcode, hm, he⟩ := Fmt.code_of_dec_fin hf (tyFmt_width t ▸ hx) hdec
  obtain ⟨d, hd, hval⟩ := exists_mag_of_integral t hrm neg hc
  rw [← hm, ← he] at hval
  obtain ⟨hround, -⟩ := roundTo_spec hrm neg m e 0
  have hint := (Int.sub_zero e ▸ hround).intRounding hrm (magOf_nonneg m e)
  have hresult : integralCode (tyFmt t) rm x = ((tyFmt t).sgn neg + d, 0) := by
    rw [integralCode, hdec]
    simp only [Fmt.enc_of_mag hf (by decide : 0 < 4) neg hd hval]
  refine ⟨signedInt neg (roundTo rm neg m e 0).1, by rw [hresult], ?value, fun hzero => ?zero, ?rounding⟩
  case value => rw [hresult, Fmt.val_dec_sgn_add hf neg hd, hval, magOf, zpow_zero, mul_one, cast_signedInt]
  case zero =>
    have hr : (roundTo rm neg m e 0).1 = 0 := by
      unfold signedInt at hzero
      split at hzero <;> omega
    have hd0 : d = 0 := (tyFmt t).mag_strictMono.injective (by rw [hval, hr, magOf_zero, Fmt.mag_zero])
    have hlt : c < 2 ^ (fltBits t - 1) := by
      rw [← tyFmt_fields]
      exact hc.trans_lt (Fmt.maxBits_lt hf)
    rw [hresult, hd0, hcode, tyFmt_sgn]
    cases neg
    · simp [Nat.div_eq_of_lt hlt]
    · rw [if_pos rfl, Nat.add_div_left _ (Nat.two_pow_pos _), Nat.div_eq_of_lt hlt, Nat.succ_mul, Nat.zero_mul, Nat.zero_add,
        Nat.add_zero]
  case rounding =>
    rw [hdec, Fp.val_fin]
    exact hint

end Sys2Proof.Machine
end

section
/-! O23, the reductions (08 R183), and the statement. -/

namespace Sys2Proof.Machine

/-! ## The largest or smallest of a list (08 R178, R183) -/

namespace Fp

/-- The flags of vfmin and vfmax: NV for a signalling operand. -/
theorem pick_flags (mx : Bool) (x y : Fp) : (pick mx x y).2 = sigFlag [x, y] := by
  unfold pick
  cases x.isNan <;> cases y.isNan <;> rfl

/-- What vfmin or vfmax has made of a list with the flags it has raised: a NaN only of NaNs alone, else the value that no other one
comes before or after. -/
structure Picked (mx : Bool) (l : List Fp) (r : Fp × Nat) : Prop where
  flags : r.2 = if .nan true ∈ l then 1 else 0
  mem : r.1 ∈ l ∨ (r.1 = .nan false ∧ ∀ x ∈ l, x.isNan = true)
  nan : r.1.isNan = true → ∀ x ∈ l, x.isNan = true
  extreme : r.1.isNan = false → ∀ y ∈ l, y.isNan = false → if mx then ¬ r.1.Before y else ¬ y.Before r.1

variable {mx : Bool} {l : List Fp} {r : Fp × Nat}

theorem picked_singleton (mx : Bool) (x : Fp) : Picked mx [x] (x, sigFlag [x]) where
  flags := sigFlag_eq [x]
  mem := .inl List.mem_cons_self
  nan := by simp
  extreme := by
    intro hx y hy _
    obtain rfl := List.mem_singleton.mp hy
    cases mx <;> simpa using not_before_self hx

/-- A signalling NaN that is the result so far is one of the list. -/
theorem Picked.mem_of_signalling (h : Picked mx l r) (hr : r.1 = .nan true) : .nan true ∈ l := by
  rcases h.mem with hmem | ⟨hnan, -⟩
  · exact hr ▸ hmem
  · rw [hr] at hnan
    exact absurd hnan (by decide)

/-- The flags with one more value of the list. -/
theorem Picked.flags_step (h : Picked mx l r) (y : Fp) :
    r.2 ||| (pick mx r.1 y).2 = if .nan true ∈ l ++ [y] then 1 else 0 := by
  rw [pick_flags, h.flags, sigFlag_eq]
  have hr := h.mem_of_signalling
  simp only [List.mem_append, List.mem_cons, List.not_mem_nil, or_false, eq_comm (a := Fp.nan true) (b := r.1)]
  by_cases hl : .nan true ∈ l
  · simp only [hl, if_true, true_or]
    split <;> rfl
  · have hnot : ¬ r.1 = .nan true := mt hr hl
    simp only [hl, hnot, if_false, false_or, Nat.zero_or]

/-- The value with one more of the list, where neither is a NaN. -/
theorem Picked.step_of_no_nan (h : Picked mx l r) {y : Fp} (hr : r.1.isNan = false) (hy : y.isNan = false) :
    Picked mx (l ++ [y]) ((pick mx r.1 y).1, r.2 ||| (pick mx r.1 y).2) := by
  obtain ⟨hone, -, hbeyond⟩ := pick_extreme mx hr hy
  have hmem : r.1 ∈ l := h.mem.resolve_right fun ⟨hnan, _⟩ => by
    rw [hnan] at hr
    exact Bool.noConfusion hr
  have hp : (pick mx r.1 y).1.isNan = false := by rcases hone with h | h <;> rw [h] <;> assumption
  refine ⟨h.flags_step y, .inl ?_, fun hnan => ?_, fun _ w hw hwnan => ?_⟩
  · rcases hone with h | h <;> rw [h] <;> simp [hmem]
  · exact absurd (hp.symm.trans hnan) Bool.noConfusion
  · rcases List.mem_append.mp hw with hw | hw
    · have hfirst := h.extreme hr w hw hwnan
      cases mx
      case false => exact Before.trans_not hp hr hwnan hbeyond.1 hfirst
      case true => exact Before.trans_not hwnan hr hp hfirst hbeyond.1
    · obtain rfl := List.mem_singleton.mp hw
      cases mx
      case false => exact hbeyond.2
      case true => exact hbeyond.2

/-- One more value of the list. -/
theorem Picked.step (h : Picked mx l r) (y : Fp) : Picked mx (l ++ [y]) ((pick mx r.1 y).1, r.2 ||| (pick mx r.1 y).2) := by
  have hflags := h.flags_step y
  match hr : r.1.isNan, hy : y.isNan with
  | false, false => exact h.step_of_no_nan hr hy
  | true, true =>
    obtain ⟨a, ha⟩ := isNan_iff.mp hr
    obtain ⟨b, rfl⟩ := isNan_iff.mp hy
    have hpick : (pick mx r.1 (.nan b)).1 = .nan false := by rw [ha, pick_nan_nan]
    have hall : ∀ x ∈ l ++ [.nan b], x.isNan = true := by
      intro x hx
      rcases List.mem_append.mp hx with hx | hx
      · exact h.nan hr x hx
      · rw [List.mem_singleton.mp hx, isNan]
    exact ⟨hflags, .inr ⟨hpick, hall⟩, fun _ => hall, fun hnan => by rw [hpick] at hnan; exact Bool.noConfusion hnan⟩
  | true, false =>
    obtain ⟨a, ha⟩ := isNan_iff.mp hr
    have hpick : (pick mx r.1 y).1 = y := by rw [ha, pick_nan_left mx a hy]
    rw [hpick]
    refine ⟨hflags, .inl (by simp), fun hnan => absurd (hy.symm.trans hnan) Bool.noConfusion, fun _ w hw hwnan => ?_⟩
    rcases List.mem_append.mp hw with hw | hw
    · exact absurd (hwnan.symm.trans (h.nan hr w hw)) Bool.noConfusion
    · obtain rfl := List.mem_singleton.mp hw
      cases mx <;> exact not_before_self hy
  | false, true =>
    obtain ⟨b, rfl⟩ := isNan_iff.mp hy
    have hpick : (pick mx r.1 (.nan b)).1 = r.1 := by rw [pick_nan_right mx b hr]
    have hmem : r.1 ∈ l := h.mem.resolve_right fun ⟨hnan, _⟩ => by
      rw [hnan] at hr
      exact Bool.noConfusion hr
    rw [hpick]
    refine ⟨hflags, .inl (List.mem_append_left _ hmem), fun hnan => absurd (hr.symm.trans hnan) Bool.noConfusion,
      fun hnan w hw hwnan => ?_⟩
    rcases List.mem_append.mp hw with hw | hw
    · exact h.extreme hnan w hw hwnan
    · rw [List.mem_singleton.mp hw, isNan] at hwnan
      exact Bool.noConfusion hwnan

theorem picked_foldl (mx : Bool) (xs : List Fp) (h : Picked mx l r) :
    Picked mx (l ++ xs) (xs.foldl (fun a y => let p := pick mx a.1 y; (p.1, a.2 ||| p.2)) r) := by
  induction xs generalizing l r with
  | nil => simpa using h
  | cons x xs ih =>
    rw [List.foldl_cons, List.append_cons]
    exact ih (h.step x)

end Fp

/-- A value that is no NaN converts back to a code that stands for it. -/
theorem Fmt.enc_of_dec {f : Fmt} (hf : f ≠ .l6) (hinf : f.hasInf = true) {x : Nat} (hx : x < 2 ^ f.width)
    (hnan : (f.dec x).isNan = false) : ∃ c, f.enc 0 (f.dec x) = (c, 0) ∧ f.dec c = f.dec x := by
  match hdec : f.dec x with
  | .nan sig =>
    rw [hdec] at hnan
    exact absurd hnan Bool.noConfusion
  | .inf neg => exact ⟨_, Fmt.enc_inf hf hinf 0 neg, Fmt.dec_maxBits_add_one hf hinf neg⟩
  | .fin neg m e =>
    refine ⟨x, ?_, hdec⟩
    rw [← hdec]
    exact Fmt.enc_dec hf (by decide) ⟨hx, hdec ▸ ⟨_, _, _, rfl⟩⟩

/-- vrmax and vrmin of values that codes stand for (08 R183): NV when one is signalling, the default NaN of NaNs alone, else the
code of the value that no other one comes after or before. -/
theorem pickAll_spec {f : Fmt} (hf : f ≠ .l6) (hinf : f.hasInf = true) (mx : Bool) {l : List Fp} (hl : l ≠ [])
    (hcodes : ∀ x ∈ l, ∃ c < 2 ^ f.width, x = f.dec c) :
    (pickAll mx f l).2 = (if .nan true ∈ l then 1 else 0) ∧
    ((∀ x ∈ l, x.isNan = true) → (pickAll mx f l).1 = f.nanBits) ∧
    ((∃ x ∈ l, x.isNan = false) → f.dec (pickAll mx f l).1 ∈ l ∧ (f.dec (pickAll mx f l).1).isNan = false ∧
      ∀ y ∈ l, y.isNan = false →
        if mx then ¬ (f.dec (pickAll mx f l).1).Before y else ¬ y.Before (f.dec (pickAll mx f l).1)) := by
  obtain ⟨r, hr, hpicked⟩ : ∃ r, pickAll mx f l = f.rnd 0 r ∧ Fp.Picked mx l r := by
    cases l with
    | nil => contradiction
    | cons x xs => exact ⟨_, rfl, Fp.picked_foldl mx xs (Fp.picked_singleton mx x)⟩
  rw [hr, Fmt.rnd]
  match hnan : r.1.isNan with
  | true =>
    have hall := hpicked.nan hnan
    obtain ⟨sig, hsig⟩ := Fp.isNan_iff.mp hnan
    have hsame : sig.toNat ||| r.2 = r.2 := by
      cases sig
      case false => exact Nat.zero_or _
      case true => rw [hpicked.flags, if_pos (hpicked.mem_of_signalling hsig)]; rfl
    rw [hsig, Fmt.enc_nan]
    refine ⟨hsame.trans hpicked.flags, fun _ => rfl, ?_⟩
    rintro ⟨x, hx, hno⟩
    exact absurd (hno.symm.trans (hall x hx)) Bool.noConfusion
  | false =>
    have hmem : r.1 ∈ l := hpicked.mem.resolve_right fun ⟨h, _⟩ => by
      rw [h] at hnan
      exact Bool.noConfusion hnan
    obtain ⟨c, hc, hdec⟩ := hcodes _ hmem
    obtain ⟨c', henc, hback⟩ := Fmt.enc_of_dec hf hinf hc (hdec ▸ hnan)
    rw [← hdec] at henc hback
    rw [henc, hback]
    refine ⟨(Nat.zero_or _).trans hpicked.flags, fun h => ?_, fun _ => ⟨hmem, hnan, hpicked.extreme hnan⟩⟩
    exact absurd (hnan.symm.trans (h _ hmem)) Bool.noConfusion

/-! ## The reduction ops (08 R183) -/

/-- What a reduction takes together: element j of the active lanes of a, and of lane 0 of b. -/
def reduceTerms (f : VR) (m : BitVec 16) (a b : Lanes) (j : Nat) : List Fp :=
  ((List.range 16).filter fun i => m.getLsbD i).map (fun i => (tyFmt f.t).dec (elem (fltBits f.t) (a.at i) j)) ++
    [(tyFmt f.t).dec (elem (fltBits f.t) (b.at 0) j)]

theorem reduceTerms_ne_nil (f : VR) (m : BitVec 16) (a b : Lanes) (j : Nat) : reduceTerms f m a b j ≠ [] := by simp [reduceTerms]

theorem reduceTerms_codes (f : VR) (m : BitVec 16) (a b : Lanes) (j : Nat) :
    ∀ x ∈ reduceTerms f m a b j, ∃ c < 2 ^ (tyFmt f.t).width, x = (tyFmt f.t).dec c := by
  intro x hx
  rw [tyFmt_width]
  rcases List.mem_append.mp hx with hx | hx
  · obtain ⟨i, -, rfl⟩ := List.mem_map.mp hx
    exact ⟨_, elem_lt .., rfl⟩
  · exact ⟨_, elem_lt .., List.mem_singleton.mp hx⟩

section reduce
variable {i : Instr} {f : VR} {s : State} {g : Fmt → Nat → List Fp → Nat × Nat} (hexec : exec i s = vreduce f g s)
include hexec

/-- With an active lane every one of them gets what the terms give. -/
theorem floatResult_of_vreduce {unit : Nat} (hunit : kFlagUnit s.cur.kind = unit) (hm : s.active f ≠ 0#16) :
    FloatResult i s f true 4 unit (fltBits f.t) (s.active f)
      (fun a b _ j => g (tyFmt f.t) s.rmode (reduceTerms f (s.active f) a b j)) := by
  refine floatResult_of_landFl (fltBits_fills f.t) hunit ?_ fun _ _ _ _ => rfl
  rw [hexec, vreduce]
  simp only [if_neg hm]
  rfl

/-- Without one nothing but a chunk of zeros in a stream is left. -/
theorem exec_vreduce_of_no_lane (hm : s.active f = 0#16) :
    exec i s = .next ((s.srcAB s.cur.kind f).1.landNone s.cur.kind f 4) := by
  rw [hexec, vreduce]
  simp only [if_pos hm]

end reduce

/-- A register, a latch or nothing as the destination of a reduction without an active lane: nothing is left (08 R183). -/
theorem State.landNone_of_register (s : State) (k : Kind) {f : VR} (lat : Nat) (h : f.w = true ∨ f.d.toNat < 32) :
    s.landNone k f lat = s := by
  simp only [State.landNone]
  rw [if_pos (by simpa using h)]

/-- vrsum rounds the exact sum; an exact zero is −0 when every term is, and in the mode toward −∞ (08 R183). -/
theorem all_negZero_or (l : List Fp) (rm : Nat) : (l.all (fun x => x.isZero && x.neg?) || decide (rm = 3)) =
    decide ((∀ x ∈ l, x.isZero = true ∧ x.neg? = true) ∨ rm = 3) := by
  rw [Bool.eq_iff_iff]
  simp

/-! ## The statement -/

theorem exec_vfrnd_eq (f : VR) (s : State) : exec (.vfrnd f) s = vfop1 f 2 (fun fm _ x =>
    integralCode fm (if f.b.getLsbD 2 then f.b.toNat % 4 else s.x.rm.toNat) x) s := by
  have hmode : (f.b.extractLsb' 0 2).toNat = f.b.toNat % 4 := by simp
  rw [← hmode]
  rfl

/-- Settles O23: the ops on every element by their element functions, a scale within the bound the model sets to it, an integral
value as a value of its format again, and the reductions by what a list of terms gives. -/
theorem vectorFloatResults : Obligations.VectorFloatResults := by
  refine ⟨?arithmetic, ?single, ?reductions, fun z l hl => Fp.sumZ_exact z hl⟩
  case arithmetic =>
    intro f s hk n fm unit rm m at_ old round
    have hunit : kFlagUnit s.cur.kind = unit := kFlagUnit_vector hk
    have hold : s.oldD f = old := s.oldD_eq f
    refine ⟨floatResult_of_vfop hunit (exec_vfadd f s) fun _ _ _ _ => rfl,
      floatResult_of_vfop hunit (exec_vfsub f s) fun _ _ _ _ => rfl,
      floatResult_of_vfop hunit (exec_vfmul f s) fun _ _ _ _ => rfl,
      floatResult_of_vfop hunit (exec_vfma f s) fun _ _ _ _ => by rw [hold]; rfl,
      floatResult_of_vfop hunit (exec_vfms f s) fun _ _ _ _ => by rw [hold]; rfl,
      floatResult_of_vfop hunit (exec_vfmin f s) fun _ _ _ _ => rfl,
      floatResult_of_vfop hunit (exec_vfmax f s) fun _ _ _ _ => rfl,
      floatResult_of_landFl (fltBits_fills f.t) hunit (exec_vfscl f s) fun i hi j hj => ?_⟩
    rw [sgn_elem]
    have hscale {neg : Bool} {k : Nat} {e : Int} := enc_scale f.t (rm := s.rmode) s.x.rm.isLt (neg := neg) (m := k) (e := e)
      (x := elem (fltBits f.t) ((s.floatSources f true (s.active f)).2.1.at i) j) (tyFmt_width f.t ▸ elem_lt ..)
    simp only [at_]
    split
    next hdec => exact (congrArg (fun v : Fp => (tyFmt f.t).enc s.rmode (v.scale _)) hdec).trans (hscale hdec _)
    next hother =>
      refine congrArg ((tyFmt f.t).enc s.rmode) ?_
      unfold Fp.scale
      split
      next hdec => exact absurd hdec (hother _ _ _)
      next => rfl
  case single =>
    intro f s hk n fm unit rm m nanCase
    have hunit : kFlagUnit s.cur.kind = unit := kFlagUnit_vector hk
    have hrm : rm < 4 := by
      simp only [rm]
      split
      · exact Nat.mod_lt _ (by decide)
      · exact s.x.rm.isLt
    have hn : 0 < n := by simp only [n]; split <;> decide
    have hwidth : fm.width = n := tyFmt_width f.t
    refine ⟨⟨_, floatResult_of_vfop1 hunit (exec_vfabs f s), fun x hx => ⟨fun sig h => Fmt.keep_of_nan h _, fun h => ?abs⟩⟩,
      ⟨_, floatResult_of_vfop1 hunit (exec_vfneg f s), fun x hx => ⟨fun sig h => Fmt.keep_of_nan h _, fun h => ?neg⟩⟩,
      ⟨fun x y => (fcmpBits (fm.dec x) (fm.dec y), sigFlag [fm.dec x, fm.dec y]),
        floatResult_of_vfop hunit (exec_vfcmp f s) fun _ _ _ _ => rfl, fun x y => ?compare⟩,
      ⟨_, floatResult_of_vfop1 hunit (exec_vfcls f s), fun x hx => ⟨fun sig => fclass_of_nan, fun neg => fclass_of_inf, fun h => ?classes⟩⟩,
      ⟨_, floatResult_of_vfop1 hunit (exec_vfrnd_eq f s), fun x hx => ⟨fun sig => integralCode_of_nan, fun neg => integralCode_of_inf,
        fun h => ?integral⟩⟩⟩
    case abs => rw [← hwidth]; exact Fmt.keep_of_no_nan h _
    case neg =>
      rw [← flip_top_bit hn hx, ← hwidth]
      exact Fmt.keep_of_no_nan h _
    case compare =>
      refine ⟨?_, fcmpBits_of_nan, fcmpBits_of_no_nan⟩
      simp only [Fp.sigFlag_eq]
      simp [eq_comm]
    case classes =>
      obtain ⟨neg, c, hc, rfl⟩ := (Fmt.finiteCode_iff (tyFmt_ne_l6 f.t)).mp ⟨hwidth.symm ▸ hx, h⟩
      have hlt : c < 2 ^ (n - 1) := tyFmt_fields f.t ▸ hc.trans_lt (Fmt.maxBits_lt (tyFmt_ne_l6 f.t))
      have hsgn : (tyFmt f.t).sgn neg = if neg then 2 ^ (n - 1) else 0 := tyFmt_sgn f.t neg
      have hsign : decide (2 ^ (n - 1) ≤ (tyFmt f.t).sgn neg + c) = neg := by
        rw [hsgn]
        cases neg <;> simp [hlt]
      have hlow : ((tyFmt f.t).sgn neg + c) % 2 ^ (n - 1) = c := by
        rw [hsgn]
        cases neg <;> simp [Nat.mod_eq_of_lt hlt]
      have hclass := fclass_of_finite (tyFmt_ne_l6 f.t) neg hc
      rw [hsign, hlow]
      refine hclass.trans ?_
      cases neg <;> rfl
    case integral =>
      obtain ⟨u, hflags, hval, hzero, hnear, hdown, hup, hbelow⟩ := integralCode_of_finite f.t hrm hx h
      exact ⟨u, hflags, hval, hzero, hnear, hdown, hup, hbelow⟩
  case reductions =>
    intro f s hk n fm rm m terms below extreme total
    have hunit : kFlagUnit s.cur.kind = 0 := by rw [hk]; rfl
    have hextreme (mx : Bool) : extreme mx (fun a b j => pickAll mx (tyFmt f.t) (reduceTerms f m a b j)) := by
      intro a b j _ l r
      obtain ⟨hflags, hall, hsome⟩ := pickAll_spec (tyFmt_ne_l6 f.t) (tyFmt_hasInf f.t) mx (reduceTerms_ne_nil f m a b j)
        (reduceTerms_codes f m a b j)
      refine ⟨hflags, hall, fun h => ?_⟩
      obtain ⟨hmem, hnan, hbeyond⟩ := hsome h
      refine ⟨hmem, hnan, fun y hy hynan => ?_⟩
      have hy := hbeyond y hy hynan
      cases mx
      · exact ⟨nofun, fun _ => hy⟩
      · exact ⟨fun _ => hy, nofun⟩
    refine ⟨fun hm => ?sum, fun hm => ⟨_, floatResult_of_vreduce (exec_vrmax f s) hunit hm, hextreme true⟩,
      fun hm => ⟨_, floatResult_of_vreduce (exec_vrmin f s) hunit hm, hextreme false⟩,
      fun hm => ⟨?none, State.landNone_of_register _ _ _⟩⟩
    case sum =>
      have hresult := floatResult_of_vreduce (exec_vrsum f s) hunit hm
      simp only [all_negZero_or] at hresult
      exact hresult
    case none =>
      simp only [List.forall_mem_cons, List.not_mem_nil, false_imp_iff, implies_true, and_true, ← hk]
      exact ⟨exec_vreduce_of_no_lane (exec_vrsum f s) hm, exec_vreduce_of_no_lane (exec_vrmax f s) hm,
        exec_vreduce_of_no_lane (exec_vrmin f s) hm⟩

end Sys2Proof.Machine
end

section
/-! Numbers between which no code of a format lies (08 R185): a special function is computed to more places than a code has, and what
is lost in them decides neither a code below or above nor the middle of two. -/

namespace Sys2Proof.Machine

/-! ## Magnitudes of few bits (07 R145) -/

/-- A power of two as a magnitude. -/
theorem magOf_one (k : Int) : magOf 1 k = 2 ^ k := by rw [magOf, Nat.cast_one, one_mul]

theorem magOf_lt_succ (M : Nat) (q : Int) : magOf M q < magOf (M + 1) q := (magOf_lt_iff ..).mpr (Nat.lt_succ_self M)

/-- A magnitude of no more bits than M that lies above M × 2^q lies not below (M + 1) × 2^q. -/
theorem magOf_succ_le {n M : Nat} {x q : Int} (hn : n ≤ M) (h : magOf M q < magOf n x) : magOf (M + 1) q ≤ magOf n x := by
  have hq : q ≤ x := by
    by_contra hlt
    have hle : magOf n x ≤ magOf M q :=
      mul_le_mul (Nat.cast_le.mpr hn) (zpow_le_zpow_right₀ one_le_two (by omega)) (zpow_pos two_pos _).le (Nat.cast_nonneg _)
    exact absurd h (not_lt.mpr hle)
  rw [magOf_in_units hq] at h ⊢
  rw [magOf_lt_iff] at h
  exact mul_le_mul_of_nonneg_right (Nat.cast_le.mpr h) (zpow_pos two_pos q).le

/-- The number halfway between M × 2^q and (M + 1) × 2^q, which stands for all that lie between them. -/
theorem magOf_halfway (M : Nat) (q : Int) : magOf (2 * M + 1) (q - 1) = magOf M q + 2 ^ q / 2 := by
  rw [magOf, magOf, zpow_sub₀ two_ne_zero, zpow_one]
  push_cast
  ring

theorem lt_halfway (M : Nat) (q : Int) : magOf M q < magOf (2 * M + 1) (q - 1) := by
  rw [magOf_halfway]
  have : (0 : Rat) < 2 ^ q := zpow_pos two_pos q
  linarith

theorem halfway_lt (M : Nat) (q : Int) : magOf (2 * M + 1) (q - 1) < magOf (M + 1) q := by
  have hu : (0 : Rat) < 2 ^ q := zpow_pos two_pos q
  have hsucc : magOf (M + 1) q = magOf M q + 2 ^ q := by rw [magOf, magOf]; push_cast; ring
  rw [magOf_halfway, hsucc]
  linarith

/-- The binade of a magnitude by its leading bit. -/
theorem zpow_le_magOf_iff {m : Nat} (hm : 0 < m) (e k : Int) : (2 : Rat) ^ k ≤ magOf m e ↔ k ≤ e + Nat.log2 m := by
  obtain ⟨hlo, hhi⟩ := Fmt.two_zpow_top hm e
  have htop : Fmt.top m e = e + Nat.log2 m + 1 := rfl
  constructor
  · intro h
    have := (zpow_lt_zpow_iff_right₀ (one_lt_two (α := Rat))).mp (h.trans_lt hhi)
    omega
  · exact fun h => (zpow_le_zpow_right₀ one_le_two (by omega)).trans hlo

/-- A power of two is found as one. -/
theorem pow2Exp_eq_some_iff {m : Nat} (hm : 0 < m) (e k : Int) : pow2Exp m e = some k ↔ magOf m e = 2 ^ k := by
  have hpow : magOf (2 ^ Nat.log2 m) e = 2 ^ (e + Nat.log2 m) := by
    rw [magOf, Nat.cast_pow, Nat.cast_ofNat, ← zpow_natCast, ← zpow_add₀ two_ne_zero, add_comm]
  have hinj : Function.Injective fun k : Int => (2 : Rat) ^ k := (zpow_right_strictMono₀ one_lt_two).injective
  unfold pow2Exp
  constructor
  · intro h
    split at h
    next heq =>
      obtain rfl := Option.some.inj h
      rw [← hpow, heq]
    next => exact absurd h nofun
  · intro h
    have hk : e + Nat.log2 m = k := by
      have hlo := (zpow_le_magOf_iff hm e k).mp h.ge
      have hhi := (zpow_le_magOf_iff hm e (k + 1)).not.mp (by
        rw [h, not_le]
        exact zpow_lt_zpow_right₀ one_lt_two (by omega))
      omega
    have heq : 2 ^ Nat.log2 m = m := by rw [← magOf_inj _ _ e, hpow, hk, h]
    rw [if_pos heq, hk]

/-! ## Places and their middles -/

/-- To nearest a number lies between the middles about its place. -/
theorem Rounded.le_middle {V : Nat → Rat} {neg : Bool} {x : Rat} {r : Nat} (hV : StrictMono V) (h : Rounded V 0 neg x r) :
    2 * x ≤ V r + V (r + 1) :=
  not_lt.mp fun hlt => lt_irrefl r ((h.lt_iff hV r).mpr (.inl ⟨rfl, .inl hlt⟩))
theorem Rounded.middle_le {V : Nat → Rat} {neg : Bool} {x : Rat} {r : Nat} (hV : StrictMono V) (h : Rounded V 0 neg x (r + 1)) :
    V r + V (r + 1) ≤ 2 * x := by
  rcases (h.lt_iff hV r).mp (Nat.lt_succ_self r) with ⟨-, hlt | ⟨heq, -⟩⟩ | ⟨haway, -⟩ | ⟨h0, -⟩
  · exact hlt.le
  · exact heq.le
  · exact absurd haway not_away_zero
  · exact absurd rfl h0

namespace Fmt
variable {f : Fmt}

/-- No place of a format lies between M × 2^q and (M + 1) × 2^q when M has more bits than it. -/
theorem succ_le_mag {M : Nat} (hM : 2 ^ (f.fb + 1) ≤ M) {q : Int} {c : Nat} (h : magOf M q < f.mag c) : magOf (M + 1) q ≤ f.mag c :=
  magOf_succ_le ((f.codeSig_lt c).le.trans hM) h

/-- Twice the middle of two neighbours. -/
theorem exists_mag_add_mag_succ (f : Fmt) (c : Nat) : ∃ n < 2 ^ (f.fb + 2), ∃ x, f.mag c + f.mag (c + 1) = magOf n x := by
  obtain ⟨E, a, rfl, hE, ha⟩ := f.exists_binade c
  refine ⟨2 * a + 1, by rw [Nat.pow_succ]; omega, E + 1 - f.bias - f.fb, ?_⟩
  rw [mag_in_binade hE ha.le, Nat.add_assoc, mag_in_binade (hE.imp_right fun h => h.trans (Nat.le_succ a)) ha, magOf, magOf, magOf]
  push_cast
  ring

/-- Nor does the middle of two neighbours, when M has two more. -/
theorem succ_le_middle {M : Nat} (hM : 2 ^ (f.fb + 2) ≤ M) {q : Int} {c : Nat} (h : 2 * magOf M q < f.mag c + f.mag (c + 1)) :
    2 * magOf (M + 1) q ≤ f.mag c + f.mag (c + 1) := by
  have hdouble (n : Nat) : 2 * magOf n q = magOf n (q + 1) := by
    rw [magOf, magOf, zpow_add₀ two_ne_zero, zpow_one]
    ring
  obtain ⟨n, hn, x, hsum⟩ := f.exists_mag_add_mag_succ c
  rw [hdouble, hsum] at h ⊢
  exact magOf_succ_le (hn.le.trans hM) h

theorem middle_le {M : Nat} (hM : 2 ^ (f.fb + 2) ≤ M) {q : Int} {c : Nat} (h : f.mag c + f.mag (c + 1) < 2 * magOf (M + 1) q) :
    f.mag c + f.mag (c + 1) ≤ 2 * magOf M q :=
  not_lt.mp fun hlt => absurd h (not_lt.mpr (succ_le_middle hM hlt))

end Fmt
end Sys2Proof.Machine
end

section
/-! FP32 codes about a number (07 R145, 08 R185): the binade of a code, powers of two, and the codes that the special functions choose
among. -/

namespace Sys2Proof.Machine

/-! ## Powers of two in FP32 -/

theorem f32_ne_l6 : Fmt.f32 ≠ .l6 := by decide

/-- The code of the power of two at the foot of a binade of normal numbers. -/
def pow2Code (k : Int) : Nat := (k + 127).toNat * 2 ^ 23

/-- The codes of a binade, and the first of the next. -/
theorem mag_pow2Code_add {k : Int} (hk : -126 ≤ k) {j : Nat} (hj : j ≤ 2 ^ 23) :
    Fmt.f32.mag (pow2Code k + j) = magOf (2 ^ 23 + j) (k - 23) := by
  have hcode : pow2Code k + j = (k + 126).toNat * 2 ^ Fmt.f32.fb + (2 ^ 23 + j) := by
    have : (k + 127).toNat = (k + 126).toNat + 1 := by omega
    rw [pow2Code, this, Nat.succ_mul, Nat.add_assoc]
    rfl
  have hstep : 2 ^ 23 + j ≤ 2 ^ (Fmt.f32.fb + 1) := by simp only [Fmt.fb]; omega
  rw [hcode, Fmt.mag_in_binade (f := .f32) (a := 2 ^ 23 + j) (.inr (Nat.le_add_right (2 ^ 23) j)) hstep]
  congr 1
  simp only [Fmt.bias, Fmt.fb]
  omega

theorem mag_pow2Code {k : Int} (hk : -126 ≤ k) : Fmt.f32.mag (pow2Code k) = 2 ^ k := by
  rw [← Nat.add_zero (pow2Code k), mag_pow2Code_add hk (Nat.zero_le _), magOf, Nat.add_zero, Nat.cast_pow, Nat.cast_ofNat,
    ← zpow_natCast, ← zpow_add₀ two_ne_zero]
  congr 1
  push_cast
  ring

/-- What lies beyond the largest finite value of FP32 (07 R147). -/
theorem mag_f32_beyond : Fmt.f32.mag (Fmt.f32.maxBits + 1) = 2 ^ (128 : Int) := mag_pow2Code (k := 128) (by decide)

theorem mag_f32_one : Fmt.f32.mag 1 = 2 ^ (-149 : Int) := Fmt.mag_one f32_ne_l6

/-- The code below a number of a binade is one of that binade. -/
theorem code_in_binade {k : Int} (hk : -126 ≤ k) {x : Rat} (hlo : 2 ^ k ≤ x) (hhi : x < 2 ^ (k + 1)) {c : Nat}
    (hc : Fmt.f32.mag c ≤ x) (hc' : x < Fmt.f32.mag (c + 1)) : ∃ j < 2 ^ 23, c = pow2Code k + j := by
  have hfoot : pow2Code k < c + 1 := Fmt.f32.mag_strictMono.lt_iff_lt.mp ((mag_pow2Code hk).trans_le hlo |>.trans_lt hc')
  have hnext : c < pow2Code (k + 1) := Fmt.f32.mag_strictMono.lt_iff_lt.mp (hc.trans_lt (hhi.trans_eq (mag_pow2Code (by omega)).symm))
  have hstep : pow2Code (k + 1) = pow2Code k + 2 ^ 23 := by
    have : (k + 1 + 127).toNat = (k + 127).toNat + 1 := by omega
    rw [pow2Code, pow2Code, this, Nat.succ_mul]
  exact ⟨c - pow2Code k, by omega, by omega⟩

/-- A power of two that FP32 holds converts exactly. -/
theorem enc_pow2 {k : Int} (hlo : -149 ≤ k) (hhi : k ≤ 127) :
    ∃ c ≤ Fmt.f32.maxBits, Fmt.f32.mag c = 2 ^ k ∧ ∀ rm < 4, ∀ neg, Fmt.f32.enc rm (.fin neg 1 k) = (Fmt.f32.sgn neg + c, 0) := by
  have hmax : magOf 1 k ≤ Fmt.f32.mag Fmt.f32.maxBits := by
    have hcode : Fmt.f32.maxBits = pow2Code 127 + (2 ^ 23 - 1) := by decide
    rw [hcode, magOf_one]
    exact (zpow_le_zpow_right₀ one_le_two hhi).trans ((mag_pow2Code (by decide)).symm.trans_le
      (Fmt.f32.mag_strictMono.monotone (Nat.le_add_right _ _)))
  obtain ⟨c, hc, hmag, -⟩ := Fmt.enc_of_fits f32_ne_l6 (by decide : 0 < 4) false one_pos (by decide) hlo hmax
  exact ⟨c, hc, hmag.trans (magOf_one k), fun rm hrm neg => Fmt.enc_of_mag f32_ne_l6 hrm neg hc hmag⟩

/-- A nonzero FP32 value by its code. -/
theorem f32_value {x : Nat} (hx : x < 2 ^ 32) {neg : Bool} {m : Nat} {e : Int} (hm : 0 < m) (h : Fmt.f32.dec x = .fin neg m e) :
    ∃ c ≤ Fmt.f32.maxBits, x = Fmt.f32.sgn neg + c ∧ Fmt.f32.mag c = magOf m e ∧ m < 2 ^ 24 ∧
      (2 : Rat) ^ (-149 : Int) ≤ magOf m e ∧ magOf m e < 2 ^ (128 : Int) := by
  obtain ⟨c, hc, hcode, rfl, rfl⟩ := Fmt.code_of_dec_fin f32_ne_l6 hx h
  have hpos : 1 ≤ c := Nat.pos_of_ne_zero fun h0 => hm.ne' (Fmt.codeSig_eq_zero.mpr h0)
  exact ⟨c, hc, hcode, rfl, Fmt.f32.codeSig_lt c, mag_f32_one ▸ Fmt.f32.mag_strictMono.monotone hpos,
    mag_f32_beyond ▸ Fmt.f32.mag_strictMono (Nat.lt_succ_of_le hc)⟩

/-- The value of a sign and a magnitude. -/
theorem f32_val (neg : Bool) {c : Nat} (hc : c ≤ Fmt.f32.maxBits) :
    (Fmt.f32.dec (Fmt.f32.sgn neg + c)).val = signOf neg * Fmt.f32.mag c := Fmt.val_dec_sgn_add f32_ne_l6 neg hc

theorem f32_val_of_le {c : Nat} (hc : c ≤ Fmt.f32.maxBits) : (Fmt.f32.dec c).val = Fmt.f32.mag c := by
  simpa [Fmt.sgn, signOf] using f32_val false hc

/-! ## Rounding a number that only its neighbours bound -/

/-- Rounding a number of FP32's range, with the flag of a normal result that is inexact. -/
theorem enc_f32_in_range {rm : Nat} (hrm : rm < 4) {m : Nat} (hm : 0 < m) {e : Int} (h : magOf m e < 2 ^ (127 : Int)) :
    ∃ c < Fmt.f32.maxBits, Rounded Fmt.f32.mag rm false (magOf m e) c ∧ (Fmt.f32.enc rm (.fin false m e)).1 = c ∧
      ((2 : Rat) ^ (-126 : Int) ≤ magOf m e → (Fmt.f32.enc rm (.fin false m e)).2 = if Fmt.f32.mag c = magOf m e then 0 else 16) := by
  obtain ⟨c, hround, henc⟩ := Fmt.enc_spec f32_ne_l6 hrm false hm e
  have hc : c < Fmt.f32.maxBits := by
    obtain ⟨d, hlo, -, hd, -⟩ := hround
    have hlt : d < pow2Code 127 := Fmt.f32.mag_strictMono.lt_iff_lt.mp (hlo.trans_lt (h.trans_eq (mag_pow2Code (by decide)).symm))
    have : pow2Code 127 < Fmt.f32.maxBits := by decide
    omega
  rw [henc, if_neg (not_lt.mpr hc.le)]
  refine ⟨c, hc, hround, Nat.zero_add c, fun hnormal => ?_⟩
  have htop := (zpow_le_magOf_iff hm e (-126)).mp hnormal
  have hnot : ¬ Fmt.f32.tiny rm false m e := Fmt.not_tiny_of_ge hrm false hm (by
    show (1 : Int) - 127 < e + Nat.log2 m + 1
    omega)
  simp only [if_neg hnot]

/-- Toward zero no result lies beyond the largest finite one. -/
theorem enc_toward_zero_le {m : Nat} (hm : 0 < m) (e : Int) : (Fmt.f32.enc 1 (.fin false m e)).1 ≤ Fmt.f32.maxBits := by
  obtain ⟨c, -, henc⟩ := Fmt.enc_spec f32_ne_l6 (by decide : 1 < 4) false hm e
  have hno : ¬ Fmt.f32.toInf 1 false = true := by decide
  rw [henc, if_neg hno]
  split
  · exact (Nat.zero_add _).le
  · next h => exact (Nat.zero_add c).trans_le (not_lt.mp h)

/-- To nearest the sign makes no difference to the magnitude and the flags. -/
theorem enc_nearest_sign {m : Nat} (hm : 0 < m) (e : Int) :
    ∃ c < 2 ^ 31, ∃ fl, ∀ neg, Fmt.f32.enc 0 (.fin neg m e) = (Fmt.f32.sgn neg + c, fl) := by
  have hsame (neg : Bool) : Fmt.f32.enc 0 (.fin neg m e) =
      (Fmt.f32.sgn neg + (Fmt.f32.enc 0 (.fin false m e)).1, (Fmt.f32.enc 0 (.fin false m e)).2) := by
    have hround (q : Int) : roundTo 0 neg m e q = roundTo 0 false m e q := rfl
    have hinf : Fmt.f32.toInf 0 neg = Fmt.f32.toInf 0 false := rfl
    have hz : Fmt.f32.sgn false = 0 := rfl
    rw [Fmt.enc_fin f32_ne_l6 0 neg hm, Fmt.enc_fin f32_ne_l6 0 false hm]
    simp only [Fmt.tiny, hround, hinf, hz, Nat.zero_add]
    split <;> rfl
  refine ⟨_, ?_, _, hsame⟩
  obtain ⟨c, -, henc⟩ := Fmt.enc_spec f32_ne_l6 (by decide : 0 < 4) false hm e
  have hmax : Fmt.f32.maxBits + 1 < 2 ^ 31 := by decide
  have hz : Fmt.f32.sgn false = 0 := rfl
  rw [henc, hz]
  split
  · split <;> omega
  · omega

/-! ## The codes that a special function chooses among (08 R185) -/

/-- The code of a number just above M × 2^q. -/
def encAbove (rm M : Nat) (q : Int) : Nat × Nat := Fmt.f32.enc rm (.fin false (2 * M + 1) (q - 1))

/-- A code at the foot of a binade, and not of the lowest one. -/
def atFoot (lo : Nat) : Bool := decide (lo % 2 ^ 23 = 0) && decide (2 ^ 23 < lo)

/-- How many codes a choice has before the code below, and how many after it. -/
def codesBefore (b lo : Nat) (upper : Bool) : Nat :=
  if b = 1 then (if atFoot lo && !upper then 1 else 0) else if atFoot lo then (if upper then 2 else 3) else min 1 lo
def codesAfter (b lo : Nat) : Nat :=
  if b = 1 || (decide ((lo + 1) % 2 ^ 23 = 0) && decide (2 ^ 23 ≤ lo)) then 1 else 2

/-- The choice by the code below the number, and whether the number is nearer to the one above. -/
def codesAbout (b lo : Nat) (upper : Bool) : List Nat :=
  (List.range (codesBefore b lo upper + codesAfter b lo + 1)).map (lo - codesBefore b lo upper + ·)

theorem sfuCodes_eq (b M : Nat) (q : Int) :
    sfuCodes b M q = codesAbout b (encAbove 1 M q).1 (decide ((encAbove 0 M q).1 ≠ (encAbove 1 M q).1)) := by
  have hcodes : ∀ lo near : Nat × Nat, encAbove 1 M q = lo → encAbove 0 M q = near →
      sfuCodes b M q = codesAbout b lo.1 (decide (near.1 ≠ lo.1)) := by
    intro lo near hlo hnear
    rw [sfuCodes, ← encAbove, ← encAbove, hlo, hnear]
    rfl
  exact hcodes _ _ rfl rfl

theorem mem_codesAbout {b lo c : Nat} {upper : Bool} :
    c ∈ codesAbout b lo upper ↔ ∃ i < codesBefore b lo upper + codesAfter b lo + 1, lo - codesBefore b lo upper + i = c := by
  rw [codesAbout, List.mem_map]
  simp only [List.mem_range]

/-- Within one ulp: the code below and the one above, and at the foot of a binade the one before, unless the number is nearer to the
code above. -/
theorem mem_codesAbout_one {lo c : Nat} {upper : Bool} (hc : c ∈ codesAbout 1 lo upper) :
    c = lo ∨ c = lo + 1 ∨ (c + 1 = lo ∧ lo % 2 ^ 23 = 0 ∧ 2 ^ 23 < lo ∧ upper = false) := by
  obtain ⟨i, hi, hci⟩ := mem_codesAbout.mp hc
  have hafter : codesAfter 1 lo = 1 := by simp [codesAfter]
  by_cases hbefore : (atFoot lo && !upper) = true
  · have hone : codesBefore 1 lo upper = 1 := by rw [codesBefore, if_pos rfl, if_pos hbefore]
    simp only [atFoot, Bool.and_eq_true, decide_eq_true_eq, Bool.not_eq_true'] at hbefore
    obtain ⟨⟨hfoot, hnormal⟩, hnear⟩ := hbefore
    rw [hone, hafter] at hi
    rw [hone] at hci
    rcases Nat.eq_zero_or_pos i with rfl | hpos
    · exact .inr (.inr ⟨by omega, hfoot, hnormal, hnear⟩)
    · omega
  · have hzero : codesBefore 1 lo upper = 0 := by rw [codesBefore, if_pos rfl, if_neg hbefore]
    rw [hzero, hafter] at hi
    rw [hzero] at hci
    omega

theorem codesAbout_le {b lo c : Nat} {upper : Bool} (hc : c ∈ codesAbout b lo upper) : c ≤ lo + 5 := by
  obtain ⟨i, hi, rfl⟩ := mem_codesAbout.mp hc
  have hbefore : codesBefore b lo upper ≤ 3 := by unfold codesBefore; split_ifs <;> omega
  have hafter : codesAfter b lo ≤ 2 := by unfold codesAfter; split_ifs <;> omega
  omega

theorem sfuCodes_ne_nil (b M : Nat) (q : Int) : sfuCodes b M q ≠ [] := by simp [sfuCodes_eq, codesAbout]

/-- No code of a choice reaches the sign bit. -/
theorem sfuCodes_lt {b M : Nat} {q : Int} {c : Nat} (hc : c ∈ sfuCodes b M q) : c < 2 ^ 31 := by
  have hlo : (encAbove 1 M q).1 ≤ Fmt.f32.maxBits := enc_toward_zero_le (Nat.succ_pos (2 * M)) (q - 1)
  have hmax : Fmt.f32.maxBits + 5 < 2 ^ 31 := by decide
  rw [sfuCodes_eq] at hc
  exact (codesAbout_le hc).trans_lt ((Nat.add_le_add_right hlo 5).trans_lt hmax)

/-- In a binade of normal numbers, each code of a choice lies within one ulp of every number between M × 2^q and (M + 1) × 2^q. -/
theorem sfuCodes_one_spec {M : Nat} {q k : Int} (hM : 2 ^ 25 ≤ M) (hk : -126 ≤ k) (hk' : k ≤ 126) (hlo : 2 ^ k ≤ magOf M q)
    (hhi : magOf (M + 1) q ≤ 2 ^ (k + 1)) {c : Nat} (hc : c ∈ sfuCodes 1 M q) :
    c ≤ Fmt.f32.maxBits ∧ Fmt.f32.mag c - 2 ^ (k - 23) ≤ magOf M q ∧ magOf (M + 1) q ≤ Fmt.f32.mag c + 2 ^ (k - 23) ∧
      2 * (2 : Rat) ^ (k - 23) ≤ Fmt.f32.mag c := by
  have hpos : 0 < 2 * M + 1 := Nat.succ_pos (2 * M)
  have hrange : magOf (2 * M + 1) (q - 1) < 2 ^ (127 : Int) :=
    (halfway_lt M q).trans_le (hhi.trans (zpow_le_zpow_right₀ one_le_two (by omega)))
  obtain ⟨lo, hle, hround, hcode, -⟩ := enc_f32_in_range (by decide : 1 < 4) hpos hrange
  have hbelow : (encAbove 1 M q).1 = lo := hcode
  obtain ⟨hdown, hup⟩ := hround.down (by decide) not_away_one
  obtain ⟨j, hj, hlocode⟩ := code_in_binade hk (hlo.trans (lt_halfway M q).le) ((halfway_lt M q).trans_le hhi) hdown hup
  have hstep (i : Nat) (hi : i ≤ 2 ^ 23) : Fmt.f32.mag (pow2Code k + i) = 2 ^ k + i * 2 ^ (k - 23) := by
    have hfoot : (2 : Rat) ^ k = 2 ^ (23 : Int) * 2 ^ (k - 23) := by rw [← zpow_add₀ two_ne_zero, add_sub_cancel]
    rw [mag_pow2Code_add hk hi, magOf, hfoot]
    push_cast
    ring
  have hu : (0 : Rat) < 2 ^ (k - 23) := zpow_pos two_pos _
  have hfoot : 8 * (2 : Rat) ^ (k - 23) ≤ 2 ^ k := by
    rw [show (8 : Rat) = 2 ^ (3 : Int) by norm_num, ← zpow_add₀ two_ne_zero]
    exact zpow_le_zpow_right₀ one_le_two (by omega)
  have hV : Fmt.f32.mag lo = 2 ^ k + j * 2 ^ (k - 23) := hlocode ▸ hstep j hj.le
  have hV' : Fmt.f32.mag (lo + 1) = 2 ^ k + j * 2 ^ (k - 23) + 2 ^ (k - 23) := by
    rw [hlocode, Nat.add_assoc, hstep (j + 1) hj]
    push_cast
    ring
  have hju : 0 ≤ (j : Rat) * 2 ^ (k - 23) := mul_nonneg (Nat.cast_nonneg _) hu.le
  have hdown' : Fmt.f32.mag lo ≤ magOf M q := not_lt.mp fun h =>
    absurd (hdown.trans_lt (halfway_lt M q)) (not_lt.mpr (Fmt.succ_le_mag (f := .f32) ((by decide : 2 ^ 24 ≤ 2 ^ 25).trans hM) h))
  have hup' : magOf (M + 1) q ≤ Fmt.f32.mag (lo + 1) :=
    Fmt.succ_le_mag (f := .f32) ((by decide : 2 ^ 24 ≤ 2 ^ 25).trans hM) ((lt_halfway M q).trans hup)
  have hbound : pow2Code k + 2 ^ 23 ≤ Fmt.f32.maxBits := by
    have : (k + 127).toNat ≤ 253 := by omega
    have : pow2Code k ≤ 253 * 2 ^ 23 := Nat.mul_le_mul_right _ this
    simp only [Fmt.maxBits]
    omega
  rw [sfuCodes_eq] at hc
  rcases mem_codesAbout_one hc with h | h | ⟨h, hmod, hnormal, hupper⟩
  · rw [hbelow] at h
    subst h
    exact ⟨hle.le, by linarith, by linarith, by linarith⟩
  · rw [hbelow] at h
    subst h
    exact ⟨by omega, by linarith, by linarith, by linarith⟩
  · have hnear := not_not.mp (decide_eq_false_iff_not.mp hupper)
    rw [hbelow] at h hmod hnormal hnear
    obtain ⟨near, -, hround0, hcode0, -⟩ := enc_f32_in_range (by decide : 0 < 4) hpos hrange
    obtain rfl : near = lo := hcode0.symm.trans hnear
    have hmiddle : 2 * magOf (M + 1) q ≤ Fmt.f32.mag near + Fmt.f32.mag (near + 1) :=
      Fmt.succ_le_middle (f := .f32) hM (by
        have := hround0.le_middle Fmt.f32.mag_strictMono
        linarith [lt_halfway M q])
    have hj0 : j = 0 := by
      have : pow2Code k % 2 ^ 23 = 0 := Nat.mul_mod_left _ _
      omega
    have hk1 : -126 ≤ k - 1 := by
      by_contra hlt
      obtain rfl : k = -126 := by omega
      have : pow2Code (-126) = 2 ^ 23 := by decide
      omega
    have hbefore : Fmt.f32.mag c = 2 ^ k - 2 ^ (k - 23) / 2 := by
      have hcc : c = pow2Code (k - 1) + (2 ^ 23 - 1) := by
        have : (k + 127).toNat = (k - 1 + 127).toNat + 1 := by omega
        have : pow2Code k = pow2Code (k - 1) + 2 ^ 23 := by rw [pow2Code, pow2Code, this, Nat.succ_mul]
        omega
      have hhalf : (2 : Rat) ^ (k - 1 - 23) = 2 ^ (k - 23) / 2 := by
        rw [show k - 1 - 23 = k - 23 - 1 by ring, zpow_sub_one₀ two_ne_zero]
        ring
      have hk2 : (2 : Rat) ^ k = 2 ^ (24 : Int) * (2 ^ (k - 23) / 2) := by
        rw [← hhalf, ← zpow_add₀ two_ne_zero, show (24 : Int) + (k - 1 - 23) = k by ring]
      rw [hcc, mag_pow2Code_add hk1 (Nat.sub_le _ _), magOf, hhalf, hk2]
      push_cast
      ring
    rw [hj0, Nat.cast_zero, zero_mul, add_zero] at hV hV'
    exact ⟨by omega, by linarith, by linarith, by linarith⟩

end Sys2Proof.Machine
end

section
/-! The special functions on operands that are no nonzero numbers (08 R186), and their equations on those that are (08 R184 to R187). -/

namespace Sys2Proof.Machine

/-- An F op lands its function's results of the elements of source a. -/
theorem floatResult_of_fop {i : Instr} {f : VR} {s : State} {lat : Nat} {g : Nat → Nat × Nat} (hk : s.cur.kind = .F)
    (hexec : exec i s = fop f lat g s) : FloatResult i s f false lat 2 32 (s.active f) (fun a _ i _ => g (a.at i).toNat) :=
  floatResult_of_landFl (n := 32) rfl (by rw [hk]; rfl) (h := fun i _ => g (((s.srcA s.cur.kind f).2).at i).toNat)
    (by rw [hexec, fop, ← hk]; rfl) fun _ _ _ _ => rfl

/-! ## NaNs, infinities and zeros (08 R186) -/

section nan
variable {x : Nat} {sig : Bool} (h : Fmt.f32.dec x = .nan sig)
include h

theorem sfExp2_nan : sfExp2 x = (0x7FC00000, sig.toNat) := by rw [sfExp2, h]; cases sig <;> rfl
theorem sfLog2_nan : sfLog2 x = (0x7FC00000, sig.toNat) := by rw [sfLog2, h]; cases sig <;> rfl
theorem sfRcp_nan : sfRcp x = (0x7FC00000, sig.toNat) := by rw [sfRcp, h]; cases sig <;> rfl
theorem sfRsq_nan : sfRsq x = (0x7FC00000, sig.toNat) := by rw [sfRsq, h]; cases sig <;> rfl
theorem sfSqrt_nan : sfSqrt x = (0x7FC00000, sig.toNat) := by rw [sfSqrt, h]; cases sig <;> rfl
theorem sfTrig_nan (cosine : Bool) : sfTrig cosine x = (0x7FC00000, sig.toNat) := by rw [sfTrig, h]; cases sig <;> rfl
theorem sfTanh_nan : sfTanh x = (0x7FC00000, sig.toNat) := by rw [sfTanh, h]; cases sig <;> rfl
theorem sfSigm_nan : sfSigm x = (0x7FC00000, sig.toNat) := by rw [sfSigm, h]; cases sig <;> rfl

end nan

/-- The operands that are no nonzero numbers. -/
theorem sf_special :
    (sfExp2 0xFF800000 = (0, 0) ∧ sfExp2 0 = (0x3F800000, 0) ∧ sfExp2 0x80000000 = (0x3F800000, 0) ∧
      sfExp2 0x7F800000 = (0x7F800000, 0)) ∧
    (sfLog2 0xFF800000 = (0x7FC00000, 1) ∧ sfLog2 0 = (0xFF800000, 2) ∧ sfLog2 0x80000000 = (0xFF800000, 2) ∧
      sfLog2 0x7F800000 = (0x7F800000, 0) ∧ sfLog2 0x3F800000 = (0, 0)) ∧
    (sfRcp 0xFF800000 = (0x80000000, 0) ∧ sfRcp 0 = (0x7F800000, 2) ∧ sfRcp 0x80000000 = (0xFF800000, 2) ∧
      sfRcp 0x7F800000 = (0, 0)) ∧
    (sfRsq 0xFF800000 = (0x7FC00000, 1) ∧ sfRsq 0 = (0x7F800000, 2) ∧ sfRsq 0x80000000 = (0xFF800000, 2) ∧
      sfRsq 0x7F800000 = (0, 0)) ∧
    (sfSqrt 0xFF800000 = (0x7FC00000, 1) ∧ sfSqrt 0 = (0, 0) ∧ sfSqrt 0x80000000 = (0x80000000, 0) ∧
      sfSqrt 0x7F800000 = (0x7F800000, 0)) := by
  decide
theorem sfTrig_special (cosine : Bool) : sfTrig cosine 0xFF800000 = (0x7FC00000, 1) ∧ sfTrig cosine 0x7F800000 = (0x7FC00000, 1) := by
  cases cosine <;> decide
theorem sfTrig_zero : sfTrig false 0 = (0, 0) ∧ sfTrig false 0x80000000 = (0x80000000, 0) ∧ sfTrig true 0 = (0x3F800000, 0) ∧
    sfTrig true 0x80000000 = (0x3F800000, 0) := by decide
theorem sfTanh_special : sfTanh 0xFF800000 = (0xBF800000, 0) ∧ sfTanh 0 = (0, 0) ∧ sfTanh 0x80000000 = (0x80000000, 0) ∧
    sfTanh 0x7F800000 = (0x3F800000, 0) := by decide
theorem sfSigm_special : sfSigm 0xFF800000 = (0, 0) ∧ sfSigm 0 = (0x3F000000, 0) ∧ sfSigm 0x80000000 = (0x3F000000, 0) ∧
    sfSigm 0x7F800000 = (0x3F800000, 0) := by decide

/-! ## Nonzero finite operands -/

section fin
variable {x m : Nat} {e : Int}

section negative
variable (hm : 0 < m) (h : Fmt.f32.dec x = .fin true m e)
include hm h

theorem sfLog2_neg : sfLog2 x = (0x7FC00000, 1) := by simp only [sfLog2, h, hm.ne', if_false, if_true]; rfl
theorem sfRsq_neg : sfRsq x = (0x7FC00000, 1) := by simp only [sfRsq, h, hm.ne', if_false, if_true]; rfl
theorem sfSqrt_neg : sfSqrt x = (0x7FC00000, 1) := by simp only [sfSqrt, h, hm.ne', if_false, if_true]; rfl

end negative

/-- The codes among which rcp chooses (08 R185): those next to 2^60 / m. -/
def rcpCodes (m : Nat) (e : Int) : List Nat :=
  if 126 ≤ e + Nat.log2 m then (sfuCodes 1 (2 ^ 60 / m) (-60 - e)).filter (· < 0x00800000) else sfuCodes 1 (2 ^ 60 / m) (-60 - e)

section rcp
variable {neg : Bool} (hm : 0 < m) (h : Fmt.f32.dec x = .fin neg m e)
include hm h

theorem sfRcp_pow {k : Int} (hk : pow2Exp m e = some k) : sfRcp x = Fmt.f32.enc 0 (.fin neg 1 (-k)) := by
  simp only [sfRcp, h, hm.ne', if_false, hk]
theorem sfRcp_overflow (hk : pow2Exp m e = none) (he : e + Nat.log2 m < -128) : sfRcp x = (Fmt.f32.sgn neg + 0x7F800000, 20) := by
  simp only [sfRcp, h, hm.ne', if_false, hk, if_pos he]
  rfl
theorem sfRcp_pick (hk : pow2Exp m e = none) (he : ¬ e + Nat.log2 m < -128) : sfRcp x = sfuPick 2 (x % 2 ^ 31) neg (rcpCodes m e) := by
  simp only [sfRcp, h, hm.ne', if_false, hk, if_neg he, rcpCodes]

end rcp

section positive
variable (hm : 0 < m) (h : Fmt.f32.dec x = .fin false m e)
include hm h

theorem sfRsq_even {k : Int} (hk : pow2Exp m e = some k) (heven : k % 2 = 0) : sfRsq x = Fmt.f32.enc 0 (.fin false 1 (-k / 2)) := by
  simp only [sfRsq, h, hm.ne', if_false, hk, if_pos heven, Bool.false_eq_true]
theorem sfRsq_odd {k : Int} (hk : pow2Exp m e = some k) (hodd : k % 2 = 1) :
    sfRsq x = sfuPick 3 x false (sfuCodes 1 (isqrt (2 ^ 121)) (-60 - (k + 1) / 2)) := by
  have hnot : ¬ k % 2 = 0 := by omega
  simp only [sfRsq, h, hm.ne', if_false, hk, if_neg hnot, Bool.false_eq_true]
theorem sfRsq_pick (hk : pow2Exp m e = none) {d : Nat} (hd : d = if e % 2 = 0 then 200 else 201) :
    sfRsq x = sfuPick 3 x false (sfuCodes 1 (isqrt (2 ^ d / m)) ((-(d : Int) - e) / 2)) := by
  simp only [sfRsq, h, hm.ne', if_false, hk, Bool.false_eq_true, hd]
  split <;> rfl

/-- The root of m × 2^e in units of an even exponent (08 R186). -/
theorem sfSqrt_eq {d : Nat} (hd : d = if e % 2 = 0 then 80 else 81) :
    sfSqrt x = if isqrt (m * 2 ^ d) * isqrt (m * 2 ^ d) = m * 2 ^ d then
        Fmt.f32.enc 0 (.fin false (isqrt (m * 2 ^ d)) ((e - d) / 2))
      else Fmt.f32.enc 0 (.fin false (2 * isqrt (m * 2 ^ d) + 1) ((e - d) / 2 - 1)) := by
  simp only [sfSqrt, h, hm.ne', if_false, Bool.false_eq_true, rootOf, decide_eq_true_eq, hd]
  split <;> rfl

theorem sfLog2_pow {k : Int} (hk : pow2Exp m e = some k) : sfLog2 x = Fmt.f32.enc 0 (ofInt k) := by
  simp only [sfLog2, h, hm.ne', if_false, hk, Bool.false_eq_true]

end positive
end fin

end Sys2Proof.Machine
end

section
/-! The results that a special function chooses (08 R184, R185): their flags and signs, and the odd and even functions (08 R187). -/

namespace Sys2Proof.Machine

/-! ## Flags and signs of a result -/

/-- The code of the negated number. -/
def flipSign (c : Nat) : Nat := if c < 2 ^ 31 then c + 2 ^ 31 else c - 2 ^ 31

theorem f32_sgn_true : Fmt.f32.sgn true = 2 ^ 31 := rfl
theorem f32_sgn_false : Fmt.f32.sgn false = 0 := rfl

theorem flipSign_sgn_add (neg : Bool) {c : Nat} (hc : c < 2 ^ 31) : flipSign (Fmt.f32.sgn neg + c) = Fmt.f32.sgn (!neg) + c := by
  cases neg
  · rw [Bool.not_false, f32_sgn_false, f32_sgn_true, Nat.zero_add, flipSign, if_pos hc, Nat.add_comm]
  · rw [Bool.not_true, f32_sgn_false, f32_sgn_true, flipSign, if_neg (by omega), Nat.add_sub_cancel_left, Nat.zero_add]

theorem sgn_add_mod (neg : Bool) {c : Nat} (hc : c < 2 ^ 31) : (Fmt.f32.sgn neg + c) % 2 ^ 31 = c := by
  cases neg
  · rw [f32_sgn_false, Nat.zero_add, Nat.mod_eq_of_lt hc]
  · rw [f32_sgn_true, Nat.add_mod_left, Nat.mod_eq_of_lt hc]

/-- A chosen result is inexact. -/
theorem sfuResult_nx (neg : Bool) (r : Nat) : (sfuResult neg r).2.testBit 4 = true := by
  by_cases h : r < 0x00800000
  · rw [sfuResult, if_pos h]
    exact (by decide : (fNX + fUF).testBit 4 = true)
  · rw [sfuResult, if_neg h]
    exact (by decide : (fNX + 0).testBit 4 = true)

theorem sfuResult_not (neg : Bool) {r : Nat} (hr : r < 2 ^ 31) :
    sfuResult (!neg) r = (flipSign (sfuResult neg r).1, (sfuResult neg r).2) := by
  rw [sfuResult, sfuResult, flipSign_sgn_add neg hr]

/-! ## Choices -/

/-- The code that sfuPick takes. -/
def pickCode (fn x : Nat) (l : List Nat) : Nat := l.getD ((Config.sfu fn (BitVec.ofNat 32 x)).toNat % l.length) 0

theorem sfuPick_eq (fn x : Nat) (neg : Bool) (l : List Nat) : sfuPick fn x neg l = sfuResult neg (pickCode fn x l) := rfl

theorem pickCode_mem (fn x : Nat) {l : List Nat} (hl : l ≠ []) : pickCode fn x l ∈ l := by
  have hlt := Nat.mod_lt (Config.sfu fn (BitVec.ofNat 32 x)).toNat (List.length_pos_iff.mpr hl)
  rw [pickCode, List.getD_eq_getElem _ _ hlt]
  exact List.getElem_mem hlt

theorem pickCode_lt (fn x : Nat) {l : List Nat} {b : Nat} (hb : 0 < b) (hl : ∀ c ∈ l, c < b) : pickCode fn x l < b := by
  rcases eq_or_ne l [] with rfl | hne
  · exact hb
  · exact hl _ (pickCode_mem fn x hne)

theorem sfuRise_lt (fn x : Nat) {l : List Nat} {b : Nat} (hb : 0 < b) (hl : ∀ c ∈ l, c < b) : sfuRise fn x l < b := by
  unfold sfuRise
  cases hfind : l.reverse.find? fun c => decide ((Config.sfu fn (BitVec.ofNat 32 c)).toNat ≤ fkey x) with
  | some c => exact hl c (List.mem_reverse.mp (List.mem_of_find?_eq_some hfind))
  | none =>
    cases l with
    | nil => exact hb
    | cons c l => exact hl c List.mem_cons_self

theorem sfuRising_lt {b M : Nat} {q : Int} : ∀ c ∈ sfuRising b M q, c < 2 ^ 31 :=
  fun _ hc => sfuCodes_lt (List.mem_of_mem_filter hc)

theorem rcpCodes_lt {m : Nat} {e : Int} : ∀ c ∈ rcpCodes m e, c < 2 ^ 31 := by
  intro c hc
  unfold rcpCodes at hc
  split at hc
  · exact sfuCodes_lt (List.mem_of_mem_filter hc)
  · exact sfuCodes_lt hc

/-! ## Negated operands (08 R187) -/

/-- The code of the negated operand. -/
theorem f32_negated {x : Nat} (hx : x < 2 ^ 32) {m : Nat} (hm : 0 < m) {e : Int} (h : Fmt.f32.dec x = .fin false m e) :
    Fmt.f32.dec (x + 2 ^ 31) = .fin true m e ∧ (x + 2 ^ 31) % 2 ^ 31 = x % 2 ^ 31 := by
  obtain ⟨c, hc, rfl, rfl, rfl⟩ := Fmt.code_of_dec_fin f32_ne_l6 hx h
  have hdec := Fmt.dec_of_le_maxBits f32_ne_l6 true (hc.trans_lt (Fmt.maxBits_lt f32_ne_l6)) hc
  rw [f32_sgn_true] at hdec
  rw [f32_sgn_false, Nat.zero_add, Nat.add_comm c]
  exact ⟨hdec, Nat.add_mod_left ..⟩

/-- What tanh makes of a nonzero number: a code by the magnitude, and the sign (08 R185). -/
theorem sfTanh_eq {m : Nat} (hm : 0 < m) (e : Int) : ∃ M q, ∀ x neg, Fmt.f32.dec x = .fin neg m e →
    sfTanh x = sfuResult neg (sfuRise 7 (x % 2 ^ 31) (sfuRising 2 M q)) := by
  by_cases he : e + Nat.log2 m < -10
  · exact ⟨_, _, fun x neg h => by simp only [sfTanh, h, hm.ne', if_false, if_pos he]; rfl⟩
  · exact ⟨_, _, fun x neg h => by simp only [sfTanh, h, hm.ne', if_false, if_neg he]; rfl⟩

theorem sfTanh_negated {x m : Nat} {e : Int} (hx : x < 2 ^ 32) (hm : 0 < m) (h : Fmt.f32.dec x = .fin false m e) :
    sfTanh (x + 2 ^ 31) = (flipSign (sfTanh x).1, (sfTanh x).2) := by
  obtain ⟨hneg, hmod⟩ := f32_negated hx hm h
  obtain ⟨M, q, heq⟩ := sfTanh_eq hm e
  rw [heq _ _ hneg, heq _ _ h, hmod]
  exact sfuResult_not false (sfuRise_lt _ _ (Nat.two_pow_pos 31) sfuRising_lt)

theorem sfTanh_nx {x m : Nat} {neg : Bool} {e : Int} (hm : 0 < m) (h : Fmt.f32.dec x = .fin neg m e) :
    (sfTanh x).2.testBit 4 = true := by
  obtain ⟨M, q, heq⟩ := sfTanh_eq hm e
  rw [heq _ _ h]
  exact sfuResult_nx ..

theorem sfSigm_nx {x m : Nat} {neg : Bool} {e : Int} (hm : 0 < m) (h : Fmt.f32.dec x = .fin neg m e) :
    (sfSigm x).2.testBit 4 = true := by
  cases neg <;> simp only [sfSigm, h, hm.ne', if_false, if_true, Bool.false_eq_true] <;> exact sfuResult_nx ..

/-- sin and cos out of their range (08 R186). -/
theorem sfTrig_out_of_range (cosine : Bool) {x m : Nat} {neg : Bool} {e : Int} (hm : 0 < m) (h : Fmt.f32.dec x = .fin neg m e)
    (he : 20 ≤ e + Nat.log2 m) : sfTrig cosine x = (0x7FC00000, 48) := by
  simp only [sfTrig, h, hm.ne', if_false, if_pos he]
  rfl

/-- In it, the sign of sin is that of the operand or its opposite, and the sign of cos does not depend on it (08 R187). -/
theorem sfTrig_eq (cosine : Bool) {x m : Nat} {neg : Bool} {e : Int} (hm : 0 < m) (h : Fmt.f32.dec x = .fin neg m e)
    (he : ¬ 20 ≤ e + Nat.log2 m) {y : Bool × Nat} (hy : sfQuadrant (if cosine then 1 else 0) m e = y) : sfTrig cosine x =
      sfuPick (if cosine then 6 else 5) (x % 2 ^ 31) (if cosine then y.1 else y.1 != neg) (sfuCodes 2 y.2 (-200)) := by
  simp only [sfTrig, h, hm.ne', if_false, if_neg he, hy]

theorem sfTrig_nx (cosine : Bool) {x m : Nat} {neg : Bool} {e : Int} (hm : 0 < m) (h : Fmt.f32.dec x = .fin neg m e)
    (he : ¬ 20 ≤ e + Nat.log2 m) : (sfTrig cosine x).2.testBit 4 = true := by
  rw [sfTrig_eq cosine hm h he rfl]
  exact sfuResult_nx ..

/-- sin is odd and cos is even. -/
theorem sfTrig_negated {x m : Nat} {e : Int} (hx : x < 2 ^ 32) (hm : 0 < m) (h : Fmt.f32.dec x = .fin false m e)
    (he : ¬ 20 ≤ e + Nat.log2 m) :
    sfTrig false (x + 2 ^ 31) = (flipSign (sfTrig false x).1, (sfTrig false x).2) ∧ sfTrig true (x + 2 ^ 31) = sfTrig true x := by
  obtain ⟨hneg, hmod⟩ := f32_negated hx hm h
  constructor
  · obtain ⟨y, hy⟩ : ∃ y, sfQuadrant 0 m e = y := ⟨_, rfl⟩
    have hsign : (y.1 != true) = !(y.1 != false) := by cases y.1 <;> rfl
    have hlt := pickCode_lt 5 (x % 2 ^ 31) (Nat.two_pow_pos 31) fun _ => sfuCodes_lt (b := 2) (M := y.2) (q := -200)
    rw [sfTrig_eq false hm hneg he hy, sfTrig_eq false hm h he hy, hmod]
    simp only [Bool.false_eq_true, if_false, hsign, sfuPick_eq]
    exact sfuResult_not _ hlt
  · obtain ⟨y, hy⟩ : ∃ y, sfQuadrant 1 m e = y := ⟨_, rfl⟩
    rw [sfTrig_eq true hm hneg he hy, sfTrig_eq true hm h he hy, hmod]
    simp only [if_true]

/-- rcp is odd. -/
theorem sfRcp_negated {x m : Nat} {e : Int} (hx : x < 2 ^ 32) (hm : 0 < m) (h : Fmt.f32.dec x = .fin false m e) :
    sfRcp (x + 2 ^ 31) = (flipSign (sfRcp x).1, (sfRcp x).2) := by
  obtain ⟨hneg, hmod⟩ := f32_negated hx hm h
  cases hk : pow2Exp m e with
  | some k =>
    obtain ⟨c, hc, fl, henc⟩ := enc_nearest_sign one_pos (-k)
    rw [sfRcp_pow hm hneg hk, sfRcp_pow hm h hk, henc, henc, flipSign_sgn_add false hc]
    rfl
  | none =>
    by_cases he : e + Nat.log2 m < -128
    · rw [sfRcp_overflow hm hneg hk he, sfRcp_overflow hm h hk he]
      rfl
    · rw [sfRcp_pick hm hneg hk he, sfRcp_pick hm h hk he, hmod, sfuPick_eq, sfuPick_eq]
      exact sfuResult_not false (pickCode_lt _ _ (Nat.two_pow_pos 31) rcpCodes_lt)

end Sys2Proof.Machine
end

section
/-! The exact results of the special functions and the operands on which they overflow (08 R185, R186): exp2, log2 and rcp. -/

namespace Sys2Proof.Machine

/-- A positive value has no sign. -/
theorem pos_of_val {neg : Bool} {m : Nat} {e : Int} (hz : 0 < Fp.val (.fin neg m e)) :
    neg = false ∧ Fp.val (.fin neg m e) = magOf m e := by
  cases neg
  · exact ⟨rfl, by rw [Fp.val_fin, signOf, if_neg Bool.false_ne_true, one_mul]⟩
  · have := magOf_nonneg m e
    rw [Fp.val_fin, signOf, if_pos rfl] at hz
    linarith

/-! ## exp2 -/

section exp2
variable {x m : Nat} {neg : Bool} {e : Int} (hm : 0 < m) (h : Fmt.f32.dec x = .fin neg m e)

/-- The integer part of a magnitude. -/
theorem roundTo_floor (neg : Bool) (m : Nat) (e : Int) :
    ((roundTo 1 neg m e 0).1 : Rat) ≤ magOf m e ∧ magOf m e < (roundTo 1 neg m e 0).1 + 1 ∧
      ((roundTo 1 neg m e 0).2 = true ↔ ((roundTo 1 neg m e 0).1 : Rat) ≠ magOf m e) := by
  obtain ⟨hround, hinexact⟩ := roundTo_spec (by decide : 1 < 4) neg m e 0
  rw [Int.sub_zero] at hround hinexact
  obtain ⟨hlo, hhi⟩ := hround.down (by decide) not_away_one
  rw [Nat.cast_add, Nat.cast_one] at hhi
  exact ⟨hlo, hhi, hinexact⟩

/-- An integral magnitude is its integer part. -/
theorem roundTo_of_eq (neg : Bool) {m : Nat} {e : Int} {n : Nat} (h : magOf m e = n) : roundTo 1 neg m e 0 = (n, false) := by
  obtain ⟨hlo, hhi, hinexact⟩ := roundTo_floor neg m e
  rw [h] at hlo hhi hinexact
  have hle : (roundTo 1 neg m e 0).1 ≤ n := Nat.cast_le.mp hlo
  have hlt : n < (roundTo 1 neg m e 0).1 + 1 := Nat.cast_lt.mp (hhi.trans_eq (Nat.cast_succ _).symm)
  have hn : (roundTo 1 neg m e 0).1 = n := by omega
  exact Prod.ext hn (Bool.eq_false_iff.mpr (hinexact.not.mpr (not_not.mpr (by rw [hn]))))

include hm h

theorem sfExp2_exact {n : Nat} (hn : roundTo 1 neg m e 0 = (n, false)) (hhi : neg = false → n < 128) (hlo : neg = true → n ≤ 149) :
    sfExp2 x = Fmt.f32.enc 0 (.fin false 1 (signedInt neg n)) := by
  cases neg
  · have hlt := hhi rfl
    simp [sfExp2, h, hm.ne', hn, signedInt, not_le.mpr hlt]
  · have hle := hlo rfl
    simp [sfExp2, h, hm.ne', hn, signedInt, hle]

theorem sfExp2_overflow (hneg : neg = false) (hn : 128 ≤ (roundTo 1 neg m e 0).1) : sfExp2 x = (0x7F800000, 20) := by
  subst hneg
  simp only [sfExp2, h, hm.ne', if_false, hn, decide_true, Bool.not_false, Bool.true_and, if_true]
  rfl

/-- Two to an integral power. -/
theorem sfExp2_int {k : Int} (hlo : -149 ≤ k) (hhi : k ≤ 127) (hz : Fp.val (.fin neg m e) = k) :
    (sfExp2 x).2 = 0 ∧ (Fmt.f32.dec (sfExp2 x).1).val = 2 ^ k := by
  have habs : magOf m e = (k.natAbs : Nat) := by
    rw [← Fp.abs_val_fin neg, hz, ← Int.cast_abs, Int.abs_eq_natAbs, Int.cast_natCast]
  have hsigned : signedInt neg k.natAbs = k := by
    have : ((signedInt neg k.natAbs : Int) : Rat) = k := by rw [cast_signedInt, ← habs, ← Fp.val_fin, hz]
    exact_mod_cast this
  obtain ⟨c, hc, hmag, henc⟩ := enc_pow2 hlo hhi
  have hexact := sfExp2_exact hm h (roundTo_of_eq neg habs)
    (fun hneg => by rw [hneg] at hsigned; simp only [signedInt, Bool.false_eq_true, if_false] at hsigned; omega) (fun _ => by
      rcases neg with _ | _ <;> simp only [signedInt, Bool.false_eq_true, if_false, if_true] at hsigned <;> omega)
  rw [hexact, hsigned, henc 0 (by decide) false]
  exact ⟨rfl, (f32_val false hc).trans (by rw [hmag, signOf]; exact one_mul _)⟩

theorem sfExp2_of_ge (hz : 128 ≤ Fp.val (.fin neg m e)) : sfExp2 x = (0x7F800000, 20) := by
  obtain ⟨rfl, hval⟩ := pos_of_val (by linarith : 0 < Fp.val (.fin neg m e))
  rw [hval] at hz
  obtain ⟨-, hhi, -⟩ := roundTo_floor false m e
  have hlt : ((128 : Nat) : Rat) < ((roundTo 1 false m e 0).1 + 1 : Nat) := by
    push_cast
    exact hz.trans_lt hhi
  exact sfExp2_overflow hm h rfl (Nat.lt_succ_iff.mp (Nat.cast_lt.mp hlt))

end exp2

/-! ## log2 -/

/-- An integer of few bits converts exactly. -/
theorem enc_f32_int {k : Int} (hk : k.natAbs < 2 ^ 24) : (Fmt.f32.enc 0 (ofInt k)).2 = 0 ∧
    (Fmt.f32.dec (Fmt.f32.enc 0 (ofInt k)).1).val = k := by
  have hval : signOf (decide (k < 0)) * magOf k.natAbs 0 = k := by
    rw [← Fp.val_fin, Fp.val_int, zpow_zero, mul_one]
  obtain ⟨c, hc, hmag, henc⟩ : ∃ c ≤ Fmt.f32.maxBits, Fmt.f32.mag c = magOf k.natAbs 0 ∧
      Fmt.f32.enc 0 (ofInt k) = (Fmt.f32.sgn (decide (k < 0)) + c, 0) := by
    rcases Nat.eq_zero_or_pos k.natAbs with h0 | hpos
    · refine ⟨0, Nat.zero_le _, by rw [h0, magOf_zero, Fmt.mag_zero], ?_⟩
      rw [ofInt, h0]
      exact Fmt.enc_zero f32_ne_l6 0 _ 0
    · refine Fmt.enc_of_fits f32_ne_l6 (by decide) _ hpos hk (by decide) ?_
      have hmax : Fmt.f32.maxBits = pow2Code 127 + (2 ^ 23 - 1) := by decide
      calc magOf k.natAbs 0 ≤ 2 ^ (24 : Int) := by
            rw [magOf, zpow_zero, mul_one]
            exact_mod_cast hk.le
        _ ≤ 2 ^ (127 : Int) := zpow_le_zpow_right₀ one_le_two (by decide)
        _ = Fmt.f32.mag (pow2Code 127) := (mag_pow2Code (by decide)).symm
        _ ≤ Fmt.f32.mag Fmt.f32.maxBits := Fmt.f32.mag_strictMono.monotone (hmax ▸ Nat.le_add_right _ _)
  rw [henc]
  exact ⟨rfl, (f32_val _ hc).trans (by rw [hmag, hval])⟩

/-- The exponents of the powers of two among the operands. -/
theorem f32_pow2_range {x : Nat} (hx : x < 2 ^ 32) {neg : Bool} {m : Nat} {e : Int} (hm : 0 < m) (h : Fmt.f32.dec x = .fin neg m e)
    {k : Int} (hk : magOf m e = 2 ^ k) : -149 ≤ k ∧ k ≤ 127 := by
  obtain ⟨-, -, -, -, -, hlo, hhi⟩ := f32_value hx hm h
  rw [hk] at hlo hhi
  have hlo' := (zpow_le_zpow_iff_right₀ (one_lt_two (α := Rat))).mp hlo
  have hhi' := (zpow_lt_zpow_iff_right₀ (one_lt_two (α := Rat))).mp hhi
  exact ⟨hlo', by omega⟩

theorem sfLog2_pow2 {x : Nat} (hx : x < 2 ^ 32) {neg : Bool} {m : Nat} {e : Int} (hm : 0 < m) (h : Fmt.f32.dec x = .fin neg m e)
    {k : Int} (hz : Fp.val (.fin neg m e) = 2 ^ k) : (sfLog2 x).2 = 0 ∧ (Fmt.f32.dec (sfLog2 x).1).val = k := by
  obtain ⟨rfl, hval⟩ := pos_of_val (hz ▸ zpow_pos two_pos k)
  have hmag := hval.symm.trans hz
  obtain ⟨hlo, hhi⟩ := f32_pow2_range hx hm h hmag
  rw [sfLog2_pow hm h ((pow2Exp_eq_some_iff hm e k).mpr hmag)]
  exact enc_f32_int (by omega)

/-! ## rcp -/

section rcp
variable {x : Nat} (hx : x < 2 ^ 32) {neg : Bool} {m : Nat} {e : Int} (hm : 0 < m) (h : Fmt.f32.dec x = .fin neg m e)
include hx hm h

/-- The reciprocal of a power of two. -/
theorem sfRcp_pow2 {k : Int} (hk : -127 ≤ k) (hz : magOf m e = 2 ^ k) :
    ∃ c ≤ Fmt.f32.maxBits, sfRcp x = (Fmt.f32.sgn neg + c, 0) ∧ Fmt.f32.mag c = 2 ^ (-k) := by
  obtain ⟨-, hhi⟩ := f32_pow2_range hx hm h hz
  obtain ⟨c, hc, hmag, henc⟩ := enc_pow2 (by omega : -149 ≤ -k) (by omega)
  exact ⟨c, hc, (sfRcp_pow hm h ((pow2Exp_eq_some_iff hm e k).mpr hz)).trans (henc 0 (by decide) neg), hmag⟩

omit hx in
/-- Below 2^-128 the reciprocal overflows. -/
theorem sfRcp_of_small (hz : magOf m e < 2 ^ (-128 : Int)) : sfRcp x = (Fmt.f32.sgn neg + 0x7F800000, 20) := by
  cases hk : pow2Exp m e with
  | some k =>
    have hmag := (pow2Exp_eq_some_iff hm e k).mp hk
    have hlt : k < -128 := (zpow_lt_zpow_iff_right₀ (one_lt_two (α := Rat))).mp (hmag ▸ hz)
    rw [sfRcp_pow hm h hk, Fmt.enc_of_beyond f32_ne_l6 (by decide) neg (by
      rw [mag_f32_beyond, magOf_one]
      exact zpow_le_zpow_right₀ one_le_two (by omega))]
    rfl
  | none =>
    have := (zpow_le_magOf_iff hm e (-128)).not.mp (not_le.mpr hz)
    exact sfRcp_overflow hm h hk (by omega)

/-- Above 2^126 the reciprocal is below the normal range. -/
theorem sfRcp_of_large (hz : (2 : Rat) ^ (126 : Int) < magOf m e) : (sfRcp x).1 % 2 ^ 31 < 0x00800000 := by
  cases hk : pow2Exp m e with
  | some k =>
    have hmag := (pow2Exp_eq_some_iff hm e k).mp hk
    have hlt : 126 < k := (zpow_lt_zpow_iff_right₀ (one_lt_two (α := Rat))).mp (hmag ▸ hz)
    obtain ⟨c, hc, heq, hcmag⟩ := sfRcp_pow2 hx hm h (by omega) hmag
    have hfoot : pow2Code (-126) = 0x00800000 := by decide
    have hsmall : c < pow2Code (-126) := Fmt.f32.mag_strictMono.lt_iff_lt.mp (by
      rw [hcmag, mag_pow2Code (by decide)]
      exact zpow_lt_zpow_right₀ one_lt_two (by omega))
    rw [heq, sgn_add_mod neg (by omega)]
    omega
  | none =>
    have htop := (zpow_le_magOf_iff hm e 126).mp hz.le
    have hlt : ∀ fn x, pickCode fn x (rcpCodes m e) < 0x00800000 := fun fn x => pickCode_lt fn x (by decide) fun c hc => by
      rw [rcpCodes, if_pos htop] at hc
      simpa using (List.mem_filter.mp hc).2
    have hpick := hlt 2 (x % 2 ^ 31)
    rw [sfRcp_pick hm h hk (by omega), sfuPick_eq, sfuResult, sgn_add_mod neg (by omega)]
    exact hpick

end rcp

end Sys2Proof.Machine
end

section
/-! The special functions within one ulp, rcp and rsq, and sqrt correctly rounded (08 R185). -/

namespace Sys2Proof.Machine

/-! ## The integer square root -/

/-- The digits of the root, from a root so far that is right in the digits above them. -/
theorem isqrtGo_spec (v : Nat) : ∀ n r : Nat, r * r ≤ v → v < (r + 2 ^ n) * (r + 2 ^ n) →
    isqrtGo v n r * isqrtGo v n r ≤ v ∧ v < (isqrtGo v n r + 1) * (isqrtGo v n r + 1)
  | 0, _, hlo, hhi => ⟨hlo, hhi⟩
  | n + 1, r, hlo, hhi => by
    by_cases ht : (r + 2 ^ n) * (r + 2 ^ n) ≤ v
    · have hnext : r + 2 ^ n + 2 ^ n = r + 2 ^ (n + 1) := by rw [Nat.pow_succ]; omega
      rw [isqrtGo, if_pos ht]
      exact isqrtGo_spec v n (r + 2 ^ n) ht (hnext ▸ hhi)
    · rw [isqrtGo, if_neg ht]
      exact isqrtGo_spec v n r hlo (Nat.lt_of_not_le ht)

theorem isqrt_spec (v : Nat) : isqrt v * isqrt v ≤ v ∧ v < (isqrt v + 1) * (isqrt v + 1) := by
  refine isqrtGo_spec v _ 0 (Nat.zero_le v) ?_
  rw [Nat.zero_add, ← Nat.pow_add]
  exact Nat.lt_log2_self.trans_le (Nat.pow_le_pow_right two_pos (by omega))

/-- A large number has a large root. -/
theorem le_isqrt {b v : Nat} (h : b * b ≤ v) : b ≤ isqrt v := by
  by_contra hlt
  have := Nat.mul_le_mul (Nat.lt_of_not_le hlt) (Nat.lt_of_not_le hlt)
  have := (isqrt_spec v).2
  simp only [Nat.succ_eq_add_one] at *
  omega

/-! ## Within one ulp -/

/-- A property of the numbers up to one that is not named itself: 1 / z, or the root of it. -/
def UpTo (P : Rat → Prop) : Prop := ∀ x y, 0 ≤ x → x ≤ y → P y → P x

/-- A choice next to M × 2^q lies within one ulp of what lies between M × 2^q and (M + 1) × 2^q, in a binade of normal numbers. -/
theorem sfuCodes_one_within {P : Rat → Prop} (hP : UpTo P) {M : Nat} {q k : Int} (hM : 2 ^ 25 ≤ M) (hbelow : P (magOf M q))
    (habove : ¬ P (magOf (M + 1) q)) (hk : -126 ≤ k) (hk' : k ≤ 126) (hlo : P (2 ^ k)) (hhi : ¬ P (2 ^ (k + 1))) {c : Nat}
    (hc : c ∈ sfuCodes 1 M q) : c ≤ Fmt.f32.maxBits ∧ 2 ^ (k - 23) ≤ Fmt.f32.mag c ∧ P (Fmt.f32.mag c - 2 ^ (k - 23)) ∧
      ¬ P (Fmt.f32.mag c + 2 ^ (k - 23)) := by
  have hone : 1 ≤ M := (Nat.one_le_two_pow).trans hM
  have hfoot : 2 ^ k ≤ magOf M q := not_lt.mp fun hlt =>
    habove (hP _ _ (magOf_nonneg _ _) (magOf_one k ▸ magOf_succ_le hone (magOf_one k ▸ hlt)) hlo)
  have hnext : magOf (M + 1) q ≤ 2 ^ (k + 1) := magOf_one (k + 1) ▸ magOf_succ_le hone (magOf_one (k + 1) ▸
    not_le.mp fun hle => hhi (hP _ _ (zpow_pos two_pos _).le hle hbelow))
  obtain ⟨hmax, hdown, hup, hulp⟩ := sfuCodes_one_spec hM hk hk' hfoot hnext hc
  have hu : (0 : Rat) < 2 ^ (k - 23) := zpow_pos two_pos _
  exact ⟨hmax, by linarith, hP _ _ (by linarith) hdown hbelow, fun h => habove (hP _ _ (magOf_nonneg _ _) hup h)⟩

/-! ## rcp -/

theorem upTo_mul {z : Rat} (hz : 0 ≤ z) : UpTo fun x => x * z ≤ 1 :=
  fun _ _ _ hxy h => (mul_le_mul_of_nonneg_right hxy hz).trans h

/-- 2^60 / m is below the reciprocal of m, in units. -/
theorem rcp_between {m : Nat} (hm : 0 < m) (e : Int) : magOf (2 ^ 60 / m) (-60 - e) * magOf m e ≤ 1 ∧
    ¬ magOf (2 ^ 60 / m + 1) (-60 - e) * magOf m e ≤ 1 := by
  have hunits (n : Nat) : magOf n (-60 - e) * magOf m e = (n * m : Nat) / 2 ^ 60 := by
    have hpow : (2 : Rat) ^ (-60 - e) * 2 ^ e = (2 ^ 60)⁻¹ := by
      rw [← zpow_add₀ two_ne_zero, sub_add_cancel, zpow_neg]
      rfl
    rw [magOf, magOf, mul_mul_mul_comm, hpow, Nat.cast_mul, div_eq_mul_inv]
  have hpos : (0 : Rat) < 2 ^ 60 := by positivity
  rw [hunits, hunits, div_le_one hpos, div_le_one hpos, not_le]
  exact ⟨by exact_mod_cast Nat.div_mul_le_self (2 ^ 60) m, by exact_mod_cast Nat.lt_mul_of_div_lt (Nat.lt_succ_self (2 ^ 60 / m)) hm⟩

section rcp
variable {x : Nat} (hx : x < 2 ^ 32) {neg : Bool} {m : Nat} {e : Int} (hm : 0 < m) (h : Fmt.f32.dec x = .fin neg m e)
include hx hm h

/-- rcp within one ulp, by the magnitudes. -/
theorem sfRcp_within {k : Int} (hk : -126 ≤ k) (hk' : k ≤ 126) (hlo : 2 ^ k * magOf m e ≤ 1) (hhi : 1 < 2 ^ (k + 1) * magOf m e) :
    ∃ c ≤ Fmt.f32.maxBits, (sfRcp x).1 = Fmt.f32.sgn neg + c ∧ (Fmt.f32.mag c - 2 ^ (k - 23)) * magOf m e ≤ 1 ∧
      1 ≤ (Fmt.f32.mag c + 2 ^ (k - 23)) * magOf m e := by
  have hpos := magOf_pos hm e
  have hzle : magOf m e ≤ 2 ^ (-k) := by
    rw [zpow_neg, ← one_div, le_div_iff₀' (zpow_pos two_pos k)]
    exact hlo
  have hlez : 2 ^ (-(k + 1)) < magOf m e := by
    rw [zpow_neg, ← one_div, div_lt_iff₀' (zpow_pos two_pos (k + 1))]
    exact hhi
  cases hj : pow2Exp m e with
  | some j =>
    have hmag := (pow2Exp_eq_some_iff hm e j).mp hj
    have hjk : j ≤ -k := (zpow_le_zpow_iff_right₀ (one_lt_two (α := Rat))).mp (hmag ▸ hzle)
    have hkj : -(k + 1) < j := (zpow_lt_zpow_iff_right₀ (one_lt_two (α := Rat))).mp (hmag ▸ hlez)
    obtain rfl : j = -k := by omega
    obtain ⟨c, hc, heq, hcmag⟩ := sfRcp_pow2 hx hm h (by omega) hmag
    have hexact : Fmt.f32.mag c * magOf m e = 1 := by rw [hcmag, hmag, ← zpow_add₀ two_ne_zero, neg_neg, add_neg_cancel, zpow_zero]
    have hu : 0 < (2 : Rat) ^ (k - 23) * magOf m e := mul_pos (zpow_pos two_pos _) hpos
    exact ⟨c, hc, by rw [heq], by linarith, by linarith⟩
  | none =>
    have hbig : -128 ≤ e + Nat.log2 m :=
      (zpow_le_magOf_iff hm e (-128)).mp ((zpow_le_zpow_right₀ one_le_two (by omega)).trans hlez.le)
    have hcodes : rcpCodes m e = sfuCodes 1 (2 ^ 60 / m) (-60 - e) := if_neg fun htop => by
      have hle := (zpow_le_magOf_iff hm e 126).mpr htop
      have hge : magOf m e ≤ 2 ^ (126 : Int) := hzle.trans (zpow_le_zpow_right₀ one_le_two (by omega))
      exact absurd ((pow2Exp_eq_some_iff hm e 126).mpr (le_antisymm hge hle)) (by rw [hj]; exact nofun)
    have hm24 : m < 2 ^ 24 := by
      obtain ⟨-, -, -, -, hlt, -⟩ := f32_value hx hm h
      exact hlt
    have hM : 2 ^ 25 ≤ 2 ^ 60 / m := (Nat.le_div_iff_mul_le hm).mpr (by omega)
    obtain ⟨hbelow, habove⟩ := rcp_between hm e
    have hmem := hcodes ▸ pickCode_mem 2 (x % 2 ^ 31) (hcodes ▸ sfuCodes_ne_nil 1 (2 ^ 60 / m) (-60 - e))
    obtain ⟨hc, -, hdown, hup⟩ := sfuCodes_one_within (upTo_mul hpos.le) hM hbelow habove hk hk' hlo (not_le.mpr hhi) hmem
    refine ⟨_, hc, ?_, hdown, (not_le.mp hup).le⟩
    rw [sfRcp_pick hm h hj (by omega), sfuPick_eq, sfuResult, hcodes]

end rcp

/-! ## rsq -/

theorem upTo_sq_mul {z : Rat} (hz : 0 ≤ z) : UpTo fun x => x * x * z ≤ 1 :=
  fun _ _ h0 hxy h => (mul_le_mul_of_nonneg_right (mul_self_le_mul_self h0 hxy) hz).trans h

/-- The root of 2^d / m is below that of the reciprocal of m, in units. -/
theorem rsq_between {m : Nat} (hm : 0 < m) {e q : Int} {d : Nat} (hq : 2 * q = -(d : Int) - e) :
    magOf (isqrt (2 ^ d / m)) q * magOf (isqrt (2 ^ d / m)) q * magOf m e ≤ 1 ∧
      ¬ magOf (isqrt (2 ^ d / m) + 1) q * magOf (isqrt (2 ^ d / m) + 1) q * magOf m e ≤ 1 := by
  have hunits (n : Nat) : magOf n q * magOf n q * magOf m e = (n * n * m : Nat) / 2 ^ d := by
    have hpow : (2 : Rat) ^ q * 2 ^ q * 2 ^ e = (2 ^ d)⁻¹ := by
      rw [← zpow_add₀ two_ne_zero, ← zpow_add₀ two_ne_zero, ← zpow_natCast, ← zpow_neg]
      congr 1
      omega
    rw [magOf, magOf, div_eq_mul_inv, ← hpow]
    push_cast
    ring
  have hpos : (0 : Rat) < 2 ^ d := by positivity
  obtain ⟨hlo, hhi⟩ := isqrt_spec (2 ^ d / m)
  rw [hunits, hunits, div_le_one hpos, div_le_one hpos, not_le]
  exact ⟨by exact_mod_cast (Nat.le_div_iff_mul_le hm).mp hlo, by exact_mod_cast Nat.lt_mul_of_div_lt hhi hm⟩

/-- Every choice of rsq is one of codes next to the root of the reciprocal (08 R185). -/
theorem sfRsq_choice {x : Nat} (hx : x < 2 ^ 32) {m : Nat} {e : Int} (hm : 0 < m) (h : Fmt.f32.dec x = .fin false m e)
    (hfour : ∀ k : Int, magOf m e ≠ 4 ^ k) : ∃ M q, 2 ^ 25 ≤ M ∧ magOf M q * magOf M q * magOf m e ≤ 1 ∧
      ¬ magOf (M + 1) q * magOf (M + 1) q * magOf m e ≤ 1 ∧ sfRsq x = sfuPick 3 x false (sfuCodes 1 M q) := by
  have hm24 : m < 2 ^ 24 := by
    obtain ⟨-, -, -, -, hlt, -⟩ := f32_value hx hm h
    exact hlt
  cases hj : pow2Exp m e with
  | some j =>
    have hmag := (pow2Exp_eq_some_iff hm e j).mp hj
    have hodd : j % 2 = 1 := by
      by_contra heven
      refine hfour (j / 2) ?_
      rw [hmag, show (4 : Rat) = 2 ^ (2 : Int) by norm_num, ← zpow_mul]
      congr 1
      omega
    have hbetween := rsq_between one_pos (e := j) (q := -60 - (j + 1) / 2) (d := 121) (by omega)
    rw [Nat.div_one, magOf_one, ← hmag] at hbetween
    exact ⟨_, _, le_isqrt (by decide), hbetween.1, hbetween.2, sfRsq_odd hm h hj hodd⟩
  | none =>
    obtain ⟨d, hd⟩ : ∃ d : Nat, d = if e % 2 = 0 then 200 else 201 := ⟨_, rfl⟩
    have hq : 2 * ((-(d : Int) - e) / 2) = -(d : Int) - e := by split at hd <;> omega
    have hM : 2 ^ 25 ≤ isqrt (2 ^ d / m) := le_isqrt ((Nat.le_div_iff_mul_le hm).mpr (by
      have : 2 ^ 200 ≤ 2 ^ d := Nat.pow_le_pow_right two_pos (by split at hd <;> omega)
      omega))
    exact ⟨_, _, hM, (rsq_between hm hq).1, (rsq_between hm hq).2, sfRsq_pick hm h hj hd⟩

theorem four_zpow (k : Int) : (4 : Rat) ^ k = 2 ^ k * 2 ^ k := by
  rw [← mul_zpow]
  norm_num

section rsq
variable {x : Nat} (hx : x < 2 ^ 32) {m : Nat} {e : Int} (hm : 0 < m) (h : Fmt.f32.dec x = .fin false m e)
include hx hm h

/-- rsq of a power of four. -/
theorem sfRsq_pow4 {k : Int} (hz : magOf m e = 4 ^ k) :
    ∃ c ≤ Fmt.f32.maxBits, sfRsq x = (c, 0) ∧ Fmt.f32.mag c = 2 ^ (-k) := by
  have hmag : magOf m e = 2 ^ (k + k) := by rw [hz, four_zpow, zpow_add₀ two_ne_zero]
  obtain ⟨hlo, hhi⟩ := f32_pow2_range hx hm h hmag
  obtain ⟨c, hc, hcmag, henc⟩ := enc_pow2 (by omega : -149 ≤ -k) (by omega)
  have hhalf : -(k + k) / 2 = -k := by omega
  refine ⟨c, hc, ?_, hcmag⟩
  rw [sfRsq_even hm h ((pow2Exp_eq_some_iff hm e _).mpr hmag) (by omega), hhalf, henc 0 (by decide) false, f32_sgn_false, Nat.zero_add]

/-- rsq within one ulp. -/
theorem sfRsq_within {k : Int} (hlo : 4 ^ k * magOf m e ≤ 1) (hhi : 1 < 4 ^ (k + 1) * magOf m e) :
    ∃ c ≤ Fmt.f32.maxBits, (sfRsq x).1 = c ∧ 2 ^ (k - 23) ≤ Fmt.f32.mag c ∧
      (Fmt.f32.mag c - 2 ^ (k - 23)) * (Fmt.f32.mag c - 2 ^ (k - 23)) * magOf m e ≤ 1 ∧
      1 ≤ (Fmt.f32.mag c + 2 ^ (k - 23)) * (Fmt.f32.mag c + 2 ^ (k - 23)) * magOf m e := by
  have hpos := magOf_pos hm e
  rw [four_zpow] at hlo hhi
  obtain ⟨-, -, -, -, -, hmin, hmax⟩ := f32_value hx hm h
  have hk' : k ≤ 126 := by
    by_contra hlt
    have hbig : (2 : Rat) ^ (150 : Int) ≤ 2 ^ k * 2 ^ k := by
      rw [← zpow_add₀ two_ne_zero]
      exact zpow_le_zpow_right₀ one_le_two (by omega)
    have := mul_le_mul hbig hmin (zpow_pos two_pos _).le (mul_pos (zpow_pos two_pos k) (zpow_pos two_pos k)).le
    norm_num at this
    linarith
  have hk : -126 ≤ k := by
    by_contra hlt
    have hsmall : (2 : Rat) ^ (k + 1) * 2 ^ (k + 1) ≤ 2 ^ (-128 : Int) := by
      rw [← zpow_add₀ two_ne_zero]
      exact zpow_le_zpow_right₀ one_le_two (by omega)
    have := mul_le_mul hsmall hmax.le hpos.le (zpow_pos two_pos _).le
    norm_num at this
    linarith
  by_cases hfour : ∃ j : Int, magOf m e = 4 ^ j
  · obtain ⟨j, hj⟩ := hfour
    obtain ⟨c, hc, heq, hcmag⟩ := sfRsq_pow4 hx hm h hj
    have hkj : k = -j := by
      have hle : (4 : Rat) ^ (k + j) ≤ 4 ^ (0 : Int) := by
        rw [zpow_add₀ four_ne_zero, zpow_zero, ← hj, four_zpow]
        exact hlo
      have hlt : (4 : Rat) ^ (0 : Int) < 4 ^ (k + 1 + j) := by
        rw [zpow_add₀ four_ne_zero, zpow_zero, ← hj, four_zpow (k + 1)]
        exact hhi
      have := (zpow_le_zpow_iff_right₀ (by norm_num : (1 : Rat) < 4)).mp hle
      have := (zpow_lt_zpow_iff_right₀ (by norm_num : (1 : Rat) < 4)).mp hlt
      omega
    have hexact : Fmt.f32.mag c * Fmt.f32.mag c * magOf m e = 1 := by
      rw [hcmag, ← four_zpow, hj, ← zpow_add₀ four_ne_zero, neg_add_cancel, zpow_zero]
    have hu : (0 : Rat) < 2 ^ (k - 23) := zpow_pos two_pos _
    have hulp : (2 : Rat) ^ (k - 23) ≤ Fmt.f32.mag c := by
      rw [hcmag]
      exact zpow_le_zpow_right₀ one_le_two (by omega)
    have hdown := mul_self_le_mul_self (sub_nonneg.mpr hulp) (sub_le_self _ hu.le)
    have hup := mul_self_le_mul_self (Fmt.f32.mag_nonneg c) (le_add_of_nonneg_right hu.le)
    exact ⟨c, hc, by rw [heq], hulp, hexact ▸ mul_le_mul_of_nonneg_right hdown hpos.le,
      hexact ▸ mul_le_mul_of_nonneg_right hup hpos.le⟩
  · obtain ⟨M, q, hM, hbelow, habove, heq⟩ := sfRsq_choice hx hm h (not_exists.mp hfour)
    have hmem := pickCode_mem 3 x (sfuCodes_ne_nil 1 M q)
    obtain ⟨hc, hulp, hdown, hup⟩ :=
      sfuCodes_one_within (upTo_sq_mul hpos.le) hM hbelow habove hk hk' hlo (not_le.mpr hhi) hmem
    refine ⟨_, hc, ?_, hulp, hdown, (not_le.mp hup).le⟩
    rw [heq, sfuPick_eq, sfuResult, f32_sgn_false, Nat.zero_add]

end rsq

/-! ## sqrt -/

/-- A number that stands for the root of z in rounding to nearest: it lies on the same side as the root of every code and every middle
of two. -/
structure StandsForRoot (y z : Rat) : Prop where
  normal : (2 : Rat) ^ (-126 : Int) ≤ y ∧ y < 2 ^ (127 : Int)
  code (c : Nat) : Fmt.f32.mag c = y ↔ Fmt.f32.mag c * Fmt.f32.mag c = z
  middle_le (c : Nat) : Fmt.f32.mag c + Fmt.f32.mag (c + 1) ≤ 2 * y →
    (Fmt.f32.mag c + Fmt.f32.mag (c + 1)) / 2 * ((Fmt.f32.mag c + Fmt.f32.mag (c + 1)) / 2) ≤ z
  le_middle (c : Nat) : 2 * y ≤ Fmt.f32.mag c + Fmt.f32.mag (c + 1) →
    z ≤ (Fmt.f32.mag c + Fmt.f32.mag (c + 1)) / 2 * ((Fmt.f32.mag c + Fmt.f32.mag (c + 1)) / 2)

theorem middle_nonneg (c : Nat) : 0 ≤ (Fmt.f32.mag c + Fmt.f32.mag (c + 1)) / 2 := by
  have := Fmt.f32.mag_nonneg c
  have := Fmt.f32.mag_nonneg (c + 1)
  linarith

/-- The root itself. -/
theorem StandsForRoot.of_eq {y z : Rat} (hnormal : (2 : Rat) ^ (-126 : Int) ≤ y ∧ y < 2 ^ (127 : Int)) (hz : y * y = z) :
    StandsForRoot y z := by
  have hy : 0 ≤ y := (zpow_pos two_pos _).le.trans hnormal.1
  subst hz
  exact ⟨hnormal, fun c => (mul_self_inj (Fmt.f32.mag_nonneg c) hy).symm,
    fun c hc => mul_self_le_mul_self (middle_nonneg c) (by linarith), fun c hc => mul_self_le_mul_self hy (by linarith)⟩

/-- A number between M × 2^q and (M + 1) × 2^q, when the root lies between them. -/
theorem StandsForRoot.of_between {M : Nat} {q : Int} {z : Rat} (hM : 2 ^ 25 ≤ M)
    (hnormal : (2 : Rat) ^ (-126 : Int) ≤ magOf M q ∧ magOf (M + 1) q < 2 ^ (127 : Int)) (hlo : magOf M q * magOf M q < z)
    (hhi : z < magOf (M + 1) q * magOf (M + 1) q) : StandsForRoot (magOf (2 * M + 1) (q - 1)) z := by
  have hy := lt_halfway M q
  have hy' := halfway_lt M q
  have hnone (c : Nat) : Fmt.f32.mag c ≤ magOf M q ∨ magOf (M + 1) q ≤ Fmt.f32.mag c :=
    (le_or_gt _ _).imp_right (Fmt.succ_le_mag (f := .f32) ((by decide : 2 ^ 24 ≤ 2 ^ 25).trans hM))
  refine ⟨⟨hnormal.1.trans hy.le, hy'.trans hnormal.2⟩, fun c => ?code, fun c hc => ?middle_le, fun c hc => ?le_middle⟩
  case code =>
    refine iff_of_false (fun heq => ?_) fun heq => ?_
    · rcases hnone c with h | h <;> linarith
    · rcases hnone c with h | h
      · have := mul_self_le_mul_self (Fmt.f32.mag_nonneg c) h
        linarith
      · have := mul_self_le_mul_self (magOf_nonneg _ _) h
        linarith
  case middle_le =>
    have h := Fmt.middle_le (f := .f32) hM (hc.trans_lt (by linarith) : _ < 2 * magOf (M + 1) q)
    exact (mul_self_le_mul_self (middle_nonneg c) (by linarith)).trans hlo.le
  case le_middle =>
    have h := Fmt.succ_le_middle (f := .f32) hM ((by linarith : 2 * magOf M q < _).trans_le hc)
    exact hhi.le.trans (mul_self_le_mul_self (magOf_nonneg _ _) (by linarith))

/-- sqrt rounds a number that stands for the root. -/
theorem sfSqrt_choice {x : Nat} (hx : x < 2 ^ 32) {m : Nat} {e : Int} (hm : 0 < m) (h : Fmt.f32.dec x = .fin false m e) :
    ∃ n > 0, ∃ q, StandsForRoot (magOf n q) (magOf m e) ∧ sfSqrt x = Fmt.f32.enc 0 (.fin false n q) := by
  obtain ⟨d, hd⟩ : ∃ d : Nat, d = if e % 2 = 0 then 80 else 81 := ⟨_, rfl⟩
  obtain ⟨q, hq⟩ : ∃ q, q = (e - d) / 2 := ⟨_, rfl⟩
  obtain ⟨r, hr⟩ : ∃ r, r = isqrt (m * 2 ^ d) := ⟨_, rfl⟩
  have hqe : q + q = e - d := by split at hd <;> omega
  obtain ⟨hlo, hhi⟩ := isqrt_spec (m * 2 ^ d)
  have hlarge : 2 ^ 25 ≤ r := hr ▸ le_isqrt (by
    have : 2 ^ 80 ≤ 2 ^ d := Nat.pow_le_pow_right two_pos (by split at hd <;> omega)
    have := Nat.mul_le_mul hm this
    omega)
  rw [← hr] at hlo hhi
  have hz : magOf m e = magOf (m * 2 ^ d) (q + q) := by
    rw [hqe, magOf_in_units (by omega : e - d ≤ e), Int.sub_sub_self, Int.toNat_natCast]
  have hsq (n : Nat) : magOf n q * magOf n q = magOf (n * n) (q + q) := by
    rw [magOf, magOf, zpow_add₀ two_ne_zero]
    push_cast
    ring
  obtain ⟨-, -, -, -, -, hmin, hmax⟩ := f32_value hx hm h
  have hle : magOf r q * magOf r q ≤ magOf m e := by rw [hsq, hz]; exact not_lt.mp ((magOf_lt_iff ..).not.mpr (not_lt.mpr hlo))
  have hlt : magOf m e < magOf (r + 1) q * magOf (r + 1) q := by rw [hsq, hz]; exact (magOf_lt_iff ..).mpr hhi
  have hnormal : (2 : Rat) ^ (-126 : Int) ≤ magOf r q ∧ magOf (r + 1) q < 2 ^ (127 : Int) := by
    have hdouble : magOf (r + 1) q ≤ 2 * magOf r q := by
      have hle : ((r + 1 : Nat) : Rat) ≤ 2 * r := by exact_mod_cast (by omega : r + 1 ≤ 2 * r)
      rw [magOf, magOf, ← mul_assoc]
      exact mul_le_mul_of_nonneg_right hle (zpow_pos two_pos q).le
    have hupper : magOf r q < 2 ^ (64 : Int) := lt_of_mul_self_lt_mul_self₀ (zpow_pos two_pos _).le (by
      rw [← zpow_add₀ two_ne_zero]
      exact hle.trans_lt hmax)
    have hlower : (2 : Rat) ^ (-75 : Int) < magOf (r + 1) q := lt_of_mul_self_lt_mul_self₀ (magOf_nonneg _ _) (by
      rw [← zpow_add₀ two_ne_zero]
      exact ((zpow_le_zpow_right₀ one_le_two (by decide)).trans hmin).trans_lt hlt)
    norm_num at hupper hlower ⊢
    constructor <;> linarith
  have heq := sfSqrt_eq hm h hd
  rw [← hr, ← hq] at heq
  by_cases hexact : r * r = m * 2 ^ d
  · refine ⟨r, by omega, q, .of_eq ⟨hnormal.1, (magOf_lt_succ r q).trans hnormal.2⟩ (by rw [hsq, hexact, hz]), ?_⟩
    rw [heq, if_pos hexact]
  · refine ⟨2 * r + 1, by omega, q - 1, .of_between hlarge hnormal ?_ hlt, by rw [heq, if_neg hexact]⟩
    rw [hsq, hz]
    exact (magOf_lt_iff ..).mpr (lt_of_le_of_ne hlo hexact)

/-- sqrt is the root rounded to nearest: the root lies between the middles about the result. -/
theorem sfSqrt_rounded {x : Nat} (hx : x < 2 ^ 32) {m : Nat} {e : Int} (hm : 0 < m) (h : Fmt.f32.dec x = .fin false m e) :
    ∃ c < Fmt.f32.maxBits, (sfSqrt x).1 = c ∧
      (Fmt.f32.mag (c - 1) + Fmt.f32.mag c) / 2 * ((Fmt.f32.mag (c - 1) + Fmt.f32.mag c) / 2) ≤ magOf m e ∧
      magOf m e ≤ (Fmt.f32.mag c + Fmt.f32.mag (c + 1)) / 2 * ((Fmt.f32.mag c + Fmt.f32.mag (c + 1)) / 2) ∧
      (sfSqrt x).2 = if Fmt.f32.mag c * Fmt.f32.mag c = magOf m e then 0 else 16 := by
  obtain ⟨n, hn, q, hroot, heq⟩ := sfSqrt_choice hx hm h
  obtain ⟨c, hc, hround, hcode, hflags⟩ := enc_f32_in_range (by decide : 0 < 4) hn hroot.normal.2
  rw [heq, hcode, hflags hroot.normal.1, if_congr (hroot.code c) rfl rfl]
  refine ⟨c, hc, rfl, ?_, hroot.le_middle c (hround.le_middle Fmt.f32.mag_strictMono), rfl⟩
  cases c with
  | zero => rw [Nat.zero_sub, Fmt.mag_zero, add_zero, zero_div, zero_mul]; exact magOf_nonneg m e
  | succ c => exact hroot.middle_le c (hround.middle_le Fmt.f32.mag_strictMono)

end Sys2Proof.Machine
end

section
/-! The special functions (08 R184 to R187, R189). -/

namespace Sys2Proof.Machine

/-! ## What the statement says, by its parts -/

section parts
variable {x : Nat} (hx : x < 2 ^ 32) {neg : Bool} {m : Nat} {e : Int} (hm : 0 < m) (h : Fmt.f32.dec x = .fin neg m e)
include hx hm h

/-- rcp of a power of two, by the values. -/
theorem sfRcp_exact {k : Int} (hk : -127 ≤ k) (hz : |Fp.val (.fin neg m e)| = 2 ^ k) :
    (sfRcp x).2 = 0 ∧ (Fmt.f32.dec (sfRcp x).1).val = 1 / Fp.val (.fin neg m e) := by
  rw [Fp.abs_val_fin] at hz
  obtain ⟨c, hc, heq, hmag⟩ := sfRcp_pow2 hx hm h hk hz
  rw [heq]
  refine ⟨rfl, (f32_val neg hc).trans ?_⟩
  rw [hmag, Fp.val_fin, hz, zpow_neg]
  cases neg <;> simp [signOf]

/-- rcp within one ulp, by the values. -/
theorem sfRcp_ulp {k : Int} (hk : -126 ≤ k) (hk' : k ≤ 126) (hlo : 2 ^ k ≤ 1 / |Fp.val (.fin neg m e)|)
    (hhi : 1 / |Fp.val (.fin neg m e)| < 2 ^ (k + 1)) :
    |(Fmt.f32.dec (sfRcp x).1).val - 1 / Fp.val (.fin neg m e)| ≤ 2 ^ (k - 23) := by
  have hpos := magOf_pos hm e
  rw [Fp.abs_val_fin, le_div_iff₀ hpos] at hlo
  rw [Fp.abs_val_fin, div_lt_iff₀ hpos] at hhi
  obtain ⟨c, hc, heq, hdown, hup⟩ := sfRcp_within hx hm h hk hk' hlo hhi
  have hsign : signOf neg * Fmt.f32.mag c - 1 / (signOf neg * magOf m e) = signOf neg * (Fmt.f32.mag c - 1 / magOf m e) := by
    cases neg <;> simp only [signOf, if_true, if_false, Bool.false_eq_true] <;> ring
  rw [← le_div_iff₀ hpos] at hdown
  rw [← div_le_iff₀ hpos] at hup
  rw [heq, f32_val neg hc, Fp.val_fin, hsign, abs_mul, abs_signOf, one_mul, abs_le]
  constructor <;> linarith

end parts

/-- Settles O26: each clause is the lemma of its function above. -/
theorem specialFunctions : Obligations.SpecialFunctions := by
  unfold Obligations.SpecialFunctions
  refine ⟨⟨fun f s hk => ?ops, fun x sig h => ?nan, ?special, fun x m e hm h => ⟨sfLog2_neg hm h, sfRsq_neg hm h, sfSqrt_neg hm h⟩⟩,
    fun x neg m e hx hm h => ⟨fun k hlo hhi => sfExp2_int hm h hlo hhi, sfExp2_of_ge hm h, fun k => sfLog2_pow2 hx hm h,
      fun k => sfRcp_exact hx hm h, ?rsq4, ?large, ?small, fun k => sfRcp_ulp hx hm h, ?rsq, ?sqrt, ?beyond, ?within,
      sfTanh_nx hm h, sfSigm_nx hm h, ?parity⟩⟩
  case ops =>
    exact ⟨floatResult_of_fop hk (exec_exp2 f s), floatResult_of_fop hk (exec_log2 f s), floatResult_of_fop hk (exec_rcp f s),
      floatResult_of_fop hk (exec_rsq f s), floatResult_of_fop hk (exec_sqrt f s), floatResult_of_fop hk (exec_sin f s),
      floatResult_of_fop hk (exec_cos f s), floatResult_of_fop hk (exec_tanh f s), floatResult_of_fop hk (exec_sigm f s)⟩
  case nan =>
    simp only [List.forall_mem_cons, List.not_mem_nil, false_implies, implies_true, and_true]
    exact ⟨sfExp2_nan h, sfLog2_nan h, sfRcp_nan h, sfRsq_nan h, sfSqrt_nan h, sfTrig_nan h false, sfTrig_nan h true,
      sfTanh_nan h, sfSigm_nan h⟩
  case special =>
    have hall := And.intro sf_special (And.intro sfTrig_special (And.intro sfTrig_zero (And.intro sfTanh_special sfSigm_special)))
    simpa only [and_assoc] using hall
  case rsq4 =>
    intro k hz
    obtain ⟨rfl, hval⟩ := pos_of_val (hz ▸ zpow_pos four_pos k)
    obtain ⟨c, hc, heq, hmag⟩ := sfRsq_pow4 hx hm h (hval.symm.trans hz)
    rw [heq]
    exact ⟨rfl, (f32_val_of_le hc).trans hmag⟩
  case large =>
    rw [Fp.abs_val_fin]
    exact sfRcp_of_large hx hm h
  case small =>
    rw [Fp.abs_val_fin, Nat.add_comm]
    exact sfRcp_of_small hm h
  case rsq =>
    rintro rfl k hlo hhi
    rw [Fp.val_fin, signOf, if_neg Bool.false_ne_true, one_mul] at hlo hhi ⊢
    obtain ⟨c, hc, heq, hspec⟩ := sfRsq_within hx hm h hlo hhi
    dsimp only
    rw [heq, f32_val_of_le hc]
    exact hspec
  case sqrt =>
    rintro rfl
    obtain ⟨c, hc, heq, hspec⟩ := sfSqrt_rounded hx hm h
    have hbefore : c - 1 ≤ Fmt.f32.maxBits := (Nat.sub_le c 1).trans hc.le
    rw [Fp.val_fin, signOf, if_neg Bool.false_ne_true, one_mul, heq]
    simpa only [f32_val_of_le hc.le, f32_val_of_le hbefore, f32_val_of_le hc] using hspec
  case beyond =>
    rw [Fp.abs_val_fin, ← zpow_natCast]
    intro hz
    have htop := (zpow_le_magOf_iff hm e 20).mp hz
    exact ⟨sfTrig_out_of_range false hm h htop, sfTrig_out_of_range true hm h htop⟩
  case within =>
    rw [Fp.abs_val_fin, ← zpow_natCast]
    intro hz
    have htop := (zpow_le_magOf_iff hm e 20).not.mp (not_le.mpr hz)
    exact ⟨sfTrig_nx false hm h htop, sfTrig_nx true hm h htop⟩
  case parity =>
    rintro rfl
    refine ⟨sfTanh_negated hx hm h, sfRcp_negated hx hm h, ?_⟩
    rw [Fp.abs_val_fin, ← zpow_natCast]
    intro hz
    exact sfTrig_negated hx hm h ((zpow_le_magOf_iff hm e 20).not.mp (not_le.mpr hz))

end Sys2Proof.Machine
end
